-- ==== Sys2Proof/Word.lean ====
section
/-! DEFINITION. The word types of the DVR-40 (00_scope.md R6, R7). -/
namespace Sys2Proof

/-- A byte, the unit of memory (R104). -/
abbrev Byte := BitVec 8

/-- A 64-bit scalar register, address or control register. -/
abbrev Word := BitVec 64

/-- The 8,192 bits of a vector register (R263), of a latch's 256 FP32 lanes (R227) or of a row part of that size. -/
abbrev VReg := BitVec 8192

/-- The 65,536 bits of an 8 KiB row (R228), a LUT latch or an inbox (R227). -/
abbrev Row := BitVec 65536

/-- The 16,384 words of 32 bits of a slot (R288). -/
abbrev SlotWords := BitVec 524288

end Sys2Proof
end

