-- ==== Sys2Proof/Config.lean ====
section
/-! DEFINITION. What the spec leaves to the device and never states: free values. None has a body, so no proof can see one. -/
namespace Sys2Proof.Config

/-- The n-th unspecified byte: data of poisoned granules (R473), a stale hidden side (R60), overlapping copy words (R325),
bytes of an image not written back (R102). Assumption log 8. -/
opaque freeByte : Nat → Byte

/-- The n-th unspecified 64-bit value: a device register that the spec does not list. Assumption log 8. -/
opaque freeWord : Nat → Word

/-- The identifier from which SCOPE counts on (R59: assigned by SCOPE, unique within the context). Assumption log 9. -/
opaque scopeIdBase : BitVec 32

/-- How far matrix work has come when the n-th stop catches it (R437: a reduction index, a token boundary). Assumption log 62. -/
opaque stopIndex : Nat → Nat

/-- Which lane of a vector store goes on at the n-th free step (R123, R124). Assumption log 63. -/
opaque laneStep : Nat → Nat

/-- The ML-DSA-44 signature of 2,420 bytes that the n-th attestation answer carries over a digest (R407: no key is given). Assumption log 65. -/
opaque attestSignature : Nat → BitVec 256 → BitVec 19360

/-- Which of the free blocks the n-th CATALLOC or CATMAP.w takes (R94, R95). Assumption log 12. -/
opaque catPick : Nat → Nat

/-- The overlay offset at which a Wing's docent firmware is entered (R498). Assumption log 15. -/
opaque docentEntry : Nat → Word

end Sys2Proof.Config
end

