-- ==== Sys2Proof/Machine/Table.lean ====
section
/-! DEFINITION. Sparse tables in one canonical form: the state's registers, units and memory. A table lists (key, value) pairs, keys strictly
rising, and no pair whose value is the default that an unlisted key holds; so equal tables are equal data. -/
namespace Sys2Proof.Machine

/-- A sparse table. The default of an unlisted key is an argument of its operations. -/
abbrev Tbl (α : Type) := List (Nat × α)

/-- The value at a key. -/
def Tbl.get {α : Type} (dflt : α) : Tbl α → Nat → α
  | [], _ => dflt
  | (k, v) :: t, i => if i = k then v else Tbl.get dflt t i

/-- Insertion of a key that the table does not hold, before the first greater key. -/
def Tbl.ins {α : Type} (i : Nat) (v : α) : Tbl α → Tbl α
  | [] => [(i, v)]
  | (k, w) :: t => if i < k then (i, v) :: (k, w) :: t else (k, w) :: Tbl.ins i v t

/-- The table without a key. -/
def Tbl.del {α : Type} (t : Tbl α) (i : Nat) : Tbl α := t.filter (fun p => p.1 != i)

/-- The table with a value at a key; writing the default removes the entry. -/
def Tbl.set {α : Type} [DecidableEq α] (dflt : α) (t : Tbl α) (i : Nat) (v : α) : Tbl α :=
  if v = dflt then t.del i else Tbl.ins i v (t.del i)

/-- The table with a function applied at a key. -/
def Tbl.modify {α : Type} [DecidableEq α] (dflt : α) (t : Tbl α) (i : Nat) (f : α → α) : Tbl α := t.set dflt i (f (t.get dflt i))

/-- Keys strictly rising. -/
def Tbl.rising {α : Type} : Tbl α → Bool
  | [] => true
  | (k, _) :: t => t.all (fun p => decide (k < p.1)) && Tbl.rising t

/-- The canonical form. -/
def Tbl.wf {α : Type} [DecidableEq α] (dflt : α) (t : Tbl α) : Bool := t.rising && t.all (fun p => decide (p.2 ≠ dflt))

/-- Values at consecutive keys from `a`, the defaults left out. -/
def Tbl.span {α : Type} [DecidableEq α] (dflt : α) (a : Nat) : List α → Tbl α
  | [] => []
  | v :: vs => if v = dflt then Tbl.span dflt (a + 1) vs else (a, v) :: Tbl.span dflt (a + 1) vs

/-- The table with a list of values at consecutive keys from `a`. -/
def Tbl.setSpan {α : Type} [DecidableEq α] (dflt : α) (t : Tbl α) (a : Nat) (vs : List α) : Tbl α :=
  t.filter (fun p => decide (p.1 < a)) ++ Tbl.span dflt a vs ++ t.filter (fun p => decide (a + vs.length ≤ p.1))

/-- The entries with keys in `[a, a + n)`. -/
def Tbl.inSpan {α : Type} (t : Tbl α) (a n : Nat) : Tbl α := t.filter (fun p => decide (a ≤ p.1) && decide (p.1 < a + n))

/-- The values at `n` consecutive keys from `a`. -/
def Tbl.getSpan {α : Type} (dflt : α) (t : Tbl α) (a n : Nat) : List α :=
  let u := t.inSpan a n
  (List.range n).map (fun k => u.get dflt (a + k))

/-- A table of values each changed by a function, the default left out. -/
def Tbl.mapAll {α : Type} [DecidableEq α] (dflt : α) (t : Tbl α) (f : Nat → α → α) : Tbl α :=
  (t.map fun p => (p.1, f p.1 p.2)).filter fun p => decide (p.2 ≠ dflt)

/-- Little-endian value of bytes (R7). -/
def leNat : List Byte → Nat
  | [] => 0
  | b :: bs => b.toNat + 256 * leNat bs

/-- The low `n` bytes of a value, little-endian (R7). -/
def leBytes : Nat → Nat → List Byte
  | 0, _ => []
  | n + 1, v => BitVec.ofNat 8 v :: leBytes n (v / 256)

/-- Elements of width `w` as one number, element 0 lowest (R7, R263). -/
def packElems (w : Nat) : List Nat → Nat
  | [] => 0
  | e :: es => e % 2 ^ w + 2 ^ w * packElems w es

/-- Bits `[w*e + w - 1 : w*e]` of a number: element `e` of width `w` (R228, R263). -/
def elemNat (w e v : Nat) : Nat := (v >>> (w * e)) % 2 ^ w

/-- A number with element `e` of width `w` replaced. -/
def setElemNat (w e v x : Nat) : Nat := v + (x % 2 ^ w) * 2 ^ (w * e) - elemNat w e v * 2 ^ (w * e)

/-- The `n` elements of width `w` of a number. -/
def unpackElems (w n v : Nat) : List Nat := (List.range n).map (fun e => elemNat w e v)

end Sys2Proof.Machine
end

