-- ==== Sys2Proof/Syntax.lean ====
section
/-! DEFINITION. The instructions of the Efion set in their ten formats (06_encoding.md R178-R185), the convoy header (R175), and the
device's own steps (the event rows of spec/opcode_table.json). Fields stand as encoded, reserved bits included: a nonzero reserved bit is a
trap of the instruction (R8, R184), so it must reach the machine. -/
namespace Sys2Proof

/-- A 10-bit operand or destination field (R178). -/
structure Opnd where
  lvl : BitVec 2
  fe  : Bool
  num : BitVec 7
  deriving DecidableEq, Repr

/-- Format R (R182). -/
structure FmtR where
  mod : BitVec 10
  c : Opnd
  b : Opnd
  a : Opnd
  d : Opnd
  deriving DecidableEq, Repr

/-- Format I (R182). -/
structure FmtI where
  imm : BitVec 30
  a : Opnd
  d : Opnd
  deriving DecidableEq, Repr

/-- Format B (R182). -/
structure FmtB where
  off : BitVec 30
  b : Opnd
  a : Opnd
  deriving DecidableEq, Repr

/-- Format J (R182). -/
structure FmtJ where
  off : BitVec 30
  a : Opnd
  d : Opnd
  deriving DecidableEq, Repr

/-- Format L (R182). -/
structure FmtL where
  end24 : BitVec 24
  imm16 : BitVec 16
  a : Opnd
  deriving DecidableEq, Repr

/-- Format M (R182). -/
structure FmtM where
  off   : BitVec 20
  wid   : BitVec 4
  scope : BitVec 2
  strm  : BitVec 4
  base  : Opnd
  data  : Opnd
  deriving DecidableEq, Repr

/-- Format V (R182). -/
structure FmtV where
  sat    : Bool
  xm     : Bool
  rm     : BitVec 2
  masken : Bool
  mreg   : BitVec 5
  vc : Opnd
  vb : Opnd
  va : Opnd
  vd : Opnd
  deriving DecidableEq, Repr

/-- Format W (R182). -/
structure FmtW where
  imm6   : BitVec 6
  masken : Bool
  masko  : BitVec 3
  sat    : Bool
  xm     : Bool
  rm     : BitVec 2
  type   : BitVec 4
  sb : Opnd
  sa : Opnd
  res : Bool
  q  : BitVec 2
  ob : BitVec 3
  oa : BitVec 3
  od : BitVec 3
  deriving DecidableEq, Repr

/-- Format X (R182). -/
structure FmtX where
  res  : BitVec 8
  foll : Bool
  accz : Bool
  spn  : BitVec 3
  fmt  : BitVec 4
  dk : Opnd
  db : Opnd
  da : Opnd
  slot : BitVec 3
  deriving DecidableEq, Repr

/-- Format E (R182). -/
structure FmtE where
  res  : BitVec 15
  foll : Bool
  strm : BitVec 4
  b : Opnd
  a : Opnd
  d : Opnd
  deriving DecidableEq, Repr

/-- A convoy header (R175). -/
structure FmtC where
  hres  : BitVec 3
  unit5 : BitVec 3
  unit4 : BitVec 3
  unit3 : BitVec 3
  unit2 : BitVec 3
  unit1 : BitVec 3
  unit0 : BitVec 3
  n     : BitVec 3
  deriving DecidableEq, Repr

/-- A place where a tile step runs: a core of the compute die or a Pergola (R52). -/
inductive UnitRef where
  | core (n : Nat)
  | pergola (g : Nat)
  deriving DecidableEq, Repr

/-- One constructor per row of spec/opcode_table.json. -/
inductive Instr where
  -- major 0x01: scalar register-register, R201
  | add (f : FmtR)
  | sub (f : FmtR)
  | and (f : FmtR)
  | or (f : FmtR)
  | xor (f : FmtR)
  | andn (f : FmtR)
  | shl (f : FmtR)
  | shr (f : FmtR)
  | sra (f : FmtR)
  | ror (f : FmtR)
  | min (f : FmtR)
  | max (f : FmtR)
  | minu (f : FmtR)
  | maxu (f : FmtR)
  | slt (f : FmtR)
  | sltu (f : FmtR)
  | seq (f : FmtR)
  | clz (f : FmtR)
  | ctz (f : FmtR)
  | popc (f : FmtR)
  | sext (f : FmtR)
  | zext (f : FmtR)
  | bfx (f : FmtR)
  | bfi (f : FmtR)
  | sel (f : FmtR)
  -- major 0x02: scalar immediate, R204
  | addi (f : FmtI)
  | andi (f : FmtI)
  | ori (f : FmtI)
  | xori (f : FmtI)
  | shli (f : FmtI)
  | shri (f : FmtI)
  | srai (f : FmtI)
  | slti (f : FmtI)
  | sltui (f : FmtI)
  | li (f : FmtI)
  | lih (f : FmtI)
  | addpc (f : FmtI)
  -- major 0x03: multiply and divide, R206
  | mul (f : FmtR)
  | mulh (f : FmtR)
  | mulhu (f : FmtR)
  | div (f : FmtR)
  | divu (f : FmtR)
  | rem (f : FmtR)
  | remu (f : FmtR)
  | madd (f : FmtR)
  -- major 0x20: branches, R209
  | beq (f : FmtB)
  | bne (f : FmtB)
  | blt (f : FmtB)
  | bge (f : FmtB)
  | bltu (f : FmtB)
  | bgeu (f : FmtB)
  | bf (f : FmtB)
  | bnf (f : FmtB)
  -- major 0x21: jumps, R211
  | jmp (f : FmtJ)
  | jmpr (f : FmtJ)
  | call (f : FmtJ)
  | callr (f : FmtJ)
  | ret (f : FmtJ)
  | jtab (f : FmtJ)
  | fjmp (f : FmtJ)
  | fcall (f : FmtJ)
  -- major 0x22: hardware loops, R215
  | loop (f : FmtL)
  | loopi (f : FmtL)
  | lbrk (f : FmtR)
  | lidx (f : FmtI)
  -- major 0x23: coordination, R220
  | fork (f : FmtR)
  | join (f : FmtR)
  | qpush (f : FmtR)
  | qpop (f : FmtR)
  | bqpush (f : FmtR)
  | bqbr (f : FmtR)
  | monitor (f : FmtR)
  | mwait (f : FmtR)
  -- major 0x30: scalar memory, R311
  | ld (f : FmtM)
  | st (f : FmtM)
  | ldacq (f : FmtM)
  | strel (f : FmtM)
  | ldnt (f : FmtM)
  -- major 0x31: atomics, R312
  | amoadd (f : FmtR)
  | amoand (f : FmtR)
  | amoor (f : FmtR)
  | amoxor (f : FmtR)
  | amomin (f : FmtR)
  | amomax (f : FmtR)
  | amoswp (f : FmtR)
  | amocas (f : FmtR)
  | amofadd (f : FmtR)
  | amoinc (f : FmtR)
  -- major 0x32: ordering, R314-R316
  | fence (f : FmtR)
  | sbar (f : FmtI)
  | waitv (f : FmtR)
  -- major 0x40: row timing, R239-R243
  | act (f : FmtW)
  | pre (f : FmtW)
  | wb (f : FmtW)
  | wbpre (f : FmtW)
  | ref (f : FmtW)
  | refq (f : FmtW)
  | rcopy (f : FmtW)
  -- major 0x41: row arithmetic, R244-R247
  | radd (f : FmtW)
  | rsub (f : FmtW)
  | rmul (f : FmtW)
  | rfma (f : FmtW)
  | rmin (f : FmtW)
  | rmax (f : FmtW)
  | rand (f : FmtW)
  | rbor (f : FmtW)
  | rxor (f : FmtW)
  | rshr (f : FmtW)
  | rcmp (f : FmtW)
  | rsel (f : FmtW)
  | rcvt (f : FmtW)
  | rscl (f : FmtW)
  -- major 0x42: row LUT and reduction, R248-R254
  | ldlut (f : FmtW)
  | lutdot (f : FmtW)
  | ldsc (f : FmtW)
  | rdot (f : FmtW)
  | rsum (f : FmtW)
  | qclr (f : FmtW)
  | qst (f : FmtW)
  | rtopk (f : FmtW)
  -- major 0x43: row exchange, R255-R258
  | shfl (f : FmtW)
  | shrx (f : FmtW)
  | rcast (f : FmtW)
  | rout (f : FmtW)
  | rred (f : FmtW)
  -- major 0x44: row control, R259-R262
  | gang (f : FmtW)
  | split (f : FmtW)
  | bmask (f : FmtW)
  | byield (f : FmtW)
  | lease (f : FmtW)
  | rgete (f : FmtW)
  | rsete (f : FmtW)
  -- major 0x60: vector arithmetic, R270
  | vadd (f : FmtV)
  | vsub (f : FmtV)
  | vmul (f : FmtV)
  | vfma (f : FmtV)
  | vmin (f : FmtV)
  | vmax (f : FmtV)
  | vand (f : FmtV)
  | vor (f : FmtV)
  | vxor (f : FmtV)
  | vshl (f : FmtV)
  | vshr (f : FmtV)
  | vsra (f : FmtV)
  | vcvt (f : FmtV)
  | vabs (f : FmtV)
  | vneg (f : FmtV)
  | vexp2 (f : FmtV)
  | vrcp (f : FmtV)
  | vrsqrt (f : FmtV)
  | vdiv (f : FmtV)
  | vsqrt (f : FmtV)
  -- major 0x61: vector compare, R274-R276
  | vcmp (f : FmtV)
  | vmerge (f : FmtV)
  | vpopc (f : FmtV)
  | vfirst (f : FmtV)
  -- major 0x62: vector permute, R277-R283
  | vcompress (f : FmtV)
  | vgather (f : FmtV)
  | vslide (f : FmtV)
  | vred (f : FmtV)
  | vtopk (f : FmtV)
  | viota (f : FmtV)
  | vbcast (f : FmtV)
  | vext (f : FmtV)
  -- major 0x63: vector memory, R317
  | vld (f : FmtR)
  | vlds (f : FmtR)
  | vldx (f : FmtR)
  | vst (f : FmtR)
  | vsts (f : FmtR)
  | vstx (f : FmtR)
  | vldsc (f : FmtR)
  -- major 0x64: vector configuration, R284
  | vsetvl (f : FmtV)
  | vsettype (f : FmtV)
  | vrdhw (f : FmtV)
  | vallot (f : FmtV)
  -- major 0x80: matrix, R291
  | mma (f : FmtX)
  | mmas (f : FmtX)
  | mzero (f : FmtX)
  | mld (f : FmtX)
  | mst (f : FmtX)
  | mpin (f : FmtX)
  | munpin (f : FmtX)
  | mdelta (f : FmtX)
  | mread (f : FmtX)
  | mxfl (f : FmtX)
  | mfind (f : FmtX)
  -- major 0x90: engines, R323
  | cpy (f : FmtE)
  | cpyw (f : FmtE)
  | tfetch (f : FmtE)
  | tfrel (f : FmtE)
  -- major 0x91: tier and publish, R323
  | prefb (f : FmtE)
  | tiermv (f : FmtE)
  | shadow (f : FmtE)
  | publish (f : FmtE)
  | tokwait (f : FmtE)
  -- major 0x92: Catalogue, R333
  | catalloc (f : FmtE)
  | catmap (f : FmtE)
  | catshare (f : FmtE)
  | catfree (f : FmtE)
  -- major 0xA0: task, R334
  | exit (f : FmtR)
  | scope (f : FmtR)
  | cancel (f : FmtR)
  | cwait (f : FmtR)
  | barinit (f : FmtR)
  | bararr (f : FmtR)
  | barwait (f : FmtR)
  | yield (f : FmtR)
  | getpg (f : FmtR)
  -- major 0xB0: system, R344-R349
  | csrr (f : FmtI)
  | csrw (f : FmtI)
  | trap (f : FmtR)
  | brk (f : FmtR)
  | rft (f : FmtR)
  | cfetch (f : FmtR)
  | cseg (f : FmtR)
  | ifence (f : FmtR)
  | setaside (f : FmtR)
  | rowwd (f : FmtR)
  | nop (f : FmtR)
  -- the 32-bit parcel (R175)
  | convoyHeader (f : FmtC)
  -- steps of the device that no word encodes (95_what_each_step_holds.md)
  /-- A_HART_START: the waiting FORK starts the A-hart (R34). -/
  | aHartStart (core : Nat)
  /-- JOIN_RENDEZVOUS: both harts of the core have joined (R34). -/
  | joinRendezvous (core : Nat)
  /-- MWAIT_TIMEOUT: the timeout of MWAIT expires (R226). -/
  | mwaitTimeout (hart : Nat)
  /-- MONITOR_LOST: the device drops a monitor (R226). -/
  | monitorLost (hart : Nat)
  /-- WAITV_SATISFIED: a read of WAITV satisfies its condition (R316). -/
  | waitvSatisfied (hart : Nat)
  /-- GANG_RENDEZVOUS: the last live bank reaches GANG (R45). -/
  | gangRendezvous (pergola : Nat)
  /-- VECTOR_COMPLETE: the last element of a destination is written (R37). -/
  | vectorComplete (core reg : Nat)
  /-- REPLAY_UNIT_ROOM: a unit that waited for room is performed again (R430). -/
  | replayUnitRoom (hart : Nat)
  /-- MATRIX_COMPLETE: a slot writer sets FULL (R289). -/
  | matrixComplete (core slot : Nat)
  /-- OWNERSHIP_MISS_SERVICE: the spill assist serves a miss of the context (R309). -/
  | ownershipMissService (core slot : Nat) (context : BitVec 16)
  /-- PUBLISH_SWAP: PUBLISH swaps the sides of a handle (R99, R128). -/
  | publishSwap (hart : Nat) (handle : Word)
  /-- ENGINE_COMMAND_COMPLETE: an engine command is performed (R127); cmd is its place in the core's list. -/
  | engineCommandComplete (core cmd : Nat)
  /-- FOLLOW_ON_ISSUE: a copy's follow-on product is issued (R326). -/
  | followOnIssue (core cmd : Nat)
  /-- KILL_POINT_STOP: a cancelled hart stops (R58). -/
  | killPointStop (hart : Nat)
  /-- OVERLAY_BLOCK_LAND: an overlay block lands (R381); overlays 0-63 Pavilions, 64+g Pergola g. -/
  | overlayBlockLand (overlay block : Nat)
  /-- TLBINV_VA: TLBINV KIND 00 (R74). -/
  | tlbinvVa (context : BitVec 16) (va : BitVec 38)
  /-- TLBINV_CONTEXT: TLBINV KIND 01 (R74). -/
  | tlbinvContext (context : BitVec 16)
  /-- TLBINV_ALL: TLBINV KIND 10 and 11 (R74). -/
  | tlbinvAll
  /-- GOVSTAT_DROOP_CLEAR: a write of 1 to GOVSTAT bit 0 (R27). -/
  | govstatDroopClear (hart : Nat)
  /-- RCOUNT_DISCARD: a write of 0 to TRAPCAUSE.RCOUNT (R423). -/
  | rcountDiscard (hart : Nat)
  /-- REGISTER_WRITE: a write of a register with no behaviour of its own (R344). -/
  | registerWrite (hart addr : Nat) (value : Word)
  /-- CONTEXT_ENTRY_INVALIDATE: V := 0 in a live context entry (R353). -/
  | contextEntryInvalidate (context : Nat)
  /-- LATE_FAULT: the X-hart's queue head faults (R428). -/
  | lateFault (core : Nat) (code : BitVec 8) (info : Word)
  /-- UNIT_STOP: a unit of a halting context stops (R435). -/
  | unitStop (unit : UnitRef)
  /-- HALT_COMPLETE: every stop record is written (R444). -/
  | haltComplete (context : Nat)
  /-- HALTCTL_HALT: HALTCTL := HALT (R435). -/
  | haltctlHalt (context : Nat)
  /-- HALTCTL_RESUME: HALTCTL := RESUME (R447). -/
  | haltctlResume (context : Nat)
  /-- HALTCTL_KILL: HALTCTL := KILL (R448). -/
  | haltctlKill (context : Nat)
  /-- CORE_FREE_SELECT: a free core's walker chooses work (R365). -/
  | coreFreeSelect (core : Nat)
  /-- ROW_STEP_DISPATCH: a row step is dispatched to a free Pergola (R364). -/
  | rowStepDispatch (pergola : Nat)
  /-- STEP_START: the segment has landed and the step starts (R382). -/
  | stepStart (unit : UnitRef)
  /-- PREEMPTION_SAVE: the step is saved and suspended (R368). -/
  | preemptionSave (core : Nat)
  /-- INTAKE_TAKE: a docent takes the next block of a chain (R358). -/
  | intakeTake (chain : Nat)
  /-- DOCCTL_RESTART: a stopped docent restarts (R498). -/
  | docctlRestart (wing : Nat)
  /-- ROW_OPEN: tRCD has passed (R231). -/
  | rowOpen (pergola bank reg : Nat)
  /-- ROW_RESTORED: tRAS has passed (R229). -/
  | rowRestored (pergola bank reg : Nat)
  /-- WRITEBACK_END: tWB has passed (R231). -/
  | writebackEnd (pergola bank reg : Nat)
  /-- REFRESH_END: the 90 rc of a REF have passed (R231). -/
  | refreshEnd (pergola bank sag : Nat)
  /-- ROW_WRITER_COMPLETE: a writer's last group is written (R233). -/
  | rowWriterComplete (pergola bank reg : Nat)
  /-- REFRESH_DEBT_RISE: 250 us of local time have passed (R241). -/
  | refreshDebtRise (pergola : Nat)
  /-- REFDUE: a leased SAG at debt 6 raises REFDUE (R481). -/
  | refdue (pergola bank : Nat)
  /-- FORCED_REFRESH: a leased SAG reaches debt 9 (R482). -/
  | forcedRefresh (pergola bank sag : Nat)
  /-- FORCED_REFRESH_DONE: the forced refresh has paid the debt (R482). -/
  | forcedRefreshDone (pergola bank sag : Nat)
  /-- LEASE_REMAIN_EXPIRY: REMAIN reaches zero (R485). -/
  | leaseRemainExpiry (pergola : Nat)
  /-- WATCHDOG_EXPIRY: the lease watchdog reaches zero (R485). -/
  | watchdogExpiry (pergola : Nat)
  /-- VECTOR_LINE_FETCH: a vector register's lines are fetched from its image (R101). -/
  | vectorLineFetch (core reg : Nat)
  /-- GOVERNOR_SAMPLE: a sample: watts of the groups, coolant flow in mL/min, die temperature in degrees (R24, R408). -/
  | governorSample (compute row fixed flow temp : Nat)
  /-- GOVERNOR_STEP_DELIVERY: decided steps reach their units (R25). -/
  | governorStepDelivery
  /-- DROOP_STRETCH: a droop stretches the domain's clock (R22). -/
  | droopStretch (unit : UnitRef)
  /-- POWER_EMERGENCY: every partition is halted (R28). -/
  | powerEmergency
  /-- CLOCK_GATING: Pavilion clocks are gated (R408). -/
  | clockGating
  /-- REGCHAIN: mailbox 0x01 (R400). -/
  | regchain (arg0 arg1 : Word)
  /-- DROPCHAIN: mailbox 0x02 (R400). -/
  | dropchain (arg1 : Word)
  /-- SETSHARE: mailbox 0x03 (R400). -/
  | setshare (arg0 arg1 : Word)
  /-- ACKHALT: mailbox 0x04 (R400). -/
  | ackhalt
  /-- READSTART: mailbox 0x05 (R400). -/
  | readstart (arg0 : Word)
  /-- REGWRITE: mailbox 0x06 (R400). -/
  | regwrite (arg0 arg1 : Word)
  /-- REGREAD: mailbox 0x07 (R400). -/
  | regread (arg0 : Word)
  /-- HOST_MEM_WRITE: a CXL.mem write is performed (R136). -/
  | hostMemWrite (pa : Nat) (bytes : List Byte) (poison : Bool)
  /-- HOST_MEM_READ: a CXL.mem read (R136). -/
  | hostMemRead (pa count : Nat)
  /-- SPDM_REQUEST: an SPDM measurement request (R407). -/
  | spdmRequest (index : Nat)
  /-- REMOTE_READ: a remote read packet arrives (R403). -/
  | remoteRead (link pa count : Nat)
  /-- REMOTE_WRITE: a remote write packet arrives (R403). -/
  | remoteWrite (link pa : Nat) (bytes : List Byte)
  /-- REMOTE_ATOMIC: a remote atomic packet arrives; sub is that of major 0x31 (R403). -/
  | remoteAtomic (link sub pa size : Nat) (b c : Word)
  /-- REDUCTION_PACKET: a reduction packet arrives (R403). -/
  | reductionPacket (link pa size : Nat) (float : Bool) (b : Word)
  /-- REMOTE_COPY: a remote copy line arrives (R403). -/
  | remoteCopy (link pa : Nat) (bytes : List Byte)
  /-- REMOTE_ACKNOWLEDGEMENT: an acknowledgement returns for an outstanding packet, with the bytes that it brings back (R138). -/
  | remoteAcknowledgement (packet : Nat) (data : List Byte) (poison : Bool)
  /-- REFUSAL_RETURN: a refusal returns for an outstanding packet (R500). -/
  | refusalReturn (packet : Nat) (code : BitVec 8)
  /-- LINKERR_CLEAR: a write to LINKERR (R501). -/
  | linkerrClear (port : Nat)
  /-- FLIT_CRC_REPLAY: a flit fails its CRC (R502). -/
  | flitCrcReplay (port : Nat)
  /-- RETRAIN_END: a port retraining ends (R502). -/
  | retrainEnd (port : Nat) (passed : Bool)
  /-- STACK_PORT_REPLAY: a stack-port flit fails its CRC (R471). -/
  | stackPortReplay (stack granule : Nat)
  /-- REALIGNMENT_REQUEST: the base die requests a realignment; layer is stack*12+layer (R503). -/
  | realignmentRequest (layer : Nat)
  /-- REALIGNMENT_DEFERRAL_EXPIRY: the 40 us deferral limit passes (R503). -/
  | realignmentDeferralExpiry (layer : Nat)
  /-- REALIGNMENT_END: a realignment ends (R503, R504). -/
  | realignmentEnd (layer : Nat) (bundleFails : Bool)
  /-- BUNDLESTAT_ACK: 1 is written to BUNDLESTAT bit 0 (R504). -/
  | bundlestatAck
  /-- RESTRIPE_COMPLETE: re-striping ends (R504). -/
  | restripeComplete
  /-- POWER_UP: the Ndetrief runs the start steps (R405). -/
  | powerUp
  /-- PRECHARGE_END: tRP has passed after a PRE (R232). -/
  | prechargeEnd (pergola bank sag : Nat)
  /-- ACTIVATION_WINDOW_EXPIRY: activations leave the trailing 48 rc of a layer (R232). -/
  | activationWindowExpiry (layer : Nat)
  /-- SHRX_DELIVERY: a row sent by SHRX enters the inbox (R256). -/
  | shrxDelivery (pergola bank : Nat)
  /-- COPY_GROUP_ARRIVAL: a copy delivers its next 128 bytes (R89). -/
  | copyGroupArrival (core cmd : Nat)
  /-- ILLEGAL_ENCODING: a parcel outside the opcode map is fetched for issue (R185). -/
  | illegalEncoding (word : Word)
  /-- ABSENT_BLOCK_FETCH: an instruction is fetched from a block not landed (R456). -/
  | absentBlockFetch (offset : Word)
  /-- CXL_CACHE_SNOOP: the host takes a 128-byte host-window line; data is what it writes, empty for none (R90). -/
  | cxlCacheSnoop (line : Nat) (data : List Byte)
  deriving DecidableEq, Repr

end Sys2Proof
end

