-- ==== Sys2Proof/Decode.lean ====
section
/-! DEFINITION. From parcels to instructions and back (06_encoding.md R171-R185). The decoder is total: a parcel outside the opcode map is
rejected by name, and every bit of a legal one is kept. -/
namespace Sys2Proof

/-- Why a parcel is no instruction (R174, R185). -/
inductive DecodeError where
  /-- The MAJOR is not in the opcode map. -/
  | illegalMajor (major : BitVec 8)
  /-- The SUB lies at or past its major's list. -/
  | illegalSub (major : BitVec 8) (sub : BitVec 6)
  deriving DecidableEq, Repr

/-- The bits of an operand field (R178). -/
def Opnd.bits (o : Opnd) : BitVec 10 := o.lvl ++ BitVec.ofBool o.fe ++ o.num

/-- An operand field from its bits (R178). -/
def Opnd.ofBits (w : BitVec 10) : Opnd :=
  { lvl := w.extractLsb' 8 2, fe := w.getLsbD 7, num := w.extractLsb' 0 7 }

/-- The operand field of an instruction at a bit position. -/
def opndAt (w : Word) (lo : Nat) : Opnd := Opnd.ofBits (w.extractLsb' lo 10)

def decR (w : Word) : FmtR :=
  { mod := w.extractLsb' 54 10, c := opndAt w 44, b := opndAt w 34, a := opndAt w 24, d := opndAt w 14 }

def decI (w : Word) : FmtI := { imm := w.extractLsb' 34 30, a := opndAt w 24, d := opndAt w 14 }

def decB (w : Word) : FmtB := { off := w.extractLsb' 34 30, b := opndAt w 24, a := opndAt w 14 }

def decJ (w : Word) : FmtJ := { off := w.extractLsb' 34 30, a := opndAt w 24, d := opndAt w 14 }

def decL (w : Word) : FmtL := { end24 := w.extractLsb' 40 24, imm16 := w.extractLsb' 24 16, a := opndAt w 14 }

def decM (w : Word) : FmtM :=
  { off := w.extractLsb' 44 20, wid := w.extractLsb' 40 4, scope := w.extractLsb' 38 2, strm := w.extractLsb' 34 4,
    base := opndAt w 24, data := opndAt w 14 }

def decV (w : Word) : FmtV :=
  { sat := w.getLsbD 63, xm := w.getLsbD 62, rm := w.extractLsb' 60 2, masken := w.getLsbD 59, mreg := w.extractLsb' 54 5,
    vc := opndAt w 44, vb := opndAt w 34, va := opndAt w 24, vd := opndAt w 14 }

def decW (w : Word) : FmtW :=
  { imm6 := w.extractLsb' 58 6, masken := w.getLsbD 57, masko := w.extractLsb' 54 3, sat := w.getLsbD 53, xm := w.getLsbD 52,
    rm := w.extractLsb' 50 2, type := w.extractLsb' 46 4, sb := opndAt w 36, sa := opndAt w 26, res := w.getLsbD 25,
    q := w.extractLsb' 23 2, ob := w.extractLsb' 20 3, oa := w.extractLsb' 17 3, od := w.extractLsb' 14 3 }

def decX (w : Word) : FmtX :=
  { res := w.extractLsb' 56 8, foll := w.getLsbD 55, accz := w.getLsbD 54, spn := w.extractLsb' 51 3, fmt := w.extractLsb' 47 4,
    dk := opndAt w 37, db := opndAt w 27, da := opndAt w 17, slot := w.extractLsb' 14 3 }

def decE (w : Word) : FmtE :=
  { res := w.extractLsb' 49 15, foll := w.getLsbD 48, strm := w.extractLsb' 44 4, b := opndAt w 34, a := opndAt w 24,
    d := opndAt w 14 }

def decC (w : BitVec 32) : FmtC :=
  { hres := w.extractLsb' 29 3, unit5 := w.extractLsb' 26 3, unit4 := w.extractLsb' 23 3, unit3 := w.extractLsb' 20 3,
    unit2 := w.extractLsb' 17 3, unit1 := w.extractLsb' 14 3, unit0 := w.extractLsb' 11 3, n := w.extractLsb' 8 3 }

/-- Major 0x01: scalar register-register, R201. -/
def decode01 (w : Word) (sub : BitVec 6) : Option Instr :=
  match sub.toNat with
  | 0 => some (.add (decR w))
  | 1 => some (.sub (decR w))
  | 2 => some (.and (decR w))
  | 3 => some (.or (decR w))
  | 4 => some (.xor (decR w))
  | 5 => some (.andn (decR w))
  | 6 => some (.shl (decR w))
  | 7 => some (.shr (decR w))
  | 8 => some (.sra (decR w))
  | 9 => some (.ror (decR w))
  | 10 => some (.min (decR w))
  | 11 => some (.max (decR w))
  | 12 => some (.minu (decR w))
  | 13 => some (.maxu (decR w))
  | 14 => some (.slt (decR w))
  | 15 => some (.sltu (decR w))
  | 16 => some (.seq (decR w))
  | 17 => some (.clz (decR w))
  | 18 => some (.ctz (decR w))
  | 19 => some (.popc (decR w))
  | 20 => some (.sext (decR w))
  | 21 => some (.zext (decR w))
  | 22 => some (.bfx (decR w))
  | 23 => some (.bfi (decR w))
  | 24 => some (.sel (decR w))
  | _ => none

/-- Major 0x02: scalar immediate, R204. -/
def decode02 (w : Word) (sub : BitVec 6) : Option Instr :=
  match sub.toNat with
  | 0 => some (.addi (decI w))
  | 1 => some (.andi (decI w))
  | 2 => some (.ori (decI w))
  | 3 => some (.xori (decI w))
  | 4 => some (.shli (decI w))
  | 5 => some (.shri (decI w))
  | 6 => some (.srai (decI w))
  | 7 => some (.slti (decI w))
  | 8 => some (.sltui (decI w))
  | 9 => some (.li (decI w))
  | 10 => some (.lih (decI w))
  | 11 => some (.addpc (decI w))
  | _ => none

/-- Major 0x03: multiply and divide, R206. -/
def decode03 (w : Word) (sub : BitVec 6) : Option Instr :=
  match sub.toNat with
  | 0 => some (.mul (decR w))
  | 1 => some (.mulh (decR w))
  | 2 => some (.mulhu (decR w))
  | 3 => some (.div (decR w))
  | 4 => some (.divu (decR w))
  | 5 => some (.rem (decR w))
  | 6 => some (.remu (decR w))
  | 7 => some (.madd (decR w))
  | _ => none

/-- Major 0x20: branches, R209. -/
def decode20 (w : Word) (sub : BitVec 6) : Option Instr :=
  match sub.toNat with
  | 0 => some (.beq (decB w))
  | 1 => some (.bne (decB w))
  | 2 => some (.blt (decB w))
  | 3 => some (.bge (decB w))
  | 4 => some (.bltu (decB w))
  | 5 => some (.bgeu (decB w))
  | 6 => some (.bf (decB w))
  | 7 => some (.bnf (decB w))
  | _ => none

/-- Major 0x21: jumps, R211. -/
def decode21 (w : Word) (sub : BitVec 6) : Option Instr :=
  match sub.toNat with
  | 0 => some (.jmp (decJ w))
  | 1 => some (.jmpr (decJ w))
  | 2 => some (.call (decJ w))
  | 3 => some (.callr (decJ w))
  | 4 => some (.ret (decJ w))
  | 5 => some (.jtab (decJ w))
  | 6 => some (.fjmp (decJ w))
  | 7 => some (.fcall (decJ w))
  | _ => none

/-- Major 0x22: hardware loops, R215. -/
def decode22 (w : Word) (sub : BitVec 6) : Option Instr :=
  match sub.toNat with
  | 0 => some (.loop (decL w))
  | 1 => some (.loopi (decL w))
  | 2 => some (.lbrk (decR w))
  | 3 => some (.lidx (decI w))
  | _ => none

/-- Major 0x23: coordination, R220. -/
def decode23 (w : Word) (sub : BitVec 6) : Option Instr :=
  match sub.toNat with
  | 0 => some (.fork (decR w))
  | 1 => some (.join (decR w))
  | 2 => some (.qpush (decR w))
  | 3 => some (.qpop (decR w))
  | 4 => some (.bqpush (decR w))
  | 5 => some (.bqbr (decR w))
  | 6 => some (.monitor (decR w))
  | 7 => some (.mwait (decR w))
  | _ => none

/-- Major 0x30: scalar memory, R311. -/
def decode30 (w : Word) (sub : BitVec 6) : Option Instr :=
  match sub.toNat with
  | 0 => some (.ld (decM w))
  | 1 => some (.st (decM w))
  | 2 => some (.ldacq (decM w))
  | 3 => some (.strel (decM w))
  | 4 => some (.ldnt (decM w))
  | _ => none

/-- Major 0x31: atomics, R312. -/
def decode31 (w : Word) (sub : BitVec 6) : Option Instr :=
  match sub.toNat with
  | 0 => some (.amoadd (decR w))
  | 1 => some (.amoand (decR w))
  | 2 => some (.amoor (decR w))
  | 3 => some (.amoxor (decR w))
  | 4 => some (.amomin (decR w))
  | 5 => some (.amomax (decR w))
  | 6 => some (.amoswp (decR w))
  | 7 => some (.amocas (decR w))
  | 8 => some (.amofadd (decR w))
  | 9 => some (.amoinc (decR w))
  | _ => none

/-- Major 0x32: ordering, R314-R316. -/
def decode32 (w : Word) (sub : BitVec 6) : Option Instr :=
  match sub.toNat with
  | 0 => some (.fence (decR w))
  | 1 => some (.sbar (decI w))
  | 2 => some (.waitv (decR w))
  | _ => none

/-- Major 0x40: row timing, R239-R243. -/
def decode40 (w : Word) (sub : BitVec 6) : Option Instr :=
  match sub.toNat with
  | 0 => some (.act (decW w))
  | 1 => some (.pre (decW w))
  | 2 => some (.wb (decW w))
  | 3 => some (.wbpre (decW w))
  | 4 => some (.ref (decW w))
  | 5 => some (.refq (decW w))
  | 6 => some (.rcopy (decW w))
  | _ => none

/-- Major 0x41: row arithmetic, R244-R247. -/
def decode41 (w : Word) (sub : BitVec 6) : Option Instr :=
  match sub.toNat with
  | 0 => some (.radd (decW w))
  | 1 => some (.rsub (decW w))
  | 2 => some (.rmul (decW w))
  | 3 => some (.rfma (decW w))
  | 4 => some (.rmin (decW w))
  | 5 => some (.rmax (decW w))
  | 6 => some (.rand (decW w))
  | 7 => some (.rbor (decW w))
  | 8 => some (.rxor (decW w))
  | 9 => some (.rshr (decW w))
  | 10 => some (.rcmp (decW w))
  | 11 => some (.rsel (decW w))
  | 12 => some (.rcvt (decW w))
  | 13 => some (.rscl (decW w))
  | _ => none

/-- Major 0x42: row LUT and reduction, R248-R254. -/
def decode42 (w : Word) (sub : BitVec 6) : Option Instr :=
  match sub.toNat with
  | 0 => some (.ldlut (decW w))
  | 1 => some (.lutdot (decW w))
  | 2 => some (.ldsc (decW w))
  | 3 => some (.rdot (decW w))
  | 4 => some (.rsum (decW w))
  | 5 => some (.qclr (decW w))
  | 6 => some (.qst (decW w))
  | 7 => some (.rtopk (decW w))
  | _ => none

/-- Major 0x43: row exchange, R255-R258. -/
def decode43 (w : Word) (sub : BitVec 6) : Option Instr :=
  match sub.toNat with
  | 0 => some (.shfl (decW w))
  | 1 => some (.shrx (decW w))
  | 2 => some (.rcast (decW w))
  | 3 => some (.rout (decW w))
  | 4 => some (.rred (decW w))
  | _ => none

/-- Major 0x44: row control, R259-R262. -/
def decode44 (w : Word) (sub : BitVec 6) : Option Instr :=
  match sub.toNat with
  | 0 => some (.gang (decW w))
  | 1 => some (.split (decW w))
  | 2 => some (.bmask (decW w))
  | 3 => some (.byield (decW w))
  | 4 => some (.lease (decW w))
  | 5 => some (.rgete (decW w))
  | 6 => some (.rsete (decW w))
  | _ => none

/-- Major 0x60: vector arithmetic, R270. -/
def decode60 (w : Word) (sub : BitVec 6) : Option Instr :=
  match sub.toNat with
  | 0 => some (.vadd (decV w))
  | 1 => some (.vsub (decV w))
  | 2 => some (.vmul (decV w))
  | 3 => some (.vfma (decV w))
  | 4 => some (.vmin (decV w))
  | 5 => some (.vmax (decV w))
  | 6 => some (.vand (decV w))
  | 7 => some (.vor (decV w))
  | 8 => some (.vxor (decV w))
  | 9 => some (.vshl (decV w))
  | 10 => some (.vshr (decV w))
  | 11 => some (.vsra (decV w))
  | 12 => some (.vcvt (decV w))
  | 13 => some (.vabs (decV w))
  | 14 => some (.vneg (decV w))
  | 15 => some (.vexp2 (decV w))
  | 16 => some (.vrcp (decV w))
  | 17 => some (.vrsqrt (decV w))
  | 18 => some (.vdiv (decV w))
  | 19 => some (.vsqrt (decV w))
  | _ => none

/-- Major 0x61: vector compare, R274-R276. -/
def decode61 (w : Word) (sub : BitVec 6) : Option Instr :=
  match sub.toNat with
  | 0 => some (.vcmp (decV w))
  | 1 => some (.vmerge (decV w))
  | 2 => some (.vpopc (decV w))
  | 3 => some (.vfirst (decV w))
  | _ => none

/-- Major 0x62: vector permute, R277-R283. -/
def decode62 (w : Word) (sub : BitVec 6) : Option Instr :=
  match sub.toNat with
  | 0 => some (.vcompress (decV w))
  | 1 => some (.vgather (decV w))
  | 2 => some (.vslide (decV w))
  | 3 => some (.vred (decV w))
  | 4 => some (.vtopk (decV w))
  | 5 => some (.viota (decV w))
  | 6 => some (.vbcast (decV w))
  | 7 => some (.vext (decV w))
  | _ => none

/-- Major 0x63: vector memory, R317. -/
def decode63 (w : Word) (sub : BitVec 6) : Option Instr :=
  match sub.toNat with
  | 0 => some (.vld (decR w))
  | 1 => some (.vlds (decR w))
  | 2 => some (.vldx (decR w))
  | 3 => some (.vst (decR w))
  | 4 => some (.vsts (decR w))
  | 5 => some (.vstx (decR w))
  | 6 => some (.vldsc (decR w))
  | _ => none

/-- Major 0x64: vector configuration, R284. -/
def decode64 (w : Word) (sub : BitVec 6) : Option Instr :=
  match sub.toNat with
  | 0 => some (.vsetvl (decV w))
  | 1 => some (.vsettype (decV w))
  | 2 => some (.vrdhw (decV w))
  | 3 => some (.vallot (decV w))
  | _ => none

/-- Major 0x80: matrix, R291. -/
def decode80 (w : Word) (sub : BitVec 6) : Option Instr :=
  match sub.toNat with
  | 0 => some (.mma (decX w))
  | 1 => some (.mmas (decX w))
  | 2 => some (.mzero (decX w))
  | 3 => some (.mld (decX w))
  | 4 => some (.mst (decX w))
  | 5 => some (.mpin (decX w))
  | 6 => some (.munpin (decX w))
  | 7 => some (.mdelta (decX w))
  | 8 => some (.mread (decX w))
  | 9 => some (.mxfl (decX w))
  | 10 => some (.mfind (decX w))
  | _ => none

/-- Major 0x90: engines, R323. -/
def decode90 (w : Word) (sub : BitVec 6) : Option Instr :=
  match sub.toNat with
  | 0 => some (.cpy (decE w))
  | 1 => some (.cpyw (decE w))
  | 2 => some (.tfetch (decE w))
  | 3 => some (.tfrel (decE w))
  | _ => none

/-- Major 0x91: tier and publish, R323. -/
def decode91 (w : Word) (sub : BitVec 6) : Option Instr :=
  match sub.toNat with
  | 0 => some (.prefb (decE w))
  | 1 => some (.tiermv (decE w))
  | 2 => some (.shadow (decE w))
  | 3 => some (.publish (decE w))
  | 4 => some (.tokwait (decE w))
  | _ => none

/-- Major 0x92: Catalogue, R333. -/
def decode92 (w : Word) (sub : BitVec 6) : Option Instr :=
  match sub.toNat with
  | 0 => some (.catalloc (decE w))
  | 1 => some (.catmap (decE w))
  | 2 => some (.catshare (decE w))
  | 3 => some (.catfree (decE w))
  | _ => none

/-- Major 0xA0: task, R334. -/
def decodeA0 (w : Word) (sub : BitVec 6) : Option Instr :=
  match sub.toNat with
  | 0 => some (.exit (decR w))
  | 1 => some (.scope (decR w))
  | 2 => some (.cancel (decR w))
  | 3 => some (.cwait (decR w))
  | 4 => some (.barinit (decR w))
  | 5 => some (.bararr (decR w))
  | 6 => some (.barwait (decR w))
  | 7 => some (.yield (decR w))
  | 8 => some (.getpg (decR w))
  | _ => none

/-- Major 0xB0: system, R344-R349. -/
def decodeB0 (w : Word) (sub : BitVec 6) : Option Instr :=
  match sub.toNat with
  | 0 => some (.csrr (decI w))
  | 1 => some (.csrw (decI w))
  | 2 => some (.trap (decR w))
  | 3 => some (.brk (decR w))
  | 4 => some (.rft (decR w))
  | 5 => some (.cfetch (decR w))
  | 6 => some (.cseg (decR w))
  | 7 => some (.ifence (decR w))
  | 8 => some (.setaside (decR w))
  | 9 => some (.rowwd (decR w))
  | 10 => some (.nop (decR w))
  | _ => none

/-- The 64-bit instruction of a word (R185), or why there is none. The convoy header is a parcel, not such a word. -/
def decodeWord (w : Word) : Except DecodeError Instr :=
  let major := w.extractLsb' 0 8
  let sub := w.extractLsb' 8 6
  let found (o : Option Instr) : Except DecodeError Instr :=
    match o with
    | some i => .ok i
    | none => .error (.illegalSub major sub)
  match major.toNat with
  | 0x01 => found (decode01 w sub)
  | 0x02 => found (decode02 w sub)
  | 0x03 => found (decode03 w sub)
  | 0x20 => found (decode20 w sub)
  | 0x21 => found (decode21 w sub)
  | 0x22 => found (decode22 w sub)
  | 0x23 => found (decode23 w sub)
  | 0x30 => found (decode30 w sub)
  | 0x31 => found (decode31 w sub)
  | 0x32 => found (decode32 w sub)
  | 0x40 => found (decode40 w sub)
  | 0x41 => found (decode41 w sub)
  | 0x42 => found (decode42 w sub)
  | 0x43 => found (decode43 w sub)
  | 0x44 => found (decode44 w sub)
  | 0x60 => found (decode60 w sub)
  | 0x61 => found (decode61 w sub)
  | 0x62 => found (decode62 w sub)
  | 0x63 => found (decode63 w sub)
  | 0x64 => found (decode64 w sub)
  | 0x80 => found (decode80 w sub)
  | 0x90 => found (decode90 w sub)
  | 0x91 => found (decode91 w sub)
  | 0x92 => found (decode92 w sub)
  | 0xA0 => found (decodeA0 w sub)
  | 0xB0 => found (decodeB0 w sub)
  | _ => .error (.illegalMajor major)

/-- The instruction that starts at a first parcel, with the parcel above it (R171): the header if bits 7:0 are 0xC0, else the 64-bit
instruction; and its length in bytes. -/
def decode (lo hi : BitVec 32) : Except DecodeError (Instr × Nat) :=
  if lo.extractLsb' 0 8 = 0xC0#8 then .ok (.convoyHeader (decC lo), 4)
  else (decodeWord (hi ++ lo)).map (fun i => (i, 8))

/-- Four bytes in memory order as a parcel (R7). -/
def parcelOfBytes (b0 b1 b2 b3 : Byte) : BitVec 32 := b3 ++ b2 ++ b1 ++ b0

/-- The decoder on bytes in memory order: the instruction and the bytes after it; `none` when the bytes run out. -/
def decodeBytes : List Byte → Option (Except DecodeError (Instr × List Byte))
  | b0 :: b1 :: b2 :: b3 :: rest =>
    let lo := parcelOfBytes b0 b1 b2 b3
    if lo.extractLsb' 0 8 = 0xC0#8 then some (.ok (.convoyHeader (decC lo), rest))
    else
      match rest with
      | b4 :: b5 :: b6 :: b7 :: rest' =>
        some ((decode lo (parcelOfBytes b4 b5 b6 b7)).map (fun p => (p.1, rest')))
      | _ => none
  | _ => none

/-- The eight bytes of a word in memory order (R7). -/
def bytesOfWord (w : Word) : List Byte :=
  [w.extractLsb' 0 8, w.extractLsb' 8 8, w.extractLsb' 16 8, w.extractLsb' 24 8,
   w.extractLsb' 32 8, w.extractLsb' 40 8, w.extractLsb' 48 8, w.extractLsb' 56 8]

/-- The instruction whose bits are `w`, laid out as the hardware stores it; the bits above `nbits` are zero. -/
def decodeTableWord (nbits w : Nat) : Option Instr :=
  match decodeBytes (bytesOfWord (BitVec.ofNat 64 (w % 2 ^ nbits))) with
  | some (.ok (i, _)) => some i
  | _ => none

def encR (major : BitVec 8) (sub : BitVec 6) (f : FmtR) : Word :=
  f.mod ++ f.c.bits ++ f.b.bits ++ f.a.bits ++ f.d.bits ++ sub ++ major

def encI (major : BitVec 8) (sub : BitVec 6) (f : FmtI) : Word := f.imm ++ f.a.bits ++ f.d.bits ++ sub ++ major

def encB (major : BitVec 8) (sub : BitVec 6) (f : FmtB) : Word := f.off ++ f.b.bits ++ f.a.bits ++ sub ++ major

def encJ (major : BitVec 8) (sub : BitVec 6) (f : FmtJ) : Word := f.off ++ f.a.bits ++ f.d.bits ++ sub ++ major

def encL (major : BitVec 8) (sub : BitVec 6) (f : FmtL) : Word := f.end24 ++ f.imm16 ++ f.a.bits ++ sub ++ major

def encM (major : BitVec 8) (sub : BitVec 6) (f : FmtM) : Word :=
  f.off ++ f.wid ++ f.scope ++ f.strm ++ f.base.bits ++ f.data.bits ++ sub ++ major

def encV (major : BitVec 8) (sub : BitVec 6) (f : FmtV) : Word :=
  BitVec.ofBool f.sat ++ BitVec.ofBool f.xm ++ f.rm ++ BitVec.ofBool f.masken ++ f.mreg ++ f.vc.bits ++ f.vb.bits ++ f.va.bits ++
    f.vd.bits ++ sub ++ major

def encW (major : BitVec 8) (sub : BitVec 6) (f : FmtW) : Word :=
  f.imm6 ++ BitVec.ofBool f.masken ++ f.masko ++ BitVec.ofBool f.sat ++ BitVec.ofBool f.xm ++ f.rm ++ f.type ++ f.sb.bits ++
    f.sa.bits ++ BitVec.ofBool f.res ++ f.q ++ f.ob ++ f.oa ++ f.od ++ sub ++ major

def encX (major : BitVec 8) (sub : BitVec 6) (f : FmtX) : Word :=
  f.res ++ BitVec.ofBool f.foll ++ BitVec.ofBool f.accz ++ f.spn ++ f.fmt ++ f.dk.bits ++ f.db.bits ++ f.da.bits ++ f.slot ++ sub ++
    major

def encE (major : BitVec 8) (sub : BitVec 6) (f : FmtE) : Word :=
  f.res ++ BitVec.ofBool f.foll ++ f.strm ++ f.b.bits ++ f.a.bits ++ f.d.bits ++ sub ++ major

def encC (f : FmtC) : BitVec 32 :=
  f.hres ++ f.unit5 ++ f.unit4 ++ f.unit3 ++ f.unit2 ++ f.unit1 ++ f.unit0 ++ f.n ++ 0xC0#8

/-- The word of a 64-bit instruction; the header and the device's own steps have none. -/
def encodeWord (i : Instr) : Option Word :=
  match i with
  | .add f => some (encR 0x01 0 f)
  | .sub f => some (encR 0x01 1 f)
  | .and f => some (encR 0x01 2 f)
  | .or f => some (encR 0x01 3 f)
  | .xor f => some (encR 0x01 4 f)
  | .andn f => some (encR 0x01 5 f)
  | .shl f => some (encR 0x01 6 f)
  | .shr f => some (encR 0x01 7 f)
  | .sra f => some (encR 0x01 8 f)
  | .ror f => some (encR 0x01 9 f)
  | .min f => some (encR 0x01 10 f)
  | .max f => some (encR 0x01 11 f)
  | .minu f => some (encR 0x01 12 f)
  | .maxu f => some (encR 0x01 13 f)
  | .slt f => some (encR 0x01 14 f)
  | .sltu f => some (encR 0x01 15 f)
  | .seq f => some (encR 0x01 16 f)
  | .clz f => some (encR 0x01 17 f)
  | .ctz f => some (encR 0x01 18 f)
  | .popc f => some (encR 0x01 19 f)
  | .sext f => some (encR 0x01 20 f)
  | .zext f => some (encR 0x01 21 f)
  | .bfx f => some (encR 0x01 22 f)
  | .bfi f => some (encR 0x01 23 f)
  | .sel f => some (encR 0x01 24 f)
  | .addi f => some (encI 0x02 0 f)
  | .andi f => some (encI 0x02 1 f)
  | .ori f => some (encI 0x02 2 f)
  | .xori f => some (encI 0x02 3 f)
  | .shli f => some (encI 0x02 4 f)
  | .shri f => some (encI 0x02 5 f)
  | .srai f => some (encI 0x02 6 f)
  | .slti f => some (encI 0x02 7 f)
  | .sltui f => some (encI 0x02 8 f)
  | .li f => some (encI 0x02 9 f)
  | .lih f => some (encI 0x02 10 f)
  | .addpc f => some (encI 0x02 11 f)
  | .mul f => some (encR 0x03 0 f)
  | .mulh f => some (encR 0x03 1 f)
  | .mulhu f => some (encR 0x03 2 f)
  | .div f => some (encR 0x03 3 f)
  | .divu f => some (encR 0x03 4 f)
  | .rem f => some (encR 0x03 5 f)
  | .remu f => some (encR 0x03 6 f)
  | .madd f => some (encR 0x03 7 f)
  | .beq f => some (encB 0x20 0 f)
  | .bne f => some (encB 0x20 1 f)
  | .blt f => some (encB 0x20 2 f)
  | .bge f => some (encB 0x20 3 f)
  | .bltu f => some (encB 0x20 4 f)
  | .bgeu f => some (encB 0x20 5 f)
  | .bf f => some (encB 0x20 6 f)
  | .bnf f => some (encB 0x20 7 f)
  | .jmp f => some (encJ 0x21 0 f)
  | .jmpr f => some (encJ 0x21 1 f)
  | .call f => some (encJ 0x21 2 f)
  | .callr f => some (encJ 0x21 3 f)
  | .ret f => some (encJ 0x21 4 f)
  | .jtab f => some (encJ 0x21 5 f)
  | .fjmp f => some (encJ 0x21 6 f)
  | .fcall f => some (encJ 0x21 7 f)
  | .loop f => some (encL 0x22 0 f)
  | .loopi f => some (encL 0x22 1 f)
  | .lbrk f => some (encR 0x22 2 f)
  | .lidx f => some (encI 0x22 3 f)
  | .fork f => some (encR 0x23 0 f)
  | .join f => some (encR 0x23 1 f)
  | .qpush f => some (encR 0x23 2 f)
  | .qpop f => some (encR 0x23 3 f)
  | .bqpush f => some (encR 0x23 4 f)
  | .bqbr f => some (encR 0x23 5 f)
  | .monitor f => some (encR 0x23 6 f)
  | .mwait f => some (encR 0x23 7 f)
  | .ld f => some (encM 0x30 0 f)
  | .st f => some (encM 0x30 1 f)
  | .ldacq f => some (encM 0x30 2 f)
  | .strel f => some (encM 0x30 3 f)
  | .ldnt f => some (encM 0x30 4 f)
  | .amoadd f => some (encR 0x31 0 f)
  | .amoand f => some (encR 0x31 1 f)
  | .amoor f => some (encR 0x31 2 f)
  | .amoxor f => some (encR 0x31 3 f)
  | .amomin f => some (encR 0x31 4 f)
  | .amomax f => some (encR 0x31 5 f)
  | .amoswp f => some (encR 0x31 6 f)
  | .amocas f => some (encR 0x31 7 f)
  | .amofadd f => some (encR 0x31 8 f)
  | .amoinc f => some (encR 0x31 9 f)
  | .fence f => some (encR 0x32 0 f)
  | .sbar f => some (encI 0x32 1 f)
  | .waitv f => some (encR 0x32 2 f)
  | .act f => some (encW 0x40 0 f)
  | .pre f => some (encW 0x40 1 f)
  | .wb f => some (encW 0x40 2 f)
  | .wbpre f => some (encW 0x40 3 f)
  | .ref f => some (encW 0x40 4 f)
  | .refq f => some (encW 0x40 5 f)
  | .rcopy f => some (encW 0x40 6 f)
  | .radd f => some (encW 0x41 0 f)
  | .rsub f => some (encW 0x41 1 f)
  | .rmul f => some (encW 0x41 2 f)
  | .rfma f => some (encW 0x41 3 f)
  | .rmin f => some (encW 0x41 4 f)
  | .rmax f => some (encW 0x41 5 f)
  | .rand f => some (encW 0x41 6 f)
  | .rbor f => some (encW 0x41 7 f)
  | .rxor f => some (encW 0x41 8 f)
  | .rshr f => some (encW 0x41 9 f)
  | .rcmp f => some (encW 0x41 10 f)
  | .rsel f => some (encW 0x41 11 f)
  | .rcvt f => some (encW 0x41 12 f)
  | .rscl f => some (encW 0x41 13 f)
  | .ldlut f => some (encW 0x42 0 f)
  | .lutdot f => some (encW 0x42 1 f)
  | .ldsc f => some (encW 0x42 2 f)
  | .rdot f => some (encW 0x42 3 f)
  | .rsum f => some (encW 0x42 4 f)
  | .qclr f => some (encW 0x42 5 f)
  | .qst f => some (encW 0x42 6 f)
  | .rtopk f => some (encW 0x42 7 f)
  | .shfl f => some (encW 0x43 0 f)
  | .shrx f => some (encW 0x43 1 f)
  | .rcast f => some (encW 0x43 2 f)
  | .rout f => some (encW 0x43 3 f)
  | .rred f => some (encW 0x43 4 f)
  | .gang f => some (encW 0x44 0 f)
  | .split f => some (encW 0x44 1 f)
  | .bmask f => some (encW 0x44 2 f)
  | .byield f => some (encW 0x44 3 f)
  | .lease f => some (encW 0x44 4 f)
  | .rgete f => some (encW 0x44 5 f)
  | .rsete f => some (encW 0x44 6 f)
  | .vadd f => some (encV 0x60 0 f)
  | .vsub f => some (encV 0x60 1 f)
  | .vmul f => some (encV 0x60 2 f)
  | .vfma f => some (encV 0x60 3 f)
  | .vmin f => some (encV 0x60 4 f)
  | .vmax f => some (encV 0x60 5 f)
  | .vand f => some (encV 0x60 6 f)
  | .vor f => some (encV 0x60 7 f)
  | .vxor f => some (encV 0x60 8 f)
  | .vshl f => some (encV 0x60 9 f)
  | .vshr f => some (encV 0x60 10 f)
  | .vsra f => some (encV 0x60 11 f)
  | .vcvt f => some (encV 0x60 12 f)
  | .vabs f => some (encV 0x60 13 f)
  | .vneg f => some (encV 0x60 14 f)
  | .vexp2 f => some (encV 0x60 15 f)
  | .vrcp f => some (encV 0x60 16 f)
  | .vrsqrt f => some (encV 0x60 17 f)
  | .vdiv f => some (encV 0x60 18 f)
  | .vsqrt f => some (encV 0x60 19 f)
  | .vcmp f => some (encV 0x61 0 f)
  | .vmerge f => some (encV 0x61 1 f)
  | .vpopc f => some (encV 0x61 2 f)
  | .vfirst f => some (encV 0x61 3 f)
  | .vcompress f => some (encV 0x62 0 f)
  | .vgather f => some (encV 0x62 1 f)
  | .vslide f => some (encV 0x62 2 f)
  | .vred f => some (encV 0x62 3 f)
  | .vtopk f => some (encV 0x62 4 f)
  | .viota f => some (encV 0x62 5 f)
  | .vbcast f => some (encV 0x62 6 f)
  | .vext f => some (encV 0x62 7 f)
  | .vld f => some (encR 0x63 0 f)
  | .vlds f => some (encR 0x63 1 f)
  | .vldx f => some (encR 0x63 2 f)
  | .vst f => some (encR 0x63 3 f)
  | .vsts f => some (encR 0x63 4 f)
  | .vstx f => some (encR 0x63 5 f)
  | .vldsc f => some (encR 0x63 6 f)
  | .vsetvl f => some (encV 0x64 0 f)
  | .vsettype f => some (encV 0x64 1 f)
  | .vrdhw f => some (encV 0x64 2 f)
  | .vallot f => some (encV 0x64 3 f)
  | .mma f => some (encX 0x80 0 f)
  | .mmas f => some (encX 0x80 1 f)
  | .mzero f => some (encX 0x80 2 f)
  | .mld f => some (encX 0x80 3 f)
  | .mst f => some (encX 0x80 4 f)
  | .mpin f => some (encX 0x80 5 f)
  | .munpin f => some (encX 0x80 6 f)
  | .mdelta f => some (encX 0x80 7 f)
  | .mread f => some (encX 0x80 8 f)
  | .mxfl f => some (encX 0x80 9 f)
  | .mfind f => some (encX 0x80 10 f)
  | .cpy f => some (encE 0x90 0 f)
  | .cpyw f => some (encE 0x90 1 f)
  | .tfetch f => some (encE 0x90 2 f)
  | .tfrel f => some (encE 0x90 3 f)
  | .prefb f => some (encE 0x91 0 f)
  | .tiermv f => some (encE 0x91 1 f)
  | .shadow f => some (encE 0x91 2 f)
  | .publish f => some (encE 0x91 3 f)
  | .tokwait f => some (encE 0x91 4 f)
  | .catalloc f => some (encE 0x92 0 f)
  | .catmap f => some (encE 0x92 1 f)
  | .catshare f => some (encE 0x92 2 f)
  | .catfree f => some (encE 0x92 3 f)
  | .exit f => some (encR 0xA0 0 f)
  | .scope f => some (encR 0xA0 1 f)
  | .cancel f => some (encR 0xA0 2 f)
  | .cwait f => some (encR 0xA0 3 f)
  | .barinit f => some (encR 0xA0 4 f)
  | .bararr f => some (encR 0xA0 5 f)
  | .barwait f => some (encR 0xA0 6 f)
  | .yield f => some (encR 0xA0 7 f)
  | .getpg f => some (encR 0xA0 8 f)
  | .csrr f => some (encI 0xB0 0 f)
  | .csrw f => some (encI 0xB0 1 f)
  | .trap f => some (encR 0xB0 2 f)
  | .brk f => some (encR 0xB0 3 f)
  | .rft f => some (encR 0xB0 4 f)
  | .cfetch f => some (encR 0xB0 5 f)
  | .cseg f => some (encR 0xB0 6 f)
  | .ifence f => some (encR 0xB0 7 f)
  | .setaside f => some (encR 0xB0 8 f)
  | .rowwd f => some (encR 0xB0 9 f)
  | .nop f => some (encR 0xB0 10 f)
  | .convoyHeader _ => none
  | .aHartStart _ => none
  | .joinRendezvous _ => none
  | .mwaitTimeout _ => none
  | .monitorLost _ => none
  | .waitvSatisfied _ => none
  | .gangRendezvous _ => none
  | .vectorComplete _ _ => none
  | .replayUnitRoom _ => none
  | .matrixComplete _ _ => none
  | .ownershipMissService _ _ _ => none
  | .publishSwap _ _ => none
  | .engineCommandComplete _ _ => none
  | .followOnIssue _ _ => none
  | .killPointStop _ => none
  | .overlayBlockLand _ _ => none
  | .tlbinvVa _ _ => none
  | .tlbinvContext _ => none
  | .tlbinvAll => none
  | .govstatDroopClear _ => none
  | .rcountDiscard _ => none
  | .registerWrite _ _ _ => none
  | .contextEntryInvalidate _ => none
  | .lateFault _ _ _ => none
  | .unitStop _ => none
  | .haltComplete _ => none
  | .haltctlHalt _ => none
  | .haltctlResume _ => none
  | .haltctlKill _ => none
  | .coreFreeSelect _ => none
  | .rowStepDispatch _ => none
  | .stepStart _ => none
  | .preemptionSave _ => none
  | .intakeTake _ => none
  | .docctlRestart _ => none
  | .rowOpen _ _ _ => none
  | .rowRestored _ _ _ => none
  | .writebackEnd _ _ _ => none
  | .refreshEnd _ _ _ => none
  | .rowWriterComplete _ _ _ => none
  | .refreshDebtRise _ => none
  | .refdue _ _ => none
  | .forcedRefresh _ _ _ => none
  | .forcedRefreshDone _ _ _ => none
  | .leaseRemainExpiry _ => none
  | .watchdogExpiry _ => none
  | .vectorLineFetch _ _ => none
  | .governorSample _ _ _ _ _ => none
  | .governorStepDelivery => none
  | .droopStretch _ => none
  | .powerEmergency => none
  | .clockGating => none
  | .regchain _ _ => none
  | .dropchain _ => none
  | .setshare _ _ => none
  | .ackhalt => none
  | .readstart _ => none
  | .regwrite _ _ => none
  | .regread _ => none
  | .hostMemWrite _ _ _ => none
  | .hostMemRead _ _ => none
  | .spdmRequest _ => none
  | .remoteRead _ _ _ => none
  | .remoteWrite _ _ _ => none
  | .remoteAtomic _ _ _ _ _ _ => none
  | .reductionPacket _ _ _ _ _ => none
  | .remoteCopy _ _ _ => none
  | .remoteAcknowledgement _ _ _ => none
  | .refusalReturn _ _ => none
  | .linkerrClear _ => none
  | .flitCrcReplay _ => none
  | .retrainEnd _ _ => none
  | .stackPortReplay _ _ => none
  | .realignmentRequest _ => none
  | .realignmentDeferralExpiry _ => none
  | .realignmentEnd _ _ => none
  | .bundlestatAck => none
  | .restripeComplete => none
  | .powerUp => none
  | .prechargeEnd _ _ _ => none
  | .activationWindowExpiry _ => none
  | .shrxDelivery _ _ => none
  | .copyGroupArrival _ _ => none
  | .illegalEncoding _ => none
  | .absentBlockFetch _ => none
  | .cxlCacheSnoop _ _ => none

/-- The parcels of an instruction, the first at the lower address (R7, R171); none for the device's own steps. -/
def encode (i : Instr) : List (BitVec 32) :=
  match i with
  | .convoyHeader f => [encC f]
  | _ =>
    match encodeWord i with
    | some w => [w.extractLsb' 0 32, w.extractLsb' 32 32]
    | none => []

/-- What TRAPINFO shows of an instruction: its 64 bits (R425), 0 for a header or a step that no word encodes. -/
def instrWord (i : Instr) : Word := (encodeWord i).getD 0

end Sys2Proof
end

