-- ==== Sys2Proof/WellFormed.lean ====
section
/-! DEFINITION. The checks of R187 that depend on the encoding alone: step 2 (which hart executes which major, R31) and step 3 (unused bits
and values out of range, R178-R184). A word that fails one traps; `WellFormed` says that it passes both. -/
namespace Sys2Proof

/-- The kinds of hart (R31). -/
inductive HartKind where
  | aHart
  | xHart
  | docent
  | bank
  deriving DecidableEq, Repr

/-- The classes of register that a 10-bit field names (R180); `token` and `slot` are the numbers R321 and R180 bound. -/
inductive RegKind where
  | x
  | v
  | dq
  | token
  deriving DecidableEq, Repr

/-- What an instruction does with a 10-bit field: nothing, a source, a destination, or an immediate with the bits it may set (R178, R184). -/
inductive OpUse where
  | unused
  | src (k : RegKind)
  | dst (k : RegKind)
  | imm (mask : BitVec 10)
  deriving DecidableEq, Repr

/-- How many registers a class has for a kind of hart (R180, R321). -/
def regLimit (h : HartKind) : RegKind → Nat
  | .x => if h = .bank then 16 else 64
  | .v => 32
  | .dq => 4
  | .token => 32

/-- Step 3 of R187 on one field: an unused field is zero, bit 7 of a destination is 0, NUM names a register (R178, R180, R184). -/
def opOk (h : HartKind) (u : OpUse) (o : Opnd) : Bool :=
  match u with
  | .unused => o.bits == 0
  | .src k => decide (o.num.toNat < regLimit h k)
  | .dst k => !o.fe && decide (o.num.toNat < regLimit h k)
  | .imm mask => (o.bits &&& ~~~mask) == 0

/-- The fields of an instruction with their uses, and whether its other fields pass step 3. -/
structure Shape where
  ops : List (OpUse × Opnd)
  ok  : Bool
  deriving DecidableEq, Repr

def shR (f : FmtR) (d a b c : OpUse) (modMask : BitVec 10) : Shape :=
  { ops := [(d, f.d), (a, f.a), (b, f.b), (c, f.c)], ok := (f.mod &&& ~~~modMask) == 0 }

def shI (f : FmtI) (d a : OpUse) (ok : Bool) : Shape := { ops := [(d, f.d), (a, f.a)], ok := ok }

def shB (f : FmtB) (a b : OpUse) : Shape := { ops := [(a, f.a), (b, f.b)], ok := true }

def shJ (f : FmtJ) (d a : OpUse) (off : Bool) : Shape := { ops := [(d, f.d), (a, f.a)], ok := off || f.off == 0 }

/-- A format code in an instruction field is 0 to 11 (R139). -/
def fmtOk (c : BitVec 4) : Bool := decide (c.toNat < 12)

/-- Which modifiers of format V an instruction admits. -/
structure VMods where
  mask : Bool
  mreg : Bool
  xm   : Bool
  rm   : Bool
  sat  : Bool
  deriving DecidableEq, Repr

def shV (f : FmtV) (d a b c : OpUse) (m : VMods) : Shape :=
  { ops := [(d, f.vd), (a, f.va), (b, f.vb), (c, f.vc)],
    ok := (m.mask || !f.masken) && (m.mreg || f.mreg == 0) && (m.xm || !f.xm) && (m.rm || f.rm == 0) && (m.sat || !f.sat) }

/-- Which fields of format W an instruction admits (R235); the scalar fields are given as uses. -/
structure WMods where
  od : Bool := false
  oa : Bool := false
  ob : Bool := false
  q  : Bool := false
  imm : BitVec 6 := 0
  type : Bool := false
  rm  : Bool := false
  sat : Bool := false
  xm  : Bool := false
  masken : Bool := false
  masko  : Bool := false
  deriving DecidableEq, Repr

def shW (f : FmtW) (sa sb : OpUse) (m : WMods) : Shape :=
  { ops := [(sa, f.sa), (sb, f.sb)],
    ok := (m.od || f.od == 0) && (m.oa || f.oa == 0) && (m.ob || f.ob == 0) && (m.q || f.q == 0) && (f.imm6 &&& ~~~m.imm) == 0 &&
      (m.type && fmtOk f.type || f.type == 0) && (m.rm || f.rm == 0) && (m.sat || !f.sat) && (m.xm || !f.xm) &&
      (m.masken || !f.masken) && (m.masko || f.masko == 0) && !f.res }

/-- The row arithmetic that admits every modifier of R235; RCMP rounds nothing and saturates nothing (R245). RM and SAT are
admitted, without effect, on RAND, RBOR and RXOR, and SAT on RSHR, RMIN and RMAX. [DEDUCED, log 20] -/
def rowT : WMods :=
  { od := true, oa := true, ob := true, type := true, rm := true, sat := true, xm := true, masken := true, masko := true }

/-- Which fields of format X an instruction admits (R291). -/
structure XMods where
  slot : Bool := true
  fmt  : Bool := false
  accz : Bool := false
  foll : Bool := false
  spn  : Bool := false
  deriving DecidableEq, Repr

def shX (f : FmtX) (da db dk : OpUse) (m : XMods) : Shape :=
  { ops := [(da, f.da), (db, f.db), (dk, f.dk)],
    ok := f.res == 0 && (m.slot || f.slot == 0) && (m.fmt && fmtOk f.fmt || f.fmt == 0) && (m.accz || !f.accz) && (m.foll || !f.foll) &&
      (m.spn && decide (f.spn.toNat < 4) || f.spn == 0) }

def shE (f : FmtE) (d a b : OpUse) (strm foll : Bool) : Shape :=
  { ops := [(d, f.d), (a, f.a), (b, f.b)], ok := f.res == 0 && (strm || f.strm == 0) && (foll || !f.foll) }

/-- Format M: the accepted widths (R311) and scopes (R116). -/
def shM (f : FmtM) (data : OpUse) (widths : Nat) (anyScope : Bool) : Shape :=
  { ops := [(data, f.data), (.src .x, f.base)], ok := decide (f.wid.toNat < widths) && (anyScope || f.scope == 0) }

/-- Format R of major 0x63 (R183, R317): the mask register lies in C when MOD[8] is 1, else C is zero; MOD[9] is zero. -/
def shVm (f : FmtR) (d b : OpUse) : Shape :=
  { ops := [(d, f.d), (.src .x, f.a), (b, f.b), (if f.mod.getLsbD 8 then .src .v else .unused, f.c)],
    ok := !f.mod.getLsbD 9 && fmtOk (f.mod.extractLsb' 4 4) }

/-- No instruction: a step of the device has no encoding to check. -/
def shNone : Shape := { ops := [], ok := true }

/-- The fields that each instruction uses (R201-R349), and the values R182 and R183 bound. [DEDUCED, log 73] -/
def shape (i : Instr) : Shape :=
  match i with
  | .add f => shR f (.dst .x) (.src .x) (.src .x) .unused 0
  | .sub f => shR f (.dst .x) (.src .x) (.src .x) .unused 0
  | .and f => shR f (.dst .x) (.src .x) (.src .x) .unused 0
  | .or f => shR f (.dst .x) (.src .x) (.src .x) .unused 0
  | .xor f => shR f (.dst .x) (.src .x) (.src .x) .unused 0
  | .andn f => shR f (.dst .x) (.src .x) (.src .x) .unused 0
  | .shl f => shR f (.dst .x) (.src .x) (.src .x) .unused 0
  | .shr f => shR f (.dst .x) (.src .x) (.src .x) .unused 0
  | .sra f => shR f (.dst .x) (.src .x) (.src .x) .unused 0
  | .ror f => shR f (.dst .x) (.src .x) (.src .x) .unused 0
  | .min f => shR f (.dst .x) (.src .x) (.src .x) .unused 0
  | .max f => shR f (.dst .x) (.src .x) (.src .x) .unused 0
  | .minu f => shR f (.dst .x) (.src .x) (.src .x) .unused 0
  | .maxu f => shR f (.dst .x) (.src .x) (.src .x) .unused 0
  | .slt f => shR f (.dst .x) (.src .x) (.src .x) .unused 0
  | .sltu f => shR f (.dst .x) (.src .x) (.src .x) .unused 0
  | .seq f => shR f (.dst .x) (.src .x) (.src .x) .unused 0
  | .clz f => shR f (.dst .x) (.src .x) .unused .unused 0
  | .ctz f => shR f (.dst .x) (.src .x) .unused .unused 0
  | .popc f => shR f (.dst .x) (.src .x) .unused .unused 0
  | .sext f => shR f (.dst .x) (.src .x) .unused .unused 3
  | .zext f => shR f (.dst .x) (.src .x) .unused .unused 3
  | .bfx f => shR f (.dst .x) (.src .x) (.src .x) .unused 1
  | .bfi f => shR f (.dst .x) (.src .x) (.src .x) (.src .x) 0
  | .sel f => shR f (.dst .x) (.src .x) (.src .x) (.src .x) 0
  | .addi f => shI f (.dst .x) (.src .x) true
  | .andi f => shI f (.dst .x) (.src .x) true
  | .ori f => shI f (.dst .x) (.src .x) true
  | .xori f => shI f (.dst .x) (.src .x) true
  | .shli f => shI f (.dst .x) (.src .x) true
  | .shri f => shI f (.dst .x) (.src .x) true
  | .srai f => shI f (.dst .x) (.src .x) true
  | .slti f => shI f (.dst .x) (.src .x) true
  | .sltui f => shI f (.dst .x) (.src .x) true
  | .li f => shI f (.dst .x) .unused true
  | .lih f => shI f (.dst .x) (.src .x) true
  | .addpc f => shI f (.dst .x) .unused true
  | .mul f => shR f (.dst .x) (.src .x) (.src .x) .unused 0
  | .mulh f => shR f (.dst .x) (.src .x) (.src .x) .unused 0
  | .mulhu f => shR f (.dst .x) (.src .x) (.src .x) .unused 0
  | .div f => shR f (.dst .x) (.src .x) (.src .x) .unused 0
  | .divu f => shR f (.dst .x) (.src .x) (.src .x) .unused 0
  | .rem f => shR f (.dst .x) (.src .x) (.src .x) .unused 0
  | .remu f => shR f (.dst .x) (.src .x) (.src .x) .unused 0
  | .madd f => shR f (.dst .x) (.src .x) (.src .x) (.src .x) 0
  | .beq f => shB f (.src .x) (.src .x)
  | .bne f => shB f (.src .x) (.src .x)
  | .blt f => shB f (.src .x) (.src .x)
  | .bge f => shB f (.src .x) (.src .x)
  | .bltu f => shB f (.src .x) (.src .x)
  | .bgeu f => shB f (.src .x) (.src .x)
  | .bf f => shB f (.imm 3) .unused
  | .bnf f => shB f (.imm 3) .unused
  | .jmp f => shJ f .unused .unused true
  | .jmpr f => shJ f .unused (.src .x) true
  | .call f => shJ f (.dst .x) .unused true
  | .callr f => shJ f (.dst .x) (.src .x) true
  | .ret f => shJ f .unused (.src .x) false
  | .jtab f => shJ f .unused (.src .x) true
  | .fjmp f => shJ f .unused (.src .x) true
  | .fcall f => shJ f (.dst .x) (.src .x) true
  | .loop f => { ops := [(.src .x, f.a)], ok := f.imm16 == 0 && decide (2 ≤ f.end24.toNat) }
  | .loopi f => { ops := [(.unused, f.a)], ok := decide (2 ≤ f.end24.toNat) }
  | .lbrk f => shR f .unused (.src .x) .unused .unused 1
  | .lidx f => shI f (.dst .x) .unused true
  | .fork f => shR f .unused (.src .x) .unused .unused 0
  | .join f => shR f .unused .unused .unused .unused 0
  | .qpush f => shR f (.src .dq) (.src .x) .unused .unused 0
  | .qpop f => shR f (.dst .x) (.src .dq) .unused .unused 0
  | .bqpush f => shR f .unused (.src .x) .unused .unused 0
  | .bqbr f => shR f .unused .unused .unused .unused 0x3FF
  | .monitor f => shR f .unused (.src .x) .unused .unused 0
  | .mwait f => shR f (.dst .x) (.src .x) .unused .unused 0
  | .ld f => shM f (.dst .x) 7 false
  | .st f => shM f (.src .x) 4 false
  | .ldacq f => shM f (.dst .x) 4 true
  | .strel f => shM f (.src .x) 4 true
  | .ldnt f => shM f (.dst .x) 7 false
  | .amoadd f => shR f (.dst .x) (.src .x) (.src .x) .unused 0x3FF
  | .amoand f => shR f (.dst .x) (.src .x) (.src .x) .unused 0x3FF
  | .amoor f => shR f (.dst .x) (.src .x) (.src .x) .unused 0x3FF
  | .amoxor f => shR f (.dst .x) (.src .x) (.src .x) .unused 0x3FF
  | .amomin f => shR f (.dst .x) (.src .x) (.src .x) .unused 0x3FF
  | .amomax f => shR f (.dst .x) (.src .x) (.src .x) .unused 0x3FF
  | .amoswp f => shR f (.dst .x) (.src .x) (.src .x) .unused 0x3FF
  | .amocas f => shR f (.dst .x) (.src .x) (.src .x) (.src .x) 0x3FF
  | .amofadd f => (let s := shR f (.dst .x) (.src .x) (.src .x) .unused 0x3FF; { s with ok := f.mod.extractLsb' 8 2 == 2 })
  | .amoinc f => shR f (.dst .x) (.src .x) (.src .x) .unused 0x3FF
  | .fence f => (let s := shR f .unused .unused .unused .unused 0x01F; { s with ok := s.ok && decide ((f.mod.extractLsb' 2 3).toNat < 5) })
  | .sbar f => shI f .unused .unused (f.imm.extractLsb' 16 14 == 0)
  | .waitv f => (let s := shR f (.dst .x) (.src .x) (.src .x) (.imm 3) 0x3FF; { s with ok := decide ((f.mod.extractLsb' 6 2).toNat < 2) })
  | .act f => shW f (.src .x) .unused { od := true }
  | .pre f => shW f .unused .unused { od := true }
  | .wb f => shW f .unused .unused { od := true }
  | .wbpre f => shW f .unused .unused { od := true }
  | .ref f => shW f .unused .unused { od := true }
  | .refq f => shW f (.dst .x) .unused {  }
  | .rcopy f => shW f .unused .unused { od := true, oa := true }
  | .radd f => shW f .unused .unused rowT
  | .rsub f => shW f .unused .unused rowT
  | .rmul f => shW f .unused .unused rowT
  | .rfma f => shW f .unused .unused rowT
  | .rmin f => shW f .unused .unused rowT
  | .rmax f => shW f .unused .unused rowT
  | .rand f => shW f .unused .unused { rowT with xm := false }
  | .rbor f => shW f .unused .unused { rowT with xm := false }
  | .rxor f => shW f .unused .unused { rowT with xm := false }
  | .rshr f => shW f .unused .unused { rowT with ob := false, imm := 0x3F }
  | .rcmp f => shW f .unused .unused { rowT with rm := false, sat := false, imm := 7 }
  | .rsel f => shW f .unused .unused { od := true, oa := true, ob := true, type := true, masko := true }
  | .rcvt f => shW f .unused .unused { rowT with ob := false, imm := 0x3F }
  | .rscl f => shW f (.src .x) .unused rowT
  | .ldlut f => shW f .unused .unused { oa := true }
  | .lutdot f => shW f .unused .unused { q := true, oa := true, imm := 1, type := true }
  | .ldsc f => shW f (.src .x) (.src .x) { oa := true }
  | .rdot f => shW f (.src .x) .unused { q := true, oa := true, ob := true, imm := 0x1F, type := true, rm := true }
  | .rsum f => shW f (.src .x) .unused { q := true, oa := true, ob := true, imm := 0x3F, type := true, rm := true }
  | .qclr f => shW f .unused .unused { q := true }
  | .qst f => shW f .unused .unused { od := true, q := true, imm := 0x3F, type := true, rm := true }
  | .rtopk f => shW f (.src .x) .unused { od := true, q := true, imm := 0x3F }
  | .shfl f => shW f .unused .unused { od := true, oa := true, imm := 0x3F }
  | .shrx f => shW f (.src .x) .unused { oa := true }
  | .rcast f => shW f (.src .x) .unused { od := true }
  | .rout f => shW f (.src .x) .unused { oa := true }
  | .rred f => shW f .unused .unused { rowT with oa := false, ob := false, imm := 1 }
  | .gang f => shW f .unused .unused {  }
  | .split f => shW f .unused .unused {  }
  | .bmask f => shW f (.src .x) .unused { imm := 0x37 }
  | .byield f => shW f .unused .unused {  }
  | .lease f => shW f (.dst .x) .unused {  }
  | .rgete f => shW f (.dst .x) (.src .x) { oa := true, type := true }
  | .rsete f => shW f (.src .x) (.src .x) { od := true, type := true }
  | .vadd f => shV f (.dst .v) (.src .v) (.src .v) .unused ⟨true, true, true, true, true⟩
  | .vsub f => shV f (.dst .v) (.src .v) (.src .v) .unused ⟨true, true, true, true, true⟩
  | .vmul f => shV f (.dst .v) (.src .v) (.src .v) .unused ⟨true, true, true, true, true⟩
  | .vfma f => shV f (.dst .v) (.src .v) (.src .v) (.src .v) ⟨true, true, true, true, true⟩
  | .vmin f => shV f (.dst .v) (.src .v) (.src .v) .unused ⟨true, true, true, true, true⟩
  | .vmax f => shV f (.dst .v) (.src .v) (.src .v) .unused ⟨true, true, true, true, true⟩
  | .vand f => shV f (.dst .v) (.src .v) (.src .v) .unused ⟨true, true, false, true, true⟩
  | .vor f => shV f (.dst .v) (.src .v) (.src .v) .unused ⟨true, true, false, true, true⟩
  | .vxor f => shV f (.dst .v) (.src .v) (.src .v) .unused ⟨true, true, false, true, true⟩
  | .vshl f => shV f (.dst .v) (.src .v) (.src .v) .unused ⟨true, true, false, true, true⟩
  | .vshr f => shV f (.dst .v) (.src .v) (.src .v) .unused ⟨true, true, false, true, true⟩
  | .vsra f => shV f (.dst .v) (.src .v) (.src .v) .unused ⟨true, true, false, true, true⟩
  | .vcvt f => shV f (.dst .v) (.src .v) (.src .v) (.imm 0x1FF) ⟨true, true, true, true, true⟩
  | .vabs f => shV f (.dst .v) (.src .v) .unused .unused ⟨true, true, true, true, true⟩
  | .vneg f => shV f (.dst .v) (.src .v) .unused .unused ⟨true, true, true, true, true⟩
  | .vexp2 f => shV f (.dst .v) (.src .v) .unused .unused ⟨true, true, true, true, true⟩
  | .vrcp f => shV f (.dst .v) (.src .v) .unused .unused ⟨true, true, true, true, true⟩
  | .vrsqrt f => shV f (.dst .v) (.src .v) .unused .unused ⟨true, true, true, true, true⟩
  | .vdiv f => shV f (.dst .v) (.src .v) (.src .v) .unused ⟨true, true, true, true, true⟩
  | .vsqrt f => shV f (.dst .v) (.src .v) .unused .unused ⟨true, true, true, true, true⟩
  | .vcmp f => shV f (.dst .v) (.src .v) (.src .v) (.imm 7) ⟨true, true, false, false, false⟩
  | .vmerge f => shV f (.dst .v) (.src .v) (.src .v) .unused ⟨false, true, false, false, false⟩
  | .vpopc f => shV f (.dst .x) (.src .v) .unused .unused ⟨true, true, false, false, false⟩
  | .vfirst f => shV f (.dst .x) (.src .v) .unused .unused ⟨true, true, false, false, false⟩
  | .vcompress f => shV f (.dst .v) (.src .v) .unused .unused ⟨true, true, false, false, false⟩
  | .vgather f => shV f (.dst .v) (.src .v) (.src .v) .unused ⟨true, true, false, false, false⟩
  | .vslide f => shV f (.dst .v) (.src .v) (.src .x) (.imm 1) ⟨true, true, false, false, false⟩
  | .vred f => shV f (.dst .v) (.src .v) (.src .v) (.imm 0xF) ⟨true, true, false, true, true⟩
  | .vtopk f => shV f (.dst .v) (.src .v) (.src .v) (.imm 0x3F) ⟨false, false, false, false, false⟩
  | .viota f => shV f (.dst .v) .unused .unused .unused ⟨true, true, false, false, true⟩
  | .vbcast f => shV f (.dst .v) (.src .x) .unused .unused ⟨true, true, false, false, false⟩
  | .vext f => shV f (.dst .x) (.src .v) (.src .x) .unused ⟨false, false, false, false, false⟩
  | .vld f => shVm f (.dst .v) .unused
  | .vlds f => shVm f (.dst .v) (.src .x)
  | .vldx f => shVm f (.dst .v) (.src .v)
  | .vst f => shVm f (.src .v) .unused
  | .vsts f => shVm f (.src .v) (.src .x)
  | .vstx f => shVm f (.src .v) (.src .v)
  | .vldsc f => shR f (.dst .v) (.src .x) .unused .unused 0xF
  | .vsetvl f => shV f (.dst .x) (.src .x) .unused .unused ⟨false, false, false, false, false⟩
  | .vsettype f => shV f (.dst .x) (.src .x) .unused .unused ⟨false, false, false, false, false⟩
  | .vrdhw f => shV f (.dst .x) .unused .unused .unused ⟨false, false, false, false, false⟩
  | .vallot f => shV f (.dst .x) (.src .x) .unused .unused ⟨false, false, false, false, false⟩
  | .mma f => shX f (.src .x) (.src .x) (.src .x) { fmt := true, accz := true, foll := true }
  | .mmas f => shX f (.src .x) (.src .x) (.src .x) { fmt := true, accz := true, foll := true, spn := true }
  | .mzero f => shX f .unused .unused .unused {}
  | .mld f => shX f (.src .x) (.imm 0xF) .unused {}
  | .mst f => shX f (.src .x) (.imm 0xF) .unused {}
  | .mpin f => shX f .unused (.src .x) (.src .x) {}
  | .munpin f => shX f .unused .unused .unused {}
  | .mdelta f => shX f .unused .unused (.src .x) { fmt := true }
  | .mread f => shX f (.dst .v) .unused (.src .x) { fmt := true }
  | .mxfl f => shX f (.dst .x) .unused (.imm 1) {}
  | .mfind f => shX f (.dst .x) .unused (.src .x) { slot := false }
  | .cpy f => shE f (.src .token) (.src .x) (.src .x) true true
  | .cpyw f => shE f (.src .token) (.src .x) (.src .x) true true
  | .tfetch f => shE f (.src .token) (.src .x) (.src .x) true false
  | .tfrel f => shE f .unused (.src .x) .unused false false
  | .prefb f => shE f (.src .token) (.src .x) (.src .x) true false
  | .tiermv f => shE f (.src .token) (.src .x) (.src .x) true false
  | .shadow f => shE f .unused (.src .x) .unused true false
  | .publish f => shE f .unused (.src .x) .unused true false
  | .tokwait f => shE f (.src .token) .unused .unused false false
  | .catalloc f => shE f (.dst .x) (.src .x) .unused true false
  | .catmap f => shE f (.dst .x) (.src .x) (.imm 1) true false
  | .catshare f => shE f .unused (.src .x) (.src .x) true false
  | .catfree f => shE f .unused (.src .x) .unused true false
  | .exit f => shR f (.src .x) (.src .x) (.src .x) (.src .x) 0
  | .scope f => shR f (.dst .x) (.src .x) .unused .unused 0
  | .cancel f => shR f .unused (.src .x) .unused .unused 0
  | .cwait f => shR f .unused (.src .x) .unused .unused 0
  | .barinit f => shR f .unused (.src .x) (.src .x) .unused 0
  | .bararr f => shR f (.dst .x) (.src .x) .unused .unused 0
  | .barwait f => shR f .unused (.src .x) (.src .x) .unused 0
  | .yield f => shR f .unused .unused .unused .unused 0
  | .getpg f => shR f (.dst .x) (.imm 7) (.imm 7) .unused 0
  | .csrr f => shI f (.dst .x) .unused true
  | .csrw f => shI f .unused (.src .x) true
  | .trap f => shR f .unused (.src .x) .unused .unused 0
  | .brk f => shR f .unused .unused .unused .unused 0
  | .rft f => shR f .unused .unused .unused .unused 0
  | .cfetch f => shR f .unused (.src .x) (.src .x) .unused 0
  | .cseg f => shR f (.dst .x) (.src .x) .unused .unused 0
  | .ifence f => shR f .unused .unused .unused .unused 0
  | .setaside f => shR f .unused (.src .x) (.src .x) .unused 0
  | .rowwd f => shR f .unused (.src .x) (.src .x) .unused 0
  | .nop f => shR f .unused .unused .unused .unused 0
  | .convoyHeader _ => shNone
  | .aHartStart _ => shNone
  | .joinRendezvous _ => shNone
  | .mwaitTimeout _ => shNone
  | .monitorLost _ => shNone
  | .waitvSatisfied _ => shNone
  | .gangRendezvous _ => shNone
  | .vectorComplete _ _ => shNone
  | .replayUnitRoom _ => shNone
  | .matrixComplete _ _ => shNone
  | .ownershipMissService _ _ _ => shNone
  | .publishSwap _ _ => shNone
  | .engineCommandComplete _ _ => shNone
  | .followOnIssue _ _ => shNone
  | .killPointStop _ => shNone
  | .overlayBlockLand _ _ => shNone
  | .tlbinvVa _ _ => shNone
  | .tlbinvContext _ => shNone
  | .tlbinvAll => shNone
  | .govstatDroopClear _ => shNone
  | .rcountDiscard _ => shNone
  | .registerWrite _ _ _ => shNone
  | .contextEntryInvalidate _ => shNone
  | .lateFault _ _ _ => shNone
  | .unitStop _ => shNone
  | .haltComplete _ => shNone
  | .haltctlHalt _ => shNone
  | .haltctlResume _ => shNone
  | .haltctlKill _ => shNone
  | .coreFreeSelect _ => shNone
  | .rowStepDispatch _ => shNone
  | .stepStart _ => shNone
  | .preemptionSave _ => shNone
  | .intakeTake _ => shNone
  | .docctlRestart _ => shNone
  | .rowOpen _ _ _ => shNone
  | .rowRestored _ _ _ => shNone
  | .writebackEnd _ _ _ => shNone
  | .refreshEnd _ _ _ => shNone
  | .rowWriterComplete _ _ _ => shNone
  | .refreshDebtRise _ => shNone
  | .refdue _ _ => shNone
  | .forcedRefresh _ _ _ => shNone
  | .forcedRefreshDone _ _ _ => shNone
  | .leaseRemainExpiry _ => shNone
  | .watchdogExpiry _ => shNone
  | .vectorLineFetch _ _ => shNone
  | .governorSample _ _ _ _ _ => shNone
  | .governorStepDelivery => shNone
  | .droopStretch _ => shNone
  | .powerEmergency => shNone
  | .clockGating => shNone
  | .regchain _ _ => shNone
  | .dropchain _ => shNone
  | .setshare _ _ => shNone
  | .ackhalt => shNone
  | .readstart _ => shNone
  | .regwrite _ _ => shNone
  | .regread _ => shNone
  | .hostMemWrite _ _ _ => shNone
  | .hostMemRead _ _ => shNone
  | .spdmRequest _ => shNone
  | .remoteRead _ _ _ => shNone
  | .remoteWrite _ _ _ => shNone
  | .remoteAtomic _ _ _ _ _ _ => shNone
  | .reductionPacket _ _ _ _ _ => shNone
  | .remoteCopy _ _ _ => shNone
  | .remoteAcknowledgement _ _ _ => shNone
  | .refusalReturn _ _ => shNone
  | .linkerrClear _ => shNone
  | .flitCrcReplay _ => shNone
  | .retrainEnd _ _ => shNone
  | .stackPortReplay _ _ => shNone
  | .realignmentRequest _ => shNone
  | .realignmentDeferralExpiry _ => shNone
  | .realignmentEnd _ _ => shNone
  | .bundlestatAck => shNone
  | .restripeComplete => shNone
  | .powerUp => shNone
  | .prechargeEnd _ _ _ => shNone
  | .activationWindowExpiry _ => shNone
  | .shrxDelivery _ _ => shNone
  | .copyGroupArrival _ _ => shNone
  | .illegalEncoding _ => shNone
  | .absentBlockFetch _ => shNone
  | .cxlCacheSnoop _ _ => shNone

/-- Step 3 of R187: every bit that the MAJOR and SUB give no use is zero and every field value lies in its range. -/
def fieldsOk (h : HartKind) (i : Instr) : Bool :=
  let s := shape i
  s.ok && s.ops.all (fun p => opOk h p.1 p.2)

/-- The majors of the opcode map and the sets of R31 that execute them. A header runs on every hart. -/
def hartExecutes (h : HartKind) (i : Instr) : Bool :=
  match i with
  | .add _ => true
  | .sub _ => true
  | .and _ => true
  | .or _ => true
  | .xor _ => true
  | .andn _ => true
  | .shl _ => true
  | .shr _ => true
  | .sra _ => true
  | .ror _ => true
  | .min _ => true
  | .max _ => true
  | .minu _ => true
  | .maxu _ => true
  | .slt _ => true
  | .sltu _ => true
  | .seq _ => true
  | .clz _ => true
  | .ctz _ => true
  | .popc _ => true
  | .sext _ => true
  | .zext _ => true
  | .bfx _ => true
  | .bfi _ => true
  | .sel _ => true
  | .addi _ => true
  | .andi _ => true
  | .ori _ => true
  | .xori _ => true
  | .shli _ => true
  | .shri _ => true
  | .srai _ => true
  | .slti _ => true
  | .sltui _ => true
  | .li _ => true
  | .lih _ => true
  | .addpc _ => true
  | .mul _ => true
  | .mulh _ => true
  | .mulhu _ => true
  | .div _ => true
  | .divu _ => true
  | .rem _ => true
  | .remu _ => true
  | .madd _ => true
  | .beq _ => true
  | .bne _ => true
  | .blt _ => true
  | .bge _ => true
  | .bltu _ => true
  | .bgeu _ => true
  | .bf _ => true
  | .bnf _ => true
  | .jmp _ => true
  | .jmpr _ => true
  | .call _ => true
  | .callr _ => true
  | .ret _ => true
  | .jtab _ => true
  | .fjmp _ => true
  | .fcall _ => true
  | .loop _ => true
  | .loopi _ => true
  | .lbrk _ => true
  | .lidx _ => true
  | .fork _ => h == .xHart
  | .join _ => h == .aHart || h == .xHart
  | .qpush _ => h == .aHart || h == .xHart
  | .qpop _ => h == .aHart || h == .xHart
  | .bqpush _ => h == .aHart || h == .xHart
  | .bqbr _ => h == .aHart || h == .xHart
  | .monitor _ => h != .bank
  | .mwait _ => h != .bank
  | .ld _ => h == .aHart || h == .docent
  | .st _ => h == .aHart || h == .docent
  | .ldacq _ => h == .aHart || h == .docent
  | .strel _ => h == .aHart || h == .docent
  | .ldnt _ => h == .aHart || h == .docent
  | .amoadd _ => h == .aHart || h == .docent
  | .amoand _ => h == .aHart || h == .docent
  | .amoor _ => h == .aHart || h == .docent
  | .amoxor _ => h == .aHart || h == .docent
  | .amomin _ => h == .aHart || h == .docent
  | .amomax _ => h == .aHart || h == .docent
  | .amoswp _ => h == .aHart || h == .docent
  | .amocas _ => h == .aHart || h == .docent
  | .amofadd _ => h == .aHart || h == .docent
  | .amoinc _ => h == .aHart || h == .docent
  | .fence _ => h == .aHart || h == .docent
  | .sbar _ => h == .aHart || h == .docent
  | .waitv _ => h == .aHart || h == .docent
  | .act _ => h == .bank
  | .pre _ => h == .bank
  | .wb _ => h == .bank
  | .wbpre _ => h == .bank
  | .ref _ => h == .bank
  | .refq _ => h == .bank
  | .rcopy _ => h == .bank
  | .radd _ => h == .bank
  | .rsub _ => h == .bank
  | .rmul _ => h == .bank
  | .rfma _ => h == .bank
  | .rmin _ => h == .bank
  | .rmax _ => h == .bank
  | .rand _ => h == .bank
  | .rbor _ => h == .bank
  | .rxor _ => h == .bank
  | .rshr _ => h == .bank
  | .rcmp _ => h == .bank
  | .rsel _ => h == .bank
  | .rcvt _ => h == .bank
  | .rscl _ => h == .bank
  | .ldlut _ => h == .bank
  | .lutdot _ => h == .bank
  | .ldsc _ => h == .bank
  | .rdot _ => h == .bank
  | .rsum _ => h == .bank
  | .qclr _ => h == .bank
  | .qst _ => h == .bank
  | .rtopk _ => h == .bank
  | .shfl _ => h == .bank
  | .shrx _ => h == .bank
  | .rcast _ => h == .bank
  | .rout _ => h == .bank
  | .rred _ => h == .bank
  | .gang _ => h == .bank
  | .split _ => h == .bank
  | .bmask _ => h == .bank
  | .byield _ => h == .bank
  | .lease _ => h == .bank
  | .rgete _ => h == .bank
  | .rsete _ => h == .bank
  | .vadd _ => h == .xHart
  | .vsub _ => h == .xHart
  | .vmul _ => h == .xHart
  | .vfma _ => h == .xHart
  | .vmin _ => h == .xHart
  | .vmax _ => h == .xHart
  | .vand _ => h == .xHart
  | .vor _ => h == .xHart
  | .vxor _ => h == .xHart
  | .vshl _ => h == .xHart
  | .vshr _ => h == .xHart
  | .vsra _ => h == .xHart
  | .vcvt _ => h == .xHart
  | .vabs _ => h == .xHart
  | .vneg _ => h == .xHart
  | .vexp2 _ => h == .xHart
  | .vrcp _ => h == .xHart
  | .vrsqrt _ => h == .xHart
  | .vdiv _ => h == .xHart
  | .vsqrt _ => h == .xHart
  | .vcmp _ => h == .xHart
  | .vmerge _ => h == .xHart
  | .vpopc _ => h == .xHart
  | .vfirst _ => h == .xHart
  | .vcompress _ => h == .xHart
  | .vgather _ => h == .xHart
  | .vslide _ => h == .xHart
  | .vred _ => h == .xHart
  | .vtopk _ => h == .xHart
  | .viota _ => h == .xHart
  | .vbcast _ => h == .xHart
  | .vext _ => h == .xHart
  | .vld _ => h == .aHart
  | .vlds _ => h == .aHart
  | .vldx _ => h == .aHart
  | .vst _ => h == .aHart
  | .vsts _ => h == .aHart
  | .vstx _ => h == .aHart
  | .vldsc _ => h == .aHart
  | .vsetvl _ => h == .xHart
  | .vsettype _ => h == .xHart
  | .vrdhw _ => h == .xHart
  | .vallot _ => h == .xHart
  | .mma _ => h == .xHart
  | .mmas _ => h == .xHart
  | .mzero _ => h == .xHart
  | .mld _ => h == .xHart
  | .mst _ => h == .xHart
  | .mpin _ => h == .xHart
  | .munpin _ => h == .xHart
  | .mdelta _ => h == .xHart
  | .mread _ => h == .xHart
  | .mxfl _ => h == .xHart
  | .mfind _ => h == .xHart
  | .cpy _ => h == .aHart
  | .cpyw _ => h == .aHart
  | .tfetch _ => h == .aHart
  | .tfrel _ => h == .aHart
  | .prefb _ => h == .aHart
  | .tiermv _ => h == .aHart
  | .shadow _ => h == .aHart
  | .publish _ => h == .aHart
  | .tokwait _ => h == .aHart
  | .catalloc _ => h == .aHart
  | .catmap _ => h == .aHart
  | .catshare _ => h == .aHart
  | .catfree _ => h == .aHart
  | .exit _ => true
  | .scope _ => h != .bank
  | .cancel _ => h != .bank
  | .cwait _ => h != .bank
  | .barinit _ => h != .bank
  | .bararr _ => h != .bank
  | .barwait _ => h != .bank
  | .yield _ => true
  | .getpg _ => true
  | .csrr _ => true
  | .csrw _ => true
  | .trap _ => true
  | .brk _ => true
  | .rft _ => true
  | .cfetch _ => true
  | .cseg _ => true
  | .ifence _ => h != .bank
  | .setaside _ => h != .bank
  | .rowwd _ => h != .bank
  | .nop _ => true
  | .convoyHeader _ => true
  | .aHartStart _ => true
  | .joinRendezvous _ => true
  | .mwaitTimeout _ => true
  | .monitorLost _ => true
  | .waitvSatisfied _ => true
  | .gangRendezvous _ => true
  | .vectorComplete _ _ => true
  | .replayUnitRoom _ => true
  | .matrixComplete _ _ => true
  | .ownershipMissService _ _ _ => true
  | .publishSwap _ _ => true
  | .engineCommandComplete _ _ => true
  | .followOnIssue _ _ => true
  | .killPointStop _ => true
  | .overlayBlockLand _ _ => true
  | .tlbinvVa _ _ => true
  | .tlbinvContext _ => true
  | .tlbinvAll => true
  | .govstatDroopClear _ => true
  | .rcountDiscard _ => true
  | .registerWrite _ _ _ => true
  | .contextEntryInvalidate _ => true
  | .lateFault _ _ _ => true
  | .unitStop _ => true
  | .haltComplete _ => true
  | .haltctlHalt _ => true
  | .haltctlResume _ => true
  | .haltctlKill _ => true
  | .coreFreeSelect _ => true
  | .rowStepDispatch _ => true
  | .stepStart _ => true
  | .preemptionSave _ => true
  | .intakeTake _ => true
  | .docctlRestart _ => true
  | .rowOpen _ _ _ => true
  | .rowRestored _ _ _ => true
  | .writebackEnd _ _ _ => true
  | .refreshEnd _ _ _ => true
  | .rowWriterComplete _ _ _ => true
  | .refreshDebtRise _ => true
  | .refdue _ _ => true
  | .forcedRefresh _ _ _ => true
  | .forcedRefreshDone _ _ _ => true
  | .leaseRemainExpiry _ => true
  | .watchdogExpiry _ => true
  | .vectorLineFetch _ _ => true
  | .governorSample _ _ _ _ _ => true
  | .governorStepDelivery => true
  | .droopStretch _ => true
  | .powerEmergency => true
  | .clockGating => true
  | .regchain _ _ => true
  | .dropchain _ => true
  | .setshare _ _ => true
  | .ackhalt => true
  | .readstart _ => true
  | .regwrite _ _ => true
  | .regread _ => true
  | .hostMemWrite _ _ _ => true
  | .hostMemRead _ _ => true
  | .spdmRequest _ => true
  | .remoteRead _ _ _ => true
  | .remoteWrite _ _ _ => true
  | .remoteAtomic _ _ _ _ _ _ => true
  | .reductionPacket _ _ _ _ _ => true
  | .remoteCopy _ _ _ => true
  | .remoteAcknowledgement _ _ _ => true
  | .refusalReturn _ _ => true
  | .linkerrClear _ => true
  | .flitCrcReplay _ => true
  | .retrainEnd _ _ => true
  | .stackPortReplay _ _ => true
  | .realignmentRequest _ => true
  | .realignmentDeferralExpiry _ => true
  | .realignmentEnd _ _ => true
  | .bundlestatAck => true
  | .restripeComplete => true
  | .powerUp => true
  | .prechargeEnd _ _ _ => true
  | .activationWindowExpiry _ => true
  | .shrxDelivery _ _ => true
  | .copyGroupArrival _ _ => true
  | .illegalEncoding _ => true
  | .absentBlockFetch _ => true
  | .cxlCacheSnoop _ _ => true

/-- An instruction that passes the checks on its encoding on a hart of this kind (R187 steps 2 and 3). -/
def WellFormed (h : HartKind) (i : Instr) : Bool := hartExecutes h i && fieldsOk h i

end Sys2Proof
end

