-- ==== Sys2Proof/Machine/State.lean ====
section
/-! DEFINITION. The state of the DVR-40-M: everything the spec gives the machine, as plain data. Field comments cite the rule that names each
piece; INVENTORY.md lists them with their reset values. -/
namespace Sys2Proof.Machine

/-- Why a run stops in the model. No instruction stops: a condition of the device is a trap or a halt, that is, a next state. -/
inductive Fault where
  /-- Raised by the step when an event names a unit that the device does not have (a core from 128, a Pergola from 1,152, a hart whose
  identifier R30 does not give). Safe: such an event cannot occur, so no claim about the device is lost. -/
  | noSuchUnit
  deriving DecidableEq, Repr

/-- Why the model gives no meaning. -/
inductive Refusal where
  /-- Raised by an arm of `exec` whose instruction has no meaning yet. Safe: nothing is claimed of it. -/
  | notModelled (mnemonic : String)
  deriving DecidableEq, Repr

/-- A loop-stack entry (R215). -/
structure LoopEntry where
  index  : Word
  remain : Word
  start  : Word
  fin    : Word
  deriving DecidableEq, Repr

/-- An armed monitor: the address of the physical 128-byte line, and whether it was triggered (R225). -/
structure Monitor where
  line : Nat
  triggered : Bool
  /-- the device dropped it (R226 code 2) -/
  lost : Bool := false
  deriving DecidableEq, Repr

/-- A replay-queue entry (R430); V is 1 for every listed one. -/
structure ReplayEntry where
  data  : BitVec 32
  cause : BitVec 8
  strm  : BitVec 4
  size  : BitVec 2
  st    : Bool
  reg   : BitVec 5
  unit  : BitVec 11
  va    : BitVec 56
  /-- MODEL'S OWN: the active nibbles of a 4-bit unit; 3 for any other (R122, R431) -/
  half  : BitVec 2 := 3
  deriving DecidableEq, Repr

/-- A barrier membership (R340): the object's address and the phase of the last arrival. -/
structure Member where
  object : Word
  phase  : BitVec 32
  deriving DecidableEq, Repr

/-- A range that a CFETCH brought in (R383). -/
structure SegRange where
  source : Word
  ovlOff : BitVec 32
  len    : BitVec 32
  deriving DecidableEq, Repr

/-- What came back for a hart's remote access (R402, R403, R500). -/
inductive Reply where
  | value (v : Word) (poison : Bool)
  | refused (code : BitVec 8)
  deriving DecidableEq, Repr

/-- How far a hart is (R33, R34, R45, R46). -/
inductive HartRun where
  /-- no step, or an idle A-hart -/
  | idle
  | running
  /-- executed JOIN and waits for the other hart -/
  | atJoin
  /-- a split-mode bank that executed GANG and waits -/
  | atGang
  /-- a split-mode bank that executed EXIT -/
  | exited
  /-- stopped by a halt of its context -/
  | stopped
  deriving DecidableEq, Repr

/-- A hart of any kind (R32, R39, R344, R423, R430, R440). -/
structure Hart where
  x      : Tbl Word := []
  pc     : Word := 0
  loops  : List LoopEntry := []
  flags  : BitVec 2 := 0
  nflags : BitVec 6 := 0
  trapvec  : Word := 0
  trappc   : Word := 0
  trapinfo : Word := 0
  trapscr  : Word := 0
  code : BitVec 8 := 0
  ih   : Bool := false
  late : Bool := false
  ptroot    : Word := 0
  catbase   : Word := 0
  hndbase   : Word := 0
  hndcount  : Word := 0
  spillbase : Word := 0
  context : BitVec 16 := 0
  priv : Bool := false
  run : HartRun := .idle
  monitor : Option Monitor := none
  mwaitFrom : Option Word := none
  replay : List ReplayEntry := []
  roomWait : List ReplayEntry := []
  members : List Member := []
  home  : Word := 0
  spawn : Word := 0
  refused : BitVec 8 := 0
  pred : Bool := false
  killReq  : Bool := false
  boundary : Bool := false
  parked   : Bool := false
  /-- YIELD has completed: a pre-emption point (R49) -/
  atYield  : Bool := false
  /-- resumed, and no instruction issued since: no pre-emption point yet (R49) -/
  fresh : Bool := false
  /-- what came back for the remote units of the instruction it stands at, oldest first, and the packet it waits for -/
  replies : List Reply := []
  awaiting : Option Nat := none
  /-- the units of the vector memory instruction it stands at that are performed, while a later one waits for a peer (R123) -/
  vdone : List Nat := []
  deriving DecidableEq, Repr

/-- A slot of the C-file with its ownership entry (R288). -/
structure Slot where
  words   : SlotWords := 0
  key     : Word := 0
  scopeId : BitVec 32 := 0
  owner   : BitVec 16 := 0
  prog    : BitVec 5 := 0
  grp     : BitVec 6 := 0
  /-- the sticky flags in the bit places of NFLAGS (R303): NV 0, OF 2, UF 3, NX 4, SAT 5 -/
  sticky  : BitVec 6 := 0
  full    : Bool := true
  p : Bool := false
  d : Bool := false
  v : Bool := false
  deriving DecidableEq, Repr

inductive TileState where
  | empty
  | loading
  | staged
  deriving DecidableEq, Repr

/-- A tile name of the tile fetch unit (R329): its staged bytes and which of them lie in padded elements. -/
structure Tile where
  st    : TileState := .empty
  map   : Word := 0
  /-- LOADING: the token of its TFETCH, and whether the tile has been read whole -/
  token : Nat := 0
  ready : Bool := false
  bytes : Tbl Byte := []
  pad   : Tbl Bool := []
  deriving DecidableEq, Repr

/-- A tile step (R51, R383, R438): its launch block, index, priority, context and home scope, and its last CFETCHes, newest first. -/
structure StepInfo where
  launch  : Word
  step    : Nat
  prio    : Nat
  context : BitVec 16
  scope   : Word
  segs    : List SegRange := []
  /-- KIND of its stop record as the device wrote it (R438, R446) -/
  kind    : BitVec 2 := 0
  /-- PRIV as its harts loaded it at dispatch (R353) -/
  priv    : Bool := false
  /-- the physical address of the record that counts this step's kill (R62), once a cancellation has reached it -/
  killPa  : Option Nat := none
  deriving DecidableEq, Repr

/-- An engine command in flight (R441): what was read at issue and how far it is. -/
structure EngineRec where
  instr  : Word
  ops    : List Word
  finstr : Word
  fops   : List Word
  done   : Nat
  token  : Nat
  engine : BitVec 3
  fpend  : Bool
  hart   : Nat
  /-- the step that issued it (R59), and the tables its addresses go through (R490) -/
  info   : StepInfo
  priv   : Bool
  ptroot : Word
  hndbase  : Word
  hndcount : Word
  /-- the packet for its next source line at a peer, and the line that came back -/
  awaiting : Option Nat := none
  arrived : Option (List Byte × Bool) := none
  /-- bytes of a linear source already read, from `done` on: source words are read whole (R120, R126); `none` for a refused line's (R499) -/
  buffer : List (Option Byte) := []
  /-- what a mapped command has read: aligned words, and 128-byte lines of a peer, each read once (R126, R402) -/
  cached : List ((Nat × Nat × Nat) × List (Option Byte)) := []
  /-- a mapped copy's bytes, by their offset from its destination, that wait until their word, or their line at a peer, can be written whole
  (R120, R402) -/
  out : Tbl (Option Byte) := []
  /-- the words of its slot that an MST caught by a stop has still to store (R289, R437) -/
  snap : Option SlotWords := none
  /-- the tensor map and its GIDX words, once read (R328) -/
  tmap : Option (Nat × List Nat) := none
  /-- vtype at issue, for a follow-on of FMT 0 (R326) -/
  vtype : Word := 0xA
  /-- what a TFETCH has read so far (R329) -/
  tile : Tile := {}
  deriving DecidableEq, Repr

/-- A tile of a matrix instruction: its core and its place in the product (R298), the slot as the instruction found it, and whether its last
word is still to be written (R289). -/
structure MatrixTile where
  core : Nat
  row  : Nat := 0
  col  : Nat := 0
  before  : Slot
  pending : Bool := true
  deriving DecidableEq, Repr

/-- A matrix instruction or issued follow-on in flight (R289, R437, R441): what its record holds, its slot and tiles, the registers that MDELTA
reads and its output group, as it found both, and whether a stop has caught it, so that it is reissued. -/
structure MatrixWork where
  entry : EngineRec
  slot  : Nat
  tiles : List MatrixTile
  ins   : List (Nat × VReg) := []
  outs  : List (Nat × VReg) := []
  again : Bool := false
  /-- the follow-on of the copy whose record this is -/
  follow : Bool := false
  deriving DecidableEq, Repr

/-- A follow-on failure to be reported (R452). -/
structure FollowFail where
  token : Nat
  code  : BitVec 8
  info  : Word
  deriving DecidableEq, Repr

/-- A scalar-side change kept in the history buffer (R429). -/
inductive History where
  | reg (n : Nat) (old : Word)
  | flags (old : BitVec 2)
  | nflags (old : BitVec 6)
  | loops (old : List LoopEntry)
  deriving DecidableEq, Repr

/-- An instruction in the X-hart's vector queue, and what the history buffer holds of the changes since it was queued, newest first (R428,
R429). -/
structure QueueEntry where
  pc    : Word
  instr : Instr
  undo  : List History := []
  deriving DecidableEq, Repr

/-- A step's own partition fault, for its stop record (R438, R445). -/
structure FaultRec where
  cause  : BitVec 8
  origin : BitVec 16
  engine : BitVec 3
  info   : Word
  fpc    : Word
  double : Bool := false
  novec  : Bool := false
  deriving DecidableEq, Repr

/-- How far a dispatched or stopped step's place is (R363, R368, R382, R435). -/
inductive Phase where
  /-- the segment is on its way (R382) -/
  | landing
  /-- as `landing`, for a step that resumes from its frame (R383) -/
  | resuming
  | running
  /-- stopped by a halt, its record written -/
  | stopped
  deriving DecidableEq, Repr

/-- A suspended step (R368); its harts' state lies in its frame. REFUSED bits are saved with it (R500). -/
structure Suspended where
  info  : StepInfo
  frame : Nat
  /-- its place among all suspensions, oldest lowest (R370) -/
  order : Nat := 0
  refusedA : BitVec 8 := 0
  refusedX : BitVec 8 := 0
  /-- a monitor was armed at the stop, so the next MWAIT writes 2 (R226) -/
  lostA : Bool := false
  lostX : Bool := false
  /-- units that wait for room in the replay queue (R430), and the active halves of replay entries of 4-bit stores (R431) -/
  room : List ReplayEntry := []
  halves : List (BitVec 2) := []
  /-- its tile names (R442) and follow-on failures not yet reported (R452) -/
  tiles : Tbl Tile := []
  follow : List FollowFail := []
  deriving DecidableEq, Repr

/-- A core: what its two harts share (R32, R263), its engines and the steps it holds. -/
structure Core where
  v      : Tbl VReg := []
  /-- bit n is 1 while vn is empty (R37) -/
  vempty : BitVec 32 := 0
  vl     : Nat := 0
  vtype  : Word := 0xA
  vresume : Nat := 0
  hw     : Word := 0
  allot  : Nat := 8
  slots  : Tbl Slot := []
  dq0 : List Word := []
  dq1 : List Word := []
  dq2 : List Word := []
  dq3 : List Word := []
  bq  : List Bool := []
  /-- the producer of bq, as HARTID[0] (R36) -/
  bqProducer : Option Bool := none
  tokens : Tbl Nat := []
  tiles  : Tbl Tile := []
  wbuf   : Tbl Byte := []
  engines : List EngineRec := []
  /-- vector registers and slots whose last element is still to be written (R37, R289) -/
  vpend  : List Nat := []
  mpend  : List Nat := []
  /-- the products and fast-weight updates that its matrix engine works on, or that a stop has caught (R437, R441) -/
  matrix : List MatrixWork := []
  /-- MSTs that a stop has caught, with the words that they store (R289, R437) -/
  stores : List EngineRec := []
  /-- the vector queue, oldest first, with the history buffer (R428, R429) -/
  vqueue : List QueueEntry := []
  follow : List FollowFail := []
  step   : Option StepInfo := none
  phase  : Phase := .landing
  fault  : Option FaultRec := none
  suspended : List Suspended := []
  preemptReq : Bool := false
  /-- the request is for a step suspended on this core, whose move R371 forbids (R365) -/
  preemptOwn : Bool := false
  /-- physical base of the running step's frame, which is also IMGBASE (R355) -/
  frame  : Nat := 0
  deriving DecidableEq, Repr

inductive BlockState where
  | absent
  | pending
  | landed
  deriving DecidableEq, Repr

/-- A 128-byte overlay block (R346, R381). -/
structure OvlBlock where
  st  : BlockState := .absent
  context : BitVec 16 := 0
  source  : Word := 0
  /-- the hart whose CFETCH brings it, and every hart whose CFETCH awaits it (R381) -/
  hart    : Nat := 0
  waiters : List Nat := []
  /-- where its image bytes lie, as the CFETCH's checks resolved them (R346) -/
  image   : Option Nat := none
  /-- the reissue at a resumption that brings or brought it, until that has settled: hart, first block, length (R383) -/
  reissue : Option (Nat × Nat × Nat) := none
  bytes : BitVec 1024 := 0
  deriving DecidableEq, Repr

/-- The clock and governor state of a unit (R20, R24, R27). -/
structure Clock where
  ltime : Word := 0
  clkstep : Nat := 16
  steps : BitVec 16 := 0
  droop : Bool := false
  gated : Bool := false
  deriving DecidableEq, Repr

/-- A Pavilion (R16): overlay and A-store, shared by its two cores. -/
structure Pavilion where
  overlay : Tbl OvlBlock := []
  astore  : Tbl Byte := []
  clock   : Clock := {}
  deriving DecidableEq, Repr

/-- A launch block by its context and virtual address. -/
structure BlockRef where
  context : BitVec 16
  va : Word
  deriving DecidableEq, Repr

/-- A claimed row step that waits for its Pergola (R364). -/
structure RowClaim where
  block : BlockRef
  step  : Nat
  deriving DecidableEq, Repr

/-- A Wing: its walker's queues and counters, and its docent's status (R360, R366, R498). -/
structure Wing where
  queue0 : List BlockRef := []
  queue1 : List BlockRef := []
  queue2 : List BlockRef := []
  queue3 : List BlockRef := []
  grants : Tbl Nat := []
  /-- priorities at which rule 1 of R365 takes a suspended step next -/
  turnSuspended : Tbl Bool := []
  rowClaims : List RowClaim := []
  docCause : BitVec 8 := 0
  docChain : BitVec 6 := 0
  docStopped : Bool := false
  docAddr  : BitVec 48 := 0
  /-- the docent hart's code (log 15) -/
  overlay : Tbl OvlBlock := []
  clock : Clock := {}
  deriving DecidableEq, Repr

inductive RowState where
  | closed
  | opening
  | opened
  | busy
  | rescued
  deriving DecidableEq, Repr

/-- A row register (R227, R231, R482) with its timing marks in rc (R232). -/
structure RowReg where
  st   : RowState := .closed
  row  : BitVec 10 := 0
  dirty : Bool := false
  restored : Bool := false
  rsaved : Bool := false
  data : Row := 0
  poison : BitVec 128 := 0
  /-- rc of its ACT -/
  actAt : Nat := 0
  /-- rc at which its writer's last group is written -/
  busyEnd : Nat := 0
  /-- the writer changed at least one byte -/
  busyDirty : Bool := false
  /-- rc at which its readers have read it -/
  readEnd : Nat := 0
  /-- rc at which its write-back ends, and whether it then closes (WBPRE) -/
  wbEnd : Option (Nat × Bool) := none
  /-- rc at which it left BUSY last (WB turnaround) -/
  freeAt : Nat := 0
  /-- its ACT decided that the row is lasting: it is retired at tRAS (R479, R480) -/
  lasting : Bool := false
  /-- segments in which the check lanes of a pair have another result than its second bank (R488) -/
  check : List (Nat × BitVec 512) := []
  deriving DecidableEq, Repr

/-- A row accumulator latch (R227). -/
structure QLatch where
  acc : VReg := 0
  p   : VReg := 0
  j   : BitVec 7 := 0
  poison : BitVec 256 := 0
  /-- rc from which a later instruction reads it (R233) -/
  doneAt : Nat := 0
  deriving DecidableEq, Repr

/-- A row in an inbox or on its way to one (R227, R256). -/
structure SentRow where
  data   : Row
  poison : BitVec 128
  /-- the sending bank's hart, which waits for the delivery -/
  sender : Nat
  deriving DecidableEq, Repr

/-- The refresh and timing state of a subarray group (R231, R241, R480, R481). -/
structure Sag where
  debt : Nat := 0
  /-- REFDUE is owed for this crossing of 6 -/
  due  : Bool := false
  nextRow : Nat := 0
  /-- rc at which tRP after the last PRE, and a REF, end -/
  preEnd : Nat := 0
  refEnd : Nat := 0
  /-- a forced refresh is under way -/
  forced : Bool := false
  spares : Nat := 8
  deriving DecidableEq, Repr

/-- A bank (R227, R478): its row-side state. -/
structure Bank where
  o : Tbl RowReg := []
  q : Tbl QLatch := []
  check : Tbl QLatch := []
  lut : Row := 0
  lutPoison : BitVec 128 := 0
  sf  : BitVec 12288 := 0
  sfPoison : BitVec 512 := 0
  rtype : Word := 0xA
  inbox : Option SentRow := none
  /-- rows on their way to the inbox, and rows that have arrived and wait for it, oldest first (R256) -/
  sending : List SentRow := []
  arrived : List SentRow := []
  sags : Tbl Sag := []
  suspectRow : Option (BitVec 13) := none
  suspectMask : BitVec 128 := 0
  corrected : Nat := 0
  /-- rc from which the lanes take the next instruction (R233) -/
  laneFree : Nat := 0
  /-- rc of the bank's last ACT (tRRDB), `none` before the first -/
  lastAct : Option Nat := none
  /-- the lane instruction in flight and the rc at which it began (R443); the rc it still needs, while a halt holds it (R437) -/
  laneInstr : Word := 0
  laneFrom : Nat := 0
  laneLeft : Nat := 0
  /-- registers that the lane instruction in flight reads and writes -/
  laneReads : List Nat := []
  laneWrites : List Nat := []
  /-- the address of an RCAST or ROUT in flight, for its restart (R437) -/
  laneVa : Word := 0
  /-- rc from which results of lane work are read in FLAGS, NFLAGS and the scalar registers (R233) -/
  flagsAt : Nat := 0
  nflagsAt : Nat := 0
  /-- of the lane instruction in flight: NFLAGS and FLAGS before it, the flags that its element groups raise, and the FLAGS of the last RCMP;
  a halt records how far they have come (R437, R443) -/
  nflagsWas : BitVec 6 := 0
  flagsWas : BitVec 2 := 0
  laneFlags : List (BitVec 6) := []
  cmpOut : BitVec 2 := 0
  xAt : Tbl Nat := []
  /-- rc from which a later instruction reads the LUT latch and sf (R233) -/
  lutAt : Nat := 0
  sfAt : Nat := 0
  /-- how far the bank's SHRX is: 0 not sent, n + 1 sent with n deliveries to come (R256) -/
  shrx : Nat := 0
  deriving DecidableEq, Repr

/-- A row step that BYIELD set aside, or that a halt stopped; its state lies in its frame (R50). -/
structure RowSuspended where
  info  : StepInfo
  frame : Nat
  /-- the bytes of its record, kept while the frame of its context and priority holds another step's -/
  saved : List Byte := []
  deriving DecidableEq, Repr

/-- A Pergola with its eight banks and its lease (R39-R46, R84, R349). -/
structure Pergola where
  gang  : Bool := true
  pc    : Word := 0
  loops : List LoopEntry := []
  lastBank : Nat := 7
  /-- banks that the ACT in progress has activated (R41) -/
  actDone : Nat := 0
  overlay : Tbl OvlBlock := []
  rc : Nat := 0
  lessee : BitVec 16 := 0
  dual : Bool := false
  remain : Nat := 0
  watchdog : Option Nat := none
  banks : Tbl Bank := []
  step : Option StepInfo := none
  phase : Phase := .landing
  fault  : Option FaultRec := none
  yielded : List RowSuspended := []
  /-- the row blocks that it took steps of, the latest last (R365) -/
  served : List BlockRef := []
  grants : Tbl Nat := []
  frame : Nat := 0
  clock : Clock := {}
  deriving DecidableEq, Repr

/-- A context entry (R353). -/
structure CtxEntry where
  spillbase : Word := 0
  framebase : Word := 0
  hndbase : Word := 0
  hndcount : BitVec 32 := 0
  catbase : Word := 0
  ptroot : Word := 0
  priv : Bool := false
  v : Bool := false
  deriving DecidableEq, Repr

inductive HaltState where
  | running
  | halting
  | halted
  deriving DecidableEq, Repr

/-- HALTSTAT of a context (R444), and whether a power emergency or HALTCTL asserted the line (the INFO of R438). -/
structure HaltStat where
  seq : BitVec 12 := 0
  origin : BitVec 16 := 0
  cause : BitVec 8 := 0
  engine : BitVec 3 := 0
  rowstop : Nat := 0
  cstop : Nat := 0
  pwr : Bool := false
  st : HaltState := .running
  /-- a KILL is in progress (R448) -/
  killing : Bool := false
  deriving DecidableEq, Repr

/-- A launch chain (R357, R400): its anchor and context. -/
structure Chain where
  anchor : Word
  context : BitVec 16
  deriving DecidableEq, Repr

/-- An entry of the error log (R491). -/
structure ErrEntry where
  kind : BitVec 8
  location : Word
  stamp : Word
  context : BitVec 16
  hart : BitVec 16
  cause : BitVec 8
  count : BitVec 32
  deriving DecidableEq, Repr

/-- An entry of the scheduler log (R495). -/
structure SchedEntry where
  address : Word
  stamp : Word
  context : BitVec 16
  hart : BitVec 16
  reason : BitVec 8
  detail : Word
  deriving DecidableEq, Repr

/-- The kinds of packet (R402, R501). -/
inductive PacketKind where
  | read
  | write
  | atomic
  | reduction
  | copy
  deriving DecidableEq, Repr

/-- A packet sent to a peer and not yet answered (R138, R402). -/
structure Packet where
  link : Nat
  kind : PacketKind
  address : Nat
  size : Nat
  data : List Byte
  hart : Nat
  va : Word
  strm : Nat
  /-- the active nibbles of a 4-bit unit (R122); 3 for any other -/
  half : BitVec 2 := 3
  /-- the bytes of a copy's line that it writes; empty for all of them (R328) -/
  mask : List Bool := []
  /-- it brings a value back: a read, an atomic, a source line of a copy -/
  wants : Bool
  /-- the atomic of major 0x31, by SUB -/
  sub : Nat := 0
  /-- the sender's step (R500) -/
  context : BitVec 16
  launch : Word
  step : Nat
  deriving DecidableEq, Repr

/-- A peer-link port (R501, R502): LINKERR and its replay and retraining counts. -/
structure Port where
  errAddress : Word := 0
  errHart : BitVec 16 := 0
  errReason : BitVec 8 := 0
  errKind : Nat := 0
  errCount : Word := 0
  rate : BitVec 8 := 64
  /-- the rate at which this start's training began (R507) -/
  begins : BitVec 8 := 64
  replays : Nat := 0
  retraining : Bool := false
  /-- LTIME of the Ndetrief at which the retraining began -/
  retrainFrom : Nat := 0
  failedRetrains : Nat := 0
  deriving DecidableEq, Repr

/-- A layer of a stack: its activation arbiter, bundles and realignment (R232, R503, R504). -/
structure Layer where
  /-- rc of the arbiter at which the trailing activations were made, newest first, with the bank of the newest -/
  acts : List Nat := []
  lastBank : Option Nat := none
  requested : Bool := false
  realigning : Bool := false
  /-- base-die LTIME of the request and of the start of the realignment -/
  requestAt : Nat := 0
  realignAt : Nat := 0
  deferrals : Nat := 0
  bundlesRetired : Nat := 0
  deriving DecidableEq, Repr

/-- Why a physical line is device-owned (R57, R339, R352). -/
inductive Owned where
  | none
  | scope
  | block
  | barrier
  deriving DecidableEq, Repr

/-- A translation held by a TLB (R73). -/
structure TlbEntry where
  context : BitVec 16
  /-- virtual page number, bits 53:16 -/
  page : Nat
  entry : Word
  large : Bool
  deriving DecidableEq, Repr

/-- The names that a Catalogue maps (R93): what its map table and block state array hold. -/
structure Catalogue where
  names : List (Nat × Nat) := []
  counts : Tbl Nat := []
  deriving DecidableEq, Repr

/-- What a start meets (R405-R407, R505): the outcome of each step but for a change of slot, ROWCAP, retired octets, the ports, and what the
images in the slots measure. -/
structure StartInput where
  outcomes : BitVec 16 := 0x5555
  rowcap  : BitVec 1152 := 0
  retired : BitVec 1152 := 0
  ports : Word := 0x4040404040404040
  build : BitVec 2 := 0
  /-- image slots that fail their verification twice, by measurement index (2 to 4) and slot (0 or 1) -/
  badSlots : List (Nat × Nat) := []
  /-- the layers of the bundles that fail the self-test, one for each -/
  badBundles : List Nat := []
  /-- the rates, from the nominal one down, at which the host link does not train -/
  hostFails : Nat := 0
  /-- digests of the ROM and of its recovery code, and of each image in each slot -/
  romDigest : BitVec 256 := 0
  recoveryDigest : BitVec 256 := 0
  digests : Tbl (Tbl (BitVec 256)) := []
  deriving DecidableEq, Repr

/-- What the governor samples: the draw of each group in W, coolant flow in mL/min and die temperature in °C (R23, R408). -/
structure Supply where
  compute : Nat := 0
  row : Nat := 0
  fixed : Nat := 0
  flow : Nat := 2000
  temp : Nat := 40
  deriving DecidableEq, Repr

/-- The Ndetrief: mailbox, governor, start record and attestation (R23-R28, R399-R408, R505-R508). -/
structure Ndetrief where
  started : Bool := false
  safe : Bool := false
  dead : Bool := false
  ltime : Word := 0
  status : BitVec 16 := 0
  cmd : BitVec 8 := 0
  done : Bool := false
  go : Bool := false
  arg0 : Word := 0
  arg1 : Word := 0
  arg2 : Word := 0
  arg3 : Word := 0
  shareCompute : Nat := 1900
  shareRow : Nat := 750
  /-- decided steps not yet delivered (R25) -/
  computeStep : Nat := 16
  rowWindow : Nat := 32
  /-- activation-window limit in force (R25) -/
  actwin : Nat := 32
  /-- LTIME of the next sample (R23), of the decision not yet delivered (R25), and since when samples are above 2,900 W with both groups at
  their floor (R28) -/
  nextSample : Nat := 1000
  decidedAt : Option Nat := none
  overSince : Option Nat := none
  /-- ticks for which no step has run (R408) -/
  idleFor : Nat := 0
  /-- what the supplies and sensors read -/
  supply : Supply := {}
  emergency : Bool := false
  start : StartInput := {}
  record : Tbl Word := []
  previous : Tbl Word := []
  starts : BitVec 16 := 0
  measurements : Tbl (BitVec 256) := []
  /-- the measurement last answered, and the signature over it (R407) -/
  answer : BitVec 256 := 0
  signature : BitVec 19360 := 0
  /-- the slot with which step 2 begins for each image, by its measurement index (R507) -/
  slots : Tbl Nat := []
  /-- the device has started before (R507) -/
  startedBefore : Bool := false
  /-- the host link's lane rate, written as in the start record; 0 for none (R397, R505) -/
  hostRate : BitVec 8 := 0
  /-- signals sent on MSI-X vector 0 (R504) -/
  msix : Nat := 0
  /-- layers whose narrowing waits for the one before, oldest first (R504) -/
  narrowings : List Nat := []
  bundlestat : Word := 0
  /-- re-striping is under way (R504 step 3) -/
  restriping : Bool := false
  ports : Tbl Port := []
  deriving DecidableEq, Repr

/-- Who makes a move (log 3). -/
inductive Agent where
  /-- a compute or docent hart, by HARTID -/
  | hart (id : Nat)
  | pergola (g : Nat)
  /-- one bank of a Pergola in split mode (R44) -/
  | bank (g b : Nat)
  /-- the vector unit and matrix engine of a core -/
  | unit (core : Nat)
  | engine (core : Nat)
  | walker (wing : Nat)
  | docent (wing : Nat)
  deriving DecidableEq, Repr

/-- What comes from outside: an event of the device, or local time passing in a unit (10 ns ticks, R20). -/
inductive Input where
  | event (i : Instr)
  /-- the host writes a mailbox command with GO = 1 (R399) -/
  | mailbox (cmd : BitVec 8) (arg0 arg1 : Word)
  | pavilionTime (p ticks : Nat)
  | wingTime (w ticks : Nat)
  | pergolaTime (g ticks : Nat)
  | baseTime (stack ticks : Nat)
  | ndetriefTime (ticks : Nat)
  /-- the host writes or reads a mailbox register, by its offset in BAR0 (R399) -/
  | mbWrite (off : Nat) (v : Word)
  | mbRead (off : Nat)
  /-- a flit passes its CRC at a peer port or a stack port, so the next one begins its own replays (R471, R502) -/
  | flitPassed (port : Nat)
  | stackFlitPassed (stack : Nat)
  /-- under a DUAL lease the lanes wrote a wrong segment, or a wrong latch lane; `check` of the check lanes (R487, R488) -/
  | laneError (g b reg seg : Nat) (v : BitVec 512) (check : Bool)
  | latchError (g b q lane : Nat) (v : BitVec 32) (check : Bool)
  /-- a unit of a hart's step reads an on-die store and cannot correct it (R471, R477) -/
  | storeError (id engine store off : Nat)
  /-- the stack port reads a row of an octet that is not leased; of an interleaved one it delivers these granules (R471, R480) -/
  | portRow (coord : Nat) (granules : List Nat)
  /-- codewords of a row go bad: its next ACT, or read by the stack port, finds these uncorrectable and corrects those (R471, R472) -/
  | cellsError (coord : Nat) (lost corrected : BitVec 128)
  /-- an uncorrectable error of an L2 half-line, or of a module of the second tier, by physical address / 64 (R471) -/
  | lineError (granule : Nat)
  deriving DecidableEq, Repr

/-- The machine. -/
structure State where
  mem    : List Host.Cell := []
  /-- granules of 64 bytes, by physical address / 64, whose data are lost (R473) -/
  poison : Tbl Bool := []
  /-- rows that a spare has replaced, by coordinate (R480) -/
  remapped : Tbl Bool := []
  /-- codewords that the next ACTs of a row find uncorrectable, soonest first: the cells' own condition (R471, R478) -/
  upsets : Tbl (List (BitVec 128)) := []
  /-- codewords that the next ACTs of a row correct (R472) -/
  softs  : Tbl (List (BitVec 128)) := []
  /-- device-owned lines, by physical address / 64 -/
  owned  : Tbl Owned := []
  tlb    : List TlbEntry := []
  catalogues : Tbl Catalogue := []
  harts  : Tbl Hart := []
  cores  : Tbl Core := []
  pavilions : Tbl Pavilion := []
  wings  : Tbl Wing := []
  pergolas : Tbl Pergola := []
  layers : Tbl Layer := []
  baseTimes : Tbl Word := []
  /-- failed flits in a row at each stack's port (R471) -/
  stackReplays : Tbl Nat := []
  rowcap : BitVec 1152 := 0
  retired : BitVec 1152 := 0
  /-- octets listed for retirement at the next start (R480) -/
  toRetire : BitVec 1152 := 0
  intlvSize : Nat := 0
  contexts : Tbl CtxEntry := []
  halts  : Tbl HaltStat := []
  chains : Tbl (Option Chain) := []
  /-- blocks that a decrement has reached and whose count is not zero (R60, R372) -/
  waiting : List BlockRef := []
  errLog : List ErrEntry := []
  schedLog : List SchedEntry := []
  packets : Tbl (Option Packet) := []
  nextPacket : Nat := 0
  /-- MODEL'S OWN: suspensions so far, which orders them (R370) -/
  suspendCount : Nat := 0
  /-- what the last host or remote read returned, and whether poisoned (R136, R403) -/
  answer : List Byte := []
  answerPoison : Bool := false
  answerCode : BitVec 8 := 0
  nd : Ndetrief := {}
  /-- MODEL'S OWN: SCOPEIDs assigned so far (log 9) -/
  scopeCount : Nat := 0
  /-- MODEL'S OWN: free values used so far (log 8) -/
  freeCount : Nat := 0
  /-- MODEL'S OWN: inputs from outside, oldest first (log 4) -/
  inputs : List Input := []
  /-- MODEL'S OWN: which agents move, the next one first (log 3) -/
  ring : List Agent := []
  /-- MODEL'S OWN: the agent that is moving -/
  cur : Agent := .hart 0
  /-- MODEL'S OWN: the last instruction stayed at its place, held back or waiting (R44) -/
  waited : Bool := false
  deriving DecidableEq, Repr

/-- The machine right after reset: nothing has run, the start steps of R405 are still to come. -/
def State.reset : State := {}

end Sys2Proof.Machine
end

