-- ==== Sys2Proof/Machine/Ops.lean ====
section
/-! DEFINITION. The named operations every meaning is written over: units and registers by number, program counters and loop stacks of harts
and gangs, the end of an instruction, taking a trap and returning from one, and the log of errors. -/
namespace Sys2Proof.Machine

/-- Bits `[lo + w - 1 : lo]` of a number. -/
def bits (n lo w : Nat) : Nat := (n >>> lo) % 2 ^ w

/-- The number with those bits replaced. -/
def setBits (n lo w v : Nat) : Nat := n - bits n lo w * 2 ^ lo + (v % 2 ^ w) * 2 ^ lo

/-! Cause codes (16_faults_stopping.md R421). -/
namespace Cause
abbrev illegal : BitVec 8 := 0x01
abbrev reservedField : BitVec 8 := 0x02
abbrev allot : BitVec 8 := 0x03
abbrev emptyTrap : BitVec 8 := 0x04
abbrev misalign : BitVec 8 := 0x05
abbrev xlate : BitVec 8 := 0x06
abbrev prot : BitVec 8 := 0x07
abbrev rowsag : BitVec 8 := 0x08
abbrev rowclosed : BitVec 8 := 0x09
abbrev rowopen : BitVec 8 := 0x0A
abbrev rowlease : BitVec 8 := 0x0B
abbrev refdue : BitVec 8 := 0x0C
abbrev rescued : BitVec 8 := 0x0D
abbrev slotown : BitVec 8 := 0x0E
abbrev slotpin : BitVec 8 := 0x0F
abbrev segabsent : BitVec 8 := 0x10
abbrev loopstack : BitVec 8 := 0x11
abbrev queue : BitVec 8 := 0x12
abbrev ue : BitVec 8 := 0x13
abbrev watchdog : BitVec 8 := 0x14
abbrev dupmismatch : BitVec 8 := 0x15
abbrev link : BitVec 8 := 0x16
abbrev encregion : BitVec 8 := 0x17
abbrev swtrap : BitVec 8 := 0x18
abbrev brk : BitVec 8 := 0x19
abbrev halted : BitVec 8 := 0x1A
abbrev hartclass : BitVec 8 := 0x1B
abbrev scopefault : BitVec 8 := 0x1C
abbrev publish : BitVec 8 := 0x1D
abbrev catalogue : BitVec 8 := 0x1E
abbrev token : BitVec 8 := 0x1F
end Cause

/-- What keeps an instruction from its effect. -/
inductive Stop where
  /-- A contained trap; in gang mode one that belongs to the gang as a whole (R453). -/
  | trap (code : BitVec 8) (info : Word)
  /-- A gang's trap with the faults that banks have of their own (R454), by bank. -/
  | banks (own : List (Nat × BitVec 8 × Word))
  /-- A contained trap after a part of the work (R451). -/
  | after (s : State) (code : BitVec 8) (info : Word)
  /-- The replay queue's trap, delivered at a drain point; it is never late (R432). -/
  | drain (s : State) (code : BitVec 8) (info : Word)
  /-- A gang's trap after a part of the work, or one that names the address after it. -/
  | banksAfter (s : State) (own : List (Nat × BitVec 8 × Word))
  /-- The instruction stays at its place: a blocking wait (R58) or an interlock stall. -/
  | wait (s : State) (blocking : Bool)
  /-- A partition fault that the instruction meets at a unit (R421, R477). -/
  | part (s : State) (code : BitVec 8) (engine : BitVec 3) (info : Word)
  deriving DecidableEq, Repr

/-- A computation that an instruction's checks may stop. -/
abbrev M (α : Type) := Except Stop α

/-- A check: the trap unless the condition holds. -/
def need (ok : Bool) (code : BitVec 8) (info : Word) : M Unit := if ok then .ok () else .error (.trap code info)

/-! ## Units by number -/

def hartOf (s : State) (id : Nat) : Hart := s.harts.get {} id
def modHart (s : State) (id : Nat) (f : Hart → Hart) : State := { s with harts := s.harts.modify {} id f }
def coreOf (s : State) (c : Nat) : Core := s.cores.get {} c
def modCore (s : State) (c : Nat) (f : Core → Core) : State := { s with cores := s.cores.modify {} c f }
def pavOf (s : State) (p : Nat) : Pavilion := s.pavilions.get {} p
def modPav (s : State) (p : Nat) (f : Pavilion → Pavilion) : State := { s with pavilions := s.pavilions.modify {} p f }
def wingOf (s : State) (w : Nat) : Wing := s.wings.get {} w
def modWing (s : State) (w : Nat) (f : Wing → Wing) : State := { s with wings := s.wings.modify {} w f }
def perOf (s : State) (g : Nat) : Pergola := s.pergolas.get {} g
def modPer (s : State) (g : Nat) (f : Pergola → Pergola) : State := { s with pergolas := s.pergolas.modify {} g f }
def bankOf (s : State) (g b : Nat) : Bank := (perOf s g).banks.get {} b
def modBank (s : State) (g b : Nat) (f : Bank → Bank) : State := modPer s g fun p => { p with banks := p.banks.modify {} b f }
def layerOf (s : State) (l : Nat) : Layer := s.layers.get {} l
def modLayer (s : State) (l : Nat) (f : Layer → Layer) : State := { s with layers := s.layers.modify {} l f }
def haltOf (s : State) (c : BitVec 16) : HaltStat := s.halts.get {} c.toNat
def modHalt (s : State) (c : BitVec 16) (f : HaltStat → HaltStat) : State := { s with halts := s.halts.modify {} c.toNat f }

/-- The hart identifiers of R30. -/
def aHartId (core : Nat) : Nat := 2 * core
def xHartId (core : Nat) : Nat := 2 * core + 1
def docentId (wing : Nat) : Nat := 0x4000 + wing
def bankId (g b : Nat) : Nat := 0x8000 + 8 * g + b

/-- The kind of a hart that R30 numbers. -/
def kindOfId (id : Nat) : Option HartKind :=
  if id < 256 then some (if id % 2 = 1 then .xHart else .aHart)
  else if 0x4000 ≤ id ∧ id < 0x4008 then some .docent
  else if 0x8000 ≤ id ∧ id < 0xA400 then some .bank
  else none

/-- The core, Pavilion and Wing of a compute hart, and the Wing of a docent (R16). -/
def coreOfHart (id : Nat) : Nat := id / 2
def pavOfHart (id : Nat) : Nat := id / 4
def wingOfHart (id : Nat) : Nat := if id < 256 then id / 32 else id % 8
/-- The Pergola and bank of a bank hart (R30). -/
def perOfHart (id : Nat) : Nat := (id - 0x8000) / 8
def bankOfHart (id : Nat) : Nat := id % 8
/-- The stack and layer of a Pergola (R17), and the layer's number among the 144. -/
def stackOfPer (g : Nat) : Nat := g / 96
def layerOfPer (g : Nat) : Nat := g / 8

/-- The clock of a hart's unit (R20). -/
def clockOfHart (s : State) (id : Nat) : Clock :=
  if id < 256 then (pavOf s (pavOfHart id)).clock
  else if id < 0x8000 then (wingOf s (wingOfHart id)).clock
  else (perOf s (perOfHart id)).clock

def modClockOfHart (s : State) (id : Nat) (f : Clock → Clock) : State :=
  if id < 256 then modPav s (pavOfHart id) fun p => { p with clock := f p.clock }
  else if id < 0x8000 then modWing s (wingOfHart id) fun w => { w with clock := f w.clock }
  else modPer s (perOfHart id) fun p => { p with clock := f p.clock }

/-! ## Who issues -/

/-- Bank `b` is enabled: its predicate bit is 1 (R41), and it has not exited (R46). -/
def enabled (s : State) (g b : Nat) : Bool := (hartOf s (bankId g b)).pred && (hartOf s (bankId g b)).run != .exited

/-- The enabled banks of a gang, rising (R41). -/
def enabledBanks (s : State) (g : Nat) : List Nat := (List.range 8).filter (enabled s g)

/-- The leader bank (R43): the lowest-numbered enabled one, or bank 0. -/
def leaderBank (s : State) (g : Nat) : Nat := (enabledBanks s g).headD 0

/-- The kind of the hart, or of the gang's harts, that issues. -/
def curKind (s : State) : Option HartKind :=
  match s.cur with
  | .hart id => if id < 0x8000 then kindOfId id else none
  | .pergola g => if g < 1152 then some .bank else none
  | .bank g b => if g < 1152 ∧ b < 8 then some .bank else none
  | _ => none

/-- The Pergola of the issuing gang or bank. -/
def curPer (s : State) : Nat :=
  match s.cur with
  | .pergola g => g
  | .bank g _ => g
  | _ => 0

/-- An instruction issues to a gang (R41). -/
def inGang (s : State) : Bool :=
  match s.cur with
  | .pergola _ => true
  | _ => false

/-- The banks that issue as bank `b` in split mode: itself, and under a DUAL lease the other bank of its pair (R487). -/
def splitBanks (s : State) (g b : Nat) : List Nat := if (perOf s g).dual && decide (b < 4) then [b, b + 4] else [b]

/-- The harts that perform an ordinary instruction: the issuing hart, or the gang's enabled banks (R41, R199). -/
def performers (s : State) : List Nat :=
  match s.cur with
  | .hart id => [id]
  | .pergola g => (enabledBanks s g).map (bankId g)
  | .bank g b => (splitBanks s g b).map (bankId g)
  | _ => []

/-- The hart whose registers a control transfer reads (R43). -/
def leadHart (s : State) : Nat :=
  match s.cur with
  | .hart id => id
  | .pergola g => bankId g (leaderBank s g)
  | .bank g b => bankId g b
  | _ => 0

/-- Every hart of the issuing unit: all eight banks of a gang (R42, R214). -/
def allHarts (s : State) : List Nat :=
  match s.cur with
  | .hart id => [id]
  | .pergola g => (List.range 8).map (bankId g)
  | .bank g b => (splitBanks s g b).map (bankId g)
  | _ => []

/-- Several banks issue as one: a gang, or a DUAL pair in split mode. -/
def inGroup (s : State) : Bool := inGang s || decide (1 < (allHarts s).length)

/-- Faults by bank in a gang, or the issuer's own: the trap if there is any (R453, R454). [DESIGN CHOICE, log 32] -/
def ownFaults (s : State) (check : Nat → Option (BitVec 8 × Word)) : M Unit :=
  match (performers s).filterMap fun id => (check id).map fun e => (bankOfHart id, e) with
  | [] => .ok ()
  | l => if inGroup s then .error (.banks l) else .error (.trap (l.headD (0, 0, 0)).2.1 (l.headD (0, 0, 0)).2.2)

/-- A check of step 5 that every performing hart makes alike (R187, R453). -/
def needOwn (s : State) (ok : Bool) (code : BitVec 8) (info : Word) : M Unit := ownFaults s fun _ => if ok then none else some (code, info)

/-- The core of the issuing compute hart. -/
def curCore (s : State) : Nat := coreOfHart (leadHart s)

/-- A function applied to each hart of a list. -/
def modHarts (s : State) (ids : List Nat) (f : Hart → Hart) : State := ids.foldl (fun t id => modHart t id f) s

/-- A function applied to each hart that performs the instruction. -/
def modPerformers (s : State) (f : Hart → Hart) : State := modHarts s (performers s) f

/-! ## Scalar registers (R32, R39, R198) -/

/-- x0 reads as zero. -/
def Hart.get (h : Hart) (n : Nat) : Word := if n = 0 then 0 else h.x.get 0 n

/-- A write to x0 is discarded. -/
def Hart.put (h : Hart) (n : Nat) (v : Word) : Hart := if n = 0 then h else { h with x := h.x.set 0 n v }

/-- The value of a scalar operand field (R179: LVL and FE change no scalar read). -/
def Hart.opnd (h : Hart) (o : Opnd) : Word := h.get o.num.toNat

/-- A scalar destination field. -/
def Hart.dest (h : Hart) (o : Opnd) (v : Word) : Hart := h.put o.num.toNat v

/-- A scalar operand of a control transfer or of a compute instruction: the leader's (R43). -/
def xRead (s : State) (o : Opnd) : Word := (hartOf s (leadHart s)).opnd o

/-- A scalar destination of the issuing compute hart. -/
def xWrite (s : State) (o : Opnd) (v : Word) : State := modHart s (leadHart s) fun h => h.dest o v

/-! ## Program counter and loop stack: a hart's own, or the gang's (R39, R41) -/

structure Ctl where
  pc : Word
  loops : List LoopEntry
  deriving DecidableEq, Repr

def ctl (s : State) : Ctl :=
  match s.cur with
  | .hart id => { pc := (hartOf s id).pc, loops := (hartOf s id).loops }
  | .bank g b => { pc := (hartOf s (bankId g b)).pc, loops := (hartOf s (bankId g b)).loops }
  | .pergola g => { pc := (perOf s g).pc, loops := (perOf s g).loops }
  | _ => { pc := 0, loops := [] }

def setCtl (s : State) (c : Ctl) : State :=
  match s.cur with
  | .hart id => modHart s id fun h => { h with pc := c.pc, loops := c.loops }
  | .bank g b => modHarts s ((splitBanks s g b).map (bankId g)) fun h => { h with pc := c.pc, loops := c.loops }
  | .pergola g => modPer s g fun p => { p with pc := c.pc, loops := c.loops }
  | _ => s

def curPc (s : State) : Word := (ctl s).pc

/-- An iteration boundary is reached (R48): a pre-emption and kill point. -/
def markBoundary (s : State) : State := modHarts s (allHarts s) fun h => { h with boundary := true }

/-- The end step of R217 on a stack whose top entry ends at `fin`: the new stack, the new PC, and whether control returned to START. -/
def endStep (fin : Word) : List LoopEntry → List LoopEntry × Word × Bool
  | [] => ([], fin + 8, false)
  | t :: rest =>
    if t.fin = fin then
      if t.remain - 1 ≠ 0 then ({ t with index := t.index + 1, remain := t.remain - 1 } :: rest, t.start, true)
      else endStep fin rest
    else (t :: rest, fin + 8, false)

/-- The top entry ends at this address (R217). -/
def endsTop (loops : List LoopEntry) (pc : Word) : Bool :=
  match loops with
  | [] => false
  | t :: _ => t.fin == pc

/-- Where an instruction of `len` bytes that transfers no control leaves the PC and the loop stack, and whether that is an iteration
boundary (R217, R460). After a pop, execution continues at END + 8, and after the follow-on of a copy (R186). -/
def fallThrough (c : Ctl) (len : Word) : Ctl × Bool :=
  if endsTop c.loops c.pc || (len == 16 && endsTop c.loops (c.pc + 8)) then
    let fin := if endsTop c.loops c.pc then c.pc else c.pc + 8
    let r := endStep fin c.loops
    (if r.2.2 then { pc := r.2.1, loops := r.1 } else { pc := if len == 16 then c.pc + 16 else r.2.1, loops := r.1 }, r.2.2)
  else ({ pc := c.pc + len, loops := c.loops }, false)

/-- The end of an instruction of `len` bytes that transfers no control. -/
def advanceBy (len : Word) (s : State) : State :=
  let r := fallThrough (ctl s) len
  if r.2 then markBoundary (setCtl s r.1) else setCtl s r.1

/-- The end of a 64-bit instruction. -/
def advance (s : State) : State := advanceBy 8 s

/-- A taken branch or jump; one to its own address or below is an iteration boundary (R48). -/
def jumpTo (target : Word) (s : State) : State :=
  let t := setCtl s { ctl s with pc := target }
  if target.toNat ≤ (curPc s).toNat then markBoundary t else t

/-! ## Free values (log 8) -/

/-- `n` unspecified bytes, each a fresh free value. [DESIGN CHOICE, log 8] -/
def freeBytes (s : State) (n : Nat) : List Byte × State :=
  ((List.range n).map (fun k => Config.freeByte (s.freeCount + k)), { s with freeCount := s.freeCount + n })

/-- An unspecified 64-bit value. [DESIGN CHOICE, log 8] -/
def freeWord (s : State) : Word × State := (Config.freeWord s.freeCount, { s with freeCount := s.freeCount + 1 })

/-! ## Logs (R491, R495): the newest entry stands first; the register windows show the last 1,024 and 256 -/

def logError (s : State) (kind : BitVec 8) (location : Word) (context hart : BitVec 16) (cause : BitVec 8) (count : Nat) : State :=
  { s with errLog := { kind := kind, location := location, stamp := s.nd.ltime, context := context, hart := hart, cause := cause,
                       count := BitVec.ofNat 32 count } :: s.errLog }

def logSched (s : State) (address : Word) (context hart : BitVec 16) (reason : BitVec 8) (detail : Word) : State :=
  { s with schedLog := { address := address, stamp := s.nd.ltime, context := context, hart := hart, reason := reason,
                         detail := detail } :: s.schedLog }

/-! ## The halt line (R435, R445) -/

/-- A unit's own record of a partition fault, the first of several, kept until its stop record is written. -/
def noteFault (s : State) (unit : UnitRef) (f : FaultRec) : State :=
  match unit with
  | .core c => modCore s c fun k => { k with fault := some (k.fault.getD f) }
  | .pergola g => modPer s g fun p => { p with fault := some (p.fault.getD f) }

/-- The context's halt line is asserted: a running context halts with this cause; a halting or halted one keeps its fields (R445). -/
def assertHalt (s : State) (c : BitVec 16) (origin : BitVec 16) (cause : BitVec 8) (engine : BitVec 3) (pwr : Bool) : State :=
  modHalt s c fun h =>
    if h.st = .running then
      { h with st := .halting, seq := h.seq + 1, origin := origin, cause := cause, engine := engine, pwr := pwr, rowstop := 0, cstop := 0 }
    else h

/-- The unit that a hart belongs to. -/
def unitOfHart (id : Nat) : UnitRef := if id < 256 then .core (coreOfHart id) else .pergola (perOfHart id)

/-- A partition fault of a hart or of a command that it issued (R421, R435). -/
def partitionFault (s : State) (id : Nat) (f : FaultRec) : State :=
  assertHalt (noteFault s (unitOfHart id) f) (hartOf s id).context f.origin f.cause f.engine false

/-- A fault stops a docent hart and its intake only (R422, R498). -/
def docentStop (s : State) (wing : Nat) (cause : BitVec 8) (chain : BitVec 6) (addr : BitVec 48) : State :=
  modHart (modWing s wing fun w => { w with docStopped := true, docCause := cause, docChain := chain, docAddr := addr })
    (docentId wing) fun h => { h with run := .stopped }

/-! ## Taking a trap (R422-R424, R454) and returning from one (R426) -/

/-- The trap registers of one hart (R424 steps 1 to 3). -/
def Hart.enter (h : Hart) (pc : Word) (code : BitVec 8) (info : Word) (late : Bool) : Hart :=
  { h with trappc := pc, trapinfo := info, code := code, ih := true, late := late }

/-- A contained trap on one hart: the registers, then PC := TRAPVEC. It becomes a partition fault where R422 says so. `redeliver` is the
retry of RFT, which a handler may meet (R434). -/
def trapHart (s : State) (id : Nat) (pc : Word) (code : BitVec 8) (info : Word) (late redeliver : Bool) : State :=
  let h := hartOf s id
  if kindOfId id = some .docent then docentStop s (wingOfHart id) code 0 (info.extractLsb' 0 48)
  else if h.trapvec = 0 || (h.ih && !redeliver) then
    partitionFault s id { cause := code, origin := BitVec.ofNat 16 id, engine := 0, info := info, fpc := pc, double := h.ih,
                          novec := h.trapvec == 0 }
  else modHart s id fun h => { h.enter pc code info late with pc := h.trapvec }

/-- What bank `b` receives of a gang's trap (R454): its own fault, or the lowest faulting bank's cause with all ones. -/
def bankFault (own : List (Nat × BitVec 8 × Word)) (b : Nat) : BitVec 8 × Word :=
  match own.find? (fun p => p.1 == b) with
  | some p => p.2
  | none => ((own.head?.map (fun p => p.2.1)).getD 0, 0xFFFFFFFFFFFFFFFF#64)

/-- A contained trap in gang mode, delivered to all eight banks in one step, or to both banks of a pair (R454, R487); `own` lists the faults
by bank, rising. -/
def trapGang (s : State) (pc : Word) (own : List (Nat × BitVec 8 × Word)) : State :=
  let g := curPer s
  let lead := hartOf s (leadHart s)
  let first := own.headD (0, 0, 0)
  if lead.trapvec = 0 || lead.ih then
    partitionFault s (bankId g first.1)
      { cause := first.2.1, origin := BitVec.ofNat 16 (bankId g first.1), engine := 0, info := first.2.2, fpc := pc, double := lead.ih,
        novec := lead.trapvec == 0 }
  else
    let s1 := (allHarts s).foldl
      (fun t id => modHart t id fun h => h.enter pc (bankFault own (bankOfHart id)).1 (bankFault own (bankOfHart id)).2 false) s
    setCtl s1 { ctl s1 with pc := lead.trapvec }

/-- Delivery of a contained trap that names the address `pc` to whoever issued: TAKING AN EXCEPTION. -/
def takeTrap (s : State) (pc : Word) (code : BitVec 8) (info : Word) (late redeliver : Bool) : State :=
  if inGroup s then trapGang s pc ((allHarts s).map fun id => (bankOfHart id, code, info))
  else trapHart s (leadHart s) pc code info late redeliver

/-- The return of RFT (R426 step 3): PC := TRAPPC and IH := 0; in gang mode all eight banks, with the leader's TRAPPC (R454). [DEDUCED, log 75] -/
def returnFromTrap (s : State) : State :=
  let pc := (hartOf s (leadHart s)).trappc
  modHarts (setCtl s { ctl s with pc := pc }) (allHarts s) fun h => { h with ih := false }

end Sys2Proof.Machine
end

