-- ==== Sys2Proof/Machine/Fetch.lean ====
section
/-! DEFINITION. Instruction fetch from the overlays (R171-R174, R346, R381, R456). -/
namespace Sys2Proof.Machine

/-- The overlays: 0 to 63 of Pavilions, 64 + g of Pergolas, 1216 + w of docents (log 15); with their sizes in blocks of 128 bytes. -/
def overlayBlocks (n : Nat) : Nat := if n < 64 then 4096 else 512

def overlayAt (s : State) (n : Nat) : Tbl OvlBlock :=
  if n < 64 then (pavOf s n).overlay else if n < 1216 then (perOf s (n - 64)).overlay else (wingOf s (n - 1216)).overlay

def modOverlay (s : State) (n : Nat) (f : Tbl OvlBlock → Tbl OvlBlock) : State :=
  if n < 64 then modPav s n fun p => { p with overlay := f p.overlay }
  else if n < 1216 then modPer s (n - 64) fun p => { p with overlay := f p.overlay }
  else modWing s (n - 1216) fun w => { w with overlay := f w.overlay }

def overlayExists (n : Nat) : Bool := decide (n < 1224)

/-- The overlay of a hart. [DESIGN CHOICE, log 15] -/
def overlayOfHart (id : Nat) : Nat :=
  if id < 256 then pavOfHart id else if id < 0x8000 then 1216 + wingOfHart id else 64 + perOfHart id

/-- The overlay of the issuer. -/
def curOverlay (s : State) : Nat :=
  match s.cur with
  | .hart id => overlayOfHart id
  | .pergola g => 64 + g
  | .bank g _ => 64 + g
  | _ => 0

/-- A block of an overlay, absent past its end. -/
def blockAt (s : State) (n k : Nat) : OvlBlock := (overlayAt s n).get {} k

/-- All blocks of `[off, off + len)` have landed, within the overlay. -/
def landed (s : State) (n off len : Nat) : Bool :=
  decide (off + len ≤ 128 * overlayBlocks n) &&
  (List.range ((off + len + 127) / 128 - off / 128)).all fun k => (blockAt s n (off / 128 + k)).st == .landed

/-- Parcel-aligned bytes of an overlay as a number; `none` where a block has not landed. The range crosses at most one block end. -/
def readCode (s : State) (n off len : Nat) : Option Nat :=
  if landed s n off len then
    let lo := (blockAt s n (off / 128)).bytes.toNat >>> (8 * (off % 128))
    let take := Nat.min len (128 - off % 128)
    let hi := if take < len then (blockAt s n (off / 128 + 1)).bytes.toNat % 2 ^ (8 * (len - take)) else 0
    some (lo % 2 ^ (8 * take) + hi * 2 ^ (8 * take))
  else none

/-- What a fetch brings: an instruction, the 64 bits of a parcel outside the map (R185), or a block that has not landed (R456). -/
inductive Fetch where
  | instr (i : Instr)
  | illegal (w : Word)
  | absent (off : Word)
  deriving DecidableEq, Repr

/-- The fetch at `pc` from overlay `n`. [DEDUCED, log 72] -/
def fetchAt (s : State) (n : Nat) (pc : Word) : Fetch :=
  match readCode s n pc.toNat 4 with
  | none => .absent pc
  | some lo =>
    if lo % 256 = 0xC0 then .instr (.convoyHeader (decC (BitVec.ofNat 32 lo)))
    else match readCode s n pc.toNat 8 with
      | none => .absent pc
      | some w => match decode (BitVec.ofNat 32 w) (BitVec.ofNat 32 (w >>> 32)) with
        | .ok (i, _) => .instr i
        | .error _ => .illegal (BitVec.ofNat 64 w)

/-- The fetch at the issuer's program counter. -/
def fetched (s : State) : Fetch := fetchAt s (curOverlay s) (curPc s)

/-- The fetch after the 64 bits at the program counter: a copy's follow-on (R186). -/
def fetchFollow (s : State) : Fetch := fetchAt s (curOverlay s) (curPc s + 8)

/-- Some overlay has a block on its way that `sel` takes (R74, R82). -/
def anyPending (s : State) (sel : OvlBlock → Bool) : Bool :=
  let on (o : Tbl OvlBlock) : Bool := o.any fun p => p.2.st == .pending && sel p.2
  s.pavilions.any (on ·.2.overlay) || s.pergolas.any (on ·.2.overlay) || s.wings.any (on ·.2.overlay)

/-- A CFETCH of one of these harts has a block on its way: fetched for it, or joined (R213, R347, R381). -/
def fetchOf (s : State) (n : Nat) (harts : List Nat) : Bool :=
  (overlayAt s n).any fun p => p.2.st == .pending && harts.any (p.2.waiters.contains ·)

/-- Bytes placed into an overlay as landed code at an offset. -/
def placeCode (s : State) (n off : Nat) (bytes : List Byte) : State :=
  modOverlay s n fun o =>
    (List.range ((off + bytes.length + 127) / 128 - off / 128)).foldl (fun t k =>
      let b := off / 128 + k
      let old := t.get {} b
      let v := (List.range bytes.length).foldl (fun v j =>
        if (off + j) / 128 = b then setElemNat 8 ((off + j) % 128) v (bytes.getD j 0).toNat else v) old.bytes.toNat
      t.set {} b { old with st := .landed, bytes := BitVec.ofNat 1024 v }) o

end Sys2Proof.Machine
end

