-- ==== Sys2Proof/Machine/Memory.lean ====
section
/-! DEFINITION. Memory by physical address, the stores on the compute die, and the path of a virtual address to either
(03_memory_spaces.md, R457). -/
namespace Sys2Proof.Machine

/-! ## Physical memory -/

/-- What an unlisted byte of memory reads as (log 1). -/
def memDefault : Byte := 0

/-- The canonical form of a memory. -/
abbrev Memory.wf (m : List Host.Cell) : Bool := Tbl.wf memDefault m

/-- The read of one byte. [DESIGN CHOICE, log 1] -/
def readByte (s : State) (pa : Nat) : Byte := Tbl.get memDefault s.mem pa

/-- The read of `n` consecutive bytes. -/
def readBytes (s : State) (pa n : Nat) : List Byte := Tbl.getSpan memDefault s.mem pa n

/-- A little-endian read (R7). -/
def readNat (s : State) (pa n : Nat) : Nat := leNat (readBytes s pa n)

/-- A line that a write touches triggers the monitors armed on it; one that the device dropped is armed no longer (R225, R226). -/
def Monitor.written (m : Monitor) (pa n : Nat) : Monitor :=
  if !m.lost && decide (m.line < pa + n) && decide (pa < m.line + 128) then { m with triggered := true } else m

def Hart.written (h : Hart) (pa n : Nat) : Hart := { h with monitor := h.monitor.map fun m => m.written pa n }

def triggerMonitors (s : State) (pa n : Nat) : State := { s with harts := s.harts.map fun p => (p.1, p.2.written pa n) }

/-- The write of consecutive bytes: whole granules lose their poison (R473), and monitors are triggered (R225). -/
def writeBytes (s : State) (pa : Nat) (bytes : List Byte) : State :=
  triggerMonitors
    { s with mem := Tbl.setSpan memDefault s.mem pa bytes,
             poison := s.poison.filter fun p => !(decide (pa ≤ 64 * p.1) && decide (64 * p.1 + 64 ≤ pa + bytes.length)) }
    pa bytes.length

/-- A little-endian write (R7). -/
def writeNat (s : State) (pa n v : Nat) : State := writeBytes s pa (leBytes n v)

/-- The first poisoned byte of a range (R473). -/
def firstPoison (s : State) (pa n : Nat) : Option Nat :=
  (s.poison.find? fun p => p.2 && decide (64 * p.1 < pa + n) && decide (pa < 64 * p.1 + 64)).map fun p => Nat.max pa (64 * p.1)

/-- Granules of a range poisoned or cleared (R473). -/
def setPoison (s : State) (pa n : Nat) (b : Bool) : State :=
  { s with poison := (List.range ((pa + n + 63) / 64 - pa / 64)).foldl (fun t k => t.set false (pa / 64 + k) b) s.poison }

/-! ## The physical map (R75-R77) -/

/-- What a physical address names. -/
inductive Region where
  | stack
  | row (coord : Nat)
  | tier
  | dev (off : Nat)
  | host
  | peer (link addr : Nat)
  | none
  deriving DecidableEq, Repr

def region (s : State) (pa : Nat) : Region :=
  if pa < 0x6C00000000 then (if pa < s.intlvSize then .stack else .none)
  else if pa < 0x10000000000 then .none
  else if pa < 0x20000000000 then .row ((pa - 0x10000000000) / 8192)
  else if pa < 0x40000000000 then .none
  else if pa < 0xA0000000000 then .tier
  else if pa < 0xF0000000000 then .none
  else if pa < 0xF0100000000 then .dev (pa - 0xF0000000000)
  else if pa < 0x200000000000 then .none
  else if pa < 0x400000000000 then .host
  else if pa < 0x800000000000 then .none
  else .peer ((pa / 2 ^ 44) % 8) (pa % 2 ^ 44)

/-- The fields of a row coordinate (R76). -/
def coordPer (c : Nat) : Nat := ((c >>> 23) % 16) * 96 + ((c >>> 19) % 16) * 8 + (c >>> 16) % 8
def coordBank (c : Nat) : Nat := (c >>> 13) % 8
def coordRow (c : Nat) : Nat := c % 8192
def coordOk (c : Nat) : Bool := decide (c >>> 23 < 12) && decide ((c >>> 19) % 16 < 12) && decide (c % 8192 < 6144)
/-- RowCoord of R76, from the Pergola's number. -/
def rowCoord (g b r : Nat) : Nat := ((g / 96) <<< 23) + (((g / 8) % 12) <<< 19) + ((g % 8) <<< 16) + (b <<< 13) + r
/-- The physical address of a row (R76). -/
def rowAddr (c : Nat) : Nat := 0x10000000000 + c * 8192

/-- A row-capable octet that start did not retire (R78). -/
def rowCapable (s : State) (g : Nat) : Bool := s.rowcap.getLsbD g && !s.retired.getLsbD g

/-- An octet is leased while it has a lessee (R84, R354). -/
def leased (s : State) (g : Nat) : Bool := (perOf s g).lessee != 0

/-! ## Places -/

/-- Where an access lands once its address is resolved. -/
inductive Place where
  | phys (pa : Nat)
  /-- the A-store of a Pavilion (R67 SPACE 0) -/
  | store (pav off : Nat)
  /-- the striped space of a Wing (R87) -/
  | striped (wing off : Nat)
  /-- device register space (R75) -/
  | dev (off : Nat)
  | peer (link addr : Nat)
  deriving DecidableEq, Repr

/-- The place `n` bytes further. -/
def Place.plus : Place → Nat → Place
  | .phys a, n => .phys (a + n)
  | .store p o, n => .store p (o + n)
  | .striped w o, n => .striped w (o + n)
  | .dev o, n => .dev (o + n)
  | .peer l a, n => .peer l (a + n)

/-- R87: the Pavilion and A-store offset of a striped address. -/
def stripePav (w a : Nat) : Nat := 8 * w + (a >>> 7) % 8
def stripeOff (a : Nat) : Nat := ((a >>> 10) <<< 7) + a % 128

def readStore (s : State) (p off n : Nat) : List Byte := Tbl.getSpan 0 (pavOf s p).astore off n
def writeStore (s : State) (p off : Nat) (bytes : List Byte) : State :=
  modPav s p fun v => { v with astore := Tbl.setSpan 0 v.astore off bytes }

/-- Read of memory or of an A-store; device registers and peers are reached by their own operations. -/
def readPlace (s : State) (p : Place) (n : Nat) : List Byte :=
  match p with
  | .phys pa => readBytes s pa n
  | .store v o => readStore s v o n
  | .striped w a => (List.range n).map fun k => Tbl.get 0 (pavOf s (stripePav w (a + k))).astore (stripeOff (a + k))
  | _ => []

def writePlace (s : State) (p : Place) (bytes : List Byte) : State :=
  match p with
  | .phys pa => writeBytes s pa bytes
  | .store v o => writeStore s v o bytes
  | .striped w a => (List.range bytes.length).foldl
      (fun t k => writeStore t (stripePav w (a + k)) (stripeOff (a + k)) [bytes.getD k 0]) s
  | _ => s

/-- The first poisoned byte of a place's range, as an offset from it. -/
def placePoison (s : State) (p : Place) (n : Nat) : Option Nat :=
  match p with
  | .phys pa => (firstPoison s pa n).map fun a => a - pa
  | _ => none

/-! ## Virtual addresses -/

/-- Whose tables, handle table and windows an address is resolved in (R66-R73, R97). -/
structure AddrCtx where
  context : BitVec 16
  priv : Bool
  ptroot : Word
  hndbase : Word
  hndcount : Word
  catbase : Word
  /-- the Pavilion of SPACE 0, `none` for a unit that has no local window (R67) -/
  pav : Option Nat
  wing : Nat
  deriving DecidableEq, Repr

/-- The address context of a compute or docent hart and of its copy engine. -/
def hartCtx (s : State) (id : Nat) : AddrCtx :=
  let h := hartOf s id
  { context := h.context, priv := h.priv, ptroot := h.ptroot, hndbase := h.hndbase, hndcount := h.hndcount,
    catbase := h.catbase,
    pav := if id < 256 then some (pavOfHart id) else none, wing := wingOfHart id }

/-- The context entry's address context: that of a row transfer port, of a walker or of a save engine (R73, R258, R352). -/
def entryCtx (s : State) (c : BitVec 16) : AddrCtx :=
  let e := s.contexts.get {} c.toNat
  { context := c, priv := e.priv, ptroot := e.ptroot, hndbase := e.hndbase, hndcount := e.hndcount.setWidth 64,
    catbase := e.catbase, pav := none, wing := 0 }

/-- How an access may use the handle window (R98, R457 step 3). -/
inductive HandleUse where
  | none
  | published
  | hidden
  | refused
  deriving DecidableEq, Repr

/-- What an access needs (R71, R457). -/
structure Req where
  rd : Bool := false
  wr : Bool := false
  ex : Bool := false
  handle : HandleUse := .none
  /-- the access may use the local window -/
  window : Bool := true
  /-- the unit stands in the A-store's column of R86; one that does not meets PROT there -/
  astore : Bool := true
  /-- a row transfer port: any encrypted page is refused (R489) -/
  port : Bool := false
  /-- the access may go to a peer (R402) -/
  peer : Bool := true
  /-- the device's own access: device-owned lines are open to it -/
  device : Bool := false
  align : Nat := 1
  deriving DecidableEq, Repr

/-- The row transfer port's accesses (R258). -/
def portReq (wr : Bool) : Req := { rd := !wr, wr := wr, window := false, port := true, peer := false, align := 128 }

/-- A resolved address: the place, the table entry whose A and D bits the access sets (R72), and the translation to hold (R73). -/
structure Resolved where
  place : Place
  entryAt : Option (Nat × Nat) := none
  tlb : Option TlbEntry := none
  deriving DecidableEq, Repr

/-- What an address check answers: a cause and its TRAPINFO, or a value. -/
abbrev Chk (α : Type) := Except (BitVec 8 × Word) α

/-- Index of a virtual address at a table level (R69). -/
def levelIndex (va level : Nat) : Nat :=
  match level with
  | 0 => (va >>> 43) % 2048
  | 1 => (va >>> 32) % 2048
  | 2 => (va >>> 21) % 2048
  | _ => (va >>> 16) % 32

/-- PFN of a table entry as an address (R70). -/
def entryBase (e : Nat) : Nat := ((e >>> 16) % 2 ^ 40) * 256

/-- The entry is valid, its reserved bits are 0, and its address has the alignment `al` (R70). -/
def entryOk (e al : Nat) : Bool :=
  decide (e % 2 = 1) && decide (e >>> 56 = 0) && decide ((e >>> 9) % 128 = 0) && decide (entryBase e % al = 0)

/-- Memory that a walk may read: stack memory, the second tier and the host window (a model's reading, log 13). -/
def tableReadable (s : State) (pa : Nat) : Bool :=
  match region s pa with
  | .stack => true
  | .tier => true
  | .host => true
  | .row c => coordOk c && rowCapable s (coordPer c) && !leased s (coordPer c)
  | _ => false

/-- The walk of R69 and R70 from a table at `level = 4 - left`: the leaf, where it lies, and whether it maps 2 MiB. [DESIGN CHOICE, log 13] -/
def walk (s : State) (va : Nat) : Nat → Nat → Except (BitVec 8) (Nat × Nat × Bool)
  | 0, _ => .error Cause.xlate
  | left + 1, table =>
    let level := 3 - left
    let at' := table + 8 * levelIndex va level
    if !tableReadable s at' then .error Cause.xlate
    else if (firstPoison s at' 8).isSome then .error Cause.ue
    else
      let e := readNat s at' 8
      let leaf := e.testBit 1
      if level = 3 then (if leaf && entryOk e 65536 then .ok (e, at', false) else .error Cause.xlate)
      else if leaf then
        (if level = 2 && entryOk e (2 ^ 21) then .ok (e, at', true) else .error Cause.xlate)
      else if entryOk e (if level = 2 then 256 else 16384) then walk s va left (entryBase e)
      else .error Cause.xlate

/-- A held translation of a page (R73); one without D does not serve a write (R72). [DESIGN CHOICE, log 13] -/
def tlbFind (s : State) (c : BitVec 16) (va : Nat) (wr : Bool) : Option TlbEntry :=
  s.tlb.find? fun t =>
    t.context == c && (if t.large then t.page / 32 == va / 2 ^ 21 else t.page == va / 2 ^ 16) && (!wr || t.entry.getLsbD 6)

/-- Device-owned lines: 64-byte records, objects and blocks (R57, R339, R352). [DEDUCED, log 19] -/
def ownedAt (s : State) (pa : Nat) : Bool := s.owned.get .none (pa / 64) != .none

/-- Steps 6 and 7 of R457 on a physical target; the window of an octet that is not row-capable, a retired one too, is PROT (R80). [DESIGN CHOICE, log 13] -/
def physTarget (s : State) (c : AddrCtx) (r : Req) (enc : Bool) (pa : Nat) (info : Word) : Chk Place :=
  if r.port && enc then .error (Cause.encregion, info)
  else match region s pa with
  | .none => .error (Cause.xlate, info)
  | .row coord =>
    if enc then .error (Cause.encregion, info)
    else if !coordOk coord || decide (6136 ≤ coordRow coord) || !rowCapable s (coordPer coord) then .error (Cause.prot, info)
    else if leased s (coordPer coord) then .error (Cause.rowlease, info)
    else if r.wr && !r.device && ownedAt s pa then .error (Cause.prot, info)
    else .ok (.phys pa)
  | .dev off => if c.priv then .ok (.dev off) else .error (Cause.prot, info)
  | .peer l a => if r.peer then .ok (.peer l a) else .error (Cause.prot, info)
  | _ => if r.wr && !r.device && ownedAt s pa then .error (Cause.prot, info) else .ok (.phys pa)

/-- An ordinary address (R66 kind 00): steps 4 to 7 of R457; PTROOT's low bits are used as written (R69). [DESIGN CHOICE, log 13] -/
def resolveOrdinary (s : State) (c : AddrCtx) (r : Req) (va : Nat) (info : Word) : Chk Resolved := do
  let hit := tlbFind s c.context va r.wr
  let got ← match hit with
    | some t => .ok (t.entry.toNat, 0, t.large)
    | none => (walk s va 4 (c.ptroot.toNat % 2 ^ 48)).mapError fun e => (e, info)
  let e := got.1
  if (r.rd && !e.testBit 2) || (r.wr && !e.testBit 3) || (r.ex && !e.testBit 4) then .error (Cause.prot, info)
  else
    let off := if got.2.2 then va % 2 ^ 21 else va % 2 ^ 16
    let place ← physTarget s c r (e.testBit 8) (entryBase e + off) info
    let bits := if r.wr then 0x60 else 0x20
    .ok { place := place,
          entryAt := if hit.isSome then none else some (got.2.1, bits),
          tlb := if hit.isSome then none else
            some { context := c.context, page := va / 2 ^ 16, entry := BitVec.ofNat 64 (e ||| bits), large := got.2.2 } }

/-- The effects of a translation whose access is performed: A, then D, and the held entry (R72, R73). [DESIGN CHOICE, log 13] -/
def commit (s : State) (r : Resolved) : State :=
  let s1 := match r.entryAt with
    | none => s
    | some (at', bits) =>
      let old := readByte s at'
      if old ||| BitVec.ofNat 8 bits = old then s else writeBytes s at' [old ||| BitVec.ofNat 8 bits]
  match r.tlb with
  | none => s1
  | some t => { s1 with tlb := t :: s1.tlb.filter fun u => !(u.context == t.context && u.page == t.page) }

/-- A handle's entry (R97). -/
structure Handle where
  sideA : Nat
  sideB : Nat
  length : Nat
  pubs : Nat
  stale : Bool
  opened : Bool
  side : Bool
  valid : Bool
  deriving DecidableEq, Repr

def Handle.ofNat (n : Nat) : Handle :=
  { sideB := n >>> 192, sideA := (n >>> 128) % 2 ^ 64, length := (n >>> 96) % 2 ^ 32, pubs := (n >>> 8) % 256, stale := n.testBit 4,
    opened := n.testBit 3, side := n.testBit 2, valid := n.testBit 0 }

/-- The first doubleword of an entry, which holds every field that SHADOW and PUBLISH change (R97). -/
def Handle.low (h : Handle) : Nat :=
  h.pubs * 256 + (if h.stale then 16 else 0) + (if h.opened then 8 else 0) + (if h.side then 4 else 0) + (if h.valid then 1 else 0)

/-- Where a handle's entry lies, read as a device-scope load (R97); `info` is what a fault reports. [DESIGN CHOICE, log 68] -/
def handleEntry (s : State) (c : AddrCtx) (r : Req) (number : Nat) (info : Word) : Chk (Handle × Resolved) := do
  if c.hndcount.toNat ≤ number then .error (Cause.xlate, info)
  else
    let va := (c.hndbase.toNat + 32 * number) % 2 ^ 64
    if 2 ^ 54 ≤ va then .error (Cause.xlate, info)
    else
      let res ← resolveOrdinary s c r va info
      match res.place with
      | .phys pa =>
        if (firstPoison s pa 32).isSome then .error (Cause.ue, info)
        else
          let h := Handle.ofNat (readNat s pa 32)
          if h.valid then .ok (h, res) else .error (Cause.xlate, info)
      | _ => .error (Cause.prot, info)

/-! ## What a program's store may not touch (R57, R93, R97, R339, R352) -/

/-- A read of the device in a context's own tables that answers nothing on a fault. -/
def peek (s : State) (c : AddrCtx) (va n : Nat) : Option Nat :=
  if 2 ^ 54 ≤ va then none
  else match resolveOrdinary s c { rd := true, device := true } va 0 with
    | .ok r => (match r.place with
      | .phys pa => some (readNat s pa n)
      | _ => none)
    | .error _ => none

/-- A 128-byte line of the context that holds a live handle entry (R97). [DEDUCED, log 19] -/
def handleLine (s : State) (c : AddrCtx) (line : Nat) : Bool :=
  let base := c.hndbase.toNat
  (List.range 5).any fun k =>
    let i := (line - base) / 32 + k
    let at' := base + 32 * i
    decide (i < c.hndcount.toNat) && decide (at' < line + 128) && decide (line < at' + 32) &&
      ((peek s c at' 1).map fun v => v.testBit 0).getD false

/-- The counts, the map table and the block states of the context's Catalogue (R93): ranges of addresses. -/
def catalogueAreas (s : State) (c : AddrCtx) : List (Nat × Nat) :=
  if c.catbase = 0 then []
  else match peek s c c.catbase.toNat 64 with
    | none => []
    | some d =>
      if d % 4 = 0 || d % 4 = 3 then []
      else [(c.catbase.toNat + 4, 8), ((d >>> 256) % 2 ^ 64, 16 * 2 ^ ((d >>> 2) % 64)), ((d >>> 192) % 2 ^ 64, 8 * ((d >>> 96) % 2 ^ 32))]

/-- The parts of a context's range `[lo, lo + len)` that lie within `[pa, pa + n)` of memory, by page: physical address, virtual address, length.
A store reaches them through any page that maps that memory, in any context. -/
def aliases (s : State) (c : AddrCtx) (lo len pa n : Nat) : List (Nat × Nat × Nat) :=
  if len = 0 then []
  else (List.range ((lo + len - 1) / 65536 + 1 - lo / 65536)).filterMap fun k =>
    let page := (lo / 65536 + k) * 65536
    if 2 ^ 54 ≤ page then none
    else match resolveOrdinary s c { rd := true, device := true } page 0 with
      | .error _ => none
      | .ok r => (match r.place with
        | .phys b =>
          let x := Nat.max pa (b + (Nat.max lo page - page))
          let y := Nat.min (pa + n) (b + (Nat.min (lo + len) (page + 65536) - page))
          if x < y then some (x, page + (x - b), y - x) else none
        | _ => none)

/-- The first byte of `[pa, pa + n)` in the line of a live handle entry of the context (R97). [DEDUCED, log 19] -/
def handleGuard (s : State) (c : AddrCtx) (pa n : Nat) : Option Nat :=
  let lo := c.hndbase.toNat / 128 * 128
  if c.hndcount = 0 then none
  else (aliases s c lo (c.hndbase.toNat + 32 * c.hndcount.toNat - lo) pa n).findSome? fun q =>
    ((List.range ((q.2.1 + q.2.2 + 127) / 128 - q.2.1 / 128)).find? fun k => handleLine s c ((q.2.1 / 128 + k) * 128)).map fun k =>
      q.1 + (Nat.max q.2.1 ((q.2.1 / 128 + k) * 128) - q.2.1)

/-- The first byte of `[pa, pa + n)` in what a context's Catalogue keeps (R93). [DEDUCED, log 19] -/
def catalogueGuard (s : State) (c : AddrCtx) (pa n : Nat) : Option Nat :=
  (catalogueAreas s c).findSome? fun q => ((aliases s c q.1 q.2 pa n).head?).map (·.1)

/-- The tables in force: those of every valid context entry, and those that the registers of a hart which runs name (R93, R97, R353). [DEDUCED, log 19] -/
def tablesInForce (s : State) : List AddrCtx :=
  ((s.contexts.filter fun e => e.2.v).map fun e => entryCtx s (BitVec.ofNat 16 e.1)) ++
  ((s.harts.filter fun h => decide (h.1 < 0x8000) && h.2.run != .idle && (h.2.hndcount != 0 || h.2.catbase != 0)).map fun h =>
    { hartCtx s h.1 with pav := none, wing := 0 })

/-- The first byte of `[pa, pa + n)` that a table of the issuer's context, or any other in force, occupies: a store to it raises PROT (R93, R97).
[DEDUCED, log 19] -/
def storeGuard (s : State) (c : AddrCtx) (pa n : Nat) : Option Nat :=
  (c :: (tablesInForce s).filter (· != c)).eraseDups.findSome? fun k => (handleGuard s k pa n).orElse fun _ => catalogueGuard s k pa n

/-- A program's store to memory touches no table of the device. -/
def guardStore (s : State) (c : AddrCtx) (r : Req) (p : Place) (n : Nat) (info : Word) : Chk Unit :=
  match p with
  | .phys pa => if r.wr && !r.device && (storeGuard s c pa n).isSome then .error (Cause.prot, info) else .ok ()
  | _ => .ok ()

/-- The first device-owned byte of a physical range. [DEDUCED, log 19] -/
def ownedIn (s : State) (pa n : Nat) : Option Nat :=
  (s.owned.find? fun p => decide (64 * p.1 < pa + n) && decide (pa < 64 * p.1 + 64)).map fun p => Nat.max pa (64 * p.1)

/-- Step 1 of R457: bits 63:56 nonzero, or a window field out of range (R66-R68). -/
def addrFault (a : Nat) : Bool :=
  decide (2 ^ 56 ≤ a) ||
  (a / 2 ^ 54 == 1 && (decide (2 ≤ (a >>> 50) % 16) || (a >>> 26) % 2 ^ 24 != 0 || ((a >>> 50) % 16 == 0 && decide (2 ^ 23 ≤ a % 2 ^ 26)))) ||
  (a / 2 ^ 55 == 1 && (a >>> 52) % 8 != 0)

/-- R457 for an access of up to the alignment of its address: every step in order. The list holds the translations that the access
commits. `info` is the effective address. [DEDUCED, log 61] -/
def resolve (s : State) (c : AddrCtx) (r : Req) (va : Word) : Chk (Place × List Resolved) := do
  let a := va.toNat
  if addrFault a then .error (Cause.xlate, va)
  else if a % r.align ≠ 0 then .error (Cause.misalign, va)
  else if a / 2 ^ 54 = 0 then do
    let x ← resolveOrdinary s c r a va
    guardStore s c r x.place r.align va
    .ok (x.place, [x])
  else if a / 2 ^ 54 = 1 then
    match c.pav with
    | none => .error (Cause.xlate, va)
    | some p =>
      if !r.window then .error (Cause.xlate, va)
      else if !r.astore then .error (Cause.prot, va)
      else .ok (if (a >>> 50) % 16 = 0 then .store p (a % 2 ^ 26) else .striped c.wing (a % 2 ^ 26), [])
  else
    match r.handle with
    | .none => .error (Cause.xlate, va)
    | use => do
      let hx ← handleEntry s c { rd := true, device := true } ((a >>> 32) % 2 ^ 20) va
      let h := hx.1
      if h.length < a % 2 ^ 32 + r.align then .error (Cause.xlate, va)
      else if use = .refused then .error (Cause.prot, va)
      else do
        let sideB := if use = .hidden then !h.side else h.side
        let target := ((if sideB then h.sideB else h.sideA) + a % 2 ^ 32) % 2 ^ 64
        if 2 ^ 54 ≤ target then .error (Cause.xlate, va)
        else do
          let x ← resolveOrdinary s c r target va
          guardStore s c r x.place r.align va
          .ok (x.place, [hx.2, x])

/-- The physical address that a reported address stands for, as the error log gives it; 0 where it has none (R491). [DEDUCED, log 39] -/
def physOf (s : State) (c : AddrCtx) (va : Word) : Word :=
  match resolve s c { rd := true, device := true } va with
  | .ok (.phys pa, _) => BitVec.ofNat 64 pa
  | _ => 0

/-- The tables that a hart's code and a bank's accesses go through: a bank hart has no PTROOT and uses its context's entry. -/
def codeCtx (s : State) (id : Nat) : AddrCtx := if id < 0x8000 then hartCtx s id else entryCtx s (hartOf s id).context

/-- A UE delivered to a hart in `s`, and logged in `t`: a row's coordinate and segment as it reports them, else the physical address (R491). [DEDUCED, log 39] -/
def logUe (s t : State) (id : Nat) (info : Word) (row : Bool) : State :=
  logError t 0x07 (if row then info else physOf s (codeCtx s id) info) (hartOf t id).context (BitVec.ofNat 16 id) Cause.ue 0

/-- A check lifted to an instruction. -/
def lift {α : Type} (c : Chk α) : M α :=
  match c with
  | .ok a => .ok a
  | .error e => .error (.trap e.1 e.2)

/-- The translations of an access that is performed. -/
def commitAll (s : State) (l : List Resolved) : State := l.foldl commit s

/-- A range in pieces, each in one place: its pieces, and the translations it commits. -/
structure RangeMap where
  pieces : List (Place × Nat) := []
  commits : List Resolved := []
  deriving DecidableEq, Repr

/-- A piece of a range that a program writes touches nothing that the device owns. -/
def rangeGuard (s : State) (c : AddrCtx) (r : Req) (p : Place) (lo n : Nat) : Chk Unit :=
  if !r.wr || r.device then .ok ()
  else match p with
    | .phys pa => (match (storeGuard s c pa n).orElse fun _ => ownedIn s pa n with
      | some x => .error (Cause.prot, BitVec.ofNat 64 (lo + (x - pa)))
      | none => .ok ())
    | _ => .ok ()

/-- A piece of a range in the handle window ends within its handle; past it, the first byte at LENGTH reports XLATE (R97, R457). -/
def handleSpan (s : State) (c : AddrCtx) (lo n : Nat) : Chk Unit :=
  if lo / 2 ^ 55 ≠ 1 then .ok ()
  else do
    let hx ← handleEntry s c { rd := true, device := true } ((lo >>> 32) % 2 ^ 20) (BitVec.ofNat 64 lo)
    if hx.1.length < lo % 2 ^ 32 + n then .error (Cause.xlate, BitVec.ofNat 64 (lo - lo % 2 ^ 32 + hx.1.length)) else .ok ()

/-- The pieces of `[va, va + len)`, cut at 64 KiB (for the handle window at the 128 bytes of its sides' alignment); a failing byte reports
its own address (R457). The local window is one piece: past its space the range raises PROT (R325). -/
def resolveRange (s : State) (c : AddrCtx) (r : Req) (va : Word) (len : Nat) : Chk RangeMap :=
  let a := va.toNat
  let unit := if a / 2 ^ 55 = 1 then 128 else 65536
  if len = 0 then .ok {}
  else if addrFault a then .error (Cause.xlate, va)
  else if a % r.align ≠ 0 then .error (Cause.misalign, va)
  else if a / 2 ^ 54 = 1 then do
    let x ← resolve s c r va
    let top := if (a >>> 50) % 16 = 0 then 2 ^ 23 else 2 ^ 26
    if top < a % 2 ^ 26 + len then .error (Cause.prot, BitVec.ofNat 64 (a - a % 2 ^ 26 + top))
    else .ok { pieces := [(x.1, len)] }
  else
    (List.range ((a + len + unit - 1) / unit - a / unit)).foldlM (init := ({} : RangeMap)) fun m k => do
      let lo := if k = 0 then a else (a / unit + k) * unit
      let hi := Nat.min (a + len) ((a / unit + k + 1) * unit)
      let x ← resolve s c { r with align := 1 } (BitVec.ofNat 64 lo)
      handleSpan s c lo (hi - lo)
      rangeGuard s c r x.1 lo (hi - lo)
      .ok { pieces := m.pieces ++ [(x.1, hi - lo)], commits := m.commits ++ x.2 }

/-- The place of byte `off` of a mapped range. -/
def RangeMap.at (m : RangeMap) (off : Nat) : Option Place :=
  let rec go : List (Place × Nat) → Nat → Option Place
    | [], _ => none
    | (p, n) :: t, o => if o < n then some (p.plus o) else go t (o - n)
  go m.pieces off

/-- The bytes of a mapped range from `off`, up to the ends of its pieces. -/
def readRange (s : State) (m : RangeMap) (off n : Nat) : List Byte :=
  let rec go : List (Place × Nat) → Nat → Nat → List Byte
    | [], _, _ => []
    | (p, k) :: t, o, n =>
      if n = 0 then [] else if o < k then readPlace s (p.plus o) (Nat.min n (k - o)) ++ go t 0 (n - Nat.min n (k - o))
      else go t (o - k) n
  go m.pieces off n

/-- Bytes written into a mapped range from `off`. -/
def writeRange (s : State) (m : RangeMap) (off : Nat) (bytes : List Byte) : State :=
  let rec go : State → List (Place × Nat) → Nat → List Byte → State
    | s, [], _, _ => s
    | s, (p, k) :: t, o, bs =>
      if bs.isEmpty then s
      else if o < k then go (writePlace s (p.plus o) (bs.take (k - o))) t 0 (bs.drop (k - o))
      else go s t (o - k) bs
  go s m.pieces off bytes

/-- The first poisoned byte of `n` bytes of a mapped range from `off`, as an offset into the range. -/
def rangePoison (s : State) (m : RangeMap) (off n : Nat) : Option Nat :=
  let rec go : List (Place × Nat) → Nat → Nat → Nat → Option Nat
    | [], _, _, _ => none
    | (p, k) :: t, o, n, at' =>
      if n = 0 then none
      else if o < k then
        match placePoison s (p.plus o) (Nat.min n (k - o)) with
        | some x => some (at' + x)
        | none => go t 0 (n - Nat.min n (k - o)) (at' + Nat.min n (k - o))
      else go t (o - k) n at'
  go m.pieces off n off

end Sys2Proof.Machine
end

