-- ==== Sys2Proof/Machine/PartFault.lean ====
section
/-! DEFINITION. Partition faults and the header of a stop record (R421, R435, R438, R445, R477): where a fault is recorded, and the faults of
units that run no step of their own. -/
namespace Sys2Proof.Machine

def b2n (b : Bool) : Nat := if b then 1 else 0

/-- The places where spill records and frames may lie (R307, R355). -/
def deviceArea (s : State) (pa n : Nat) : Bool :=
  decide (pa + n ≤ s.intlvSize) || (decide (0x40000000000 ≤ pa) && decide (pa + n ≤ 0xA0000000000))

/-! ## The header (R438) -/

structure Header where
  info : Word := 0
  fpc : Word := 0
  launch : Word
  scope : Word
  step : Nat
  seq : BitVec 12 := 0
  origin : BitVec 16 := 0
  context : BitVec 16
  cause : BitVec 8 := 0
  engine : BitVec 3 := 7
  prio : Nat
  kind : Nat
  double : Bool := false
  novec : Bool := false
  ended : Bool := false
  deriving DecidableEq, Repr

def Header.toNat (h : Header) : Nat :=
  0x5A175701 * 2 ^ 32 + b2n h.ended * 2 ^ 154 + b2n h.novec * 2 ^ 155 + b2n h.double * 2 ^ 156 + h.kind * 2 ^ 157 + h.prio * 2 ^ 159 +
    h.engine.toNat * 2 ^ 161 + h.cause.toNat * 2 ^ 164 + h.context.toNat * 2 ^ 172 + h.origin.toNat * 2 ^ 188 + h.seq.toNat * 2 ^ 204 +
    h.step * 2 ^ 216 + h.scope.toNat * 2 ^ 256 + h.launch.toNat * 2 ^ 320 + h.fpc.toNat * 2 ^ 384 + h.info.toNat * 2 ^ 448

/-- MAGIC and KIND of a header as they stand in memory. -/
def headerMagic (n : Nat) : Nat := bits n 32 32
def headerKind (n : Nat) : Nat := bits n 157 2
def headerEnded (n : Nat) : Bool := n.testBit 154

/-- The header of a step that a halt stops, or that is suspended (KIND 00, `halt = none`). -/
def stopHeader (i : StepInfo) (halt : Option HaltStat) (f : Option FaultRec) : Header :=
  let h : Header := { launch := i.launch, scope := i.scope, step := i.step, context := i.context, prio := i.prio, kind := 0 }
  match halt with
  | none => h
  | some st => match f with
    | some r => { h with info := r.info, fpc := r.fpc, seq := st.seq, origin := r.origin, cause := r.cause, engine := r.engine, kind := 2,
                         double := r.double, novec := r.novec }
    | none => { h with info := if st.origin == 0xFFFF then (if st.pwr then 1 else 2) else 0, seq := st.seq, origin := st.origin,
                       cause := Cause.halted, engine := 7, kind := 1 }

/-! ## Where a fault is recorded (R445) -/

/-- A header of KIND 10 written at `at'`, where frames may lie (R355). -/
def putFault (s : State) (i : StepInfo) (at' : Nat) (f : FaultRec) : State :=
  if deviceArea s at' 64 then writeNat s at' 64 (stopHeader i (some (haltOf s i.context)) (some f)).toNat else s

/-- A partition fault at a unit: kept for the stop record to come, or written into the record of a step that has stopped, which then has
KIND 10 (R445). [DEDUCED, log 24] [DESIGN CHOICE, log 78] -/
def recordFault (s : State) (unit : UnitRef) (f : FaultRec) : State :=
  match unit with
  | .core c => (match (coreOf s c).step with
    | some i =>
      if (coreOf s c).phase = .stopped then
        putFault (modCore s c fun k => { k with step := some { i with kind := 2 } }) i ((coreOf s c).frame + 0x8000) f
      else noteFault s unit f
    | none => s)
  | .pergola g => (match (perOf s g).step with
    | some i =>
      if (perOf s g).phase = .stopped then
        putFault (modPer s g fun p => { p with step := some { i with kind := 2 } }) i (perOf s g).frame f
      else noteFault s unit f
    | none => s)

/-- A partition fault of a unit's engine: the context's halt line, and its record. -/
def unitFault (s : State) (c : BitVec 16) (unit : UnitRef) (f : FaultRec) : State :=
  recordFault (assertHalt s c f.origin f.cause f.engine false) unit f

/-- As `unitFault` for a step that core `k` holds suspended: the record is its frame's (R438, R477). [DEDUCED, log 58] -/
def savedFault (s : State) (k : Nat) (u : Suspended) (f : FaultRec) : State :=
  let s1 := assertHalt s u.info.context f.origin f.cause f.engine false
  putFault (modCore s1 k fun q => { q with suspended := q.suspended.map fun v => if v = u then { u with info := { u.info with kind := 2 } } else v })
    u.info (u.frame + 0x8000) f

/-- The units at which a step of a context stands, cores before Pergolas, that have no fault of their own on record. -/
def faultlessUnits (s : State) (c : BitVec 16) : List UnitRef :=
  let clear (i : Option StepInfo) (p : Phase) (f : Option FaultRec) : Bool := match i with
    | some j => j.context == c && (if p = .stopped then j.kind != 2 else f.isNone)
    | none => false
  ((s.cores.filter fun k => clear k.2.step k.2.phase k.2.fault).map fun k => UnitRef.core k.1) ++
    (s.pergolas.filter fun p => clear p.2.step p.2.phase p.2.fault).map fun p => UnitRef.pergola p.1

/-- A partition fault, or a second HALT, that no step of the context has met: the first step of the context without a fault of its own has
the record (R438, R445, R477). [DESIGN CHOICE, log 78] -/
def contextFault (s : State) (c : BitVec 16) (f : FaultRec) : State :=
  let s1 := assertHalt s c f.origin f.cause f.engine false
  match (faultlessUnits s1 c).head? with
  | some u => recordFault s1 u f
  | none => s1

/-! ## Poison that the device meets (R477) -/

/-- The partition fault UE of an engine of unit `id`, where `info` names the data. -/
def ueFault (id : BitVec 16) (engine : BitVec 3) (info : Word) : FaultRec :=
  { cause := Cause.ue, origin := id, engine := engine, info := info, fpc := 0 }

/-- The log entry of a UE that the device delivers (R491). [DEDUCED, log 39] -/
def logPoison (s : State) (pa : Nat) (c : BitVec 16) (id : BitVec 16) : State := logError s 0x07 (BitVec.ofNat 64 pa) c id Cause.ue 0

/-- Poison in a block or scope record that a walker reads is a partition fault UE. [DEDUCED, log 39] [DEDUCED, log 58] -/
def walkerPoison (s : State) (c : BitVec 16) (hart : Nat) (info : Word) : State :=
  contextFault (logPoison s (physOf s (entryCtx s c) info).toNat c (BitVec.ofNat 16 hart)) c (ueFault (BitVec.ofNat 16 hart) 7 info)

/-- Poison that the device meets for a context in its own accesses to scope records and spill records, on behalf of no hart.
[DEDUCED, log 58] -/
def devicePoison (s : State) (c : BitVec 16) (engine : BitVec 3) (pa : Nat) (info : Word) : State :=
  contextFault (logPoison s pa c 0xFFFF) c (ueFault 0xFFFF engine info)

end Sys2Proof.Machine
end

