-- ==== Sys2Proof/Machine/Scope.lean ====
section
/-! DEFINITION. Cancel scope records, their counts and quiescence (R56-R64), barrier objects (R339-R341), and the ownership entries and spill
records of slots (R288, R307-R309), all as the device keeps them in memory. -/
namespace Sys2Proof.Machine

/-! ## The device's own reach to a context's memory -/

/-- A device access to an ordinary address of a context, by R457: the physical address, and the translation it commits. One that writes reads
first, an atomic operation on a record, an object or a descriptor, and needs both permissions (R71, R94, R340). A record, object, descriptor
or block named at a window address is XLATE for every hart. [DEDUCED, log 79] -/
def deviceAddr (s : State) (c : AddrCtx) (va : Nat) (wr : Bool) (align : Nat) : Chk (Nat × Resolved) :=
  if addrFault va then .error (Cause.xlate, BitVec.ofNat 64 va)
  else if va % align ≠ 0 then .error (Cause.misalign, BitVec.ofNat 64 va)
  else if 2 ^ 54 ≤ va then .error (Cause.xlate, BitVec.ofNat 64 va)
  else do
    let r ← resolveOrdinary s c { rd := true, wr := wr, device := true, peer := false } va (BitVec.ofNat 64 va)
    match r.place with
    | .phys pa => .ok (pa, r)
    | _ => .error (Cause.prot, BitVec.ofNat 64 va)

/-- The number in `n` bytes at a context's address, read by the device: a missing permission or poison is its cause. -/
def deviceRead (s : State) (c : AddrCtx) (va n align : Nat) : Chk (Nat × Nat) := do
  let x ← deviceAddr s c va false align
  if (firstPoison s x.1 n).isSome then .error (Cause.ue, BitVec.ofNat 64 va) else .ok (x.1, readNat s x.1 n)

/-- The device has read at a context's address: A is set (R72). -/
def deviceTouch (s : State) (c : AddrCtx) (va : Nat) : State :=
  match deviceAddr s c va false 1 with
  | .ok x => commit s x.2
  | .error _ => s

/-! ## Scope records (R59) -/

/-- A scope record's number at a physical address. -/
def recordAt (s : State) (pa : Nat) : Nat := readNat s pa 64

def recState (r : Nat) : Nat := bits r 0 2
def recDepth (r : Nat) : Nat := bits r 4 4
def recContext (r : Nat) : Nat := bits r 16 16
def recId (r : Nat) : Nat := bits r 32 32
def recParent (r : Nat) : Nat := bits r 64 56
def recLive (r : Nat) : Nat := bits r 288 32

/-- A record's data are poisoned (R473). -/
def recordLost (s : State) (pa : Nat) : Bool := (firstPoison s pa 64).isSome

/-- A record's fields changed in memory; one whose data are lost stays as it is. [DEDUCED, log 58] -/
def modRecord (s : State) (pa : Nat) (f : Nat → Nat) : State := if recordLost s pa then s else writeNat s pa 64 (f (recordAt s pa))

/-- The device has read a scope record of a context, for which poison is a partition fault UE (R477). [DEDUCED, log 58] -/
def metRecord (s : State) (c : BitVec 16) (pa : Nat) (va : Word) : State := if recordLost s pa then devicePoison s c 7 pa va else s

/-- A count of a record raised (R59): KILLSTEPS, KILLHARTS, ROWSDROP, SLOTSDROP. -/
def countRecord (s : State) (pa lo w n : Nat) : State :=
  if n = 0 then s else modRecord s pa fun r => setBits r lo w (bits r lo w + n)

def addKillSteps (s : State) (pa n : Nat) : State := countRecord s pa 320 32 n
def addKillHarts (s : State) (pa n : Nat) : State := countRecord s pa 352 32 n
def addRowsDrop (s : State) (pa n : Nat) : State := countRecord s pa 400 16 n
def addSlotsDrop (s : State) (pa n : Nat) : State := countRecord s pa 416 16 n

/-- A line becomes device-owned, or free (R57, R339, R352). -/
def setOwned (s : State) (pa : Nat) (o : Owned) : State := { s with owned := s.owned.set .none (pa / 64) o }

/-- The records that the device knows as live or cancelling. One whose data are lost cannot be told for any context's. [DEDUCED, log 58] -/
def knownScopes (s : State) (c : BitVec 16) : List Nat :=
  ((s.owned.filter fun p => p.2 == .scope).map fun p => 64 * p.1).filter fun pa => !recordLost s pa && recContext (recordAt s pa) == c.toNat

/-- The physical addresses of a record and its ancestors, up to depth 16 (R56). -/
def ancestry (s : State) (c : AddrCtx) : Nat → Nat → List Nat
  | 0, _ => []
  | f + 1, pa =>
    let p := recParent (recordAt s pa)
    pa :: (if recordLost s pa || p = 0 then [] else match deviceAddr s c p false 64 with
      | .ok q => ancestry s c f q.1
      | .error _ => [])

/-- `pa` is `target` or a descendant of it (R57). -/
def inSubtree (s : State) (c : AddrCtx) (pa target : Nat) : Bool := (ancestry s c 17 pa).contains target

/-- As `inSubtree` for EXIT, which reads the records of a chain and reports a fault in reading one (R55). -/
def chainCheck (s : State) (c : AddrCtx) (target : Nat) : Nat → Nat → Chk Bool
  | 0, _ => .ok false
  | f + 1, va => do
    let x ← deviceRead s c va 64 64
    if x.1 = target then .ok true
    else if recParent x.2 = 0 then .ok false
    else chainCheck s c target f (recParent x.2)

/-- The reads of `chainCheck` have been performed: A is set (R72). -/
def chainTouch (c : AddrCtx) (target : Nat) : Nat → State → Nat → State
  | 0, s, _ => s
  | f + 1, s, va => match deviceAddr s c va false 64 with
    | .error _ => s
    | .ok x => if x.1 = target || recParent (recordAt s x.1) = 0 then commit s x.2 else chainTouch c target f (commit s x.2) (recParent (recordAt s x.1))

/-- Every known cancelling record whose subtree has no live member reads quiesced, and its line is free (R57, R61). -/
def quiesce (s : State) (c : BitVec 16) : State :=
  let a := entryCtx s c
  let known := knownScopes s c
  let idle := known.filter fun pa => recState (recordAt s pa) == 1 &&
    known.all fun q => recLive (recordAt s q) == 0 || !inSubtree s a q pa
  idle.foldl (fun t pa => setOwned (modRecord t pa fun r => setBits r 0 2 2) pa .none) s

/-- A record and its ancestors are device-owned while they live (R57). -/
def ownScopes (s : State) (c : AddrCtx) (pa : Nat) : State :=
  (ancestry s c 17 pa).foldl (fun t q => if recState (recordAt t q) < 2 then setOwned t q .scope else t) s

/-- Members of a scope enter it: LIVE rises (R59). [DEDUCED, log 57] -/
def enterScope (s : State) (c : BitVec 16) (va : Word) (n : Nat) : State :=
  match deviceAddr s (entryCtx s c) va.toNat false 64 with
  | .ok x => metRecord (modRecord s x.1 fun r => setBits r 288 32 (recLive r + n)) c x.1 va
  | .error _ => s

/-- Members leave it: LIVE falls, and a cancelling scope may become quiesced (R59, R61). -/
def leaveScope (s : State) (c : BitVec 16) (va : Word) (n : Nat) : State :=
  match deviceAddr s (entryCtx s c) va.toNat false 64 with
  | .ok x => metRecord (quiesce (modRecord s x.1 fun r => setBits r 288 32 (recLive r - n)) c) c x.1 va
  | .error _ => s

/-! ## Barrier objects (R339) -/

def barExpected (b : Nat) : Nat := bits b 32 32
def barArrived (b : Nat) : Nat := bits b 64 32
def barPhase (b : Nat) : Nat := bits b 96 32

/-- A phase completes when the arrivals meet EXPECTED (R340, R341). -/
def barRelease (b : Nat) : Nat :=
  if barExpected b ≤ barArrived b then setBits (setBits b 64 32 0) 96 32 (barPhase b + 1) else b

/-- A killed member leaves a barrier in one atomic step (R341). -/
def barDepart (b : Nat) (phase : BitVec 32) : Nat :=
  let b1 := setBits b 32 32 (barExpected b - 1)
  barRelease (if phase.toNat = barPhase b then setBits b1 64 32 (barArrived b1 - 1) else b1)

/-- BARRIER_DEPARTURE: a killed member leaves each barrier it counted in. -/
def departBarriers (s : State) (c : BitVec 16) (members : List Member) : State :=
  members.foldl (fun t m =>
    match deviceAddr t (entryCtx t c) m.object.toNat false 64 with
    | .ok x => if bits (readNat t x.1 64) 0 2 = 1 then writeNat t x.1 64 (barDepart (readNat t x.1 64) m.phase) else t
    | .error _ => t) s

/-! ## Ownership entries and spill records (R288, R307, R308) -/

/-- The sticky flags NV, OF, UF, NX, SAT of a slot from the bit places of NFLAGS to bits 20:16 of its entry (R288, R303). -/
def stickyBits (f : BitVec 6) : Nat :=
  b2n (f.getLsbD 0) + 2 * b2n (f.getLsbD 2) + 4 * b2n (f.getLsbD 3) + 8 * b2n (f.getLsbD 4) + 16 * b2n (f.getLsbD 5)

def stickyOfBits (n : Nat) : BitVec 6 :=
  BitVec.ofNat 6 (b2n (n.testBit 0) + 4 * b2n (n.testBit 1) + 8 * b2n (n.testBit 2) + 16 * b2n (n.testBit 3) + 32 * b2n (n.testBit 4))

/-- Bits 31:0 of an ownership entry (R288). -/
def Slot.low (t : Slot) : Nat :=
  b2n t.v + 2 * b2n t.d + 4 * b2n t.p + 8 * b2n t.full + stickyBits t.sticky * 2 ^ 16 + t.grp.toNat * 2 ^ 21 + t.prog.toNat * 2 ^ 27

/-- The spill header of a slot (R308): FULL written 1, D written 0. -/
def Slot.header (t : Slot) (home : Nat) : Nat :=
  ({ t with full := true, d := false } : Slot).low + 0x5A170C01 * 2 ^ 32 + home * 2 ^ 128 + t.owner.toNat * 2 ^ 144 +
    t.scopeId.toNat * 2 ^ 160 + t.key.toNat * 2 ^ 192

/-- A slot's entry from a spill header. -/
def Slot.ofHeader (h : Nat) (words : SlotWords) : Slot :=
  { words := words, key := BitVec.ofNat 64 (bits h 192 64), scopeId := BitVec.ofNat 32 (bits h 160 32),
    owner := BitVec.ofNat 16 (bits h 144 16), prog := BitVec.ofNat 5 (bits h 27 5), grp := BitVec.ofNat 6 (bits h 21 6),
    sticky := stickyOfBits (bits h 16 5), full := true, p := h.testBit 2, d := false, v := h.testBit 0 }

/-- The spill record of a core and slot (R307). -/
def spillAddr (base : Word) (core n : Nat) : Nat := base.toNat % 2 ^ 48 + 0x10080 * (8 * core + n)

/-- A spill record holds live data (R308, R309). -/
def spillLive (s : State) (pa : Nat) : Bool :=
  deviceArea s pa 128 && decide (readNat s (pa + 4) 4 = 0x5A170C01) && (readByte s pa).getLsbD 0

/-- Slots pinned under scopes of a cancelled subtree are discarded, resident or spilled; the count goes into SLOTSDROP (R60, R301). -/
def dropSlots (s : State) (c : BitVec 16) (ids : List Nat) : State × Nat :=
  let hit (t : Slot) : Bool := t.v && t.p && t.owner == c && ids.contains t.scopeId.toNat
  let resident := (s.cores.map fun k => (k.2.slots.filter fun p => hit p.2).length).foldl (· + ·) 0
  let s1 := { s with cores := s.cores.map fun k =>
    (k.1, { k.2 with slots := k.2.slots.map fun p => (p.1, if hit p.2 then { p.2 with v := false } else p.2) }) }
  let base := (s.contexts.get {} c.toNat).spillbase
  let spilled := ((List.range 1024).map fun k => spillAddr base 0 0 + 0x10080 * k).filter fun pa =>
    !recordLost s pa && spillLive s pa && (readByte s pa).getLsbD 2 && ids.contains (readNat s (pa + 20) 4)
  (spilled.foldl (fun t pa => writeBytes t pa [readByte t pa &&& 0xFE#8]) s1, resident + spilled.length)

/-- The spill records of a context whose headers the device cannot read (R477). -/
def lostSpills (s : State) (c : BitVec 16) : List Nat :=
  ((List.range 1024).map fun k => spillAddr (s.contexts.get {} c.toNat).spillbase 0 0 + 0x10080 * k).filter fun pa =>
    deviceArea s pa 64 && recordLost s pa

end Sys2Proof.Machine
end

