-- ==== Sys2Proof/Machine/Blocks.lean ====
section
/-! DEFINITION. Launch blocks: their fields, what makes one malformed, decrements, readiness, completion (R350-R362, R492-R496), and requests
for pre-emption (R367). -/
namespace Sys2Proof.Machine

/-- The 256 bytes of a launch block as a number, with its physical address (R350). -/
structure Block where
  pa : Nat
  raw : Nat
  deriving DecidableEq, Repr


def blkWings (b : Block) : Nat := bits b.raw 0 8
def blkPlace (b : Block) : Bool := b.raw.testBit 12
def blkRow (b : Block) : Bool := b.raw.testBit 13
def blkPrio (b : Block) : Nat := bits b.raw 14 2
def blkVallot (b : Block) : Nat := bits b.raw 16 2
def blkOrder (b : Block) (l : Nat) : Nat := bits b.raw (18 + 3 * l) 3
def blkDead (b : Block) : Bool := b.raw.testBit 45
def blkState (b : Block) : Nat := bits b.raw 46 2
def blkDeps (b : Block) : Nat := bits b.raw 64 32
def blkScope (b : Block) : Nat := bits b.raw 128 64
def blkArgs (b : Block) : Nat := bits b.raw 192 64
def blkPgt (b : Block) : Nat := bits b.raw 256 64
def blkCode (b : Block) : Nat := bits b.raw 320 64
def blkSeglen (b : Block) : Nat := bits b.raw 384 32
def blkSegoff (b : Block) : Nat := bits b.raw 416 32
def blkEntry (b : Block) : Nat := bits b.raw 448 32
def blkOctlist (b : Block) : Nat := bits b.raw 512 64
def blkOctn (b : Block) : Nat := bits b.raw 576 11
def blkNext (b : Block) : Nat := bits b.raw 640 40
def blkEnded (b : Block) : Nat := bits b.raw 704 40
def blkLink (b : Block) : Nat := bits b.raw 768 64
def blkExtent (b : Block) (l : Nat) : Nat := bits b.raw (832 + 64 * l) 32
def blkTile (b : Block) (l : Nat) : Nat := bits b.raw (864 + 64 * l) 32

/-- A block read at a context's address: XLATE, PROT or MISALIGN where it cannot be read, UE where it is poisoned. -/
def readBlock (s : State) (c : AddrCtx) (va : Word) : Chk Block := do
  let x ← deviceRead s c va.toNat 256 256
  .ok { pa := x.1, raw := x.2 }

/-- The block's device fields written: STATE, DEAD, DEPS, NEXT, ENDED. -/
def putControl (s : State) (b : Block) (state : Nat) (dead : Bool) : State :=
  writeBytes s (b.pa + 5) [BitVec.ofNat 8 (bits b.raw 40 5 + (if dead then 32 else 0) + 64 * state)]
def putDeps (s : State) (b : Block) (n : Nat) : State := writeNat s (b.pa + 8) 4 n
def putNext (s : State) (b : Block) (n : Nat) : State := writeNat s (b.pa + 80) 5 n
def putEnded (s : State) (b : Block) (n : Nat) : State := writeNat s (b.pa + 88) 5 n

/-- The four 64-byte lines of a block are device-owned from STATE 01 until 11 (R352). -/
def ownBlock (s : State) (b : Block) (o : Owned) : State :=
  (List.range 4).foldl (fun t k => setOwned t (b.pa + 64 * k) o) s

/-! ## The loop nest (R351, R361) -/

def loopPresent (b : Block) (l : Nat) : Bool := blkTile b l != 0

/-- Tile positions of a present loop (R52). -/
def loopCount (b : Block) (l : Nat) : Nat := (blkExtent b l + blkTile b l - 1) / blkTile b l

def presentLoops (b : Block) : List Nat := (List.range 6).filter (loopPresent b)

/-- The number of tile steps (R351). -/
def stepCount (b : Block) : Nat := (presentLoops b).foldl (fun n l => n * loopCount b l) 1

/-- The nest is well formed (R351). -/
def nestOk (b : Block) : Bool :=
  (List.range 6).all (fun l => loopPresent b l || (blkExtent b l == 0 && blkOrder b l == 0)) &&
  (List.range (presentLoops b).length).all (fun n => ((presentLoops b).filter fun l => blkOrder b l == n).length == 1) &&
  decide (stepCount b < 2 ^ 40)

/-- The tile origins of step `n`, for loops 0 to 5 (R361). -/
def origins (b : Block) (n : Nat) : List Nat :=
  let inner := (List.range (presentLoops b).length).reverse.filterMap fun pos => (presentLoops b).find? fun l => blkOrder b l == pos
  let rec go : List Nat → Nat → List (Nat × Nat)
    | [], _ => []
    | l :: t, r => (l, r % loopCount b l * blkTile b l) :: go t (r / loopCount b l)
  let got := go inner n
  (List.range 6).map fun l => ((got.find? fun p => p.1 == l).map (·.2)).getD 0

/-! ## The octet list of a row block -/

/-- Entry `k` of the octet list. -/
def octEntry (s : State) (c : AddrCtx) (b : Block) (k : Nat) : Chk Nat := do
  let x ← deviceRead s c (blkOctlist b + 2 * k) 2 2
  .ok x.2

def octets (s : State) (c : AddrCtx) (b : Block) : Chk (List Nat) := (List.range (blkOctn b)).mapM (octEntry s c b)

/-- An octet is leased to a context. -/
def leasedTo (s : State) (g : Nat) (c : BitVec 16) : Bool := leased s g && (perOf s g).lessee == c

/-! ## What makes a block malformed when its count reaches zero (R351, R492) -/

/-- Reserved bits of R350 and the conditions of REASON 0x01. -/
def blockShapeOk (b : Block) : Bool :=
  bits b.raw 1216 832 == 0 && bits b.raw 744 24 == 0 && bits b.raw 680 24 == 0 && bits b.raw 587 53 == 0 && bits b.raw 480 32 == 0 &&
  bits b.raw 96 32 == 0 && bits b.raw 48 16 == 0 && bits b.raw 36 9 == 0 && bits b.raw 8 4 == 0 &&
  blkVallot b != 3 && blkWings b != 0 && blkEntry b % 4 == 0 && blkSegoff b % 128 == 0 && blkSeglen b % 128 == 0 &&
  bits (blkLink b) 56 8 == 0 && (blkRow b || (!blkPlace b && blkOctn b == 0 && blkOctlist b == 0))

/-- The record is live (R59, R354). [DEDUCED, log 46] -/
def recordLive (r : Nat) : Bool :=
  decide (recState r = 0) && decide (1 ≤ recContext r) && decide (recContext r < 8192)

/-- The first failed check of a block of context `k` at the zero count: REASON, and the DETAIL of R495. -/
def rejectReason (s : State) (c : AddrCtx) (k : BitVec 16) (b : Block) : Option (BitVec 8 × Word) :=
  if !blockShapeOk b then some (0x01, 0)
  else if !nestOk b then some (0x02, 0)
  else if blkScope b % 64 ≠ 0 then some (0x03, 0)
  else match deviceRead s c (blkScope b) 64 64 with
    | .error e => some (0x08, e.1.setWidth 64)
    | .ok x =>
      if !recordLive x.2 then some (0x03, 0)
      else if blkRow b then
        if blkOctn b = 0 || 1152 < blkOctn b then some (0x07, 0)
        else match octets s c b with
          | .error _ => some (0x07, 0)
          | .ok l =>
            if l.any (fun g => decide (1152 ≤ g)) then some (0x07, 0)
            else if !l.any (fun g => leasedTo s g k) then some (0x06, 0)
            else none
      else none

/-! ## Queues (R360) -/

def Wing.queue (w : Wing) (p : Nat) : List BlockRef :=
  match p with
  | 0 => w.queue0
  | 1 => w.queue1
  | 2 => w.queue2
  | _ => w.queue3

def Wing.setQueue (w : Wing) (p : Nat) (q : List BlockRef) : Wing :=
  match p with
  | 0 => { w with queue0 := q }
  | 1 => { w with queue1 := q }
  | 2 => { w with queue2 := q }
  | _ => { w with queue3 := q }

/-- READY_QUEUE_APPEND: one entry in queue PRIO of every Wing set in WINGS. -/
def enqueue (s : State) (b : Block) (r : BlockRef) : State :=
  (List.range 8).foldl (fun t w =>
    if (blkWings b).testBit w then modWing t w fun v => v.setQueue (blkPrio b) (v.queue (blkPrio b) ++ [r]) else t) s

/-- The block leaves all its queues. -/
def dequeue (s : State) (r : BlockRef) : State :=
  (List.range 8).foldl (fun t w => modWing t w fun v =>
    (List.range 4).foldl (fun u p => u.setQueue p ((u.queue p).filter (· != r))) v) s

/-! ## Rejection and completion (R352, R493, R495) -/

/-- The Wing that a rejection names: the lowest of WINGS. -/
def rejectWing (b : Block) : Nat := ((List.range 8).find? (blkWings b).testBit).getD 0

/-- BLOCK_REJECT with its log entry: STATE 11 and DEAD 1 wherever the bytes can be written (R493). -/
def rejectBlock (s : State) (c : AddrCtx) (r : BlockRef) (b : Option Block) (wing : Nat) (reason : BitVec 8) (detail : Word)
    (context : BitVec 16) : State :=
  let s1 := match deviceAddr s c (r.va.toNat + 5) true 1 with
    | .ok x => writeBytes s x.1 [readByte s x.1 ||| 0xE0#8]
    | .error _ => s
  let s2 := match b with
    | some k => ownBlock s1 k .none
    | none => s1
  { logSched s2 r.va context (BitVec.ofNat 16 (docentId wing)) reason detail with waiting := s2.waiting.filter (· != r) }

/-- A block in a cancelled subtree that has claimed no step: STATE 11, DEAD 1 (R60, R372). -/
def killBlock (s : State) (r : BlockRef) (b : Block) : State :=
  let s1 := ownBlock (putControl s b 3 true) b .none
  { s1 with waiting := s1.waiting.filter (· != r) }

/-- ENDED rises by `n`; when it meets the step count the block reads STATE 11 and its lines are free (R352, R362). -/
def addEnded (s : State) (c : AddrCtx) (va : Word) (n : Nat) : State :=
  match readBlock s c va with
  | .error _ => s
  | .ok b =>
    let s1 := putEnded s b (blkEnded b + n)
    if blkEnded b + n = stepCount b && blkState b ≠ 3 then ownBlock (putControl s1 b 3 (blkDead b)) b .none else s1

/-! ## Waiting work (R356, R365, R382) -/

/-- The cores of a Wing. -/
def wingCores (w : Nat) : List Nat := (List.range 16).map (16 * w + ·)

/-- A core runs no step. -/
def coreFree (s : State) (k : Nat) : Bool := (coreOf s k).step.isNone

/-- A context is neither halting nor halted. -/
def ctxRunning (s : State) (c : BitVec 16) : Bool := (haltOf s c).st == .running

/-- The other core of the Pavilion runs no step of another context (R382). -/
def pavilionFree (s : State) (k : Nat) (c : BitVec 16) : Bool :=
  match (coreOf s (if k % 2 = 0 then k + 1 else k - 1)).step with
  | some i => i.context == c
  | none => true

/-- No step of this context and priority is suspended on the core (R356). -/
def frameFree (s : State) (k : Nat) (c : BitVec 16) (p : Nat) : Bool :=
  (coreOf s k).suspended.all fun u => !(u.info.context == c && u.info.prio == p)

/-- Parse of a queued block. -/
def queued? (s : State) (r : BlockRef) : Option Block :=
  match readBlock s (entryCtx s r.context) r.va with
  | .ok b => some b
  | .error _ => none

/-- A queued block is a compute block. -/
def isCompute (s : State) (r : BlockRef) : Bool := ((queued? s r).map fun b => !blkRow b).getD false

/-- A block that may be dispatched on a free core now (R356, R382, R435). -/
def mayDispatch (s : State) (k p : Nat) (r : BlockRef) : Bool :=
  isCompute s r && ctxRunning s r.context && frameFree s k r.context p && pavilionFree s k r.context

/-- The steps suspended on the cores of a Wing, with their cores. -/
def wingSuspended (s : State) (w : Nat) : List (Nat × Suspended) :=
  ((wingCores w).map fun k => (coreOf s k).suspended.map fun u => (k, u)).flatten

/-- Priority `p` has waiting work on the Wing (R365). -/
def hasWork (s : State) (w p : Nat) : Bool :=
  ((wingOf s w).queue p).any (isCompute s) || (wingSuspended s w).any fun u => u.2.info.prio == p

/-- The queued blocks in a Pergola's own order: as it last went round them, each block it served last of those that were there, then those that
came since (R365). -/
def perOrder (s : State) (g : Nat) : List BlockRef :=
  let refs := ((List.range 8).map fun w => (List.range 4).map (wingOf s w).queue).flatten.flatten
  ((perOf s g).served.filter refs.contains ++ refs.filter fun r => !(perOf s g).served.contains r).foldl
    (fun l r => if l.contains r then l else l ++ [r]) []

/-- A block that a Pergola has served goes to the end of its order (R365). -/
def served (s : State) (g : Nat) (r : BlockRef) : State :=
  modPer s g fun p => { p with served := (perOrder s g).filter (· != r) ++ [r] }

/-- The row blocks of priority `p` in the Wings' queues that list Pergola `g`, in its order (R365). -/
def rowListed (s : State) (g p : Nat) : List (BlockRef × Block × List Nat) :=
  ((perOrder s g).filter fun r => (List.range 8).any fun w => ((wingOf s w).queue p).contains r).filterMap fun r => match queued? s r with
    | some b =>
      if blkRow b then
        match octets s (entryCtx s r.context) b with
        | .ok l => if l.contains g then some (r, b, l) else none
        | .error _ => none
      else none
    | none => none

/-- Those of contexts that run. -/
def rowBlocks (s : State) (g p : Nat) : List (BlockRef × Block × List Nat) := (rowListed s g p).filter fun x => ctxRunning s x.1.context

/-- Priority `p` has waiting row work for Pergola `g`. -/
def hasRowWork (s : State) (g p : Nat) : Bool :=
  !(rowListed s g p).isEmpty || (perOf s g).yielded.any fun u => u.info.prio == p

/-- Counters of priorities left without waiting work are 0 (R366). -/
def trimmed (g : Tbl Nat) (work : Nat → Bool) : Tbl Nat := g.filter fun e => work e.1

/-- GRANTS_TRIM: what R366 does to every Wing's and Pergola's counters when waiting work leaves. -/
def trimGrants (s : State) : State :=
  { s with
    wings := Tbl.mapAll {} s.wings fun w v => if v.grants.isEmpty then v else { v with grants := trimmed v.grants (hasWork s w) },
    pergolas := Tbl.mapAll {} s.pergolas fun g p => if p.grants.isEmpty then p else { p with grants := trimmed p.grants (hasRowWork s g) } }

/-! ## Pre-emption requests (R367) -/

/-- Of these cores, the one that runs the least urgent step: a core asked before, and else the lowest, among equals (R367). [DEDUCED, log 50] -/
def leastUrgent (s : State) (cores : List Nat) : Option Nat :=
  let pr (k : Nat) : Nat := 2 * ((coreOf s k).step.map (·.prio)).getD 0 + b2n (coreOf s k).preemptReq
  cores.foldl (fun best k => match best with
    | none => some k
    | some j => if pr j < pr k then some k else best) none

/-- The blocks of priority `p` whose steps the Wing's queue can still claim. -/
def claimableBlocks (s : State) (w p : Nat) : List (BlockRef × Block) :=
  ((wingOf s w).queue p).filterMap fun r => match queued? s r with
    | some b => if !blkRow b && ctxRunning s r.context then some (r, b) else none
    | none => none

/-- The free cores left, and the cores asked, once one step of a block of priority `p` has found its core: a free one that may take it, else the
core of the least urgent step that may be pre-empted for it (R356, R367, R382). -/
def askFor (s : State) (w p : Nat) (r : BlockRef) (a : List Nat × List Nat) : List Nat × List Nat :=
  let may (k : Nat) : Bool := frameFree s k r.context p && pavilionFree s k r.context
  match a.1.find? may with
  | some k => (a.1.filter (· != k), a.2)
  | none =>
    match leastUrgent s ((wingCores w).filter fun k => may k && !a.2.contains k && !(coreOf s k).preemptOwn &&
        (match (coreOf s k).step with
         | some i => decide (p < i.prio)
         | none => false)) with
    | some k => (a.1, k :: a.2)
    | none => a

/-- The cores whose pre-emption a Wing's walker wants: no more than there are claimable steps that could take them (R367). [DEDUCED, log 50] -/
def wantedCores (s : State) (w : Nat) : List Nat :=
  ((List.range 4).foldl (fun a p => (claimableBlocks s w p).foldl (fun a x =>
    (List.range (Nat.min 16 (stepCount x.2 - blkNext x.2))).foldl (fun a _ => askFor s w p x.1 a) a) a)
    ((wingCores w).filter (coreFree s), [])).2

/-- PREEMPTION_REQUEST: the walker's requests are those it wants now; one that no claimable step could use any more is withdrawn (R367). [DEDUCED, log 50] -/
def requestPreempt (s : State) (w : Nat) : State :=
  let l := wantedCores s w
  (wingCores w).foldl (fun t k =>
    let want := l.contains k || (coreOf s k).preemptOwn
    if (coreOf s k).preemptReq = want then t else modCore t k fun c => { c with preemptReq := want }) s

/-! ## Readiness and decrements (R54, R352) -/

/-- BLOCK_READY: the checks, STATE 01, the queues; a block without steps completes at once. [DEDUCED, log 46] -/
def blockReady (s : State) (c : AddrCtx) (r : BlockRef) (b : Block) : State :=
  match rejectReason s c r.context b with
  | some (reason, detail) => rejectBlock s c r (some b) (rejectWing b) reason detail r.context
  | none =>
    let s1 := { s with waiting := s.waiting.filter (· != r) }
    if stepCount b = 0 then putControl s1 b 3 false
    else
      let s2 := enqueue (ownBlock (putControl s1 b 1 false) b .block) b r
      let s3 := match deviceAddr s2 c (blkScope b) false 64 with
        | .ok x => ownScopes s2 c x.1
        | .error _ => s2
      if blkRow b then s3
      else (List.range 8).foldl (fun t w => if (blkWings b).testBit w then requestPreempt t w else t) s3

/-- A block's scope record is cancelling or quiesced: the block is dead on arrival (R60). [DEDUCED, log 46] -/
def deadOnArrival (s : State) (c : AddrCtx) (b : Block) : Bool :=
  match deviceRead s c (blkScope b) 64 64 with
  | .ok x => decide (recState x.2 = 1) || (decide (recState x.2 = 2) && (c.context == 0 || decide (recContext x.2 = c.context.toNat)))
  | .error _ => false

/-- The address at which a walker meets poison in a block or its scope record (R477). -/
def blockPoison (s : State) (c : AddrCtx) (va : Word) : Option Word :=
  let ue {α : Type} (r : Chk α) : Option Word := match r with
    | .error e => if e.1 = Cause.ue then some e.2 else none
    | .ok _ => none
  match readBlock s c va with
  | .error e => if e.1 = Cause.ue then some e.2 else none
  | .ok b => ue (deviceRead s c (blkScope b) 64 64)

/-- The block's context: the CONTEXT of its scope record, 0 where the record cannot be read (R351, R495). -/
def blockContext (s : State) (c : AddrCtx) (b : Block) : BitVec 16 :=
  match deviceRead s c (blkScope b) 64 64 with
  | .ok x => BitVec.ofNat 16 (recContext x.2)
  | .error _ => 0

/-- DEPENDENCE_DECREMENT of R54: a waiting block's count falls by one, and at zero the block becomes ready, in the context of its own scope
record, whoever decrements it (R351, R359). -/
def decrement (s : State) (c : AddrCtx) (va : Word) : State :=
  match readBlock s c va with
  | .error e => rejectBlock s c { context := c.context, va := va } none 0 0x08 (e.1.setWidth 64) 0
  | .ok b =>
    let r : BlockRef := { context := blockContext s c b, va := va }
    if blkState b ≠ 0 || blkDead b || blkDeps b = 0 then s
    else if deadOnArrival s c b then killBlock s r b
    else
      let s1 := putDeps s b (blkDeps b - 1)
      if blkDeps b = 1 then
        match readBlock s1 c va with
        | .ok b1 => blockReady s1 c r b1
        | .error _ => s1
      else { s1 with waiting := if s1.waiting.contains r then s1.waiting else r :: s1.waiting }

end Sys2Proof.Machine
end

