-- ==== Sys2Proof/Machine/Kill.lean ====
section
/-! DEFINITION. Cancellation (R56-R64, R372): what CANCEL marks, how a cancelled hart stops, and how a step ends by being killed. -/
namespace Sys2Proof.Machine

/-! ## Steps and their members -/

/-- The step that a hart runs. -/
def stepOfHart (s : State) (id : Nat) : Option StepInfo :=
  if id < 256 then (coreOf s (coreOfHart id)).step
  else if id < 0x8000 then none
  else (perOf s (perOfHart id)).step

/-- Whose step sends: context, launch and step number of the hart's step. -/
def senderOf (s : State) (id : Nat) : BitVec 16 × Word × Nat :=
  match stepOfHart s id with
  | some i => (i.context, i.launch, i.step)
  | none => ((hartOf s id).context, 0, 0)

/-- The packet was sent by the step of this hart, by the hart of the same kind. -/
def ownPacket (s : State) (id : Nat) (p : Packet) : Bool := (p.context, p.launch, p.step) == senderOf s id && p.hart % 2 == id % 2

/-- Outstanding packets of a hart that `sel` names. -/
def outstanding (s : State) (id : Nat) (sel : Packet → Bool) : Bool :=
  s.packets.any fun q => match q.2 with
    | some p => ownPacket s id p && sel p
    | none => false

/-- Two records name one step. -/
def sameStep (a b : StepInfo) : Bool := a.context == b.context && a.launch == b.launch && a.step == b.step

/-- A hart of a running step: running or waiting, neither idle, exited nor stopped. -/
def Hart.live (h : Hart) : Bool := h.run == .running || h.run == .atJoin || h.run == .atGang

/-- The record that counts the kill of a step's members (R62): the one its cancellation named, or its home scope's. -/
def killRecord (s : State) (i : StepInfo) : Option Nat :=
  match i.killPa with
  | some pa => some pa
  | none => match deviceAddr s (entryCtx s i.context) i.scope.toNat false 64 with
    | .ok x => some x.1
    | .error _ => none

/-- A count in the record of a killed step's cancellation. -/
def countKill (s : State) (i : StepInfo) (f : State → Nat → State) : State :=
  match killRecord s i with
  | some pa => metRecord (f s pa) i.context pa (BitVec.ofNat 64 pa)
  | none => s

/-- What a killed or ended hart holds no longer: monitor, replay entries, REFUSED bits, memberships (R60, R340, R450, R500). [DEDUCED, log 76] -/
def Hart.drop (h : Hart) (run : HartRun) : Hart :=
  { h with run := run, monitor := none, mwaitFrom := none, replay := [], roomWait := [], members := [], refused := 0, killReq := false,
           boundary := false, parked := false, atYield := false, fresh := false, replies := [], awaiting := none, vdone := [] }

/-- A core without a step: nothing of the step stays but the slots (R33). -/
def Core.clearStep (k : Core) : Core :=
  { k with step := none, phase := .landing, fault := none, preemptReq := false, preemptOwn := false, dq0 := [], dq1 := [], dq2 := [], dq3 := [], bq := [],
           bqProducer := none, tokens := [], vpend := [], vqueue := [], follow := [], tiles := [], wbuf := k.wbuf }

/-- Row registers of a bank that hold an open row. -/
def Bank.openRows (b : Bank) : Nat :=
  (b.o.filter fun p => p.2.st == .opening || p.2.st == .opened || p.2.st == .busy).length

/-- A register that becomes CLOSED with its contents lost; ROW is what it last held (R231, R455). -/
def RowReg.closed (r : RowReg) : RowReg :=
  { r with st := .closed, dirty := false, restored := false, rsaved := false, data := 0, poison := 0, busyDirty := false, wbEnd := none,
           lasting := false, check := [] }

/-- tRP starts, and a forced refresh that waited for the register goes on to its REFs (R232, R482). -/
def Sag.closedAt (g : Sag) (rc : Nat) : Sag :=
  { g with preEnd := rc + 18, refEnd := if g.forced then rc + 18 + 90 * g.debt else g.refEnd }

/-- tRP starts on the SAGs whose registers are precharged now (R232). -/
def Bank.closeAt (b : Bank) (rc : Nat) : Bank :=
  b.o.foldl (fun k p =>
    if p.2.st = .closed ∨ p.2.st = .rescued then k
    else { k with sags := k.sags.modify {} p.1 fun g => g.closedAt rc }) b

/-- The coordinate of the row that register `n` holds or last held: row-in-SAG above the SAG (R76, R227). -/
def regCoord (g b n : Nat) (r : RowReg) : Nat := rowCoord g b (8 * r.row.toNat + n)

/-- A register's contents and poison bits written into a row's cells. [DESIGN CHOICE, log 38] -/
def writeCells (s : State) (coord : Nat) (data : Row) (poison : BitVec 128) : State :=
  (List.range 128).foldl (fun t k => if poison.getLsbD k then setPoison t (rowAddr coord + 64 * k) 64 true else t)
    (writeNat s (rowAddr coord) 8192 data.toNat)

/-- A WB or WBPRE that has begun is completed in the array (R60, R437): the cells equal a DIRTY register (R231). -/
def finishWrites (s : State) (g b : Nat) : State :=
  (bankOf s g b).o.foldl (fun t p => if p.2.wbEnd.isSome && p.2.dirty then writeCells t (regCoord g b p.1 p.2) p.2.data p.2.poison else t) s

/-- A killed row hart's open rows are precharged without write-back, its q latches invalidated; the rows are counted (R60). [DESIGN CHOICE, log 27] -/
def dropRows (s : State) (g b : Nat) (i : StepInfo) : State :=
  let n := (bankOf s g b).openRows
  modBank (countKill (finishWrites s g b) i fun t pa => addRowsDrop t pa n) g b fun k =>
    { k.closeAt (perOf s g).rc with
             o := k.o.map (fun p => (p.1, p.2.closed)),
             q := [], check := [], inbox := none, laneInstr := 0, laneLeft := 0, shrx := 0 }

/-- The end of a step that is killed: counted once in KILLSTEPS, and ENDED rises (R60, R362). -/
def endKilledStep (s : State) (i : StepInfo) : State :=
  addEnded (countKill s i fun t pa => addKillSteps t pa 1) (entryCtx s i.context) i.launch 1

/-- Members of an ended step leave its scope (R59). [DEDUCED, log 57] -/
def leaveStep (s : State) (i : StepInfo) (n : Nat) : State := leaveScope s i.context i.scope n

/-- KILL_POINT_STOP of a compute hart: it stops, and with its last hart its step ends. Its stores on the way to peers are performed first, so
that a CWAIT ends after them (R60, R135). -/
def killCompute (s : State) (id : Nat) (i : StepInfo) : State :=
  if outstanding s id fun p => p.kind != .copy && !p.wants then modHart s id fun h => { h with parked := true }
  else
  let k := coreOfHart id
  let other := if id % 2 = 1 then aHartId k else xHartId k
  let s1 := departBarriers s i.context (hartOf s id).members
  let s2 := countKill s1 i fun t pa => addKillHarts t pa 1
  let s3 := modHart s2 id fun h => h.drop .idle
  let s4 := if (hartOf s3 other).live then s3 else modCore (endKilledStep s3 i) k Core.clearStep
  leaveStep s4 i 1

/-- KILL_POINT_STOP of one bank: its rows close, and with the octet's last bank the step ends. -/
def killBank (s : State) (g b : Nat) (i : StepInfo) : State :=
  let s1 := dropRows s g b i
  let s2 := countKill s1 i fun t pa => addKillHarts t pa 1
  let s3 := modHart s2 (bankId g b) fun h => h.drop .exited
  let s4 := if (List.range 8).any fun c => (hartOf s3 (bankId g c)).live then s3
            else modPer (endKilledStep s3 i) g fun p => { p with step := none }
  leaveStep s4 i 1

/-- KILL_POINT_STOP: a cancelled hart, or every hart of a cancelled gang, stops. -/
def killCur (s : State) : State :=
  match s.cur with
  | .hart id => match stepOfHart s id with
    | some i => if (hartOf s id).live then killCompute s id i else s
    | none => s
  | .bank g b => (splitBanks s g b).foldl (fun t b => match (perOf t g).step with
    | some i => if (hartOf t (bankId g b)).live then killBank t g b i else t
    | none => t) s
  | .pergola g => (List.range 8).foldl (fun t b => match (perOf t g).step with
    | some i => if (hartOf t (bankId g b)).live then killBank t g b i else t
    | none => t) s
  | _ => s

/-- The issuing hart or gang belongs to a cancelled subtree. -/
def cancelled (s : State) : Bool := (allHarts s).any fun id => (hartOf s id).killReq

end Sys2Proof.Machine
end

