-- ==== Sys2Proof/Machine/Numbers.lean ====
section
/-! DEFINITION. Number formats, the one rounding, and the arithmetic that every lane, array and function performs (05_numbers.md). -/
namespace Sys2Proof.Machine

/-! ## Flags (R166) -/

/-- The six sticky flags, in the places of NFLAGS. -/
abbrev Flg := BitVec 6

namespace Flg
abbrev none : Flg := 0
abbrev nv : Flg := 0x01
abbrev dz : Flg := 0x02
abbrev of : Flg := 0x04
abbrev uf : Flg := 0x08
abbrev nx : Flg := 0x10
abbrev sat : Flg := 0x20
end Flg

/-- The bits of a result and the flags that making it sets. -/
structure Elem where
  val : Nat
  fl : Flg
  deriving DecidableEq, Repr

/-! ## Format codes (R139) -/

/-- Element width in bits. -/
def codeWidth (c : Nat) : Nat :=
  if c = 1 ∨ c = 2 ∨ c = 11 then 4 else if c = 3 ∨ c = 4 ∨ c = 5 then 8 else if c = 6 ∨ c = 8 ∨ c = 9 then 16 else 32

def codeFloat (c : Nat) : Bool := c == 8 || c == 9 || c == 10
def codeSigned (c : Nat) : Bool := c == 2 || c == 4 || c == 6 || c == 7

/-- A code names a grouped format under a group length BLK (R145, R237, R266). -/
def codeGrouped (c blk : Nat) : Bool := c == 1 || c == 3 || ((c == 2 || c == 4) && blk != 0)

/-- Bytes up to the element before `n` at width `w`. -/
def elemBytes (w n : Nat) : Nat := (w * n + 7) / 8

/-- Elements of a 1 KiB register and of an 8 KiB row (R151, R228). -/
def vlmax (c : Nat) : Nat := 8192 / codeWidth c
def rowMax (c : Nat) : Nat := 65536 / codeWidth c

/-- A value of vtype or rtype: its fields, and whether R150 and R151 allow it. -/
def typeFmt (t : Word) : Nat := t.toNat % 16
def typeBlk (t : Word) : Nat := (t.toNat >>> 9) % 4
def typeSreg (t : Word) : Nat := (t.toNat >>> 11) % 32

def typeOk (row : Bool) (t : Word) : Bool :=
  let f := typeFmt t
  let b := typeBlk t
  decide (t.toNat >>> 16 = 0) && decide ((t.toNat >>> 4) % 32 = 0) && decide (1 ≤ f) && decide (f ≤ 11) &&
    (if row then decide (typeSreg t = 0) && ((f == 1 || f == 3) && b != 0 || f == 2 || f == 4 || (decide (8 ≤ f)) || b == 0)
     else f != 11 && ((f == 1 || f == 3) && b != 0 || f == 2 || f == 4 || (b == 0 && f != 1 && f != 3))) &&
    (!(f == 1 || f == 3) || b != 0)

/-- Group length of BLK, and its logarithm. -/
def blkLog (b : Nat) : Nat := b + 4

/-- An effective format: code, group length and scale register (R152). -/
structure Eff where
  code : Nat
  blk : Nat
  sreg : Nat
  deriving DecidableEq, Repr

def effOf (field : Nat) (t : Word) : Eff :=
  if field = 0 then { code := typeFmt t, blk := typeBlk t, sreg := typeSreg t } else { code := field, blk := 0, sreg := 0 }

/-! ## Values -/

/-- What an operand's encoding is worth: a NaN, signalling or quiet, an infinity, or an exact real (-1)^neg * m * 2^e. -/
inductive Num where
  | nan (sig : Bool)
  | inf (neg : Bool)
  | fin (neg : Bool) (m : Nat) (e : Int)
  deriving DecidableEq, Repr

/-- A floating-point format: width, precision with the hidden bit, least exponent of a normal, greatest exponent (R141). -/
structure Flt where
  width : Nat
  p : Nat
  emin : Int
  emax : Int
  deriving DecidableEq, Repr

def f32 : Flt := { width := 32, p := 24, emin := -126, emax := 127 }
def f16 : Flt := { width := 16, p := 11, emin := -14, emax := 15 }
def bf16 : Flt := { width := 16, p := 8, emin := -126, emax := 127 }

def fltOf (c : Nat) : Flt := if c = 8 then f16 else if c = 9 then bf16 else f32

/-- The all-ones exponent field. -/
def Flt.emask (F : Flt) : Nat := 2 ^ (F.width - F.p) - 1

/-- The canonical NaN (R144), the infinities, the largest finite values and the zeros as encodings. -/
def Flt.nan (F : Flt) : Nat := F.emask * 2 ^ (F.p - 1) + 2 ^ (F.p - 2)
def Flt.signBit (F : Flt) (neg : Bool) : Nat := if neg then 2 ^ (F.width - 1) else 0
def Flt.inf (F : Flt) (neg : Bool) : Nat := F.signBit neg + F.emask * 2 ^ (F.p - 1)
def Flt.big (F : Flt) (neg : Bool) : Nat := F.inf neg - 1

/-- The value of an encoding (R142, R143). -/
def Flt.decode (F : Flt) (b : Nat) : Num :=
  let s := b.testBit (F.width - 1)
  let e := (b >>> (F.p - 1)) % 2 ^ (F.width - F.p)
  let f := b % 2 ^ (F.p - 1)
  if e = F.emask then (if f = 0 then .inf s else .nan (!f.testBit (F.p - 2)))
  else if e = 0 then .fin s f (F.emin - (F.p - 1 : Nat))
  else .fin s (f + 2 ^ (F.p - 1)) (F.emin - (F.p - 1 : Nat) + (e - 1 : Nat))

/-! ## Rounding (R153, R155) -/

/-- Whether a rounding mode takes the magnitude up: `odd` last bit kept, `half` the discarded part against a half (as an ordering),
`rest` it is not zero. -/
def roundUp (rm : Nat) (neg odd : Bool) (half : Ordering) (rest : Bool) : Bool :=
  match rm % 4 with
  | 0 => half == .gt || (half == .eq && odd)
  | 1 => false
  | 2 => neg && rest
  | _ => !neg && rest

/-- The magnitude `m * 2^e` (and a little more where `sticky`) rounded to a multiple of `2^q`: the multiple, and whether it is inexact. -/
def roundAt (rm : Nat) (neg : Bool) (m : Nat) (e q : Int) (sticky : Bool) : Nat × Bool :=
  if q ≤ e then (m * 2 ^ (e - q).toNat, sticky)
  else
    let sh := Nat.min (q - e).toNat (m.log2 + 3)
    let n := m >>> sh
    let rem := m % 2 ^ sh
    let h := 2 ^ (sh - 1)
    let half : Ordering := if h < rem || (rem == h && sticky) then .gt else if rem = h then .eq else .lt
    let rest := rem != 0 || sticky
    (if roundUp rm neg (n % 2 == 1) half rest then n + 1 else n, rest)

/-- RoundTo of a nonzero magnitude `m * 2^e`, a little above where `sticky` (then `m` has more bits than the format): R155. -/
def roundMag (F : Flt) (rm : Nat) (neg : Bool) (m : Nat) (e : Int) (sticky : Bool) : Elem :=
  let top := e + (m.log2 : Nat)
  let qmin := F.emin - (F.p - 1 : Nat)
  let qu := top - (F.p - 1 : Nat)
  let u := roundAt rm neg m e qu sticky
  let tiny := decide (top < F.emin) && !(decide (top = F.emin - 1) && decide (u.1 = 2 ^ F.p))
  let r := if qu < qmin then roundAt rm neg m e qmin sticky else u
  let q := if qu < qmin then qmin else qu
  let high := decide (F.emax < q + (r.1.log2 : Nat)) && r.1 != 0
  if high then
    { val := (match rm % 4 with
        | 0 => F.inf neg
        | 1 => F.big neg
        | 2 => if neg then F.inf true else F.big false
        | _ => if neg then F.big true else F.inf false),
      fl := Flg.of ||| Flg.nx }
  else
    { val := F.signBit neg + (q - qmin).toNat * 2 ^ (F.p - 1) + r.1,
      fl := if r.2 then (if tiny then Flg.uf ||| Flg.nx else Flg.nx) else 0 }

/-- RoundTo of a value (R154): NaNs become the canonical NaN, zeros and infinities keep their sign. -/
def roundNum (F : Flt) (rm : Nat) (x : Num) : Elem :=
  match x with
  | .nan _ => { val := F.nan, fl := 0 }
  | .inf s => { val := F.inf s, fl := 0 }
  | .fin s m e => if m = 0 then { val := F.signBit s, fl := 0 } else roundMag F rm s m e false

/-! ## Exact arithmetic (R156, R157) -/

/-- An exact outcome and the NV flag that finding it sets. -/
structure Exact where
  num : Num
  fl : Flg
  deriving DecidableEq, Repr

def Num.isNan : Num → Bool
  | .nan _ => true
  | _ => false

def Num.isSig : Num → Bool
  | .nan s => s
  | _ => false

def sigFlag (b : Bool) : Flg := if b then Flg.nv else 0

/-- A signed mantissa. -/
def signed (neg : Bool) (m : Nat) : Int := if neg then -(m : Int) else (m : Int)

/-- Product (R156, R157). -/
def mulNum (a b : Num) : Exact :=
  match a, b with
  | .nan s, y => { num := .nan false, fl := sigFlag (s || y.isSig) }
  | x, .nan s => { num := .nan false, fl := sigFlag (s || x.isSig) }
  | .inf s, .inf t => { num := .inf (s != t), fl := 0 }
  | .inf s, .fin t m _ => if m = 0 then { num := .nan false, fl := Flg.nv } else { num := .inf (s != t), fl := 0 }
  | .fin t m _, .inf s => if m = 0 then { num := .nan false, fl := Flg.nv } else { num := .inf (s != t), fl := 0 }
  | .fin s m e, .fin t n g => { num := .fin (s != t) (m * n) (e + g), fl := 0 }

/-- Sum under a rounding mode, which signs an exact zero (R156, R157). -/
def addNum (rm : Nat) (a b : Num) : Exact :=
  match a, b with
  | .nan s, y => { num := .nan false, fl := sigFlag (s || y.isSig) }
  | x, .nan s => { num := .nan false, fl := sigFlag (s || x.isSig) }
  | .inf s, .inf t => if s = t then { num := .inf s, fl := 0 } else { num := .nan false, fl := Flg.nv }
  | .inf s, .fin _ _ _ => { num := .inf s, fl := 0 }
  | .fin _ _ _, .inf s => { num := .inf s, fl := 0 }
  | .fin s m e, .fin t n g =>
    if m = 0 && n = 0 then { num := .fin ((s && t) || (rm % 4 == 2 && !(s && t))) 0 0, fl := 0 }
    else if m = 0 then { num := .fin t n g, fl := 0 }
    else if n = 0 then { num := .fin s m e, fl := 0 }
    else
      let lo := if e ≤ g then e else g
      let v := signed s m * (2 : Int) ^ (e - lo).toNat + signed t n * (2 : Int) ^ (g - lo).toNat
      if v = 0 then { num := .fin (rm % 4 == 2) 0 0, fl := 0 } else { num := .fin (decide (v < 0)) v.natAbs lo, fl := 0 }

def Num.negate : Num → Num
  | .nan s => .nan s
  | .inf s => .inf (!s)
  | .fin s m e => .fin (!s) m e

/-- a * b + c, exact before one rounding (R154). -/
def fmaNum (rm : Nat) (a b c : Num) : Exact :=
  let p := mulNum a b
  let q := addNum rm p.num c
  { num := q.num, fl := p.fl ||| q.fl }

/-- An exact outcome rounded to a format. -/
def Exact.round (x : Exact) (F : Flt) (rm : Nat) : Elem :=
  let r := roundNum F rm x.num
  { val := r.val, fl := x.fl ||| r.fl }

/-- Fma32 on encodings (R154). -/
def fma32 (a b c : Nat) : Elem := (fmaNum 0 (f32.decode a) (f32.decode b) (f32.decode c)).round f32 0
/-- RNE32 of a sum and of a product of FP32 encodings. -/
def add32 (a b : Nat) : Elem := (addNum 0 (f32.decode a) (f32.decode b)).round f32 0
def mul32 (a b : Nat) : Elem := (mulNum (f32.decode a) (f32.decode b)).round f32 0

/-! ## Order (R158) -/

/-- Comparison of two values that are not NaN; `zeros` tells -0 from +0. -/
def cmpNum (zeros : Bool) (a b : Num) : Ordering :=
  match a, b with
  | .inf s, .inf t => if s = t then .eq else if s then .lt else .gt
  | .inf s, _ => if s then .lt else .gt
  | _, .inf t => if t then .gt else .lt
  | .fin s m e, .fin t n g =>
    if m = 0 && n = 0 then (if zeros && s != t then (if s then .lt else .gt) else .eq)
    else
      let lo := if e ≤ g then e else g
      compare (signed s m * (2 : Int) ^ (e - lo).toNat) (signed t n * (2 : Int) ^ (g - lo).toNat)
  | _, _ => .eq

/-- Minimum or maximum: -0 below +0, a NaN gives the canonical NaN (R158). -/
def minMax (F : Flt) (max : Bool) (a b : Nat) : Elem :=
  let x := F.decode a
  let y := F.decode b
  if x.isNan || y.isNan then { val := F.nan, fl := sigFlag (x.isSig || y.isSig) }
  else
    let c := cmpNum true x y
    { val := if (c == .lt) == max then b else a, fl := 0 }

/-- The predicates of R245: eq, ne, lt, le, gt, ge. -/
def predHolds (pred : Nat) (o : Ordering) : Bool :=
  match pred with
  | 0 => o == .eq
  | 1 => o != .eq
  | 2 => o == .lt
  | 3 => o != .gt
  | 4 => o == .gt
  | _ => o != .lt

/-- A floating comparison with its flag (R158). -/
def fcmp (F : Flt) (pred a b : Nat) : Bool × Flg :=
  let x := F.decode a
  let y := F.decode b
  if x.isNan || y.isNan then (pred == 1, sigFlag (x.isSig || y.isSig || decide (2 ≤ pred)))
  else (predHolds pred (cmpNum false x y), 0)

/-! ## Integers (R145, R160) -/

/-- An integer element's value: two's complement in the signed codes. -/
def intVal (c b : Nat) : Int :=
  let w := codeWidth c
  if codeSigned c && b.testBit (w - 1) then (b : Int) - 2 ^ w else (b : Int)

def intLo (c : Nat) : Int := if codeSigned c then -(2 ^ (codeWidth c - 1)) else 0
def intHi (c : Nat) : Int := if codeSigned c then 2 ^ (codeWidth c - 1) - 1 else 2 ^ codeWidth c - 1

/-- The bits of an integer modulo 2^w. -/
def intBits (w : Nat) (z : Int) : Nat := (z % (2 ^ w : Nat)).toNat

def clampInt (z lo hi : Int) : Int := if z < lo then lo else if hi < z then hi else z

/-- An exact integer result: wrapped, or clamped with SAT (R160). -/
def intResult (c : Nat) (sat : Bool) (z : Int) : Elem :=
  if sat && (decide (z < intLo c) || decide (intHi c < z)) then
    { val := intBits (codeWidth c) (clampInt z (intLo c) (intHi c)), fl := Flg.sat }
  else { val := intBits (codeWidth c) z, fl := 0 }

/-- RoundInt of `(-1)^neg * m * 2^e`: the integer, and whether it is inexact (R149). -/
def roundInt (rm : Nat) (neg : Bool) (m : Nat) (e : Int) (sticky : Bool) : Int × Bool :=
  let r := roundAt rm neg m e 0 sticky
  (signed neg r.1, r.2)

/-- RoundInt of an integer divided by 2^k (R244). -/
def roundShift (rm : Nat) (z : Int) (k : Nat) : Int := (roundInt rm (decide (z < 0)) z.natAbs (-(k : Int)) false).1

/-- A value converted to an integer code (R159). [DEDUCED, log 70] -/
def toInt (c rm : Nat) (x : Num) : Elem :=
  match x with
  | .nan _ => { val := 0, fl := Flg.nv }
  | .inf s => { val := intBits (codeWidth c) (if s then intLo c else intHi c), fl := Flg.nv }
  | .fin s m e =>
    -- a magnitude past every range is not expanded
    if 64 < e + (m.log2 : Nat) && m != 0 then { val := intBits (codeWidth c) (if s then intLo c else intHi c), fl := Flg.nv }
    else
      let r := roundInt rm s m e false
      if r.1 < intLo c || intHi c < r.1 then { val := intBits (codeWidth c) (clampInt r.1 (intLo c) (intHi c)), fl := Flg.nv }
      else { val := intBits (codeWidth c) r.1, fl := if r.2 then Flg.nx else 0 }

/-- An exact integer as a value. -/
def numOfInt (z : Int) : Num := .fin (decide (z < 0)) z.natAbs 0

/-! ## Grouped elements (R146-R149) -/

/-- Scale and zero point of an entry; the zero point of the signed codes is 0. -/
def entryScale (ent : Nat) : Nat := (ent >>> 8) % 65536
def entryZero (c ent : Nat) : Int := if codeSigned c then 0 else ((ent % 256 : Nat) : Int)

/-- Dequant: s * (q - z), exact (R148). -/
def dequant (c q ent : Nat) : Exact :=
  let d := intVal c q - entryZero c ent
  match f16.decode (entryScale ent) with
  | .nan s => { num := .nan false, fl := sigFlag s }
  | .inf s => if d = 0 then { num := .nan false, fl := Flg.nv } else { num := .inf (s != decide (d < 0)), fl := 0 }
  | .fin s m e => { num := .fin (s != decide (d < 0)) (m * d.natAbs) e, fl := 0 }

/-- The exact quotient of two magnitudes to 96 bits and more: mantissa, exponent, remainder left. -/
def divMag (m : Nat) (e : Int) (n : Nat) (g : Int) : Nat × Int × Bool :=
  let k := n.log2 + 96
  ((m * 2 ^ k) / n, e - g - (k : Int), (m * 2 ^ k) % n != 0)

/-- Quant (R149): the code of a value under an entry. [DESIGN CHOICE, log 69] -/
def quant (c rm : Nat) (x : Num) (ent : Nat) : Elem :=
  let z := entryZero c ent
  let w := codeWidth c
  match x, f16.decode (entryScale ent) with
  | .inf s, .fin t m _ =>
    if m = 0 then { val := intBits w z, fl := Flg.nv } else { val := intBits w (if s = t then intHi c else intLo c), fl := Flg.sat }
  | .fin s m e, .fin t n g =>
    if n = 0 then { val := intBits w z, fl := Flg.nv }
    else
      let d := divMag m e n g
      let far := decide (40 < d.2.1 + (d.1.log2 : Nat)) && d.1 != 0
      let r := if far then (signed (s != t) (2 ^ 40), (divMag m e n g).2.2 || decide (d.2.1 < 0 ∧ d.1 % 2 ^ (-d.2.1).toNat ≠ 0))
               else if d.1 = 0 then (0, false) else roundInt rm (s != t) d.1 d.2.1 d.2.2
      let q := r.1 + z
      { val := intBits w (clampInt q (intLo c) (intHi c)),
        fl := (if r.2 then Flg.nx else 0) ||| (if q < intLo c ∨ intHi c < q then Flg.sat else 0) }
  | _, _ => { val := intBits w z, fl := Flg.nv }

/-! ## Functions (R162) -/

/-- Integer square root, bit by bit from `2^k` down. -/
def isqrtGo (n : Nat) : Nat → Nat → Nat
  | 0, r => r
  | k + 1, r => if (r + 2 ^ k) * (r + 2 ^ k) ≤ n then isqrtGo n k (r + 2 ^ k) else isqrtGo n k r

def isqrt (n : Nat) : Nat := isqrtGo n (n.log2 / 2 + 1) 0

/-- Reading of an operand that is a NaN. -/
def nanElem (F : Flt) (sig : Bool) : Elem := { val := F.nan, fl := sigFlag sig }

def vdivOp (F : Flt) (rm a b : Nat) : Elem :=
  match F.decode a, F.decode b with
  | .nan s, y => nanElem F (s || y.isSig)
  | x, .nan s => nanElem F (s || x.isSig)
  | .inf _, .inf _ => nanElem F true
  | .inf s, .fin t _ _ => { val := F.inf (s != t), fl := 0 }
  | .fin s _ _, .inf t => { val := F.signBit (s != t), fl := 0 }
  | .fin s m e, .fin t n g =>
    if n = 0 then (if m = 0 then nanElem F true else { val := F.inf (s != t), fl := Flg.dz })
    else if m = 0 then { val := F.signBit (s != t), fl := 0 }
    else let d := divMag m e n g; roundMag F rm (s != t) d.1 d.2.1 d.2.2

def vrcpOp (F : Flt) (rm a : Nat) : Elem :=
  match F.decode a with
  | .nan s => nanElem F s
  | .inf s => { val := F.signBit s, fl := 0 }
  | .fin s m e =>
    if m = 0 then { val := F.inf s, fl := Flg.dz } else let d := divMag 1 0 m e; roundMag F rm s d.1 d.2.1 d.2.2

/-- A magnitude scaled to an even exponent and at least 128 bits. -/
def evenMag (m : Nat) (e : Int) : Nat × Int :=
  let k := 128 + (e % 2).toNat
  (m * 2 ^ k, e - k)

def vsqrtOp (F : Flt) (rm a : Nat) : Elem :=
  match F.decode a with
  | .nan s => nanElem F s
  | .inf s => if s then nanElem F true else { val := F.inf false, fl := 0 }
  | .fin s m e =>
    if m = 0 then { val := F.signBit s, fl := 0 }
    else if s then nanElem F true
    else
      let v := evenMag m e
      let r := isqrt v.1
      roundMag F rm false r (v.2 / 2) (r * r != v.1)

def vrsqrtOp (F : Flt) (rm a : Nat) : Elem :=
  match F.decode a with
  | .nan s => nanElem F s
  | .inf s => if s then nanElem F true else { val := 0, fl := 0 }
  | .fin s m e =>
    if m = 0 then { val := F.inf s, fl := Flg.dz }
    else if s then nanElem F true
    else
      -- 1 / (m * 2^e) = (2^k / m) * 2^(-e-k) with -e-k even
      let k := m.log2 + 128 + ((-e - (m.log2 : Nat)) % 2).toNat
      let r := isqrt (2 ^ k / m)
      roundMag F rm false r ((-e - (k : Int)) / 2) (r * r * m != 2 ^ k)

/-- floor(ln 2 * 2^384) (log 17). -/
def ln2 : Nat := 0xb17217f7d1cf79abc9e3b39803f2f6af40f343267298b62d8a0d175b8baafa2be7b876206debac98559552fb4afa1b10

/-- Sum of the Taylor series of exp at `x * 2^-384`, from term `k` of value `t`. [DEDUCED, log 17] -/
def expGo (x : Nat) : Nat → Nat → Nat → Nat → Nat
  | 0, _, _, acc => acc
  | n + 1, k, t, acc => let t1 := t * x / 2 ^ 384 / k; expGo x n (k + 1) t1 (acc + t1)

/-- 2^f in units of 2^-384, for the fraction `f * 2^-384` (log 17). -/
def exp2Frac (f : Nat) : Nat := expGo (f * ln2 / 2 ^ 384) 96 1 (2 ^ 384) (2 ^ 384)

/-- 2^x of a finite value, exact or with a remainder: mantissa, exponent, remainder (R162). -/
def exp2Fin (s : Bool) (m : Nat) (e : Int) : Nat × Int × Bool :=
  if m = 0 then (1, 0, false)
  else if 16 ≤ e + (m.log2 : Nat) then (2 ^ 40, (if s then -65576 else 65496), true)
  else if 0 ≤ e then (1, signed s (m * 2 ^ e.toNat), false)
  else
    let d := (-e).toNat
    let v := signed s m
    let i := v / ((2 : Int) ^ d)
    let f := (v % ((2 : Int) ^ d)).toNat
    if f = 0 then (1, i, false)
    else (exp2Frac (f * 2 ^ 384 / 2 ^ d), i - 384, true)

/-- VEXP2 on a value, rounded to a format (R162). [DEDUCED, log 17] -/
def exp2Num (F : Flt) (rm : Nat) (x : Num) : Elem :=
  match x with
  | .nan s => nanElem F s
  | .inf s => { val := if s then 0 else F.inf false, fl := 0 }
  | .fin s m e => let r := exp2Fin s m e; roundMag F rm false r.1 r.2.1 r.2.2

/-! ## Element operations on plain formats (R244, R270) -/

def eAdd (c rm : Nat) (sat : Bool) (a b : Nat) : Elem :=
  if codeFloat c then (addNum rm ((fltOf c).decode a) ((fltOf c).decode b)).round (fltOf c) rm
  else intResult c sat (intVal c a + intVal c b)

def eSub (c rm : Nat) (sat : Bool) (a b : Nat) : Elem :=
  if codeFloat c then (addNum rm ((fltOf c).decode a) ((fltOf c).decode b).negate).round (fltOf c) rm
  else intResult c sat (intVal c a - intVal c b)

def eMul (c rm : Nat) (sat : Bool) (a b : Nat) : Elem :=
  if codeFloat c then (mulNum ((fltOf c).decode a) ((fltOf c).decode b)).round (fltOf c) rm
  else intResult c sat (intVal c a * intVal c b)

def eFma (c rm : Nat) (sat : Bool) (a b d : Nat) : Elem :=
  if codeFloat c then (fmaNum rm ((fltOf c).decode a) ((fltOf c).decode b) ((fltOf c).decode d)).round (fltOf c) rm
  else intResult c sat (intVal c a * intVal c b + intVal c d)

def eMinMax (c : Nat) (max : Bool) (a b : Nat) : Elem :=
  if codeFloat c then minMax (fltOf c) max a b
  else { val := if decide (intVal c a < intVal c b) == max then b else a, fl := 0 }

/-- Exact negation and absolute value (R271). -/
def eNeg (c : Nat) (sat : Bool) (a : Nat) : Elem :=
  if codeFloat c then
    (match (fltOf c).decode a with
     | .nan s => nanElem (fltOf c) s
     | x => roundNum (fltOf c) 0 x.negate)
  else intResult c sat (-(intVal c a))

def eAbs (c : Nat) (sat : Bool) (a : Nat) : Elem :=
  if codeFloat c then
    (match (fltOf c).decode a with
     | .nan s => nanElem (fltOf c) s
     | .inf _ => { val := (fltOf c).inf false, fl := 0 }
     | .fin _ m e => roundNum (fltOf c) 0 (.fin false m e))
  else intResult c sat (intVal c a).natAbs

/-- A comparison with its flag (R245, R274). -/
def eCmp (c pred a b : Nat) : Bool × Flg :=
  if codeFloat c then fcmp (fltOf c) pred a b else (predHolds pred (compare (intVal c a) (intVal c b)), 0)

/-- An element as an exact value, plain or grouped (R145, R148). -/
def elemNum (c : Nat) (grouped : Bool) (b ent : Nat) : Exact :=
  if grouped then dequant c b ent
  else if codeFloat c then
    (match (fltOf c).decode b with
     | .nan s => { num := .nan false, fl := sigFlag s }
     | x => { num := x, fl := 0 })
  else { num := numOfInt (intVal c b), fl := 0 }

/-- Conversion of an exact value to a destination code (R149, R159, R160): an integer source that is not grouped narrows by R160. -/
def convTo (src dst rm : Nat) (sat srcGrouped dstGrouped : Bool) (b srcEnt dstEnt : Nat) : Elem :=
  let x := elemNum src srcGrouped b srcEnt
  let r :=
    if dstGrouped then quant dst rm x.num dstEnt
    else if codeFloat dst then roundNum (fltOf dst) rm x.num
    else if srcGrouped || codeFloat src then toInt dst rm x.num
    else intResult dst sat (intVal src b)
  { val := r.val, fl := x.fl ||| r.fl }

/-- 2^v of R247's function 001. -/
def convExp2 (src dst rm b : Nat) : Elem := exp2Num (fltOf dst) rm ((fltOf src).decode b)

end Sys2Proof.Machine
end

