-- ==== Sys2Proof/Machine/Reserved.lean ====
section
/-! DEFINITION. The reserved codes in the used fields of a bank's instructions, so far as the encoding alone decides them: a gang raises them
with no bank enabled (R187). -/
namespace Sys2Proof.Machine

/-- The registers of a hart's class (R344). -/
def csrKnown (k : HartKind) (a : Nat) : Bool :=
  decide (a ≤ 4) || (a == 5 && k == .bank) || a == 6 || a == 7 || (decide (0x10 ≤ a) && decide (a ≤ 0x14)) ||
  (decide (0x20 ≤ a) && decide (a ≤ 0x25) && k != .bank)

/-- The format that TYPE names: none where rtype gives it (R152). -/
def namedCode (f : FmtW) : Option Nat := if f.type = 0 then none else some f.type.toNat

/-- The format that TYPE names, if it does, meets a condition. -/
def namedOk (f : FmtW) (p : Nat → Bool) : Bool := ((namedCode f).map p).getD true

/-- A named format that is neither grouped nor the LUT's (R140, R237). -/
def namedPlain (f : FmtW) : Bool := namedOk f fun c => !codeGrouped c 0 && c != 11

/-- XM writes the destination or a source (R238). -/
def maskClash (f : FmtW) (srcs : List (BitVec 3)) : Bool := f.xm && (f.masko == f.od || srcs.contains f.masko)

/-- RESERVED-FIELD unless the condition holds. -/
def unlessOk (ok : Bool) : Option (BitVec 8) := if ok then none else some Cause.reservedField

/-- The field rules of a two-source elementwise instruction. -/
def reservedElem (f : FmtW) : Option (BitVec 8) := unlessOk (namedPlain f && !maskClash f [f.oa, f.ob])

/-- The field rules of RDOT and RSUM: the segment length, then a floating format. -/
def reservedDot (f : FmtW) (most : Nat) : Option (BitVec 8) :=
  let n := f.imm6.toNat % 16
  if namedPlain f && decide (4 ≤ n) && decide (n ≤ most) && namedOk f fun c => decide (2 ^ n ≤ rowMax c) then
    (if namedOk f codeFloat then none else some Cause.illegal)
  else some Cause.reservedField

/-- The cause of a reserved code or range in a used field (step 5 of R187). [DEDUCED, log 82] -/
def reservedUse (i : Instr) : Option (BitVec 8) :=
  match i with
  | .shli f => unlessOk (decide (f.imm.toNat < 64))
  | .shri f => unlessOk (decide (f.imm.toNat < 64))
  | .srai f => unlessOk (decide (f.imm.toNat < 64))
  | .csrr f => unlessOk (csrKnown .bank f.imm.toNat)
  | .csrw f => unlessOk (csrKnown .bank f.imm.toNat)
  | .rcopy f => unlessOk (f.od != f.oa)
  | .radd f => reservedElem f
  | .rsub f => reservedElem f
  | .rmul f => reservedElem f
  | .rfma f => reservedElem f
  | .rmin f => reservedElem f
  | .rmax f => reservedElem f
  | .rand f => reservedElem f
  | .rbor f => reservedElem f
  | .rxor f => reservedElem f
  | .rscl f => reservedElem f
  | .rshr f =>
    if namedPlain f && !maskClash f [f.oa] && decide (f.imm6.toNat < ((namedCode f).map codeWidth).getD 32) then
      (if (namedCode f).any codeFloat then some Cause.illegal else none)
    else some Cause.reservedField
  | .rcmp f => unlessOk (namedPlain f && !maskClash f [f.oa, f.ob] && decide (f.imm6.toNat < 6))
  | .rsel f => unlessOk (namedPlain f)
  | .rcvt f => unlessOk (f.type != 0 && f.type != 11 && decide (f.imm6.toNat < 16) && !maskClash f [f.oa])
  | .lutdot f => unlessOk (namedOk f fun c => c == 1 || c == 2 || c == 11)
  | .rdot f => reservedDot f 15
  | .rsum f => if f.imm6.getLsbD 5 || f.ob == 0 then reservedDot f (if f.imm6.getLsbD 5 then 8 else 15) else some Cause.reservedField
  | .qst f => unlessOk (namedOk f codeFloat && decide (256 * f.imm6.toNat + 256 ≤ ((namedCode f).map rowMax).getD 4096))
  | .rtopk f => unlessOk (decide (1 ≤ f.imm6.toNat) && decide (f.imm6.toNat ≤ 32))
  | .shfl f => unlessOk (decide (f.imm6.toNat < 24))
  | .rred f => unlessOk (namedPlain f && !maskClash f [])
  | .rgete f => unlessOk (namedOk f (· != 11))
  | .rsete f => unlessOk (namedOk f (· != 11))
  | _ => none

end Sys2Proof.Machine
end

