-- ==== Sys2Proof/Machine/Perform.lean ====
section
/-! DEFINITION. The frame of every instruction: the checks of R187 that precede its own, the drain points of the replay queue, and what
becomes of its outcome (R187, R422-R434, R450-R456, R481). -/
namespace Sys2Proof.Machine

/-- What `exec` and `step` answer. -/
abbrev Result := Host.Outcome State Fault Refusal

/-- The MAJOR of an instruction (0 for a step of the device). -/
def major (i : Instr) : Nat := (instrWord i).toNat % 256

/-- Vector and matrix instructions of the X-hart: they go through the vector queue (R428). -/
def queued (i : Instr) : Bool := major i == 0x60 || major i == 0x61 || major i == 0x62 || major i == 0x64 || major i == 0x80

/-- Majors whose checks of step 5 raise late (R458). -/
def lateMajor (i : Instr) : Bool := queued i || major i == 0x63

/-- Format X with FOLL = 1, reached by issue (R186). -/
def strayFollow (i : Instr) : Bool := major i == 0x80 && (instrWord i).getLsbD 55

/-- An instruction that may stand in a follow-on's place: MMA or MMAS with FOLL = 1 (R186). -/
def isFollowOn (j : Instr) : Bool :=
  match j with
  | .mma f => f.foll
  | .mmas f => f.foll
  | _ => false

/-- A copy with FOLL = 1 that anything else follows (R186). -/
def loneCopy (i : Instr) (s : State) : Bool :=
  match i with
  | .cpy f => f.foll && badPlace (fetchFollow s)
  | .cpyw f => f.foll && badPlace (fetchFollow s)
  | _ => false
where
  badPlace : Fetch → Bool
    | .instr j => !isFollowOn j
    | .illegal _ => true
    | .absent _ => false

/-- VMERGE reads MREG whatever its modifier bits hold (R275). -/
def readsMreg (i : Instr) : Bool :=
  match i with
  | .vmerge _ => true
  | _ => false

/-- Step 4 of R187: the lowest vector register that a field names above the allotment (R463). -/
def allotFault (allot : Nat) (i : Instr) : Option Nat :=
  let w := instrWord i
  let v := major i == 0x60 || major i == 0x61 || major i == 0x62 || major i == 0x64
  let named := (shape i).ops.filterMap fun p => match p.1 with
    | .src .v => some p.2.num.toNat
    | .dst .v => some p.2.num.toNat
    | _ => none
  let named := if v && (w.getLsbD 59 || w.getLsbD 62 || readsMreg i) then (w.extractLsb' 54 5).toNat :: named else named
  (named.filter fun n => decide (allot ≤ n)).foldl (fun m n => match m with
    | none => some n
    | some k => some (Nat.min k n)) none

/-- Instructions that a gang performs with no bank enabled: those of R42, and RFT, which all eight banks perform (R454). [DEDUCED, log 82] -/
def gangWide (i : Instr) : Bool :=
  major i == 0x20 || major i == 0x21 || major i == 0x22 ||
  (match i with
   | .bmask _ => true
   | .gang _ => true
   | .split _ => true
   | .rft _ => true
   | .convoyHeader _ => true
   | _ => false)

/-- A convoy header, which never traps (R177). -/
def isHeader (i : Instr) : Bool :=
  match i with
  | .convoyHeader _ => true
  | _ => false

/-! ## REFDUE (R481) -/

/-- A refresh deadline that bank `b` still has to report: some SAG due, and the bank in no handler. -/
def refdueOf (s : State) (g b : Nat) : Bool := (bankOf s g b).sags.any (fun p => p.2.due) && !(hartOf s (bankId g b)).ih

/-- One bit per SAG whose debt is 6 or more (R425). -/
def refdueMask (s : State) (g b : Nat) : Word :=
  BitVec.ofNat 64 ((List.range 8).foldl (fun n k => n + (if 6 ≤ ((bankOf s g b).sags.get {} k).debt then 2 ^ k else 0)) 0)

/-- The banks of the issuer that report REFDUE: every bank of a gang, enabled or not. -/
def refdueBanks (s : State) : List Nat :=
  match s.cur with
  | .pergola g => if (perOf s g).actDone = 0 then (List.range 8).filter (refdueOf s g) else []
  | .bank g b => (splitBanks s g b).filter (refdueOf s g)
  | _ => []

/-- The reported crossings are reported once. -/
def clearDue (s : State) (g : Nat) (banks : List Nat) : State :=
  banks.foldl (fun t b => modBank t g b fun k =>
    { k with sags := (k.sags.map fun p => (p.1, { p.2 with due := false })).filter fun p => p.2 != {} }) s

/-! ## Drain points (R432) -/

/-- The stream of an access or command, by its format. -/
def streamOf (i : Instr) : Option Nat :=
  let w := instrWord i
  let m := major i
  if m == 0x30 then some (w.extractLsb' 34 4).toNat
  else if m == 0x31 || m == 0x63 then some (w.extractLsb' 54 4).toNat
  else if m == 0x90 || m == 0x91 || m == 0x92 then some (w.extractLsb' 44 4).toNat
  else match i with
    | .waitv _ => some (w.extractLsb' 54 4).toNat
    | .getpg _ => some 0
    | _ => none

/-- Instructions that are drain points whatever they name: fences, acquires, releases, TOKWAIT, queue pushes, barrier arrivals, PUBLISH,
JOIN, EXIT, and the accesses that lie on every stream (R107, R432). -/
def drainsAlways (i : Instr) : Bool :=
  match i with
  | .fence _ => true
  | .ldacq _ => true
  | .strel _ => true
  | .tokwait _ => true
  | .qpush _ => true
  | .bqpush _ => true
  | .bararr _ => true
  | .publish _ => true
  | .join _ => true
  | .exit _ => true
  | .catalloc _ => true
  | .catmap _ => true
  | .catshare _ => true
  | .catfree _ => true
  | .scope _ => true
  | .cancel _ => true
  | .cwait _ => true
  | .barinit _ => true
  | .barwait _ => true
  | .waitv f => f.mod.getLsbD 6
  | _ => major i == 0x31 && (instrWord i).extractLsb' 60 2 != 0

/-- The bytes of an entry's unit, from SIZE (R430). -/
def ReplayEntry.bytes (e : ReplayEntry) : Nat :=
  match e.size.toNat with
  | 0 => 1
  | 1 => 2
  | 2 => 4
  | _ => 3

/-- The bytes that a scalar load, store, atomic or WAITV names: its address and width. -/
def scalarBytes (h : Hart) (i : Instr) : Option (Nat × Nat) :=
  let w := instrWord i
  let reads (f : FmtM) : Option (Nat × Nat) := some ((h.opnd f.base + f.off.signExtend 64).toNat, 2 ^ (f.wid.toNat % 4))
  match i with
  | .ld f => reads f
  | .st f => reads f
  | .ldnt f => reads f
  | .waitv f => some ((h.opnd f.a).toNat, 2 ^ (f.mod.extractLsb' 8 2).toNat)
  | _ => if major i == 0x31 then (shape i).ops.findSome? fun p => match p.1 with
      | .src .x => some ((h.opnd p.2).toNat, 2 ^ (w.extractLsb' 62 2).toNat)
      | _ => none
    else none

/-- An entry of the replay queue delays this instruction of its hart: an access waits for an overlapping one before it (R109). [DEDUCED, log 81] -/
def drainedBy (h : Hart) (i : Instr) (e : ReplayEntry) : Bool :=
  drainsAlways i || streamOf i == some e.strm.toNat ||
  (match i with
   | .sbar f => f.imm.getLsbD e.strm.toNat
   | _ => false) ||
  (match scalarBytes h i with
   | some a => decide (a.1 < e.va.toNat + e.bytes) && decide (e.va.toNat < a.1 + a.2)
   | none => false) ||
  (!e.st && (shape i).ops.any fun p => match p.1 with
    | .src .v => p.2.num.toNat == e.reg.toNat
    | .dst .v => p.2.num.toNat == e.reg.toNat
    | _ => false)

/-- The instruction is a drain point of the hart. RFT retries the queue and is none (R433); while a unit waits for room, the handler that is to
retry the queue issues (R430, R434). -/
def drainPoint (h : Hart) (i : Instr) : Bool :=
  (match i with
   | .rft _ => false
   | _ => true) && (!h.roomWait.isEmpty && !h.replay.isEmpty && !h.ih || h.replay.any (drainedBy h i))

/-- The replay trap: the oldest entry's cause and address (R432). -/
def replayStop (s : State) (id : Nat) : Stop :=
  match (hartOf s id).replay with
  | [] => .wait s false
  | e :: _ => .drain s e.cause (e.va.setWidth 64)

/-! ## The checks in order, and the outcome -/

/-- Faults by bank delivered where the program counter stands: to the gang, or to the issuing hart alone (R454). -/
def trapBanks (s : State) (own : List (Nat × BitVec 8 × Word)) (late : Bool) : State :=
  if inGroup s then trapGang s (curPc s) own
  else takeTrap s (curPc s) (own.headD (0, 0, 0)).2.1 (own.headD (0, 0, 0)).2.2 late false

/-- A UE of this instruction reports a row of the bank, not an address: every UE of a row instruction but that of the port's address, which
is not the coordinate of ROUT's own register with a poisoned segment (R475, R491). -/
def rowUe (s : State) (i : Option Instr) (id : Nat) (info : Word) : Bool :=
  match i with
  | some (.rout f) =>
    let q := (bankOf s (perOfHart id) (bankOfHart id)).o.get {} f.oa.toNat
    decide (info.toNat % 2 ^ 32 = regCoord (perOfHart id) (bankOfHart id) f.oa.toNat q) && decide (info.toNat / 2 ^ 39 = 0) &&
      q.poison.getLsbD (info.toNat / 2 ^ 32)
  | some (.rcast _) => false
  | some i => major i == 0x40 || major i == 0x41 || major i == 0x42 || major i == 0x43 || major i == 0x44
  | none => false

/-- The UEs that an outcome of `i` in `s` delivers, logged in the state after it (R491). -/
def logged (s : State) (i : Option Instr) (st : Stop) (t : State) : State :=
  let one (id : Nat) (code : BitVec 8) (info : Word) (t : State) : State :=
    if code = Cause.ue then logUe s t id info (rowUe s i id info) else t
  let many (own : List (Nat × BitVec 8 × Word)) : State := own.foldl (fun t p => one (bankId (curPer s) p.1) p.2.1 p.2.2 t) t
  match st with
  | .trap code info => one (leadHart s) code info t
  | .after _ code info => one (leadHart s) code info t
  | .drain _ code info => one (leadHart s) code info t
  | .part _ code _ info => one (leadHart s) code info t
  | .banks own => many own
  | .banksAfter _ own => many own
  | .wait _ _ => t

/-- What an instruction's outcome leaves: its effect, a trap (R424, R454), a wait at its place, or a partition fault. A cancelled hart takes
no trap and waits for nothing: it stops as at a kill point (R58, R450). [DEDUCED, log 21] -/
def finish (s : State) (i : Option Instr) (late : Bool) (r : M State) : State :=
  match r with
  | .ok t => t
  | .error st =>
    if cancelled s then killCur s
    else logged s i st <| match st with
      | .trap code info => takeTrap s (curPc s) code info late false
      | .banks own => trapBanks s own late
      | .after t code info => takeTrap t (curPc t) code info late false
      | .drain t code info => takeTrap t (curPc t) code info false false
      | .banksAfter t own => trapBanks t own late
      | .wait t blocking =>
        { if blocking then modHarts t (allHarts t) fun h => { h with parked := true } else t with waited := true }
      | .part t code engine info =>
        partitionFault t (leadHart t) { cause := code, origin := BitVec.ofNat 16 (leadHart t), engine := engine, info := info, fpc := curPc t }

/-- The faults of the issuer's banks where some report REFDUE: `own` gives what a bank has to report before it, or besides it in another bank
(R454, R458). [DEDUCED, log 21] -/
def withRefdue (s : State) (first other : Nat → Option (BitVec 8 × Word)) : List (Nat × BitVec 8 × Word) :=
  let g := curPer s
  let due := refdueBanks s
  ((allHarts s).map bankOfHart).filterMap fun b =>
    match first b with
    | some e => some (b, e)
    | none => if due.contains b then some (b, Cause.refdue, refdueMask s g b) else (other b).map fun e => (b, e)

/-- The REFDUEs among these faults are reported once. -/
def refdueSaid (s : State) (own : List (Nat × BitVec 8 × Word)) : State :=
  clearDue s (curPer s) ((own.filter fun p => p.2.1 == Cause.refdue).map (·.1))

/-- The trap that REFDUE makes of the banks which report it, the others with what they report of their own (R454, R481). [DEDUCED, log 21] -/
def refdueStop (s : State) (other : Nat → Option (BitVec 8 × Word)) : Stop :=
  let own := withRefdue s (fun _ => none) other
  .banksAfter (refdueSaid s own) own

/-- What each bank has to report of its own of an instruction's outcome. -/
def ownOf (r : M State) (b : Nat) : Option (BitVec 8 × Word) :=
  match r with
  | .error (.trap code info) => some (code, info)
  | .error (.after _ code info) => some (code, info)
  | .error (.banks l) => l.lookup b
  | .error (.banksAfter _ l) => l.lookup b
  | _ => none

/-- The instructions that check REFDUE with the row registers they name, after RESCUED (R458): majors 0x40 to 0x43 but REFQ, and RGETE and
RSETE. -/
def rowChecked (i : Instr) : Bool :=
  match i with
  | .refq _ => false
  | .rgete _ => true
  | .rsete _ => true
  | _ => major i == 0x40 || major i == 0x41 || major i == 0x42 || major i == 0x43

/-- Steps 1 to 4 of R187, and the drain points: the stop; `none` where the instruction's own meaning comes next. -/
def preCheck (k : HartKind) (i : Instr) (s : State) : Option Stop :=
  if isHeader i then none
  else if strayFollow i || loneCopy i s then some (.trap Cause.illegal (instrWord i))
  else if !hartExecutes k i then some (.trap Cause.hartclass (instrWord i))
  else if !fieldsOk k i then some (.trap Cause.reservedField (instrWord i))
  else match (if k = .aHart ∨ k = .xHart then allotFault (coreOf s (curCore s)).allot i else none) with
    | some n => some (.trap Cause.allot (BitVec.ofNat 64 n))
    | none => if drainPoint (hartOf s (leadHart s)) i then some (replayStop s (leadHart s)) else none

/-- A gang with no bank enabled passes over an instruction that is not `gangWide` (R42, R456). -/
def passedOver (i : Instr) (s : State) : Bool := inGang s && (performers s).isEmpty && !gangWide i

/-- Passed over, but for a reserved code in its used fields (R187). [DEDUCED, log 82] -/
def passOver (i : Instr) (s : State) : M State :=
  match reservedUse i with
  | some code => .error (.trap code (instrWord i))
  | none => .ok (advance s)

/-- REFDUE is raised before an instruction that does not check it itself. -/
def refdueFirst (i : Instr) (s : State) : Bool := !isHeader i && !(refdueBanks s).isEmpty && !(rowChecked i && !passedOver i s)

/-- The instruction reads or writes the bank's FLAGS. -/
def usesFlags (i : Instr) : Bool :=
  match i with
  | .bf _ => true
  | .bnf _ => true
  | .bmask f => f.imm6.extractLsb' 4 2 == 0
  | .csrr f => f.imm.toNat == 3
  | .csrw f => f.imm.toNat == 3
  | _ => false

/-- The instruction reads or writes NFLAGS. -/
def usesNflags (i : Instr) : Bool :=
  match i with
  | .csrr f => f.imm.toNat == 4
  | .csrw f => f.imm.toNat == 4
  | _ => false

/-- Matrix work of the running step that a stop caught and that is still to be reissued; the X-hart goes on after it (R437, R441). -/
def reissuePending (k : Core) : Bool :=
  match k.step with
  | none => false
  | some i => k.matrix.any fun w => w.again && !w.follow && sameStep w.entry.info i

/-- What the instruction builds on is there: caught matrix work reissued, and results of lane work that a bank's instruction names, scalar
registers, FLAGS and NFLAGS (R169, R233, R437). -/
def resultsReady (i : Instr) (s : State) : Bool :=
  (performers s).all fun id =>
    if id < 0x8000 then !(decide (id < 256) && id % 2 == 1 && reissuePending (coreOf s (coreOfHart id)))
    else
      let k := bankOf s (perOfHart id) (bankOfHart id)
      let now := (perOf s (perOfHart id)).rc
      (k.xAt.isEmpty || (shape i).ops.all fun p => match p.1 with
        | .src .x => decide (k.xAt.get 0 p.2.num.toNat ≤ now)
        | .dst .x => decide (k.xAt.get 0 p.2.num.toNat ≤ now)
        | _ => true) &&
      (!usesFlags i || decide (k.flagsAt ≤ now)) && (!usesNflags i || decide (k.nflagsAt ≤ now))

/-- An instruction past its common checks: passed over, its own meaning, or a wait for what it builds on. -/
def carryOut (i : Instr) (s : State) (body : State → M State) : M State :=
  if passedOver i s then passOver i s else if resultsReady i s then body s else .error (.wait s false)

/-- An instruction: the common checks, then its own meaning `body`. -/
def perform (i : Instr) (s : State) (body : State → M State) : Result :=
  match curKind s with
  | none => .fault .noSuchUnit
  | some k =>
    match preCheck k i s with
    | some st => .next (finish s (some i) false (.error st))
    | none =>
      let r := carryOut i s body
      .next (if refdueFirst i s then finish s (some i) false (.error (refdueStop s (ownOf r))) else finish s (some i) (lateMajor i) r)

/-- An instruction that only writes registers and goes on. -/
def ok (s : State) : M State := .ok s

/-- A step of the device on a unit that exists; elsewhere the model stops. [DESIGN CHOICE, log 11] -/
def event (exists' : Bool) (s : State) : Result := if exists' then .next s else .fault .noSuchUnit

end Sys2Proof.Machine
end

