-- ==== Sys2Proof/Machine/Scalar.lean ====
section
/-! DEFINITION. Majors 0x01 to 0x03: scalar arithmetic (R198-R207). -/
namespace Sys2Proof.Machine

/-! ## The functions -/

/-- Number of leading zero bits below bit `n`. -/
def leadZeros (w : Word) : Nat → Nat
  | 0 => 0
  | n + 1 => if w.getLsbD n then 0 else leadZeros w n + 1

/-- Number of trailing zero bits among the `n` bits from bit `k`. -/
def trailZeros (w : Word) (k : Nat) : Nat → Nat
  | 0 => 0
  | n + 1 => if w.getLsbD k then 0 else trailZeros w (k + 1) n + 1

/-- Number of one bits below bit `n`. -/
def oneBits (w : Word) : Nat → Nat
  | 0 => 0
  | n + 1 => oneBits w n + (if w.getLsbD n then 1 else 0)

def clzOp (a : Word) : Word := BitVec.ofNat 64 (leadZeros a 64)
def ctzOp (a : Word) : Word := BitVec.ofNat 64 (trailZeros a 0 64)
def popcOp (a : Word) : Word := BitVec.ofNat 64 (oneBits a 64)

/-- The width that MOD[1:0] names in SEXT and ZEXT (R202). -/
def extWidth (mod : BitVec 10) : Nat := 8 <<< (mod.toNat % 4)

def sextOp (n : Nat) (a : Word) : Word := (a.setWidth n).signExtend 64
def zextOp (n : Nat) (a : Word) : Word := (a.setWidth n).setWidth 64

def minOp (a b : Word) : Word := if a.slt b then a else b
def maxOp (a b : Word) : Word := if b.slt a then a else b
def minuOp (a b : Word) : Word := if a.ult b then a else b
def maxuOp (a b : Word) : Word := if b.ult a then a else b
def bool64 (c : Bool) : Word := if c then 1 else 0

/-- The shift amount of b[5:0]. -/
def sh6 (b : Word) : Nat := b.toNat % 64

def rorOp (a b : Word) : Word := a.rotateRight (sh6 b)

/-- Position, cut length and mask of R203. -/
def bfPos (b : Word) : Nat := b.toNat % 64
def bfLen (b : Word) : Nat := Nat.min ((b.toNat >>> 8) % 128) (64 - bfPos b)
def bfMask (b : Word) : Word := BitVec.ofNat 64 ((2 ^ bfLen b - 1) <<< bfPos b)

/-- BFX of R203, with the sign mode of MOD[0]. -/
def bfxOp (sx : Bool) (a b : Word) : Word :=
  let f := (a &&& bfMask b) >>> bfPos b
  if sx && decide (0 < bfLen b) && f.getLsbD (bfLen b - 1) then f - BitVec.ofNat 64 (2 ^ bfLen b) else f

/-- BFI of R203. -/
def bfiOp (a b c : Word) : Word := (c &&& ~~~(bfMask b)) ||| ((a <<< bfPos b) &&& bfMask b)

def selOp (a b c : Word) : Word := if c ≠ 0 then a else b

/-- LIH of R204: 30 bits below the shifted source. -/
def lihOp (a : Word) (imm : BitVec 30) : Word := (a <<< 30) ||| imm.setWidth 64

def mulhOp (a b : Word) : Word := BitVec.ofInt 64 (a.toInt * b.toInt / 2 ^ 64)
def mulhuOp (a b : Word) : Word := BitVec.ofNat 64 (a.toNat * b.toNat / 2 ^ 64)

/-- DIV, DIVU, REM, REMU with the borderline cases of R207. -/
def divOp (a b : Word) : Word := if b = 0 then -1 else BitVec.ofInt 64 (a.toInt.tdiv b.toInt)
def divuOp (a b : Word) : Word := if b = 0 then -1 else BitVec.ofNat 64 (a.toNat / b.toNat)
def remOp (a b : Word) : Word := a - b * (if b = 0 then 0 else divOp a b)
def remuOp (a b : Word) : Word := a - b * (if b = 0 then 0 else divuOp a b)

/-! ## The shared shapes: every performing hart reads its sources, then writes its destination (R198, R199) -/

def scalar1 (f : FmtR) (op : Word → Word) (s : State) : M State :=
  ok (advance (modPerformers s fun h => h.dest f.d (op (h.opnd f.a))))

def scalar2 (f : FmtR) (op : Word → Word → Word) (s : State) : M State :=
  ok (advance (modPerformers s fun h => h.dest f.d (op (h.opnd f.a) (h.opnd f.b))))

def scalar3 (f : FmtR) (op : Word → Word → Word → Word) (s : State) : M State :=
  ok (advance (modPerformers s fun h => h.dest f.d (op (h.opnd f.a) (h.opnd f.b) (h.opnd f.c))))

def scalarImm (f : FmtI) (op : Word → Word) (s : State) : M State :=
  ok (advance (modPerformers s fun h => h.dest f.d (op (h.opnd f.a))))

/-- SignExtend(IMM30). -/
def immS (f : FmtI) : Word := f.imm.signExtend 64

/-! ## Major 0x01 -/

/-- ADD: (a + b)[63:0] (R201). -/
def execAdd (f : FmtR) (s : State) : Result := perform (.add f) s (scalar2 f (· + ·))

/-- SUB: (a - b)[63:0] (R201). -/
def execSub (f : FmtR) (s : State) : Result := perform (.sub f) s (scalar2 f (· - ·))

/-- AND: a & b (R201). -/
def execAnd (f : FmtR) (s : State) : Result := perform (.and f) s (scalar2 f (· &&& ·))

/-- OR: a | b (R201). -/
def execOr (f : FmtR) (s : State) : Result := perform (.or f) s (scalar2 f (· ||| ·))

/-- XOR: a ^ b (R201). -/
def execXor (f : FmtR) (s : State) : Result := perform (.xor f) s (scalar2 f (· ^^^ ·))

/-- ANDN: a & ~b (R201). -/
def execAndn (f : FmtR) (s : State) : Result := perform (.andn f) s (scalar2 f (fun a b => a &&& ~~~b))

/-- SHL: (a << b[5:0])[63:0] (R201). -/
def execShl (f : FmtR) (s : State) : Result := perform (.shl f) s (scalar2 f (fun a b => a <<< sh6 b))

/-- SHR: a >> b[5:0] with zeros (R201). -/
def execShr (f : FmtR) (s : State) : Result := perform (.shr f) s (scalar2 f (fun a b => a >>> sh6 b))

/-- SRA: a >> b[5:0] with copies of a[63] (R201). -/
def execSra (f : FmtR) (s : State) : Result := perform (.sra f) s (scalar2 f (fun a b => a.sshiftRight (sh6 b)))

/-- ROR: a rotated right by b[5:0] (R201). -/
def execRor (f : FmtR) (s : State) : Result := perform (.ror f) s (scalar2 f rorOp)

/-- MIN: the smaller, signed (R201). -/
def execMin (f : FmtR) (s : State) : Result := perform (.min f) s (scalar2 f minOp)

/-- MAX: the larger, signed (R201). -/
def execMax (f : FmtR) (s : State) : Result := perform (.max f) s (scalar2 f maxOp)

/-- MINU: the smaller, unsigned (R201). -/
def execMinu (f : FmtR) (s : State) : Result := perform (.minu f) s (scalar2 f minuOp)

/-- MAXU: the larger, unsigned (R201). -/
def execMaxu (f : FmtR) (s : State) : Result := perform (.maxu f) s (scalar2 f maxuOp)

/-- SLT: 1 if a < b, signed (R201). -/
def execSlt (f : FmtR) (s : State) : Result := perform (.slt f) s (scalar2 f (fun a b => bool64 (a.slt b)))

/-- SLTU: 1 if a < b, unsigned (R201). -/
def execSltu (f : FmtR) (s : State) : Result := perform (.sltu f) s (scalar2 f (fun a b => bool64 (a.ult b)))

/-- SEQ: 1 if a = b (R201). -/
def execSeq (f : FmtR) (s : State) : Result := perform (.seq f) s (scalar2 f (fun a b => bool64 (a == b)))

/-- CLZ: leading zero bits, 64 for 0 (R201). -/
def execClz (f : FmtR) (s : State) : Result := perform (.clz f) s (scalar1 f clzOp)

/-- CTZ: trailing zero bits, 64 for 0 (R201). -/
def execCtz (f : FmtR) (s : State) : Result := perform (.ctz f) s (scalar1 f ctzOp)

/-- POPC: one bits (R201). -/
def execPopc (f : FmtR) (s : State) : Result := perform (.popc f) s (scalar1 f popcOp)

/-- SEXT (R202). -/
def execSext (f : FmtR) (s : State) : Result := perform (.sext f) s (scalar1 f (sextOp (extWidth f.mod)))

/-- ZEXT (R202). -/
def execZext (f : FmtR) (s : State) : Result := perform (.zext f) s (scalar1 f (zextOp (extWidth f.mod)))

/-- BFX: a field of a (R203). -/
def execBfx (f : FmtR) (s : State) : Result := perform (.bfx f) s (scalar2 f (bfxOp (f.mod.getLsbD 0)))

/-- BFI: c with a field replaced from a (R203). -/
def execBfi (f : FmtR) (s : State) : Result := perform (.bfi f) s (scalar3 f bfiOp)

/-- SEL: a if c is not 0, else b (R201). -/
def execSel (f : FmtR) (s : State) : Result := perform (.sel f) s (scalar3 f selOp)

/-! ## Major 0x02 -/

/-- ADDI: (a + imm)[63:0] (R204). -/
def execAddi (f : FmtI) (s : State) : Result := perform (.addi f) s (scalarImm f (· + immS f))

/-- ANDI: a & imm (R204). -/
def execAndi (f : FmtI) (s : State) : Result := perform (.andi f) s (scalarImm f (· &&& immS f))

/-- ORI: a | imm (R204). -/
def execOri (f : FmtI) (s : State) : Result := perform (.ori f) s (scalarImm f (· ||| immS f))

/-- XORI: a ^ imm (R204). -/
def execXori (f : FmtI) (s : State) : Result := perform (.xori f) s (scalarImm f (· ^^^ immS f))

/-- SHLI, SHRI and SRAI: a count outside 0 to 63 is RESERVED-FIELD of step 5 (R205, R458). -/
def shiftImm (i : Instr) (f : FmtI) (op : Word → Word) (s : State) : M State := do
  needOwn s (decide (f.imm.toNat < 64)) Cause.reservedField (instrWord i)
  scalarImm f op s

/-- SHLI: (a << IMM30)[63:0] (R204, R205). -/
def execShli (f : FmtI) (s : State) : Result := perform (.shli f) s (shiftImm (.shli f) f (· <<< f.imm.toNat))

/-- SHRI: a >> IMM30 with zeros (R204, R205). -/
def execShri (f : FmtI) (s : State) : Result := perform (.shri f) s (shiftImm (.shri f) f (· >>> f.imm.toNat))

/-- SRAI: a >> IMM30 with copies of a[63] (R204, R205). -/
def execSrai (f : FmtI) (s : State) : Result := perform (.srai f) s (shiftImm (.srai f) f (·.sshiftRight f.imm.toNat))

/-- SLTI: 1 if a < imm, signed (R204). -/
def execSlti (f : FmtI) (s : State) : Result := perform (.slti f) s (scalarImm f (fun a => bool64 (a.slt (immS f))))

/-- SLTUI: 1 if a < imm[63:0], unsigned (R204). -/
def execSltui (f : FmtI) (s : State) : Result := perform (.sltui f) s (scalarImm f (fun a => bool64 (a.ult (immS f))))

/-- LI: imm[63:0] (R204). -/
def execLi (f : FmtI) (s : State) : Result := perform (.li f) s (scalarImm f (fun _ => immS f))

/-- LIH: ((a << 30) | IMM30)[63:0] (R204, R205). -/
def execLih (f : FmtI) (s : State) : Result := perform (.lih f) s (scalarImm f (fun a => lihOp a f.imm))

/-- ADDPC: (InstrAddr + imm)[63:0], in bytes (R204, R205). -/
def execAddpc (f : FmtI) (s : State) : Result := perform (.addpc f) s (scalarImm f (fun _ => curPc s + immS f))

/-! ## Major 0x03 -/

/-- MUL: (a * b)[63:0] (R206). -/
def execMul (f : FmtR) (s : State) : Result := perform (.mul f) s (scalar2 f (· * ·))

/-- MULH: bits 127:64 of the signed product (R206). -/
def execMulh (f : FmtR) (s : State) : Result := perform (.mulh f) s (scalar2 f mulhOp)

/-- MULHU: bits 127:64 of the unsigned product (R206). -/
def execMulhu (f : FmtR) (s : State) : Result := perform (.mulhu f) s (scalar2 f mulhuOp)

/-- DIV: signed quotient toward zero (R206, R207). -/
def execDiv (f : FmtR) (s : State) : Result := perform (.div f) s (scalar2 f divOp)

/-- DIVU: unsigned quotient (R206, R207). -/
def execDivu (f : FmtR) (s : State) : Result := perform (.divu f) s (scalar2 f divuOp)

/-- REM: a - b * DIV(a, b) (R206, R207). -/
def execRem (f : FmtR) (s : State) : Result := perform (.rem f) s (scalar2 f remOp)

/-- REMU: a - b * DIVU(a, b) (R206, R207). -/
def execRemu (f : FmtR) (s : State) : Result := perform (.remu f) s (scalar2 f remuOp)

/-- MADD: (a * b + c)[63:0] (R206). -/
def execMadd (f : FmtR) (s : State) : Result := perform (.madd f) s (scalar3 f (fun a b c => a * b + c))

end Sys2Proof.Machine
end

