-- ==== Sys2Proof/Machine/Control.lean ====
section
/-! DEFINITION. Majors 0x20 to 0x22: branches, jumps, jump tables and hardware loops (R208-R219, R459-R462). -/
namespace Sys2Proof.Machine

/-! ## Branches -/

/-- InstrAddr + 4 * SignExtend(OFF30) (R173). -/
def relTarget (pc : Word) (off : BitVec 30) : Word := pc + 4 * off.signExtend 64

/-- A branch on the leader's operands (R43, R209). -/
def branch (f : FmtB) (cond : Word → Word → Bool) (s : State) : M State :=
  ok (if cond (xRead s f.a) (xRead s f.b) then jumpTo (relTarget (curPc s) f.off) s else advance s)

/-- The condition of BF and BNF on FLAGS.STATE (R210). -/
def flagCond (cond : Nat) (st : BitVec 2) : Bool :=
  match cond % 4 with
  | 0 => st == 0
  | 1 => st == 1 || st == 2
  | 2 => st == 2
  | _ => st == 1

/-- BF and BNF read FLAGS of the leader (R210). -/
def branchFlag (f : FmtB) (want : Bool) (s : State) : M State :=
  ok (if flagCond f.a.bits.toNat (hartOf s (leadHart s)).flags = want then jumpTo (relTarget (curPc s) f.off) s else advance s)

/-- BEQ: taken when a = b (R209). -/
def execBeq (f : FmtB) (s : State) : Result := perform (.beq f) s (branch f (· == ·))
/-- BNE: taken when a differs from b (R209). -/
def execBne (f : FmtB) (s : State) : Result := perform (.bne f) s (branch f (· != ·))
/-- BLT: taken when a < b, signed (R209). -/
def execBlt (f : FmtB) (s : State) : Result := perform (.blt f) s (branch f BitVec.slt)
/-- BGE: taken when a >= b, signed (R209). -/
def execBge (f : FmtB) (s : State) : Result := perform (.bge f) s (branch f fun a b => !a.slt b)
/-- BLTU: taken when a < b, unsigned (R209). -/
def execBltu (f : FmtB) (s : State) : Result := perform (.bltu f) s (branch f BitVec.ult)
/-- BGEU: taken when a >= b, unsigned (R209). -/
def execBgeu (f : FmtB) (s : State) : Result := perform (.bgeu f) s (branch f fun a b => !a.ult b)
/-- BF: taken when the condition holds in FLAGS.STATE (R209, R210). -/
def execBf (f : FmtB) (s : State) : Result := perform (.bf f) s (branchFlag f true)
/-- BNF: taken when the condition does not hold (R209, R210). -/
def execBnf (f : FmtB) (s : State) : Result := perform (.bnf f) s (branchFlag f false)

/-! ## Jumps and calls -/

/-- The link written by a call: x[D] of the hart, or of all eight banks of a gang (R214). -/
def writeLink (d : Opnd) (link : Word) (s : State) : State := modHarts s (allHarts s) fun h => h.dest d link

/-- A jump to a register target, whose bits 1:0 must be 0 (R173). -/
def jumpReg (target : Word) (s : State) : M State := do
  need (target.toNat % 4 == 0) Cause.misalign target
  ok (jumpTo target s)

/-- A call: the link, then the target; a register target is checked first (R211). -/
def callReg (d : Opnd) (target : Word) (s : State) : M State := do
  need (target.toNat % 4 == 0) Cause.misalign target
  ok (jumpTo target (writeLink d (curPc s + 8) s))

/-- Register target of format J: x[A] + 4 * SignExtend(OFF30) (R211). -/
def regTarget (f : FmtJ) (s : State) : Word := relTarget (xRead s f.a) f.off

/-- A CFETCH that the issuer made has not landed. [DEDUCED, log 53] -/
def fetchPending (s : State) : Bool := fetchOf s (curOverlay s) (allHarts s)

/-- FJMP and FCALL: the wait for CFETCHes, then the checks of the target: aligned, and landed (R213, R462). [DEDUCED, log 53] -/
def fenced (target : Word) (s : State) : M Unit :=
  if fetchPending s then .error (.wait s false)
  else if target.toNat % 4 ≠ 0 then .error (.trap Cause.misalign target)
  else need (landed s (curOverlay s) target.toNat 4) Cause.segabsent target

/-- JMP (R211). -/
def execJmp (f : FmtJ) (s : State) : Result := perform (.jmp f) s fun s => ok (jumpTo (relTarget (curPc s) f.off) s)
/-- JMPR (R211). -/
def execJmpr (f : FmtJ) (s : State) : Result := perform (.jmpr f) s fun s => jumpReg (regTarget f s) s
/-- CALL (R211, R214). -/
def execCall (f : FmtJ) (s : State) : Result :=
  perform (.call f) s fun s => ok (jumpTo (relTarget (curPc s) f.off) (writeLink f.d (curPc s + 8) s))
/-- CALLR (R211, R214). -/
def execCallr (f : FmtJ) (s : State) : Result := perform (.callr f) s fun s => callReg f.d (regTarget f s) s
/-- RET (R211). -/
def execRet (f : FmtJ) (s : State) : Result := perform (.ret f) s fun s => jumpReg (xRead s f.a) s

/-- A read of a jump table through the instruction path (R212, R461). -/
def readTable (s : State) (off n : Nat) : M Nat :=
  match readCode s (curOverlay s) off n with
  | some v => .ok v
  | none => .error (.trap Cause.segabsent (BitVec.ofNat 64 off))

/-- JTAB: the entry that x[A] selects, or DEFAULT (R212, R461). -/
def jumpTable (f : FmtJ) (s : State) : M State := do
  let t := relTarget (curPc s) f.off
  let hdr ← readTable s t.toNat 8
  let i := (xRead s f.a).toNat
  let d ← if i < hdr % 2 ^ 32 then readTable s ((t.toNat + 8 + 4 * i) % 2 ^ 64) 4 else .ok (hdr / 2 ^ 32)
  ok (jumpTo (t + 4 * (BitVec.ofNat 32 d).signExtend 64) s)

/-- JTAB (R212). -/
def execJtab (f : FmtJ) (s : State) : Result := perform (.jtab f) s (jumpTable f)
/-- FJMP (R213). -/
def execFjmp (f : FmtJ) (s : State) : Result :=
  perform (.fjmp f) s fun s => do
    fenced (regTarget f s) s
    jumpReg (regTarget f s) s
/-- FCALL (R213, R214). -/
def execFcall (f : FmtJ) (s : State) : Result :=
  perform (.fcall f) s fun s => do
    fenced (regTarget f s) s
    callReg f.d (regTarget f s) s

/-! ## Hardware loops -/

/-- What TRAPINFO shows of LOOPSTACK: the live entries (R425). -/
def liveLoops (s : State) : Word := BitVec.ofNat 64 (ctl s).loops.length

/-- LOOP and LOOPI with their count (R216, R460). -/
def loopPush (end24 : BitVec 24) (count : Word) (s : State) : M State := do
  let c := ctl s
  let fin := c.pc + 4 * end24.setWidth 64
  need (!endsTop c.loops c.pc) Cause.loopstack (liveLoops s)
  if count = 0 then ok (setCtl s { c with pc := fin + 8 })
  else do
    need (decide (c.loops.length < 6)) Cause.loopstack (liveLoops s)
    ok (setCtl s { pc := c.pc + 8, loops := { index := 0, remain := count, start := c.pc + 8, fin := fin } :: c.loops })

/-- LBRK: the condition, and the pop of a break (R218). -/
def loopBreak (f : FmtR) (s : State) : M State := do
  let c := ctl s
  match c.loops with
  | [] => .error (.trap Cause.loopstack (liveLoops s))
  | t :: rest =>
    if (xRead s f.a == 0) = f.mod.getLsbD 0 then
      let r := endStep t.fin rest
      let s1 := setCtl s { pc := r.2.1, loops := r.1 }
      ok (if r.2.2 then markBoundary s1 else s1)
    else ok (advance s)

/-- LIDX: INDEX of the entry at a depth, into every performing hart (R219, R42). -/
def loopIndex (f : FmtI) (s : State) : M State := do
  need (decide (f.imm.toNat < 6)) Cause.reservedField (instrWord (.lidx f))
  match (ctl s).loops[f.imm.toNat]? with
  | none => .error (.trap Cause.loopstack (liveLoops s))
  | some e => ok (advance (modPerformers s fun h => h.dest f.d e.index))

/-- LOOP: the count of x[A] (R215, R216). -/
def execLoop (f : FmtL) (s : State) : Result := perform (.loop f) s fun s => loopPush f.end24 (xRead s f.a) s
/-- LOOPI: the count of IMM16 (R215, R216). -/
def execLoopi (f : FmtL) (s : State) : Result := perform (.loopi f) s (loopPush f.end24 (f.imm16.setWidth 64))
/-- LBRK (R218). -/
def execLbrk (f : FmtR) (s : State) : Result := perform (.lbrk f) s (loopBreak f)
/-- LIDX (R219). -/
def execLidx (f : FmtI) (s : State) : Result := perform (.lidx f) s (loopIndex f)

end Sys2Proof.Machine
end

