-- ==== Sys2Proof/Machine/Tensor.lean ====
section
/-! DEFINITION. Tensor maps: their fields, checks and element positions (R327, R328, R467). -/
namespace Sys2Proof.Machine

/-! ## Fields of the 128 bytes (R327) -/

def signedBits (t lo w : Nat) : Int := (BitVec.ofNat w (bits t lo w)).toInt

def tmKind (t : Nat) : Nat := bits t 64 3
def tmTrans (t : Nat) : Bool := t.testBit 71
def tmEsize (t : Nat) : Nat := 2 ^ bits t 69 2
def tmBase (t : Nat) : Nat := bits t 0 56
def tmSize (t n : Nat) : Nat := bits t (128 + 32 * n) 32
def tmStride (t n : Nat) : Int := signedBits t (256 + 40 * (n - 1)) 40
def tmBox (t n : Nat) : Nat := bits t (448 + 16 * n) 16
def tmOrigin (t n : Nat) : Int := signedBits t (512 + 32 * n) 32
def tmGidx (t : Nat) : Word := BitVec.ofNat 64 (bits t 640 64)
def tmDpitch (t : Nat) : Nat := bits t 704 32
def tmPw (t : Nat) : Nat := bits t 408 4
def tmPh (t : Nat) : Nat := bits t 412 4
def tmSw (t : Nat) : Nat := bits t 416 4
def tmSh (t : Nat) : Nat := bits t 420 4
def tmFw (t : Nat) : Nat := bits t 424 4
def tmFh (t : Nat) : Nat := bits t 428 4
def tmOw (t : Nat) : Nat := bits t 432 16

/-- Bytes of a destination row, and the number of rows (R328, R467). -/
def tmRowLen (t : Nat) : Nat := (if tmTrans t then tmBox t 1 else tmBox t 0) * tmEsize t
def tmRows (t : Nat) : Nat :=
  if tmKind t = 0 then (if tmTrans t then tmBox t 0 else tmBox t 1 * tmBox t 2 * tmBox t 3) else tmBox t 1

/-- Reserved bits, extents, and the fields that a KIND does not use (R327, R467). -/
def tmOk (t : Nat) : Bool :=
  bits t 736 288 == 0 && bits t 376 32 == 0 && bits t 72 56 == 0 && bits t 67 2 == 0 && bits t 56 8 == 0 && decide (tmKind t ≤ 2) &&
  (List.range 4).all (fun n => tmSize t n != 0 && tmBox t n != 0) && (tmKind t == 0 || (tmBox t 2 == 1 && tmBox t 3 == 1)) &&
  (!tmTrans t || (tmKind t == 0 && tmBox t 2 * tmBox t 3 == 1)) &&
  (if tmKind t = 1 then tmFw t != 0 && tmFh t != 0 && tmSw t != 0 && tmSh t != 0 && tmOw t != 0 && tmOrigin t 0 == 0 && tmOrigin t 2 == 0 &&
      tmBox t 0 == tmSize t 0 * tmFw t * tmFh t
   else bits t 408 40 == 0) &&
  (tmKind t == 2 || tmGidx t == 0) && (tmKind t != 2 || tmOrigin t 1 == 0) && decide (tmRowLen t ≤ tmDpitch t)

/-! ## Positions (R328) -/

/-- How many element positions there are. -/
def tmCount (t : Nat) : Nat := if tmKind t = 0 then tmBox t 0 * tmBox t 1 * tmBox t 2 * tmBox t 3 else tmBox t 0 * tmBox t 1

/-- Source address of a coordinate, `none` out of range. -/
def tmSrc (t : Nat) (i0 i1 i2 i3 : Int) : Option Word :=
  let within (n : Nat) (i : Int) : Bool := decide (0 ≤ i) && decide (i < tmSize t n)
  if within 0 i0 && within 1 i1 && within 2 i2 && within 3 i3 then
    some (BitVec.ofInt 64 (tmBase t + i0 * tmEsize t + i1 * tmStride t 1 + i2 * tmStride t 2 + i3 * tmStride t 3))
  else none

/-- Position `k` in the command's order: its source and the offset of its destination. -/
def tmPos (t : Nat) (idx : List Nat) (k : Nat) : Option Word × Nat :=
  let place (row col : Nat) : Nat := row * tmDpitch t + col * tmEsize t
  match tmKind t with
  | 0 =>
    let b0 := k % tmBox t 0
    let b1 := k / tmBox t 0 % tmBox t 1
    let b2 := k / (tmBox t 0 * tmBox t 1) % tmBox t 2
    let b3 := k / (tmBox t 0 * tmBox t 1 * tmBox t 2)
    (tmSrc t (tmOrigin t 0 + b0) (tmOrigin t 1 + b1) (tmOrigin t 2 + b2) (tmOrigin t 3 + b3),
     if tmTrans t then place b0 b1 else place (b1 + tmBox t 1 * (b2 + tmBox t 2 * b3)) b0)
  | 1 =>
    let m := k / tmBox t 0
    let r := k % tmBox t 0
    let c := r % tmSize t 0
    let fw := r / tmSize t 0 % tmFw t
    let fh := r / (tmSize t 0 * tmFw t)
    let p := bits t 544 32 + m
    let ox : Int := ((p % tmOw t : Nat) : Int)
    let oy : Int := ((p / tmOw t : Nat) : Int)
    (tmSrc t c (ox * tmSw t - tmPw t + fw) (oy * tmSh t - tmPh t + fh) (tmOrigin t 3), place m r)
  | _ =>
    let b0 := k % tmBox t 0
    let b1 := k / tmBox t 0
    (tmSrc t (tmOrigin t 0 + b0) (idx.getD b1 0) (tmOrigin t 2) (tmOrigin t 3), place b1 b0)

/-- The 32-bit words of GIDX. -/
def idxWords (l : List Byte) (n : Nat) : List Nat := unpackElems 32 n (leNat l)

end Sys2Proof.Machine
end

