-- ==== Sys2Proof/Machine/Record.lean ====
section
/-! DEFINITION. Engine commands as their records describe them (R321-R330, R441). -/
namespace Sys2Proof.Machine

inductive EngKind where
  | cpy
  | cpyw
  | tfetch
  | prefb
  | tiermv
  | mld
  | mst
  deriving DecidableEq, Repr

def EngineRec.kind (e : EngineRec) : EngKind :=
  match e.instr.toNat % 16384 with
  | 0x090 => .cpy
  | 0x190 => .cpyw
  | 0x290 => .tfetch
  | 0x091 => .prefb
  | 0x191 => .tiermv
  | 0x380 => .mld
  | _ => .mst

def EngineRec.opA (e : EngineRec) : Word := e.ops.getD 0 0
def EngineRec.opB (e : EngineRec) : Word := e.ops.getD 1 0
def EngineRec.opC (e : EngineRec) : Word := e.ops.getD 2 0

/-- The command goes through a tensor map (R324, R329). -/
def EngineRec.mapped (e : EngineRec) : Bool :=
  match e.kind with
  | .cpy => e.opC.getLsbD 63
  | .cpyw => e.opC.getLsbD 63
  | .tfetch => true
  | _ => false

/-- The tensor map's address. -/
def EngineRec.mapAddr (e : EngineRec) : Word := if e.kind = .tfetch then e.opB else BitVec.ofNat 64 (e.opC.toNat % 2 ^ 56)

/-- Bytes to move, or element positions of a map. -/
def EngineRec.total (e : EngineRec) : Nat :=
  match e.kind with
  | .prefb => 0
  | .tiermv => e.opC.toNat
  | .mld => 65536
  | .mst => 65536
  | _ => if e.mapped then (match e.tmap with
    | some t => tmCount t.1
    | none => 1) else e.opC.toNat % 2 ^ 32

/-- Every byte or position is moved. -/
def EngineRec.moved (e : EngineRec) : Bool := decide (e.total ≤ e.done)

/-- The stream of the command (R323, R300). -/
def EngineRec.strm (e : EngineRec) : Nat :=
  if e.kind = .mld ∨ e.kind = .mst then bits e.instr.toNat 27 4 else bits e.instr.toNat 44 4

/-- The first access of the command has begun: a map is read as the command issues (R108, R126, R328). -/
def EngineRec.begun (e : EngineRec) : Bool :=
  e.mapped || e.moved || decide (0 < e.done) || !e.buffer.isEmpty || e.awaiting.isSome || e.arrived.isSome

/-- A slot is read by an MST in flight (R289). -/
def beingStored (k : Core) (n : Nat) : Bool :=
  k.engines.any fun e => e.instr.toNat % 16384 == 0x480 && bits e.instr.toNat 14 3 == n

end Sys2Proof.Machine
end

