-- ==== Sys2Proof/Machine/Order.lean ====
section
/-! DEFINITION. What orders a hart's accesses: packets to peers and engine commands are performed after their issue, so an access that must
follow earlier ones waits for acknowledgements and for the first accesses of commands (R108-R117, R138, log 5). -/
namespace Sys2Proof.Machine

/-- The commands of a step among a core's, and the others. -/
def ownEngines (k : Core) (i : StepInfo) : List EngineRec := k.engines.filter fun e => sameStep e.info i
def otherEngines (k : Core) (i : StepInfo) : List EngineRec := k.engines.filter fun e => !sameStep e.info i

/-- The commands of a step in flight: a step that was moved leaves those it issued on its old core (R368, R370). -/
def stepCommands (s : State) (i : StepInfo) : List EngineRec := s.cores.flatMap fun k => ownEngines k.2 i

/-- The commands that a hart of a step issued, in flight (R117, R134). -/
def commandsOf (s : State) (id : Nat) : List EngineRec :=
  (stepCommands s ((stepOfHart s id).getD { launch := 0, step := 0, prio := 0, context := 0, scope := 0 })).filter fun e => e.hart % 2 == id % 2

/-- A command of the hart that `sel` names has not begun its first access (R108, R113). -/
def unbegun (s : State) (id : Nat) (sel : EngineRec → Bool) : Bool := (commandsOf s id).any fun e => sel e && !e.begun

/-- Accesses and commands of a hart on streams that `sel` names are still to be performed, or to begin (R108, R111). -/
def streamBusy (s : State) (id : Nat) (sel : Nat → Bool) : Bool :=
  outstanding s id (fun p => sel p.strm && !p.wants) || unbegun s id fun e => sel e.strm

/-- An access on a stream is performed after the stream's earlier ones: acknowledged packets, begun commands (R108, R138). [DESIGN CHOICE, log 5] -/
def afterStream (s : State) (id strm : Nat) : M Unit := if streamBusy s id (· == strm) then .error (.wait s false) else .ok ()

/-- An access at a peer that overlaps an earlier one of the hart is performed after it, whatever their streams (R109). -/
def afterOverlap (s : State) (id l a n : Nat) : M Unit :=
  if outstanding s id fun p => p.kind != .copy && p.link == l && decide (p.address < a + n) && decide (a < p.address + p.size) && !p.wants then
    .error (.wait s false) else .ok ()

/-- As `afterStream` for every earlier access that the hart sent to a peer (R113). -/
def afterSent (s : State) (id : Nat) : M Unit := if outstanding s id fun p => !p.wants then .error (.wait s false) else .ok ()

/-- As `afterSent`, with the landing of the hart's own CFETCHes (R117, R384). -/
def afterLanding (s : State) (id : Nat) : M Unit := do
  afterSent s id
  if fetchOf s (overlayOfHart id) [id] then .error (.wait s false) else .ok ()

/-- Every earlier access of the hart, and the first access of each of its commands (R107, R113, R117). [DESIGN CHOICE, log 5] -/
def afterAll (s : State) (id : Nat) : M Unit := do
  afterLanding s id
  if unbegun s id fun _ => true then .error (.wait s false) else .ok ()

/-- The hart waits for an answer of the instruction it stands at, or holds answers that the instruction has not taken, or has performed some
of its units. -/
def Hart.midAccess (h : Hart) : Bool := h.awaiting.isSome || !h.replies.isEmpty || !h.vdone.isEmpty

/-- Everything that a core's two harts sent to peers is performed, and every load has returned (R368, R436). -/
def accessesDone (s : State) (k : Nat) : Bool :=
  [aHartId k, xHartId k].all fun id => !(hartOf s id).midAccess && !outstanding s id fun _ => true

/-- Commands and matrix instructions in flight on a core, those among them that a stop had caught and its running step takes up again, a copy
and its follow-on as one; a ninth waits (R441). -/
def inFlight (k : Core) : Nat :=
  k.engines.length +
  (k.matrix.filter fun w => !w.follow && (!w.again || (k.step.map (sameStep w.entry.info)).getD false)).length

end Sys2Proof.Machine
end

