-- ==== Sys2Proof/Machine/Coord.lean ====
section
/-! DEFINITION. Major 0x23: the two harts of a core, their queues, and monitors (R34-R36, R220-R226). -/
namespace Sys2Proof.Machine

/-- A blocking wait: nothing changes but that the hart stands at it (R58). -/
def blockAtState (s : State) : M State := .error (.wait s true)

/-- An interlock stall: nothing changes. -/
def stall (s : State) : M State := .error (.wait s false)

/-- A cancelled hart stops at an instruction that is a blocking wait, whether or not its condition holds (R58, R61). -/
def killFirst (s : State) : M Unit := if cancelled s then .error (.wait s true) else .ok ()

/-! ## FORK and JOIN -/

/-- The A-hart starts at the target: empty loop stack, x1-x7 of the X-hart, its other registers kept; it enters the home scope (R34, R59). [DEDUCED, log 22] -/
def startAHart (s : State) (k : Nat) (target : Word) : State :=
  let x := hartOf s (xHartId k)
  let s1 := modHart s (aHartId k) fun h =>
    { (List.range 8).foldl (fun h n => h.put n (x.get n)) h with pc := target, loops := [], run := .running, killReq := x.killReq }
  let s2 := modCore s1 k fun c => { c with bqProducer := none }
  match (coreOf s2 k).step with
  | some i => enterScope s2 i.context i.scope 1
  | none => s2

/-- FORK: waits until the A-hart is idle and the X-hart's accesses are performed, then starts it (R34, R135, R221). -/
def fork (f : FmtR) (s : State) : M State := do
  let target := xRead s f.a
  need (target.toNat % 4 == 0) Cause.misalign target
  afterLanding s (leadHart s)
  if (hartOf s (aHartId (curCore s))).run = .idle then ok (advance (startAHart s (curCore s) target)) else blockAtState s

/-- The A-hart has become idle, or a JOIN of both is reached: queues and producer are discarded, the X-hart goes on (R34). [DEDUCED, log 22] -/
def emptyQueues (s : State) (k : Nat) : State :=
  modCore s k fun c => { c with dq0 := [], dq1 := [], dq2 := [], dq3 := [], bq := [], bqProducer := none }

/-- JOIN: the hart stands at the rendezvous, its accesses performed; an idle A-hart meets it at once (R34, R135). -/
def join (s : State) : M State := do
  let k := curCore s
  killFirst s
  afterLanding s (leadHart s)
  if leadHart s = xHartId k ∧ (hartOf s (aHartId k)).run = .idle then ok (advance (emptyQueues s k))
  else ok (modHart s (leadHart s) fun h => { h with run := .atJoin })

/-- FORK (R34, R221). -/
def execFork (f : FmtR) (s : State) : Result := perform (.fork f) s (fork f)
/-- JOIN (R34). -/
def execJoin (f : FmtR) (s : State) : Result := perform (.join f) s join

/-- The A-hart leaves the scope when it becomes idle (R59). -/
def idleAHart (s : State) (k : Nat) : State :=
  let s1 := modHart s (aHartId k) fun h => h.drop .idle
  match (coreOf s1 k).step with
  | some i => leaveStep s1 i 1
  | none => s1

/-- JOIN_RENDEZVOUS: both harts stand at JOIN, or the A-hart is idle: the A-hart becomes idle, the queues empty, the X-hart continues after
its JOIN (R34). -/
def joinMeet (s : State) (k : Nat) : State :=
  let a := hartOf s (aHartId k)
  if (hartOf s (xHartId k)).run = .atJoin ∧ (a.run = .atJoin ∨ a.run = .idle) then
    let s1 := if a.run = .atJoin then idleAHart s k else s
    let s2 := emptyQueues s1 k
    advance { modHart s2 (xHartId k) fun h => { h with run := .running } with cur := .hart (xHartId k) }
  else s

/-- JOIN_RENDEZVOUS (R34). -/
def execJoinRendezvous (core : Nat) (s : State) : Result := event (decide (core < 128)) (joinMeet s core)

/-- The instruction that a hart stands at. -/
def standsAt (s : State) (id : Nat) : Option Instr :=
  match fetched { s with cur := .hart id } with
  | .instr i => some i
  | _ => none

/-- An instruction that is a pre-emption and kill point before it is performed: EXIT, and the waits of R58 whose condition is their own. -/
def isWait (i : Instr) : Bool :=
  match i with
  | .exit _ => true
  | .waitv _ => true
  | .mwait _ => true
  | .tokwait _ => true
  | .cwait _ => true
  | .barwait _ => true
  | .join _ => true
  | _ => false

/-- A_HART_START: the waiting FORK starts the A-hart once it is idle (R34). -/
def aStart (s : State) (k : Nat) : State :=
  let t := { s with cur := .hart (xHartId k) }
  if (hartOf s (xHartId k)).run = .running ∧ (hartOf s (xHartId k)).parked then
    match standsAt s (xHartId k) with
    | some (.fork f) => match fork f t with
      | .ok u => modHart u (xHartId k) fun h => { h with parked := false }
      | .error _ => s
    | _ => s
  else s

/-- A_HART_START (R34). -/
def execAHartStart (core : Nat) (s : State) : Result := event (decide (core < 128)) (aStart s core)

/-! ## Data queues and branch outcomes -/

def Core.dq (c : Core) (n : Nat) : List Word :=
  match n with
  | 0 => c.dq0
  | 1 => c.dq1
  | 2 => c.dq2
  | _ => c.dq3

def Core.setDq (c : Core) (n : Nat) (q : List Word) : Core :=
  match n with
  | 0 => { c with dq0 := q }
  | 1 => { c with dq1 := q }
  | 2 => { c with dq2 := q }
  | _ => { c with dq3 := q }

/-- The hart is the sending end of a queue: dq0 and dq1 carry A to X, dq2 and dq3 carry X to A (R35). -/
def sends (id n : Nat) : Bool := decide (id % 2 = 0) == decide (n < 2)

/-- QPUSH, a release (R35, R222, R224). [DEDUCED, log 52] -/
def qpush (f : FmtR) (s : State) : M State := do
  let n := f.d.num.toNat
  let k := curCore s
  need (sends (leadHart s) n) Cause.queue (BitVec.ofNat 64 n)
  afterAll s (leadHart s)
  let q := (coreOf s k).dq n
  if q.length < 16 then ok (advance (modCore s k fun c => c.setDq n (q ++ [xRead s f.a]))) else blockAtState s

/-- QPOP (R35, R222). -/
def qpop (f : FmtR) (s : State) : M State := do
  let n := f.a.num.toNat
  let k := curCore s
  need (!sends (leadHart s) n) Cause.queue (BitVec.ofNat 64 n)
  match (coreOf s k).dq n with
  | [] => blockAtState s
  | v :: q => ok (advance (xWrite (modCore s k fun c => c.setDq n q) f.d v))

/-- BQPUSH, a release: the first hart to push is the producer (R36, R223, R224). [DEDUCED, log 52] -/
def bqpush (f : FmtR) (s : State) : M State := do
  let k := curCore s
  let me := decide (leadHart s % 2 = 1)
  let c := coreOf s k
  need (c.bqProducer.getD me == me) Cause.queue 4
  afterAll s (leadHart s)
  if c.bq.length < 32 then
    ok (advance (modCore s k fun c => { c with bq := c.bq ++ [xRead s f.a != 0], bqProducer := some me }))
  else blockAtState s

/-- BQBR: the oldest outcome decides (R36, R223). -/
def bqbr (f : FmtR) (s : State) : M State := do
  let k := curCore s
  let me := decide (leadHart s % 2 = 1)
  let c := coreOf s k
  need (c.bqProducer != some me) Cause.queue 4
  match c.bq with
  | [] => blockAtState s
  | b :: q =>
    let s1 := modCore s k fun c => { c with bq := q }
    ok (if b then jumpTo (curPc s + 4 * f.mod.signExtend 64) s1 else advance s1)

/-- QPUSH (R35, R222). -/
def execQpush (f : FmtR) (s : State) : Result := perform (.qpush f) s (qpush f)
/-- QPOP (R35, R222). -/
def execQpop (f : FmtR) (s : State) : Result := perform (.qpop f) s (qpop f)
/-- BQPUSH (R36, R223). -/
def execBqpush (f : FmtR) (s : State) : Result := perform (.bqpush f) s (bqpush f)
/-- BQBR (R36, R223). -/
def execBqbr (f : FmtR) (s : State) : Result := perform (.bqbr f) s (bqbr f)

/-! ## Monitors -/

/-- The line that MONITOR arms: steps 1 to 5 of R457 as a one-byte load of an ordinary address; a peer address raises PROT (R225, R402). -/
def monitorLine (s : State) (c : AddrCtx) (va : Word) : Chk Nat := do
  let a := va.toNat
  if 2 ^ 54 ≤ a then .error (Cause.xlate, va)
  else
    let got ← match tlbFind s c.context a false with
      | some t => .ok (t.entry.toNat, t.large)
      | none => ((walk s a 4 (c.ptroot.toNat % 2 ^ 48)).map fun r => (r.1, r.2.2)).mapError fun e => (e, va)
    if !got.1.testBit 2 then .error (Cause.prot, va)
    else
      let pa := entryBase got.1 + (if got.2 then a % 2 ^ 21 else a % 2 ^ 16)
      match region s pa with
      | .peer _ _ => .error (Cause.prot, va)
      | _ => .ok (pa / 128 * 128)

/-- MONITOR: the line is armed, an older monitor replaced (R225). -/
def monitor (f : FmtR) (s : State) : M State := do
  let line ← lift (monitorLine s (hartCtx s (leadHart s)) (xRead s f.a))
  ok (advance (modHart s (leadHart s) fun h => { h with monitor := some { line := line, triggered := false } }))

/-- Why an MWAIT ends now, if it does (R226): lost (also where it was triggered before), triggered, timed out, or not armed. [DEDUCED, log 76] -/
def mwaitCode (s : State) (id : Nat) (t : Word) : Option Word :=
  let h := hartOf s id
  let now := (clockOfHart s id).ltime
  match h.monitor with
  | none => some 3
  | some m =>
    if m.lost then some 2
    else if m.triggered then some 0
    else match h.mwaitFrom with
      | some l => if t ≠ 0 ∧ t.toNat ≤ (now - l).toNat then some 1 else none
      | none => none

/-- MWAIT: ends with a reason code and disarms, or waits from this moment on (R226). -/
def mwait (f : FmtR) (s : State) : M State := do
  let id := leadHart s
  killFirst s
  match mwaitCode s id (xRead s f.a) with
  | some code => ok (advance (modHart s id fun h => { (h.dest f.d code) with monitor := none, mwaitFrom := none }))
  | none =>
    let from' := ((hartOf s id).mwaitFrom).getD (clockOfHart s id).ltime
    blockAtState (modHart s id fun h => { h with mwaitFrom := some from' })

/-- MONITOR (R225). -/
def execMonitor (f : FmtR) (s : State) : Result := perform (.monitor f) s (monitor f)
/-- MWAIT (R226). -/
def execMwait (f : FmtR) (s : State) : Result := perform (.mwait f) s (mwait f)

/-- A parked MWAIT ends if it can. -/
def endMwait (s : State) (id : Nat) : State :=
  if (hartOf s id).run = .running ∧ (hartOf s id).mwaitFrom.isSome then
    match standsAt s id with
    | some (.mwait f) => match mwait f { s with cur := .hart id } with
      | .ok t => modHart t id fun h => { h with parked := false }
      | .error _ => s
    | _ => s
  else s

/-- A hart that has a monitor (R225). -/
def hasMonitor (id : Nat) : Bool := kindOfId id == some .aHart || kindOfId id == some .xHart || kindOfId id == some .docent

/-- MWAIT_TIMEOUT: the wait's time has passed (R226). -/
def execMwaitTimeout (hart : Nat) (s : State) : Result := event (hasMonitor hart) (endMwait s hart)

/-- MONITOR_LOST: the device drops the monitor; a waiting MWAIT ends with 2 (R226). -/
def execMonitorLost (hart : Nat) (s : State) : Result :=
  event (hasMonitor hart)
    (endMwait (modHart s hart fun h => { h with monitor := h.monitor.map fun m => { m with lost := true } }) hart)

end Sys2Proof.Machine
end

