-- ==== Sys2Proof/Machine/Descriptor.lean ====
section
/-! DEFINITION. Descriptors of matrix products, as MMA, MMAS and follow-ons read them from registers (R292-R294, R298, R326). -/
namespace Sys2Proof.Machine

/-! ## Descriptors (R292-R294) -/

/-- A product's operands: registers as read, and the effective format of B. -/
structure Prod where
  /-- MMAS: kept values of 12, where SPN names none 12 itself; 0 for MMA -/
  sparse : Nat
  fmt : Nat
  accz : Bool
  slot : Nat
  da : Nat
  db : Nat
  db1 : Nat
  dk : Nat
  /-- DB names x63 -/
  last : Bool
  deriving DecidableEq, Repr

def Prod.blk (p : Prod) : Nat := bits p.db 61 2
def Prod.grouped (p : Prod) : Bool := codeGrouped p.fmt p.blk
def Prod.side (p : Prod) : Bool := p.grouped || p.sparse != 0
def Prod.aOff (p : Prod) : Nat := bits p.da 0 23
def Prod.aStride (p : Prod) : Nat := bits p.da 32 16
def Prod.bOff (p : Prod) : Nat := bits p.db 0 21
def Prod.bStride (p : Prod) : Nat := bits p.db 32 16
def Prod.staged (p : Prod) : Bool := p.db.testBit 63
def Prod.sOff (p : Prod) : Nat := bits p.db1 0 21
def Prod.mOff (p : Prod) : Nat := bits p.db1 32 21
def Prod.m (p : Prod) : Nat := bits p.dk 0 9
def Prod.n (p : Prod) : Nat := bits p.dk 16 10
def Prod.k (p : Prod) : Nat := bits p.dk 32 16
def Prod.base (p : Prod) : Nat := bits p.dk 53 4
def Prod.nt (p : Prod) : Nat := bits p.dk 57 3
def Prod.mt (p : Prod) : Nat := bits p.dk 60 3
def Prod.coop (p : Prod) : Bool := p.dk.testBit 63

/-- A's format (R292). -/
def Prod.aFmt (p : Prod) : Nat := if p.grouped || p.fmt == 2 then 4 else p.fmt

/-- Columns that one core's tile `tj` holds, and rows of `ti` (R298). -/
def Prod.cols (p : Prod) (tj : Nat) : Nat := if p.coop then Nat.min 128 (p.n - 128 * tj) else p.n
def Prod.rows (p : Prod) (ti : Nat) : Nat := if p.coop then Nat.min 128 (p.m - 128 * ti) else p.m

/-- The packed or plain rows of B (R294, R296). -/
def Prod.bRows (p : Prod) : Nat := if p.sparse = 0 then p.k else p.k / 12 * p.sparse

/-- Bytes of a row of B up to column `n`. -/
def Prod.rowBytes (p : Prod) (n : Nat) : Nat := elemBytes (codeWidth p.fmt) n

/-- Formats and descriptor fields (R292-R294, R296, R298): RESERVED-FIELD unless they hold. -/
def Prod.fieldsOk (p : Prod) : Bool :=
  (p.fmt == 1 || p.fmt == 2 || p.fmt == 3 || p.fmt == 4 || p.fmt == 5 || codeFloat p.fmt) &&
  !((p.fmt == 1 || p.fmt == 3) && p.blk == 0) && !((p.fmt == 5 || codeFloat p.fmt) && p.blk != 0) &&
  bits p.da 48 16 == 0 && bits p.da 23 9 == 0 && bits p.dk 48 5 == 0 && bits p.dk 26 6 == 0 && bits p.dk 9 7 == 0 && p.k != 0 &&
  (if p.coop then decide (1 ≤ p.mt) && decide (p.mt ≤ 3) && decide (1 ≤ p.nt) && decide (p.nt ≤ 5) && decide (p.mt * p.nt ≤ 15) &&
      decide (1 ≤ p.n) && decide (p.n ≤ 128 * p.nt) && decide (1 ≤ p.m) && decide (p.m ≤ 128 * p.mt)
   else p.mt == 0 && p.nt == 0 && decide (1 ≤ p.n) && decide (p.n ≤ 128) && decide (1 ≤ p.m) && decide (p.m ≤ 128)) &&
  bits p.db 48 13 == 0 && bits p.db 21 11 == 0 && (!p.staged || decide (p.bOff < 16)) &&
  (!p.side || (!p.last && !p.staged && bits p.db1 53 11 == 0 && bits p.db1 21 11 == 0)) &&
  (!p.grouped || p.k % 2 ^ blkLog p.blk == 0) && (p.sparse == 0 || p.k % 12 == 0 && p.sparse != 12)

/-- The range that reaches past the end of its buffer: the offset at which it begins (R294, R452). [DEDUCED, log 29] -/
def Prod.badRange (p : Prod) : Option Nat :=
  let w := p.cols 0
  if 2 ^ 23 < p.aOff + (p.m - 1) * p.aStride + elemBytes (codeWidth p.aFmt) p.k then some p.aOff
  else if p.staged && decide (0x20000 < (p.k - 1) * p.bStride + p.rowBytes p.n) then some 0
  else if !p.staged && decide (2 ^ 21 < p.bOff + (p.bRows - 1) * p.bStride + p.rowBytes w) then some p.bOff
  else if p.grouped && decide (2 ^ 21 < p.sOff + 4 * ((p.k / 2 ^ blkLog p.blk - 1) * p.n + w)) then some p.sOff
  else if p.sparse != 0 && decide (2 ^ 21 < p.mOff + 2 * ((p.k / 12 - 1) * p.n + w)) then some p.mOff
  else none

/-- The cores and tiles of a product issued on core `c` (R298). -/
def Prod.targets (p : Prod) (c : Nat) : List (Nat × Nat × Nat) :=
  if p.coop then
    ((List.range p.mt).map fun ti => (List.range p.nt).map fun tj =>
      (16 * (c / 16) + (p.base + ti * p.nt + tj) % 16, ti, tj)).flatten.filter fun x => decide (128 * x.2.1 < p.m) && decide (128 * x.2.2 < p.n)
  else [(c, 0, 0)]

/-- The operands of a product, from registers already read. -/
def Prod.make (f : FmtX) (sparse : Bool) (vtype : Word) (da db db1 dk : Word) : Prod :=
  { sparse := if sparse then (match f.spn.toNat with | 0 => 12 | 1 => 3 | 2 => 4 | _ => 6) else 0,
    fmt := (effOf f.fmt.toNat vtype).code, accz := f.accz, slot := f.slot.toNat, da := da.toNat, db := db.toNat, db1 := db1.toNat,
    dk := dk.toNat, last := f.db.num.toNat == 63 }

/-- The product that an instruction word names, from the registers DA, DB, DK and DB + 1 already read. -/
def prodOf (word : Word) (ops : List Word) (vtype : Word) : Option Prod :=
  let r (k : Nat) : Word := ops.getD k 0
  match decode (word.setWidth 32) ((word >>> 32).setWidth 32) with
  | .ok (.mma f, _) => some (Prod.make f false vtype (r 0) (r 1) (r 3) (r 2))
  | .ok (.mmas f, _) => some (Prod.make f true vtype (r 0) (r 1) (r 3) (r 2))
  | _ => none

/-- The product of a copy's follow-on. -/
def followProd (e : EngineRec) : Option Prod := prodOf e.finstr e.fops e.vtype

/-- The slot that a command's follow-on names. -/
def followSlot (e : EngineRec) : Nat := bits e.finstr.toNat 14 3

/-- The cores whose slot a follow-on writes (R298); its own core where its descriptor fails R292-R294, which the engine reports (R452). -/
def followCores (e : EngineRec) (c : Nat) : List Nat :=
  match followProd e with
  | some p => if p.fieldsOk then (p.targets c).map (·.1) else [c]
  | none => [c]

/-- MMA, MMAS or MDELTA, by an instruction word's MAJOR and SUB. -/
def matrixWord (w : Nat) : Bool := w % 16384 == 0x080 || w % 16384 == 0x180 || w % 16384 == 0x780

end Sys2Proof.Machine
end

