-- ==== Sys2Proof/Machine/Flags.lean ====
section
/-! DEFINITION. The flags: NFLAGS of a hart, FLAGS.STATE of a compare, exception masks (R166-R170, R208). -/
namespace Sys2Proof.Machine

/-- Flags set in a hart's NFLAGS, where they stay (R166). -/
def Hart.raise (h : Hart) (fl : Flg) : Hart := { h with nflags := h.nflags ||| fl }

/-- FLAGS.STATE from the outcomes of a compare's active elements (R208): none, some, all. -/
def cmpState (l : List Bool) : BitVec 2 := if !l.any id then 0 else if l.all id then 2 else 1

/-- The exception-mask element of a result of width `w` (R170). NX never enters it. -/
def excMask (w : Nat) (fl : Flg) : Nat :=
  let b (n : Nat) (k : Nat) : Nat := if fl.getLsbD n then 2 ^ k else 0
  let any := if (fl &&& 0x2F#6) != 0 then 1 else 0
  if w = 4 then any + b 0 1 + b 1 2 + b 5 3 else any + b 0 1 + b 1 2 + b 2 3 + b 3 4 + b 5 5

/-- FLAGS.STATE as it is stored: 11 is never held (R208). -/
def storedState (v : Word) : BitVec 2 := if v.setWidth 2 = 3#2 then 0 else v.setWidth 2

end Sys2Proof.Machine
end

