-- ==== Sys2Proof/Machine/Image.lean ====
section
/-! DEFINITION. Memory that holds the device's own state, as a program's access finds it: context images, step frames and spill records in use
(R102, R307, R355). -/
namespace Sys2Proof.Machine

def overlaps (a n b m : Nat) : Bool := decide (a < b + m) && decide (b < a + n)

/-- A stop record of a halted context, which system software reads and rewrites (R446). -/
def recordOpen (s : State) (phase : Phase) (i : StepInfo) : Bool := phase == .stopped && (haltOf s i.context).st == .halted

/-- The frames that hold a step's state and that the device reads back: of suspended, stopped and resuming steps, each with its image's
length and its own (R355). -/
def savedFrames (s : State) : List (Nat × Nat × Nat) :=
  (s.cores.map fun k => (match k.2.step with
      | some i => if k.2.phase == .running || k.2.phase == .landing then [] else
          [(k.2.frame, 0x8000, if recordOpen s k.2.phase i then 0x8000 else 0xA000)]
      | none => []) ++ k.2.suspended.map fun u => (u.frame, 0x8000, 0xA000)).flatten ++
  (s.pergolas.map fun p => (match p.2.step with
      | some i => if p.2.phase == .running || p.2.phase == .landing || recordOpen s p.2.phase i then [] else [(p.2.frame, 0, 0x1000)]
      | none => []) ++ (p.2.yielded.filter fun u => u.saved.isEmpty).map fun u => (u.frame, 0, 0x1000)).flatten

/-- The frames in use: those, and the running steps'. -/
def framesInUse (s : State) : List (Nat × Nat) :=
  (s.cores.filterMap fun k => if k.2.step.isSome && k.2.phase == .running then some (k.2.frame, 0xA000) else none) ++
  (s.pergolas.filterMap fun p => if p.2.step.isSome && p.2.phase == .running then some (p.2.frame, 0x1000) else none) ++
  (savedFrames s).map fun f => (f.1, f.2.2)

/-- The spill records of valid contexts that a range touches, each with its context and its number in the area: R102 holds for the whole area
(R307). -/
def recordsHit (s : State) (pa n : Nat) : List (Nat × Nat) :=
  (s.contexts.map fun e =>
    let base := spillAddr e.2.spillbase 0 0
    if !e.2.v || !deviceArea s base 0x4020000 || pa + n ≤ base || n = 0 then []
    else
      let first := (pa - base) / 0x10080
      (((List.range ((pa + n - 1 - base) / 0x10080 + 1 - first)).map fun j => first + j).filter fun k => decide (k < 1024)).map fun k => (e.1, k)).flatten

/-- Where a spill record lies. -/
def recordBase (s : State) (r : Nat × Nat) : Nat := spillAddr (s.contexts.get {} r.1).spillbase 0 0 + 0x10080 * r.2

/-- A program's read of memory: of an image, a frame or a spill area it is unspecified (R102). [DESIGN CHOICE, log 8] -/
def memRead (s : State) (pa n : Nat) : List Byte × State :=
  if (framesInUse s).any (fun f => overlaps pa n f.1 f.2) || !(recordsHit s pa n).isEmpty then freeBytes s n else (readBytes s pa n, s)

/-- Registers whose image a program has written hold unspecified values. [DESIGN CHOICE, log 8] -/
def spoilImages (s : State) (pa n : Nat) : State :=
  s.cores.foldl (fun t k =>
    let k' := coreOf t k.1
    if k'.step.isSome && k'.phase == .running && overlaps pa n k'.frame (1024 * k'.allot) then
      ((List.range k'.allot).filter fun r => overlaps pa n (k'.frame + 1024 * r) 1024).foldl (fun u r =>
        let b := freeBytes u 1024
        modCore b.2 k.1 fun c => { c with v := c.v.set 0 r (BitVec.ofNat 8192 (leNat b.1)) }) t
    else t) s

/-- Unspecified bytes in memory. -/
def freeInto (s : State) (pa n : Nat) : State := let b := freeBytes s n; writeBytes b.2 pa b.1

/-- What of a frame a write of `[pa, pa + n)` leaves unspecified: whole registers of its image, and the bytes written of the rest. [DESIGN CHOICE, log 8] -/
def spoilFrame (s : State) (pa n : Nat) (f : Nat × Nat × Nat) : State :=
  let regs := (List.range (f.2.1 / 1024)).filter fun r => overlaps pa n (f.1 + 1024 * r) 1024
  let lo := Nat.max pa (f.1 + f.2.1)
  let hi := Nat.min (pa + n) (f.1 + f.2.2)
  let t := regs.foldl (fun t r => freeInto t (f.1 + 1024 * r) 1024) s
  if lo < hi then freeInto t lo (hi - lo) else t

/-- A written spill record: the bytes written, the record's data, and the slot that the context holds for it are unspecified (R102, R307). [DESIGN CHOICE, log 8] -/
def spoilRecord (s : State) (pa n : Nat) (r : Nat × Nat) : State :=
  let base := recordBase s r
  let lo := Nat.max pa base
  let hi := Nat.min (pa + n) (base + 128)
  let t := freeInto (if lo < hi then freeInto s lo (hi - lo) else s) (base + 128) 65536
  let slot := (coreOf t (r.2 / 8)).slots.get {} (r.2 % 8)
  if slot.v && slot.owner.toNat == r.1 then
    let b := freeBytes t 65536
    modCore b.2 (r.2 / 8) fun k => { k with slots := k.slots.modify {} (r.2 % 8) fun x => { x with words := BitVec.ofNat 524288 (leNat b.1) } }
  else t

/-- A program's write of memory: a register, a saved step's state or a slot whose image or record it touches is unspecified (R102). [DESIGN CHOICE, log 8] -/
def memWrite (s : State) (pa : Nat) (bytes : List Byte) : State :=
  let n := bytes.length
  let s1 := spoilImages (writeBytes s pa bytes) pa n
  let s2 := ((savedFrames s).filter fun f => overlaps pa n f.1 f.2.2).foldl (fun t f => spoilFrame t pa n f) s1
  (recordsHit s pa n).foldl (fun t r => spoilRecord t pa n r) s2

end Sys2Proof.Machine
end

