-- ==== Sys2Proof/Machine/Frames.lean ====
section
/-! DEFINITION. Step frames, context images and stop records in memory (R100, R355, R438-R443): written at a suspension or a halt, read back
at resumption. -/
namespace Sys2Proof.Machine

/-! ## Places -/

/-- The step frame of a core at a priority, and the row frame of a Pergola (R355). -/
def frameAddr (base : Word) (core prio : Nat) : Nat := base.toNat % 2 ^ 48 + 0xA000 * (4 * core + prio)
def rowFrameAddr (base : Word) (g prio : Nat) : Nat := base.toNat % 2 ^ 48 + 0x1400000 + 0x1000 * (4 * g + prio)

/-- The frame that a context entry gives a core and a Pergola. -/
def coreFrame (s : State) (c : BitVec 16) (core prio : Nat) : Nat := frameAddr (s.contexts.get {} c.toNat).framebase core prio
def perFrame (s : State) (c : BitVec 16) (g prio : Nat) : Nat := rowFrameAddr (s.contexts.get {} c.toNat).framebase g prio

/-! ## Pieces -/

/-- A value's eight bytes, and zero bytes. -/
def dw (v : Word) : List Byte := leBytes 8 v.toNat
def zeros (n : Nat) : List Byte := List.replicate n 0

/-- TRAPCAUSE as a register (R423). -/
def Hart.trapcause (h : Hart) : Word :=
  BitVec.ofNat 64 (h.code.toNat + 256 * b2n h.ih + 65536 * b2n h.late + 131072 * Nat.min 64 h.replay.length)

/-- A loop stack with its count, six entries of INDEX, REMAIN, START, END, top first (R440). -/
def loopBytes (l : List LoopEntry) : List Byte :=
  dw (BitVec.ofNat 64 l.length) ++ ((List.range 6).map fun k =>
    match l[k]? with
    | some e => dw e.index ++ dw e.remain ++ dw e.start ++ dw e.fin
    | none => zeros 32).flatten

/-- A hart block (R440). -/
def hartBytes (h : Hart) : List Byte :=
  dw h.pc ++ dw (h.flags.setWidth 64) ++ dw (h.nflags.setWidth 64) ++ dw h.trapvec ++ dw h.trappc ++ dw h.trapcause ++ dw h.trapinfo ++
  dw h.trapscr ++ dw h.ptroot ++ dw h.catbase ++ dw h.hndbase ++ dw h.hndcount ++ dw h.spillbase ++ dw (if h.live then 0 else 1) ++
  dw h.spawn ++ zeros 8 ++ loopBytes h.loops ++ zeros 56 ++ ((List.range 64).map fun n => dw (h.get n)).flatten

/-- Memberships: object, then phase and a valid bit (R439). -/
def memberBytes (l : List Member) : List Byte :=
  ((List.range 4).map fun k => match l[k]? with
    | some m => dw m.object ++ dw (BitVec.ofNat 64 (m.phase.toNat + 2 ^ 32))
    | none => zeros 16).flatten

/-- A replay entry (R430). -/
def ReplayEntry.toNat (e : ReplayEntry) : Nat :=
  e.va.toNat + e.unit.toNat * 2 ^ 64 + e.reg.toNat * 2 ^ 75 + 2 ^ 80 + b2n e.st * 2 ^ 81 + e.size.toNat * 2 ^ 82 + e.strm.toNat * 2 ^ 84 +
    e.cause.toNat * 2 ^ 88 + e.data.toNat * 2 ^ 96

def ReplayEntry.ofNat (n : Nat) : ReplayEntry :=
  { va := BitVec.ofNat 56 n, unit := BitVec.ofNat 11 (n >>> 64), reg := BitVec.ofNat 5 (n >>> 75), st := n.testBit 81,
    size := BitVec.ofNat 2 (n >>> 82), strm := BitVec.ofNat 4 (n >>> 84), cause := BitVec.ofNat 8 (n >>> 88),
    data := BitVec.ofNat 32 (n >>> 96) }

/-- DONE of a command (R437): destination lines performed, 4 KiB granules for TIERMV, positions of a tensor map, nothing for TFETCH; reduction
positions or tokens of matrix work, which of a copy is its issued follow-on's. [DESIGN CHOICE, log 62] -/
def doneRecord (e : EngineRec) : Nat :=
  if matrixWord e.instr.toNat || (e.finstr != 0 && !e.fpend) then e.done
  else match e.instr.toNat % 16384 with
  | 0x290 => 0
  | 0x191 => e.done / 4096
  | 0x090 => if (e.ops.getD 2 0).getLsbD 63 then e.done else if e.done = (e.ops.getD 2 0).toNat % 2 ^ 32
             then ((e.ops.getD 0 0).toNat % 128 + e.done + 127) / 128 else ((e.ops.getD 0 0).toNat % 128 + e.done) / 128
  | 0x190 => if (e.ops.getD 2 0).getLsbD 63 then e.done else if e.done = (e.ops.getD 2 0).toNat % 2 ^ 32
             then ((e.ops.getD 0 0).toNat % 128 + e.done + 127) / 128 else ((e.ops.getD 0 0).toNat % 128 + e.done) / 128
  | 0x091 => e.done
  | _ => e.done / 128

/-- Progress from DONE, as `EngineRec.done` counts it. -/
def doneOfRecord (instr : Nat) (ops : List Word) (done : Nat) : Nat :=
  let linear (t : Nat) : Nat := Nat.min (128 * done - (if done = 0 then 0 else (ops.getD 0 0).toNat % 128)) t
  match instr % 16384 with
  | 0x290 => 0
  | 0x191 => 4096 * done
  | 0x090 => if (ops.getD 2 0).getLsbD 63 then done else linear ((ops.getD 2 0).toNat % 2 ^ 32)
  | 0x190 => if (ops.getD 2 0).getLsbD 63 then done else linear ((ops.getD 2 0).toNat % 2 ^ 32)
  | 0x091 => done
  | _ => 128 * done

/-- An engine record (R441). [DEDUCED, log 26] -/
def engineNat (e : EngineRec) : Nat :=
  1 + b2n e.fpend * 2 + e.engine.toNat * 2 ^ 8 + e.token % 32 * 2 ^ 11 + doneRecord e * 2 ^ 448 + e.instr.toNat * 2 ^ 512 +
    e.finstr.toNat * 2 ^ 576 + packElems 64 ((e.fops.take 3).map (·.toNat)) * 2 ^ 640 +
    packElems 64 ((e.ops.take 3).map (·.toNat)) * 2 ^ 832

/-- A segment list of 16 entries (R383). -/
def segBytes (l : List SegRange) : List Byte :=
  ((List.range 16).map fun k => match l[k]? with
    | some r => leBytes 4 r.len.toNat ++ leBytes 4 r.ovlOff.toNat ++ dw r.source
    | none => zeros 16).flatten

def dqBytes (q : List Word) : List Byte :=
  dw (BitVec.ofNat 64 q.length) ++ ((List.range 16).map fun k => dw (q.getD k 0)).flatten

def bqNat (k : Core) : Nat :=
  packElems 1 (k.bq.map b2n) + k.bq.length * 2 ^ 32 +
    (match k.bqProducer with | none => 0 | some false => 1 | some true => 2) * 2 ^ 38

/-- The tile names: map address and state (R439). -/
def tileBytes (t : Tbl Tile) : List Byte :=
  ((List.range 16).map fun n =>
    let x := t.get {} n
    dw x.map ++ dw (match x.st with | .empty => 0 | .loading => 1 | .staged => 2)).flatten

/-- The compute record and segment list, bytes 0x8000 to 0x9FFF of a step frame (R439). Engine records stand in it only at a halt. -/
def computeRecord (s : State) (c : Nat) (i : StepInfo) (hd : Header) (engines : List EngineRec) : List Byte :=
  let k := coreOf s c
  let x := hartOf s (xHartId c)
  let a := hartOf s (aHartId c)
  leBytes 64 hd.toNat ++ hartBytes x ++ hartBytes a ++
  dw (BitVec.ofNat 64 k.vl) ++ dw k.vtype ++ dw (BitVec.ofNat 64 k.vresume) ++ dw k.hw ++ dw (BitVec.ofNat 64 k.allot) ++ zeros 24 ++
  ((List.range 32).map fun n => BitVec.ofNat 8 (k.tokens.get 0 n)) ++ leBytes 8 (bqNat k) ++ zeros 24 ++
  dqBytes k.dq0 ++ dqBytes k.dq1 ++ dqBytes k.dq2 ++ dqBytes k.dq3 ++ zeros 32 ++ memberBytes x.members ++
  ((List.range 8).map fun n => match engines[n]? with
    | some e => leBytes 128 (engineNat e)
    | none => zeros 128).flatten ++
  tileBytes k.tiles ++ dw (BitVec.ofNat 64 a.replay.length) ++ zeros 56 ++
  ((List.range 64).map fun n => match a.replay[n]? with
    | some e => leBytes 16 e.toNat
    | none => zeros 16).flatten ++
  memberBytes a.members ++ zeros 0xB40 ++ segBytes i.segs

/-- The registers' image, bytes 0x0000 to 0x7FFF (R100): every allotted register. -/
def imageBytes (k : Core) : List Byte := ((List.range k.allot).map fun n => leBytes 1024 (k.v.get 0 n).toNat).flatten

/-- A step's state written to its frame. -/
def writeFrame (s : State) (c : Nat) (i : StepInfo) (hd : Header) (engines : List EngineRec) (frame : Nat) : State :=
  writeBytes (writeBytes s frame (imageBytes (coreOf s c))) (frame + 0x8000) (computeRecord s c i hd engines)

/-! ## Reading back (R369, R446) -/

def readDw (s : State) (a : Nat) : Word := BitVec.ofNat 64 (readNat s a 8)

def readLoops (s : State) (a : Nat) : List LoopEntry :=
  (List.range (Nat.min 6 (readNat s a 8))).map fun k =>
    { index := readDw s (a + 8 + 32 * k), remain := readDw s (a + 16 + 32 * k), start := readDw s (a + 24 + 32 * k),
      fin := readDw s (a + 32 + 32 * k) }

/-- The registers `x1` to `x(n-1)` read back. -/
def readRegs (s : State) (a n : Nat) (h : Hart) : Hart := (List.range n).foldl (fun h k => h.put k (readDw s (a + 8 * k))) h

/-- TRAPCAUSE written back; RCOUNT follows the queue. -/
def Hart.setCause (h : Hart) (v : Nat) : Hart :=
  { h with code := BitVec.ofNat 8 v, ih := v.testBit 8, late := v.testBit 16 }

def readMembers (s : State) (a : Nat) : List Member :=
  ((List.range 4).filter fun k => (readNat s (a + 16 * k + 8) 8).testBit 32).map fun k =>
    { object := readDw s (a + 16 * k), phase := BitVec.ofNat 32 (readNat s (a + 16 * k + 8) 4) }

/-- A hart read back from its block: everything that the record keeps. -/
def readHart (s : State) (a : Nat) (h : Hart) : Hart :=
  let live := !(readByte s (a + 0x68)).getLsbD 0
  let b : Hart := { context := h.context, priv := h.priv, home := h.home }
  (readRegs s (a + 0x180) 64
    { b with pc := readDw s a, flags := storedState (readDw s (a + 8)), nflags := BitVec.ofNat 6 (readNat s (a + 16) 8),
             trapvec := readDw s (a + 24), trappc := readDw s (a + 32), trapinfo := readDw s (a + 48), trapscr := readDw s (a + 56),
             ptroot := readDw s (a + 64), catbase := readDw s (a + 72), hndbase := readDw s (a + 80), hndcount := readDw s (a + 88),
             spillbase := readDw s (a + 96), spawn := readDw s (a + 112), loops := readLoops s (a + 0x80),
             run := if live then .running else .idle }).setCause (readNat s (a + 40) 8)

def readReplay (s : State) (a : Nat) : List ReplayEntry :=
  (List.range (Nat.min 64 (readNat s (a + 0xF40) 8))).map fun k => ReplayEntry.ofNat (readNat s (a + 0xF80 + 16 * k) 16)

def readDq (s : State) (a : Nat) : List Word := (List.range (Nat.min 16 (readNat s a 8))).map fun k => readDw s (a + 8 + 8 * k)

def readBq (n : Nat) : List Bool := (List.range (Nat.min 32 (bits n 32 6))).map fun k => n.testBit k

def readProducer (n : Nat) : Option Bool :=
  match bits n 38 2 with
  | 1 => some false
  | 2 => some true
  | _ => none

/-- MSTs read back get the words that they have still to store (R289). -/
def attachStores : List EngineRec → List EngineRec → List EngineRec
  | [], _ => []
  | e :: es, l => match l.find? fun w => w.snap.isSome && w.instr == e.instr && w.ops == e.ops with
    | some w => { e with snap := w.snap } :: attachStores es (l.erase w)
    | none => e :: attachStores es l

/-- The command records of a stop (R441, R447), with the tables of the A-hart that issued them. A copy whose follow-on was issued has moved
every byte; matrix work stands in `Core.matrix`. -/
def readEngines (s : State) (a c : Nat) (i : StepInfo) (h : Hart) : List EngineRec :=
  (attachStores · ((coreOf s c).stores.filter fun e => sameStep e.info i)) <| ((List.range 8).map fun n => readNat s (a + 0xA40 + 128 * n) 128).filterMap fun r =>
    if r.testBit 0 && !matrixWord (r >>> 512) then
      let ops := (unpackElems 64 3 (r >>> 832)).map (BitVec.ofNat 64)
      let next := (r >>> (576 + 27)) % 128 + 1
      some { instr := BitVec.ofNat 64 (r >>> 512), ops := ops, finstr := BitVec.ofNat 64 (r >>> 576),
             fops := (unpackElems 64 3 (r >>> 640)).map (BitVec.ofNat 64) ++ [h.get next],
             done := if bits r 576 64 != 0 && !r.testBit 1 then 2 ^ 64 else doneOfRecord (r >>> 512) ops (bits r 448 64),
             vtype := readDw s (a + 0x748),
             token := bits r 11 5, engine := BitVec.ofNat 3 (r >>> 8), fpend := r.testBit 1,
             hart := if (r >>> 512) % 256 = 0x80 then xHartId c else aHartId c, info := i, priv := h.priv,
             ptroot := h.ptroot, hndbase := h.hndbase, hndcount := h.hndcount }
    else none

/-- Registers with a live load entry, or a load unit that waits for room, stay empty (R430, R431). -/
def emptyMask (l : List ReplayEntry) : BitVec 32 :=
  l.foldl (fun m e => if e.st then m else m ||| BitVec.ofNat 32 (2 ^ e.reg.toNat)) 0

/-- A hart block of a compute step's record, `off` bytes into its frame: the X-hart's at 0x8040, the A-hart's at 0x83C0 (R439). -/
def savedHart (s : State) (i : StepInfo) (frame off : Nat) : Hart :=
  readHart s (frame + off) { context := i.context, priv := i.priv, home := i.scope }

/-- A hart that goes on from its record: no pre-emption point yet (R49), and killed at its next kill point when its scope was cancelled
before (R64, R447). -/
def Hart.resumed (h : Hart) (i : StepInfo) : Hart := { h with fresh := true, killReq := i.killPa.isSome && h.live }

/-- Registers that a caught MDELTA is still to write stay empty (R304, R437). -/
def awaitedMask (k : Core) (i : StepInfo) : BitVec 32 :=
  (k.matrix.filter fun w => w.again && !w.follow && sameStep w.entry.info i).foldl (fun m w =>
    w.outs.foldl (fun m r => m ||| BitVec.ofNat 32 (2 ^ r.1)) m) 0

/-- A compute step read back from its frame onto core `c`, its harts running on (R369). -/
def readFrame (s : State) (c : Nat) (i : StepInfo) (frame : Nat) : State :=
  let a := frame + 0x8000
  let x := { (savedHart s i frame 0x8040).resumed i with members := readMembers s (a + 0xA00) }
  let h := { (savedHart s i frame 0x83C0).resumed i with members := readMembers s (a + 0x1380), replay := readReplay s a }
  let waits := (hartOf s (aHartId c)).roomWait
  let s1 := modHart (modHart s (xHartId c) fun _ => x) (aHartId c) fun _ => h
  let bqn := readNat s (a + 0x7A0) 8
  modCore s1 c fun k =>
    { k with vl := readNat s (a + 0x740) 8, vtype := readDw s (a + 0x748), vresume := readNat s (a + 0x750) 8, hw := readDw s (a + 0x758),
             allot := readNat s (a + 0x760) 8,
             v := (List.range 32).foldl (fun t n => t.set 0 n (BitVec.ofNat 8192 (readNat s (frame + 1024 * n) 1024))) [],
             vempty := emptyMask (readReplay s a ++ waits) ||| awaitedMask k i,
             tokens := (List.range 32).foldl (fun t n => t.set 0 n (readByte s (a + 0x780 + n)).toNat) [],
             bq := readBq bqn, bqProducer := readProducer bqn,
             dq0 := readDq s (a + 0x7C0), dq1 := readDq s (a + 0x848), dq2 := readDq s (a + 0x8D0), dq3 := readDq s (a + 0x958),
             engines := k.engines ++ readEngines s a c i h,
             stores := k.stores.filter fun e => !sameStep e.info i, vpend := [], vqueue := [], step := some i,
             phase := .running, preemptReq := false, preemptOwn := false, frame := frame }

/-! ## Row records (R443) -/

/-- Lane instructions that write their destination only at their end, and so are restarted (R437): RTOPK, SHFL, RCAST, RSUM in column mode,
RRED in copy mode, and the transfers ROUT and SHRX. [DEDUCED, log 23] -/
def laneRestarts (w : Word) : Bool :=
  let m := w.toNat % 16384
  m == 0x742 || m == 0x43 || m == 0x143 || m == 0x243 || m == 0x343 || (m == 0x442 && w.getLsbD 63) || (m == 0x443 && w.getLsbD 58)

/-- A lane instruction of the bank is in flight: some of its elements have not entered. -/
def caughtLane (p : Pergola) (b : Nat) : Bool := decide (p.rc < (p.banks.get {} b).laneFree)

/-- The element groups that the lane instruction in flight has completed, one in each rc (R437). [DEDUCED, log 23] -/
def Bank.groupsDone (k : Bank) (rc : Nat) : Nat := if laneRestarts k.laneInstr then 0 else rc - k.laneFrom

/-- RCMP, which writes FLAGS with its last group. -/
def isRcmp (w : Word) : Bool := w.toNat % 16384 == 0xA41

/-- The hart as a halt records it: NFLAGS with the flags of the groups completed, FLAGS before an RCMP that is not complete (R437). [DEDUCED, log 23] -/
def Hart.atGroup (h : Hart) (k : Bank) (caught : Bool) (rc : Nat) : Hart :=
  if !caught then h
  else { h with nflags := (k.laneFlags.take (k.groupsDone rc)).foldl (· ||| ·) k.nflagsWas,
                flags := if isRcmp k.laneInstr then k.flagsWas else h.flags }

def bankBytes (s : State) (g : Nat) (stops : Bool) (b : Nat) : List Byte :=
  let h := (hartOf s (bankId g b)).atGroup (bankOf s g b) (stops && caughtLane (perOf s g) b) (perOf s g).rc
  ((List.range 16).map fun n => dw (h.get n)).flatten ++ dw h.pc ++ loopBytes h.loops ++ dw (h.flags.setWidth 64) ++
  dw (h.nflags.setWidth 64) ++ dw (bankOf s g b).rtype ++ dw h.trapvec ++ dw h.trappc ++ dw h.trapcause ++ dw h.trapinfo ++ dw h.trapscr ++
  dw (BitVec.ofNat 64 (b2n h.pred + 2 * b2n (h.run == .exited) + 4 * b2n (h.run == .atGang))) ++ zeros 8

/-- The lane instruction that a halt catches in a bank, and ELEM: the element groups completed, one in each rc (R437, R443). [DEDUCED, log 23] -/
def laneBytes (p : Pergola) (b : Nat) : List Byte :=
  let k := p.banks.get {} b
  if caughtLane p b then dw k.laneInstr ++ dw (BitVec.ofNat 64 (k.groupsDone p.rc)) else zeros 16

/-- The row record and segment list (R443). A step that is set aside leaves its lane work running in the bank. -/
def rowRecord (s : State) (g : Nat) (i : StepInfo) (hd : Header) : List Byte :=
  let p := perOf s g
  leBytes 64 hd.toNat ++ ((List.range 8).map (bankBytes s g (hd.kind != 0))).flatten ++ dw (if p.gang then 1 else 0) ++ dw p.pc ++ loopBytes p.loops ++
  zeros 40 ++ (if hd.kind = 0 then zeros 128 else ((List.range 8).map (laneBytes p)).flatten) ++ zeros 64 ++ segBytes i.segs

/-- A row frame that a step set aside still needs is kept before another step of its context and priority takes it. [DEDUCED, log 35] -/
def keepFrame (s : State) (g frame : Nat) : State :=
  modPer s g fun p => { p with yielded := p.yielded.map fun u =>
    if u.frame = frame && u.saved.isEmpty then { u with saved := readBytes s frame 0x1000 } else u }

/-- A row step's state written to its frame. [DEDUCED, log 23] -/
def saveRow (s : State) (g : Nat) (i : StepInfo) (hd : Header) (frame : Nat) : State :=
  let t := keepFrame s g frame
  writeBytes t frame (rowRecord t g i hd)

def modBanks (s : State) (g : Nat) (f : Bank → Bank) : State := (List.range 8).foldl (fun t b => modBank t g b f) s

/-- The bank sends a row, and its bytes are not all over the bus (R256, R437). -/
def Bank.sends (b : Bank) (rc : Nat) : Bool := b.laneInstr.toNat % 16384 == 0x143 && decide (rc < b.laneFree)

/-- The marks from which results are read, changed alike. -/
def Bank.mapMarks (b : Bank) (f : Nat → Nat) : Bank :=
  { b with flagsAt := f b.flagsAt, nflagsAt := f b.nflagsAt, lutAt := f b.lutAt, sfAt := f b.sfAt, xAt := b.xAt.map fun p => (p.1, f p.2),
           q := b.q.map fun p => (p.1, { p.2 with doneAt := f p.2.doneAt }) }

/-- A halt holds the lanes: they stop at an element group, and every register stands as OPEN until the step goes on; a row that has not crossed
the bus is sent again (R437). [DEDUCED, log 23] -/
def Bank.hold (b : Bank) (rc : Nat) : Bank :=
  { b.mapMarks (· - rc) with
    o := b.o.map (fun p => (p.1,
      if p.2.st = .busy then { p.2 with st := .opened, dirty := p.2.dirty || p.2.busyDirty, freeAt := rc } else p.2)),
    laneLeft := if b.sends rc then 0 else b.laneFree - rc, laneFrom := rc - b.laneFrom, laneFree := Nat.min b.laneFree rc,
    shrx := if b.sends rc then 0 else b.shrx }

/-- Rows of these senders are no longer on their way. -/
def dropSent (s : State) (senders : List Nat) : State :=
  if senders.isEmpty then s
  else { s with pergolas := s.pergolas.mapAll {} fun _ p => { p with banks := p.banks.mapAll {} fun _ b =>
    { b with sending := b.sending.filter fun r => !senders.contains r.sender } } }

/-- The lanes of a Pergola held by a halt. -/
def holdLanes (s : State) (g : Nat) : State :=
  let rc := (perOf s g).rc
  dropSent (modBanks s g fun b => b.hold rc) (((List.range 8).filter fun b => (bankOf s g b).sends rc).map (bankId g))

/-- The lanes go on with what was left, or with all of an instruction that is restarted; its effect is in place since its issue. [DEDUCED, log 23] -/
def Bank.goOn (b : Bank) (rc : Nat) : Bank :=
  let again := b.laneLeft != 0 && laneRestarts b.laneInstr
  let b := b.mapMarks fun m => if m = 0 then 0 else rc + m + (if again then b.laneFrom else 0)
  if b.laneLeft = 0 then b
  else
    let left := if again then b.laneLeft + b.laneFrom else b.laneLeft
    let o1 := b.laneReads.foldl (fun o n => o.modify {} n fun r => { r with readEnd := rc + left }) b.o
    let o2 := b.laneWrites.foldl (fun o n => o.modify {} n fun r =>
      if r.st = .opened then { r with st := .busy, busyEnd := rc + left + 6, busyDirty := false } else r) o1
    { b with o := o2, laneLeft := 0, laneFree := rc + left, laneFrom := if again then rc else rc - b.laneFrom }

/-- The flags that the rest of a held lane instruction raises, and an RCMP's FLAGS, come to the bank as its record left it (R437). [DEDUCED, log 23] -/
def resumeFlags (s : State) (g b : Nat) : State :=
  let k := bankOf s g b
  let h := hartOf s (bankId g b)
  let e := if laneRestarts k.laneInstr then 0 else k.laneFrom
  if k.laneLeft = 0 then s
  else
    modBank (modHart s (bankId g b) fun h => { h with nflags := (k.laneFlags.drop e).foldl (· ||| ·) h.nflags,
                                                      flags := if isRcmp k.laneInstr then k.cmpOut else h.flags }) g b
      fun k => { k with nflagsWas := h.nflags, flagsWas := h.flags, laneFlags := List.replicate e 0 ++ k.laneFlags.drop e }

/-- The memory of a mapped range that holds no device register, as a program reads and writes it. -/
def memReadRange (s : State) (m : RangeMap) : List Byte × State :=
  m.pieces.foldl (fun (a : List Byte × State) p => match p.1 with
    | .phys pa => let r := memRead a.2 pa p.2; (a.1 ++ r.1, r.2)
    | _ => (a.1 ++ zeros p.2, a.2)) ([], s)

def memWriteRange (s : State) (m : RangeMap) (bytes : List Byte) : State :=
  (m.pieces.foldl (fun (a : State × List Byte) p => (match p.1 with
    | .phys pa => memWrite a.1 pa (a.2.take p.2)
    | _ => a.1, a.2.drop p.2)) (s, bytes)).1

/-- The port transfer of a bank that a halt held is restarted: RCAST reads its 8 KiB again, ROUT writes its bytes again (R437). [DEDUCED, log 23] -/
def restartPort (s : State) (g b : Nat) : State :=
  let k := bankOf s g b
  let sub := k.laneInstr.toNat % 16384
  let map (wr : Bool) : Chk RangeMap := resolveRange s (entryCtx s (perOf s g).lessee) (portReq wr) k.laneVa 8192
  if k.laneLeft = 0 then s
  else if sub = 0x343 && !((perOf s g).dual && decide (4 ≤ b)) then
    match map true with
    | .ok m => memWriteRange (commitAll s m.commits) m (leBytes 8192 (k.o.get {} (k.laneReads.headD 0)).data.toNat)
    | .error _ => s
  else if sub = 0x243 then
    match map false with
    | .ok m =>
      let got := memReadRange s m
      let row := BitVec.ofNat 65536 (leNat got.1)
      let pz := BitVec.ofNat 128 ((List.range 128).foldl (fun n k => n + (if (rangePoison s m (64 * k) 64).isSome then 2 ^ k else 0)) 0)
      modBank (commitAll { s with freeCount := got.2.freeCount } m.commits) g b fun k =>
        { k with o := k.o.modify {} (k.laneWrites.headD 0) fun r =>
            { r with data := row, poison := pz, dirty := r.dirty || r.data != row || r.poison != pz } }
    | .error _ => s
  else s

def readBank (s : State) (a : Nat) (h : Hart) : Hart :=
  let st := readNat s (a + 400) 8
  (readRegs s a 16
    { ({ context := h.context, priv := h.priv, home := h.home } : Hart) with
      pc := readDw s (a + 128), loops := readLoops s (a + 136), flags := storedState (readDw s (a + 336)),
      nflags := BitVec.ofNat 6 (readNat s (a + 344) 8), trapvec := readDw s (a + 360), trappc := readDw s (a + 368),
      trapinfo := readDw s (a + 384), trapscr := readDw s (a + 392), pred := st.testBit 0,
      run := if st.testBit 1 then .exited else if st.testBit 2 then .atGang else .running }).setCause (readNat s (a + 376) 8)

/-- A row step read back from its frame onto its Pergola. -/
def readRowFrame (s : State) (g : Nat) (i : StepInfo) (frame : Nat) : State :=
  let s1 := (List.range 8).foldl (fun t b =>
    let a := frame + 0x40 + 0x1A0 * b
    modBank (modHart t (bankId g b) fun _ => (readBank s a { context := i.context, priv := i.priv, home := i.scope }).resumed i) g b
      fun k => { k with rtype := readDw s (a + 352) }) s
  modPer (modBanks ((List.range 8).foldl (fun t b => resumeFlags (restartPort t g b) g b) s1) g fun b => b.goOn (perOf s g).rc) g fun p =>
    { p with actDone := 0, gang := (readByte s (frame + 0xD40)).getLsbD 0, pc := readDw s (frame + 0xD48), loops := readLoops s (frame + 0xD50),
             step := some i, phase := .running, frame := frame }

end Sys2Proof.Machine
end

