-- ==== Sys2Proof/Machine/Cancel.lean ====
section
/-! DEFINITION. CANCEL (R56-R64, R372): what it marks, and what becomes of saved steps and of their commands. -/
namespace Sys2Proof.Machine

/-! ## Commands that are dropped (R60, R448) -/

/-- An invalid slot (R60): V 0, FULL 1, P 0, D 0, KEY, SCOPEID, PROG and GRP zero, OWNER unchanged. -/
def Slot.invalid (t : Slot) : Slot := { t with v := false, full := true, p := false, d := false, key := 0, scopeId := 0, prog := 0, grp := 0 }

/-- The bytes of a range of a context's memory become unspecified, page by page where it is mapped (R60). [DESIGN CHOICE, log 8] -/
def spoilRange (s : State) (c : AddrCtx) (lo len : Nat) : State :=
  if len = 0 then s
  else (List.range ((lo + len - 1) / 65536 + 1 - lo / 65536)).foldl (fun t k =>
    let a := Nat.max lo ((lo / 65536 + k) * 65536)
    let b := Nat.min (lo + len) ((lo / 65536 + k + 1) * 65536)
    if 2 ^ 54 ≤ a then t
    else match resolveOrdinary t c { rd := true, device := true, peer := false } a 0 with
      | .ok r => (match r.place with
        | .phys pa => freeInto t pa (b - a)
        | _ => t)
      | .error _ => t) s

/-- A handle's hidden side left by a cancelled command becomes stale, and open no longer, until SHADOW reopens it; its data are unspecified
(R60, R99). [DEDUCED, log 30] [DESIGN CHOICE, log 8] -/
def staleHandle (s : State) (c : AddrCtx) (va : Word) : State :=
  if va.toNat / 2 ^ 55 = 1 then
    match handleEntry s c { wr := true, device := true } ((va.toNat >>> 32) % 2 ^ 20) va with
    | .ok (h, r) => (match r.place with
      | .phys pa =>
        let t := spoilRange s c (if h.side then h.sideA else h.sideB) h.length
        writeNat t pa 8 ({ h with opened := false, stale := true } : Handle).low
      | _ => s)
    | .error _ => s
  else s

/-- The address context of a command in flight (R490). [DEDUCED, log 61] -/
def engineCtx (s : State) (e : EngineRec) : AddrCtx :=
  { context := e.info.context, priv := e.priv, ptroot := e.ptroot, hndbase := e.hndbase, hndcount := e.hndcount,
    catbase := (s.contexts.get {} e.info.context.toNat).catbase, pav := some (pavOfHart e.hart), wing := wingOfHart e.hart }

/-- A follow-on that will not be issued leaves its slots invalid (R60, R448). -/
def dropFollow (s : State) (core : Nat) (e : EngineRec) : State :=
  (followCores e core).foldl (fun t c => modCore t c fun k => { k with slots := k.slots.modify {} (followSlot e) Slot.invalid }) s

/-- An MLD that ends where it stands leaves its slot with no writer in flight (R288, R448). -/
def endSlotLoad (s : State) (core : Nat) (e : EngineRec) : State :=
  if e.instr.toNat % 16384 = 0x380 then
    modCore s core fun k => { k with slots := k.slots.modify {} (bits e.instr.toNat 14 3) fun t => { t with full := true } }
  else s

/-- The handle destination of a copy or a move between tiers becomes stale, and a follow-on not issued leaves its slots invalid (R60, R448). -/
def dropEngine (s : State) (core : Nat) (e : EngineRec) : State :=
  let s0 := endSlotLoad s core e
  let s1 := if e.instr.toNat % 16384 = 0x90 || e.instr.toNat % 16384 = 0x191 then staleHandle s0 (engineCtx s0 e) (e.ops.getD 0 0) else s0
  if e.fpend then dropFollow s1 core e else s1

/-- Matrix work and slot moves of a step that are not to be taken up from what a stop caught. -/
def dropCaught (s : State) (i : StepInfo) : State :=
  { s with cores := s.cores.map fun k => (k.1, { k.2 with matrix := k.2.matrix.filter fun w => !(w.again && sameStep w.entry.info i),
                                                          stores := k.2.stores.filter fun e => !sameStep e.info i }) }

/-- The same of a step that is rejected: its caught MLDs end where they stand. -/
def rejectCaught (s : State) (i : StepInfo) : State :=
  dropCaught (s.cores.foldl (fun t k => (k.2.stores.filter fun e => sameStep e.info i).foldl (fun u e => endSlotLoad u k.1 e) t) s) i

/-! ## Saved steps -/

/-- The commands that a saved step's record holds (R441). -/
def savedEngines (s : State) (k : Nat) (i : StepInfo) (frame : Nat) : List EngineRec :=
  readEngines s (frame + 0x8000) k i (savedHart s i frame 0x83C0)

/-- The barrier memberships of a saved step's harts (R439). -/
def savedBarriers (s : State) (frame : Nat) : List Member := readMembers s (frame + 0x8A00) ++ readMembers s (frame + 0x9380)

/-- A saved step's harts: the X-hart, and the A-hart unless its block says idle (R440). [DEDUCED, log 48] -/
def savedHarts (s : State) (frame : Nat) : Nat := if (readByte s (frame + 0x8000 + 0x3C0 + 0x68)).getLsbD 0 then 1 else 2

/-- The members of its scope that a saved compute step still counts (R59). [DEDUCED, log 48] -/
def savedMembers (s : State) (k : Nat) (i : StepInfo) (frame : Nat) : Nat := savedHarts s frame + (savedEngines s k i frame).length

/-- The banks of a row record that have not exited (R443). -/
def rowMembers (record : List Byte) : Nat :=
  ((List.range 8).filter fun b => !(record.getD (64 + 416 * b + 0x190) 0).getLsbD 1).length

/-- A saved compute step of a cancelled subtree: its state is discarded, it leaves its barriers and is counted as running (R60). The commands
of its record run to completion on the core, but for a KILL, which drops them (R448). [DEDUCED, log 48] -/
def dropSaved (s : State) (k : Nat) (i : StepInfo) (frame : Nat) : State :=
  let es := savedEngines s k i frame
  let n := savedHarts s frame
  let s0 := dropCaught (departBarriers s i.context (savedBarriers s frame)) i
  let kill := (haltOf s i.context).killing
  let s1 := if kill then es.foldl (fun t e => dropEngine t k e) s0 else modCore s0 k fun c => { c with engines := c.engines ++ es }
  leaveStep (endKilledStep (countKill s1 i fun v pa => addKillHarts v pa n) i) i (if kill then n + es.length else n)

/-- A saved row step of a cancelled subtree. [DEDUCED, log 48] -/
def dropSavedRow (s : State) (i : StepInfo) (record : List Byte) : State :=
  let n := rowMembers record
  leaveStep (endKilledStep (countKill s i fun v pa => addKillHarts v pa n) i) i n

/-! ## The marking of CANCEL (R60, R62, R372) -/

/-- A block's scope lies among marked records, by physical address. -/
def scopeMarked (s : State) (c : BitVec 16) (va : Word) (marked : List Nat) : Bool :=
  match deviceAddr s (entryCtx s c) va.toNat false 64 with
  | .ok x => marked.contains x.1
  | .error _ => false

/-- The blocks of the steps that units run or hold suspended. -/
def begunBlocks (s : State) : List BlockRef :=
  let steps := (s.cores.map fun k => k.2.step.toList ++ k.2.suspended.map (·.info)).flatten ++
    (s.pergolas.map fun g => g.2.step.toList ++ g.2.yielded.map (·.info)).flatten
  steps.map fun i => { context := i.context, va := i.launch }

/-- Every block that a queue, a claim, a step or an earlier decrement names. -/
def knownBlocks (s : State) : List BlockRef :=
  (s.waiting ++ (s.wings.map fun w => w.2.queue0 ++ w.2.queue1 ++ w.2.queue2 ++ w.2.queue3 ++ w.2.rowClaims.map (·.block)).flatten ++
    begunBlocks s).foldl (fun l r => if l.contains r then l else l ++ [r]) []

/-- A block of the subtree: never-claimed work is counted when enumeration had begun, ready blocks leave their queues, waiting blocks are
dead (R60, R372). -/
def markBlock (s : State) (marked : List Nat) (count : Nat) (r : BlockRef) : State :=
  let c := entryCtx s r.context
  match readBlock s c r.va with
  | .error _ => s
  | .ok b =>
    if !scopeMarked s r.context (BitVec.ofNat 64 (blkScope b)) marked then s
    else
      let s1 := dequeue s r
      if blkNext b = 0 then killBlock s1 r b
      else
        let left := stepCount b - blkNext b
        addEnded (addKillSteps (putControl s1 b (blkState b) true) count left) c r.va left

/-- The marked step's kill is requested of its harts (R58). -/
def requestKill (s : State) (ids : List Nat) : State := modHarts s (ids.filter fun id => (hartOf s id).live) fun h => { h with killReq := true }

/-- A step of the subtree that a core runs, or is about to: running harts stop at their next kill point; one that has not started never
starts; one that was being resumed never is. -/
def markCore (s : State) (marked : List Nat) (count : Nat) (k : Nat) : State :=
  let s0 := match (coreOf s k).step with
    | none => s
    | some i =>
      if i.killPa.isSome || !scopeMarked s i.context i.scope marked then s
      else
        let j := { i with killPa := some count }
        match (coreOf s k).phase with
        | .landing => modCore (endKilledStep s j) k Core.clearStep
        | .resuming => modCore (dropSaved s k j (coreOf s k).frame) k Core.clearStep
        | _ => requestKill (modCore s k fun c => { c with step := some j }) [aHartId k, xHartId k]
  (coreOf s0 k).suspended.foldl (fun t (u : Suspended) =>
    if u.info.killPa.isNone && scopeMarked t u.info.context u.info.scope marked then
      let t1 := modCore t k fun c => { c with suspended := c.suspended.filter (· != u) }
      dropSaved t1 k { u.info with killPa := some count } u.frame
    else t) s0

/-- The row steps of a Pergola in the subtree: running, landing, being resumed, and set aside by BYIELD. -/
def markPergola (s : State) (marked : List Nat) (count : Nat) (g : Nat) : State :=
  let s0 := match (perOf s g).step with
    | none => s
    | some i =>
      if i.killPa.isSome || !scopeMarked s i.context i.scope marked then s
      else
        let j := { i with killPa := some count }
        match (perOf s g).phase with
        | .landing => modPer (endKilledStep s j) g fun p => { p with step := none }
        | .resuming => modPer (dropSavedRow s j (readBytes s (perOf s g).frame 0x1000)) g fun p => { p with step := none }
        | _ => requestKill (modPer s g fun p => { p with step := some j }) ((List.range 8).map (bankId g))
  (perOf s0 g).yielded.foldl (fun t (u : RowSuspended) =>
    if u.info.killPa.isNone && scopeMarked t u.info.context u.info.scope marked then
      let t1 := modPer t g fun p => { p with yielded := p.yielded.filter (· != u) }
      dropSavedRow t1 { u.info with killPa := some count } (if u.saved.isEmpty then readBytes t u.frame 0x1000 else u.saved)
    else t) s0

/-- Claimed row steps that wait for a Pergola are never started (R372). -/
def markClaims (s : State) (marked : List Nat) (count : Nat) : State :=
  s.wings.foldl (fun t w => w.2.rowClaims.foldl (fun u k =>
    match readBlock u (entryCtx u k.block.context) k.block.va with
    | .ok b =>
      if scopeMarked u k.block.context (BitVec.ofNat 64 (blkScope b)) marked then
        let u1 := modWing u w.1 fun v => { v with rowClaims := v.rowClaims.filter (· != k) }
        addEnded (addKillSteps u1 count 1) (entryCtx u k.block.context) k.block.va 1
      else u
    | .error _ => u) t) s

/-- CANCEL of a live record at `pa` of context `c` (R60): the record and every live descendant read cancelling, with the canceller; then
the walkers and Pergolas act, the pinned slots are discarded, and an idle subtree quiesces at once. -/
def cancelScope (s : State) (c : BitVec 16) (pa : Nat) (canceller : BitVec 16) : State :=
  if !recordLost s pa && recState (recordAt s pa) ≠ 0 then s
  else
    let a := entryCtx s c
    let s0 := setOwned s pa .scope
    let marked := pa :: ((knownScopes s0 c).filter fun q => q != pa && recState (recordAt s0 q) == 0 && inSubtree s0 a q pa)
    let s1 := marked.foldl (fun t q => modRecord t q fun r => setBits (setBits r 0 2 1) 432 16 canceller.toNat) s0
    let s2 := (knownBlocks s1).foldl (fun t r => if r.context = c then markBlock t marked pa r else t) s1
    let s3 := markClaims s2 marked pa
    let s4 := (s3.cores.map (·.1)).foldl (fun t k => markCore t marked pa k) s3
    let s5 := (s4.pergolas.map (·.1)).foldl (fun t g => markPergola t marked pa g) s4
    let d := dropSlots s5 c (marked.map fun q => recId (recordAt s5 q))
    let s6 := trimGrants (quiesce (addSlotsDrop d.1 pa d.2) c)
    match lostSpills s6 c with
    | [] => s6
    | q :: _ => devicePoison s6 c 4 q (BitVec.ofNat 64 q)

end Sys2Proof.Machine
end

