-- ==== Sys2Proof/Machine/Command.lean ====
section
/-! DEFINITION. Where a command's bytes lie, and the copies whose lines go ahead of a hart's stores (R138, R321, R402). -/
namespace Sys2Proof.Machine

/-- A destination or source of the command lies in the handle window. -/
def inHandle (va : Word) : Bool := va.toNat / 2 ^ 55 == 1

/-- The place of one byte of a command's source or destination, in the command's address context. -/
def enginePlace (s : State) (e : EngineRec) (va : Word) (wr : Bool) : Chk (Place × List Resolved) :=
  resolve s (engineCtx s e) { rd := !wr, wr := wr, handle := if wr then .hidden else .published } va

/-- The first byte of a resolved range, or some piece of a checked one, lies at link `l`. -/
def atLink (l : Nat) (r : Chk (Place × List Resolved)) : Bool :=
  match r with
  | .ok (.peer l' _, _) => l' == l
  | _ => false
def reachesLink (l : Nat) (r : Chk RangeMap) : Bool :=
  match r with
  | .ok m => m.pieces.any fun p => (match p.1 with
    | .peer l' _ => l' == l
    | _ => false)
  | .error _ => false

/-- A copy still has lines to move to or from link `l` on a stream (R138, R402). -/
def copiesTo (s : State) (e : EngineRec) (l strm : Nat) : Bool :=
  e.kind == .cpy && e.strm == strm &&
  (match e.tmap with
   | some t =>
     e.out.any (fun b => atLink l (enginePlace s e (e.opA + BitVec.ofNat 64 b.1) true)) ||
     (List.range (tmCount t.1 - e.done)).any fun j =>
       let p := tmPos t.1 t.2 (e.done + j)
       reachesLink l (resolveRange s (engineCtx s e) { wr := true, handle := .hidden } (e.opA + BitVec.ofNat 64 p.2) (tmEsize t.1)) ||
       (match p.1 with
        | some va => reachesLink l (resolveRange s (engineCtx s e) { rd := true, handle := .published } va (tmEsize t.1))
        | none => false)
   | none =>
     let left := e.total - e.done
     !e.moved &&
     (reachesLink l (resolveRange s (engineCtx s e) { wr := true, handle := .hidden } (e.opA + BitVec.ofNat 64 e.done) left) ||
      reachesLink l (resolveRange s (engineCtx s e) { rd := true, handle := .published } (e.opB + BitVec.ofNat 64 e.done) left)))

/-- A remote store, atomic or reduction packet of a hart leaves after the lines of its earlier copies on that stream and link (R138). -/
def afterCopies (s : State) (id l strm : Nat) : M Unit :=
  if (commandsOf s id).any fun e => copiesTo s e l strm then .error (.wait s false) else .ok ()

end Sys2Proof.Machine
end

