-- ==== Sys2Proof/Machine/Overlay.lean ====
section
/-! DEFINITION. Code segments on their way into an overlay: CFETCH's checks, what it makes of each block, and landing
(R346, R381-R384, R477). -/
namespace Sys2Proof.Machine

/-- The checks of CFETCH, in its order (R346): multiples of 128, the overlay's size, then the image range with X. -/
def segmentCheck (s : State) (c : AddrCtx) (n : Nat) (source : Word) (off len : Nat) : Chk RangeMap :=
  let info := BitVec.ofNat 64 (off * 2 ^ 32 + len)
  if off % 128 ≠ 0 || len % 128 ≠ 0 then .error (Cause.misalign, info)
  else if 128 * overlayBlocks n < off + len then .error (Cause.prot, info)
  else resolveRange s { c with pav := none } { ex := true, align := 128, peer := false } source len

/-- A block that a fetch from `src` makes pending: neither landed nor pending from the same SOURCE (R381). -/
def fetches (b : OvlBlock) (context : BitVec 16) (src : Word) : Bool := b.st == .absent || b.context != context || b.source != src

/-- Where block `k` of a checked image range lies in memory. -/
def imageAt (m : RangeMap) (k : Nat) : Option Nat :=
  match m.at (128 * k) with
  | some (.phys pa) => some pa
  | _ => none

/-- A fetch by one or more harts, its image checked as `m`. Each block of the range: unchanged when it holds its SOURCE, joined when it is
pending from it, pending with the new SOURCE otherwise, then awaited by those who awaited it before as well (R381). `mark` is set for the
reissue of a listed range. -/
def segmentFetch (s : State) (harts : List Nat) (context : BitVec 16) (n : Nat) (source : Word) (off len : Nat) (m : RangeMap)
    (mark : Option (Nat × Nat × Nat) := none) : State :=
  modOverlay s n fun o => (List.range (len / 128)).foldl (fun t k =>
    let b := t.get {} (off / 128 + k)
    let src := source + BitVec.ofNat 64 (128 * k)
    if fetches b context src then
      let old := if b.st = .pending then b.waiters else []
      t.set {} (off / 128 + k) { st := .pending, context := context, source := src, hart := harts.headD 0,
                                 waiters := old ++ harts.filter (!old.contains ·), image := imageAt m k, reissue := mark, bytes := b.bytes }
    else if b.st = .pending then t.set {} (off / 128 + k) { b with waiters := b.waiters ++ harts.filter (!b.waiters.contains ·) }
    else t) o

/-- No block of the range is on its way. -/
def segmentSettled (s : State) (n off len : Nat) : Bool :=
  (List.range (len / 128)).all fun k => (blockAt s n (off / 128 + k)).st != .pending

/-- A block of a reissued range has landed or been passed over: with the range's last, its blocks carry the mark no longer. -/
def settleReissue (s : State) (n : Nat) (mark : Option (Nat × Nat × Nat)) : State :=
  if mark.isNone || (overlayAt s n).any fun p => p.2.st == .pending && p.2.reissue == mark then s
  else modOverlay s n fun o => o.map fun p => (p.1, if p.2.reissue = mark then { p.2 with reissue := none } else p.2)

/-- A reissued range meets poison: the blocks that the reissue made pending are absent, which is logged as kind 0x03 (R383). -/
def passReissue (s : State) (n : Nat) (b : OvlBlock) (pa : Nat) : State :=
  logError (modOverlay s n fun o => o.map fun p =>
      (p.1, if p.2.reissue = b.reissue then { p.2 with st := .absent, waiters := [], reissue := none } else p.2))
    0x03 (BitVec.ofNat 64 pa) b.context (BitVec.ofNat 16 b.hart) 0 0

/-- OVERLAY_BLOCK_LAND: the 128 bytes are read from the image; a poisoned block becomes absent with a partition fault UE, and one of a
reissued range is passed over with its range (R346, R383, R477). [DEDUCED, log 49] -/
def landBlock (s : State) (n k : Nat) : State :=
  let b := blockAt s n k
  if b.st ≠ .pending then s
  else
    let put (t : State) (x : OvlBlock) : State := settleReissue (modOverlay t n fun o => o.set {} k x) n b.reissue
    match b.image with
    | none => put s { b with st := .absent, waiters := [] }
    | some pa =>
      match firstPoison s pa 128 with
      | none => let r := memRead s pa 128; put r.2 { b with st := .landed, waiters := [], bytes := BitVec.ofNat 1024 (leNat r.1) }
      | some p =>
        let id := b.hart
        if b.reissue.isSome then passReissue s n b p
        else
          let s1 := logError (put s { b with st := .absent, waiters := [] }) 0x07 (BitVec.ofNat 64 p) b.context (BitVec.ofNat 16 id) Cause.ue 0
          let f : FaultRec := { cause := Cause.ue, origin := BitVec.ofNat 16 id, engine := 0,
                                info := b.source + BitVec.ofNat 64 (p - pa), fpc := 0 }
          if n < 1216 then unitFault s1 b.context (unitOfHart id) f
          else docentStop s1 (n - 1216) Cause.ue 0 (f.info.extractLsb' 0 48)

/-- OVERLAY_BLOCK_LAND (R381). -/
def execOverlayBlockLand (overlay block : Nat) (s : State) : Result :=
  event (overlayExists overlay && decide (block < overlayBlocks overlay)) (landBlock s overlay block)

/-- A CFETCH is entered into its step's segment list: the last 16, newest first (R383). -/
def noteSegment (s : State) (id : Nat) (r : SegRange) : State :=
  if id < 256 then modCore s (coreOfHart id) fun k => { k with step := k.step.map fun i => { i with segs := (r :: i.segs).take 16 } }
  else if id < 0x8000 then s
  else modPer s (perOfHart id) fun p => { p with step := p.step.map fun i => { i with segs := (r :: i.segs).take 16 } }

/-- The first poisoned byte that a fetch of this range would read. [DEDUCED, log 49] -/
def segmentPoison (s : State) (c : AddrCtx) (n : Nat) (r : SegRange) (m : RangeMap) : Option Nat :=
  (List.range (r.len.toNat / 128)).findSome? fun k =>
    if fetches (blockAt s n (r.ovlOff.toNat / 128 + k)) c.context (r.source + BitVec.ofNat 64 (128 * k)) then
      (imageAt m k).bind fun pa => firstPoison s pa 128
    else none

/-- A listed range that is passed over: the blocks that it would make pending are absent (R383). [DEDUCED, log 49] -/
def dropRange (s : State) (c : AddrCtx) (n : Nat) (r : SegRange) : State :=
  modOverlay s n fun o => (List.range (r.len.toNat / 128)).foldl (fun t k =>
    let b := t.get {} (r.ovlOff.toNat / 128 + k)
    if fetches b c.context (r.source + BitVec.ofNat 64 (128 * k)) then t.set {} (r.ovlOff.toNat / 128 + k) { b with st := .absent }
    else t) o

/-- As `dropRange` for one that meets poison, which is logged as kind 0x03 (R383). [DEDUCED, log 49] -/
def passRange (s : State) (c : AddrCtx) (hart n : Nat) (r : SegRange) (pa : Nat) : State :=
  logError (dropRange s c n r) 0x03 (BitVec.ofNat 64 pa) c.context (BitVec.ofNat 16 hart) 0 0

/-- The listed ranges reissued at resumption, oldest first; one that faults is passed over, its blocks absent (R383). [DEDUCED, log 49] -/
def reissueSegments (s : State) (c : AddrCtx) (hart n : Nat) (i : StepInfo) : State :=
  i.segs.reverse.foldl (fun t r =>
    match segmentCheck t c n r.source r.ovlOff.toNat r.len.toNat with
    | .ok m => (match segmentPoison t c n r m with
      | some pa => passRange t c hart n r pa
      | none => segmentFetch (commitAll t m.commits) [hart] i.context n r.source r.ovlOff.toNat r.len.toNat m
          (some (hart, r.ovlOff.toNat / 128, r.len.toNat / 128)))
    | .error _ => if r.ovlOff.toNat + r.len.toNat ≤ 128 * overlayBlocks n then dropRange t c n r else t) s

end Sys2Proof.Machine
end

