-- ==== Sys2Proof/Machine/Halt.lean ====
section
/-! DEFINITION. Halts: how the units of a context stop, and what system software does with them (R435-R450). -/
namespace Sys2Proof.Machine

/-! ## Stopping (R435-R441) -/

/-- A hart leaves the wait it stood at, named by the PC, and a monitor that it has armed is dropped (R226, R368, R436). -/
def Hart.standDown (h : Hart) : Hart :=
  { h with parked := false, boundary := false, atYield := false, fresh := false, mwaitFrom := none,
           monitor := h.monitor.map fun m => { m with lost := true } }

/-- A hart at a halt: an MWAIT ends with x[D] = 2 and its PC past it; every other wait is left named by the PC (R436). -/
def haltHart (s : State) (id : Nat) : State :=
  let h := hartOf s id
  if h.mwaitFrom.isSome then
    match standsAt s id with
    | some (.mwait f) =>
      { advance { modHart s id fun h => { (h.dest f.d 2) with monitor := none, mwaitFrom := none, parked := false, boundary := false,
                                                               atYield := false }
                  with cur := .hart id } with cur := s.cur }
    | _ => s
  else modHart s id Hart.standDown

/-- A partition fault of the save engine for a hart (R355, R477). [DEDUCED, log 58] -/
def saveFault (id : Nat) (cause : BitVec 8) (info : Word) : FaultRec :=
  { cause := cause, origin := BitVec.ofNat 16 id, engine := 5, info := info, fpc := 0 }

/-- A frame that lies outside the places of R355 is a partition fault XLATE of the save engine. [DEDUCED, log 58] -/
def badFrame (s : State) (c : BitVec 16) (id : Nat) (unit : UnitRef) : State := unitFault s c unit (saveFault id Cause.xlate 0)

/-- What keeps the save engine from reading `n` bytes of a frame, with its log entry: a place outside R355's, or poison, whose address is
reported (R477, R491). [DEDUCED, log 58] -/
def frameFault (s : State) (c : BitVec 16) (id : Nat) (frame n : Nat) : Option (State × FaultRec) :=
  if !deviceArea s frame n then some (s, saveFault id Cause.xlate 0)
  else (firstPoison s frame n).map fun pa => (logPoison s pa c (BitVec.ofNat 16 id), saveFault id Cause.ue (BitVec.ofNat 64 pa))

/-- UNIT_STOP of a Pergola: the row record (R443). [DEDUCED, log 24] -/
def stopPergola (s : State) (g : Nat) : State :=
  match (perOf s g).step with
  | none => s
  | some i =>
    if (perOf s g).phase ≠ .running || (haltOf s i.context).st ≠ .halting || (perOf s g).actDone ≠ 0 then s
    else
      let frame := perFrame s i.context g i.prio
      let s1 := modHarts s ((List.range 8).map (bankId g)) fun h => { h with parked := false, boundary := false, atYield := false }
      let header := stopHeader i (some (haltOf s i.context)) (perOf s g).fault
      let s2 := if deviceArea s frame 0x1000 then saveRow s1 g i header frame
        else badFrame s1 i.context (bankId g 0) (.pergola g)
      let j := { i with kind := BitVec.ofNat 2 header.kind }
      modHalt (modPer (holdLanes s2 g) g fun p =>
          { p with step := some j, phase := .stopped, fault := none, frame := frame }) i.context
        fun h => { h with rowstop := h.rowstop + 1 }

/-- A unit that the device has. -/
def unitExists (u : UnitRef) : Bool :=
  match u with
  | .core c => decide (c < 128)
  | .pergola g => decide (g < 1152)

/-- No unit still runs a step of the context, or has a fault of its own still to record. [DEDUCED, log 24] -/
def allStopped (s : State) (c : BitVec 16) : Bool :=
  let going (phase : Phase) (fault : Option FaultRec) : Bool := phase == .running || (fault.isSome && phase != .stopped)
  (s.cores.all fun k => !(going k.2.phase k.2.fault && (k.2.step.map (·.context)) == some c)) &&
  (s.pergolas.all fun p => !(going p.2.phase p.2.fault && (p.2.step.map (·.context)) == some c))

/-- HALT_COMPLETE: every stop record of the halt is written (R444). -/
def haltComplete (s : State) (c : BitVec 16) : State :=
  if (haltOf s c).st = .halting && allStopped s c then modHalt s c fun h => { h with st := .halted } else s

/-- A context that the device supports (R354). -/
def ctxExists (c : Nat) : Bool := decide (1 ≤ c) && decide (c < 8192)

/-- HALT_COMPLETE (R444). -/
def execHaltComplete (context : Nat) (s : State) : Result := event (ctxExists context) (haltComplete s (BitVec.ofNat 16 context))

/-- HALTCTL := HALT: a running context halts; in one that is halting or halted, the HALT has a record of its own with KIND 10, and
HALTSTAT stands (R435, R438, R444, R445). [DESIGN CHOICE, log 78] -/
def haltctlHalt (s : State) (c : BitVec 16) : State :=
  if (haltOf s c).st = .running then assertHalt s c 0xFFFF Cause.halted 7 false
  else contextFault s c { cause := Cause.halted, origin := 0xFFFF, engine := 7, info := 2, fpc := 0 }

/-- HALTCTL_HALT (R435). -/
def execHaltctlHalt (context : Nat) (s : State) : Result := event (ctxExists context) (haltctlHalt s (BitVec.ofNat 16 context))

/-! ## Resuming (R446, R447) -/

/-- A stop record whose MAGIC and KIND are as the device wrote them (R446, R492). [DEDUCED, log 58] -/
def recordIntact (s : State) (i : StepInfo) (a : Nat) : Bool :=
  headerMagic (readNat s a 64) == 0x5A175701 && headerKind (readNat s a 64) == i.kind.toNat

/-- The step of a changed record is rejected with REASON 0x0B (R494). [DEDUCED, log 51] [DEDUCED, log 58] -/
def rejectRecord (s : State) (i : StepInfo) (frame wing : Nat) : State :=
  addEnded (logSched (rejectCaught s i) (BitVec.ofNat 64 frame) i.context (BitVec.ofNat 16 (docentId wing)) 0x0B (BitVec.ofNat 64 i.step))
    (entryCtx s i.context) i.launch 1

/-- Every stopped compute step becomes suspended on its core (R447). -/
def resumeCore (s : State) (c : BitVec 16) (k : Nat) : State :=
  match (coreOf s k).step with
  | none => s
  | some i =>
    if (coreOf s k).phase ≠ .stopped || i.context ≠ c then s
    else
      let a := hartOf s (aHartId k)
      let x := hartOf s (xHartId k)
      let u : Suspended :=
        { info := i, frame := (coreOf s k).frame, order := s.suspendCount, refusedA := a.refused, refusedX := x.refused,
          lostA := a.monitor.isSome, lostX := x.monitor.isSome, room := a.roomWait, halves := a.replay.map (·.half),
          tiles := (coreOf s k).tiles, follow := (coreOf s k).follow }
      let s1 := modHarts s [aHartId k, xHartId k] fun h => h.drop .idle
      modCore { s1 with suspendCount := s1.suspendCount + 1 } k fun q => { q.clearStep with suspended := q.suspended ++ [u] }

/-- The segments of a row step that takes its Pergola again, the launch segment and then the listed ranges, or the fault of the launch
segment's reissue (R382, R383). -/
def restoreSegments (s : State) (g : Nat) (i : StepInfo) : Chk State := do
  let c := entryCtx s i.context
  let b ← readBlock s c i.launch
  let m ← segmentCheck s c (64 + g) (BitVec.ofNat 64 (blkCode b)) (blkSegoff b) (blkSeglen b)
  let s1 := segmentFetch (commitAll s m.commits) [bankId g 0] i.context (64 + g) (BitVec.ofNat 64 (blkCode b)) (blkSegoff b) (blkSeglen b) m
  .ok (reissueSegments s1 c (bankId g 0) (64 + g) i)

/-- A step that will not run: its octet holds none, and no bank of it runs. [DEDUCED, log 51] -/
def dropRowStep (s : State) (g : Nat) : State :=
  modHarts (modPer s g fun p => { p with step := none, gang := true }) ((List.range 8).map (bankId g)) fun h => h.drop .exited

/-- STEP_REJECT: the step is ended unrun, with its log entry (R494, R495). -/
def rejectStep (s : State) (r : BlockRef) (wing : Nat) (reason : BitVec 8) (detail : Word) : State :=
  addEnded (logSched s r.va r.context (BitVec.ofNat 16 (docentId wing)) reason detail) (entryCtx s r.context) r.va 1

/-- A row step takes its Pergola again: its segments are made present; a fault of the launch segment rejects it with REASON 0x0A, and poison
in its block is the walker's partition fault (R383, R477). [DEDUCED, log 49] -/
def restartRow (s : State) (g : Nat) (i : StepInfo) : State :=
  match restoreSegments s g i with
  | .ok t => t
  | .error e =>
    if e.1 = Cause.ue then
      let d := BitVec.ofNat 16 (docentId (stackOfPer g % 8))
      unitFault (logPoison (modPer s g fun p => { p with phase := .stopped }) (physOf s (entryCtx s i.context) e.2).toNat i.context d) i.context
        (.pergola g) (ueFault d 7 e.2)
    else leaveStep (rejectStep (dropRowStep s g) { context := i.context, va := i.launch } (stackOfPer g % 8) 0x0A (e.1.setWidth 64)) i
      (rowMembers (readBytes s (perOf s g).frame 0x1000))

/-- Every stopped row step restarts on its own Pergola, once its segments have landed; an ended one does not (R447, R486). -/
def resumePergola (s : State) (c : BitVec 16) (g : Nat) : State :=
  match (perOf s g).step with
  | none => s
  | some i =>
    if (perOf s g).phase ≠ .stopped || i.context ≠ c then s
    else restartRow (modPer s g fun p => { p with phase := .resuming }) g i

/-- HALTCTL := RESUME with STATE halted (R447). -/
def haltctlResume (s : State) (c : BitVec 16) : State :=
  if (haltOf s c).st ≠ .halted then s
  else
    let s0 := modHalt s c fun h => { h with st := .running }
    let s1 := (s0.cores.map (·.1)).foldl (fun t k => resumeCore t c k) s0
    (s1.pergolas.map (·.1)).foldl (fun t g => resumePergola t c g) s1

/-- HALTCTL_RESUME (R447). -/
def execHaltctlResume (context : Nat) (s : State) : Result := event (ctxExists context) (haltctlResume s (BitVec.ofNat 16 context))

/-! ## Killing (R448) -/

/-- The root scopes of a context that the device knows: tops of the ancestries of known records and of stopped and suspended steps. -/
def rootScopes (s : State) (c : BitVec 16) : List Nat :=
  let a := entryCtx s c
  let steps := (s.cores.map fun k => (k.2.step.toList ++ k.2.suspended.map (·.info))).flatten ++
    (s.pergolas.map fun p => p.2.step.toList ++ p.2.yielded.map (·.info)).flatten
  let tops := (steps.filter fun i => i.context == c).filterMap fun i => match deviceAddr s a i.scope.toNat false 64 with
    | .ok x => some x.1
    | .error _ => none
  (knownScopes s c ++ tops).foldl (fun l pa =>
    let r := (ancestry s a 17 pa).getLastD pa
    if l.contains r then l else l ++ [r]) []

/-- The stopped steps of a core are killed where they stand, their commands dropped (R448). -/
def killStopped (s : State) (c : BitVec 16) (k : Nat) : State :=
  match (coreOf s k).step with
  | none => s
  | some i =>
    if (coreOf s k).phase ≠ .stopped || i.context ≠ c then s
    else
      let frame := (coreOf s k).frame
      let es := savedEngines s k i frame
      let s1 := es.foldl (fun t e => dropEngine t k e) s
      let s2 := dropCaught (leaveStep s1 i es.length) i
      let s3 := killCur { s2 with cur := .hart (aHartId k) }
      killCur { s3 with cur := .hart (xHartId k) }

/-- Slots of matrix work that ends where it stands are full (R289, R448). -/
def fillTiles (s : State) (w : MatrixWork) : State :=
  (w.tiles.filter (·.pending)).foldl (fun t x => modCore t x.core fun k =>
    { k with slots := k.slots.modify {} w.slot fun sl => { sl with full := true } }) s

/-- The commands and matrix work of a context that are still in flight are not completed (R448). -/
def killEngines (s : State) (c : BitVec 16) (k : Nat) : State :=
  let mine := (coreOf s k).engines.filter fun e => e.info.context == c
  let work := (coreOf s k).matrix.filter fun w => w.entry.info.context == c
  let s1 := modCore s k fun q => { q with engines := q.engines.filter fun e => e.info.context != c,
                                          matrix := q.matrix.filter fun w => w.entry.info.context != c }
  mine.foldl (fun t e => leaveStep (dropEngine t k e) e.info 1) (work.foldl fillTiles s1)

/-- Suspended steps that an earlier cancellation had reached are discarded with the others (R448). -/
def killSuspended (s : State) (c : BitVec 16) (k : Nat) : State :=
  ((coreOf s k).suspended.filter fun u => u.info.context == c).foldl (fun t (u : Suspended) =>
    dropSaved (modCore t k fun q => { q with suspended := q.suspended.filter (· != u) }) k u.info u.frame) s

def killStoppedRow (s : State) (c : BitVec 16) (g : Nat) : State :=
  match (perOf s g).step with
  | none => s
  | some i => if (perOf s g).phase ≠ .stopped || i.context ≠ c then s else killCur { s with cur := .pergola g }

/-- Every root scope of the context has quiesced: the kill is over (R448). -/
def killDone (s : State) (c : BitVec 16) : State :=
  if (haltOf s c).killing && (knownScopes s c).all (fun pa => recState (recordAt s pa) != 1) then
    modHalt s c fun h => { h with st := .running, killing := false }
  else s

/-- HALTCTL := KILL with STATE halted (R448): CANCEL of every root scope with CANCELLER 0xFFFF, then the stopped steps are killed. -/
def haltctlKill (s : State) (c : BitVec 16) : State :=
  if (haltOf s c).st ≠ .halted then s
  else
    let s0 := modHalt s c fun h => { h with killing := true }
    let s1 := (rootScopes s0 c).foldl (fun t pa => cancelScope t c pa 0xFFFF) s0
    let s2 := (s1.cores.map (·.1)).foldl (fun t k => killStopped t c k) s1
    let s3 := (s2.pergolas.map (·.1)).foldl (fun t g => killStoppedRow t c g) s2
    let s4 := (s3.cores.map (·.1)).foldl (fun t k => killSuspended (killEngines t c k) c k) s3
    { killDone (quiesce s4 c) c with cur := s.cur }

/-- HALTCTL_KILL (R448). -/
def execHaltctlKill (context : Nat) (s : State) : Result := event (ctxExists context) (haltctlKill s (BitVec.ofNat 16 context))

/-! ## Power emergencies (R28, R438) -/

/-- The contexts that have a valid entry, or a step or a command somewhere: a step runs on when its entry is invalidated, and a killed step's
commands run to their end (R60, R353). -/
def partitions (s : State) : List Nat :=
  let steps := (s.cores.map fun k => (k.2.step.toList ++ k.2.suspended.map (·.info) ++ k.2.engines.map (·.info) ++
      k.2.matrix.map (·.entry.info))).flatten ++
    (s.pergolas.map fun p => p.2.step.toList ++ p.2.yielded.map (·.info)).flatten
  let l := ((s.contexts.filter fun e => e.2.v).map (·.1)) ++ steps.map fun i => i.context.toNat
  l.foldl (fun m c => if m.contains c then m else m ++ [c]) []

/-- POWER_EMERGENCY: the halt line of every partition is asserted; nothing further in one that is halting or halted (R450), and no launch is
taken until ACKHALT. -/
def powerEmergency (s : State) : State :=
  (partitions s).foldl (fun t c => assertHalt t (BitVec.ofNat 16 c) 0xFFFF Cause.halted 7 true)
    { s with nd := { s.nd with emergency := true } }

/-- POWER_EMERGENCY (R28). -/
def execPowerEmergency (s : State) : Result := .next (powerEmergency s)

end Sys2Proof.Machine
end

