-- ==== Sys2Proof/Machine/Sched.lean ====
section
/-! DEFINITION. Walkers, intake and the life of a step: claims, dispatch, start, suspension, resumption, migration (R33, R40, R357-R373,
R382, R492-R498). -/
namespace Sys2Proof.Machine

/-! ## Rejected steps and claims -/

/-- STEP_CLAIM: NEXT rises, the first claim sets STATE 10, and the block leaves its queues with the last or goes to their tails
(R352, R362, R365). -/
def claim (s : State) (r : BlockRef) (b : Block) : State :=
  let s1 := putNext s b (blkNext b + 1)
  let s2 := if blkState b = 1 then putControl s1 b 2 (blkDead b) else s1
  if blkNext b + 1 = stepCount b then dequeue s2 r
  else (List.range 8).foldl (fun t w => modWing t w fun v =>
    let q := v.queue (blkPrio b)
    if q.contains r then v.setQueue (blkPrio b) (q.filter (· != r) ++ [r]) else v) s2

/-- Launches are taken: after step 8 of start, in no safe state, and not between a power emergency and ACKHALT (R28, R405, R506). -/
def launchesTaken (s : State) : Bool := s.nd.started && !s.nd.safe && !s.nd.dead && !s.nd.emergency

/-- What a step is called in its records. -/
def stepInfo (s : State) (b : Block) (r : BlockRef) (n : Nat) : StepInfo :=
  { launch := r.va, step := n, prio := blkPrio b, context := r.context, scope := BitVec.ofNat 64 (blkScope b),
    priv := (s.contexts.get {} r.context.toNat).priv }

/-- A step runs again: gated Pavilion clocks run, and the 10 ms without a step start anew (R408). -/
def ungate (s : State) : State :=
  { s with pavilions := Tbl.mapAll {} s.pavilions fun _ v => { v with clock := { v.clock with gated := false } },
           nd := { s.nd with idleFor := 0 } }

/-! ## Compute dispatch (R363, R382) -/

/-- The registers that a hart takes from the context entry when its step is dispatched (R353, R363). [DESIGN CHOICE, log 2] -/
def entryHart (s : State) (i : StepInfo) : Hart :=
  let e := s.contexts.get {} i.context.toNat
  { context := i.context, priv := e.priv, ptroot := e.ptroot, catbase := e.catbase, hndbase := e.hndbase,
    hndcount := e.hndcount.setWidth 64, spillbase := e.spillbase, home := i.scope, spawn := i.scope }

/-- COMPUTE_STEP_DISPATCH of the block's next step onto a free core: the entry's registers, then the segment (R363). -/
def dispatchCore (s : State) (k : Nat) (r : BlockRef) (b : Block) : State :=
  let n := blkNext b
  let i := stepInfo s b r n
  let s1 := claim s r b
  let c := entryCtx s1 r.context
  if !(s1.contexts.get {} r.context.toNat).v then rejectStep s1 r (k / 16) 0x09 (BitVec.ofNat 64 n)
  else match segmentCheck s1 c (k / 2) (BitVec.ofNat 64 (blkCode b)) (blkSegoff b) (blkSeglen b) with
    | .error e => rejectStep s1 r (k / 16) 0x0A (e.1.setWidth 64)
    | .ok m =>
      let s2 := segmentFetch (commitAll s1 m.commits) [xHartId k] r.context (k / 2) (BitVec.ofNat 64 (blkCode b)) (blkSegoff b) (blkSeglen b) m
      let s3 := modHarts s2 [aHartId k, xHartId k] fun _ => entryHart s2 i
      modCore (ungate s3) k fun q =>
        { q.clearStep with step := some i, phase := .landing, frame := coreFrame s2 r.context k (blkPrio b) }

/-- x1-x6 the tile origins, x7 the arguments (R33). -/
def loadOrigins (h : Hart) (b : Block) (n : Nat) : Hart :=
  ((List.range 6).foldl (fun g l => g.put (1 + l) (BitVec.ofNat 64 ((origins b n).getD l 0))) h).put 7 (BitVec.ofNat 64 (blkArgs b))

/-- The allotment of VALLOT (R350). -/
def allotOf (v : Nat) : Nat := if v = 0 then 8 else if v = 1 then 16 else 32

/-- No scalar register, loop or flag of an earlier step stays in the hart of a step that starts (R33, R40). -/
def Hart.cleared (h : Hart) : Hart := { h with x := [], loops := [], flags := 0, nflags := 0 }

/-- STEP_START of a compute step: the state of R33. -/
def startCore (s : State) (k : Nat) (i : StepInfo) (b : Block) : State :=
  let s1 := modHart s (xHartId k) fun h => { loadOrigins h.cleared b i.step with pc := BitVec.ofNat 64 (blkEntry b), run := .running }
  enterScope (modCore s1 k fun q =>
    { q with v := [], vempty := 0, vl := 0, vtype := 0xA, vresume := 0, hw := 0, allot := allotOf (blkVallot b), tokens := [], tiles := [],
             phase := .running }) i.context i.scope 1

/-! ## Suspension and resumption (R368-R371) -/

/-- A compute hart stands at a pre-emption point: an iteration boundary, a blocking wait, a YIELD that it completed, EXIT before its effects, or
it is idle; never in a handler, not before its vector queue is empty, and not at the point that it resumed from (R49, R367, R427, R429). -/
def atPoint (s : State) (id : Nat) : Bool :=
  let h := hartOf s id
  !h.ih && (h.run == .idle || (!h.fresh && (h.boundary || h.parked || h.atYield || h.run == .atJoin ||
    ((standsAt s id).any isWait && (id % 2 == 0 || (coreOf s (coreOfHart id)).vqueue.isEmpty)))))

/-- PREEMPTION_SAVE: both harts stand at a point and every access is performed; their state goes into the frame, the core is free (R368). A
step of a cancelled subtree is discarded instead (R60). -/
def suspend (s : State) (k : Nat) : State :=
  match (coreOf s k).step with
  | none => s
  | some i =>
    let x := hartOf s (xHartId k)
    let a := hartOf s (aHartId k)
    if !(coreOf s k).preemptReq || (coreOf s k).phase ≠ .running || !atPoint s (xHartId k) || !atPoint s (aHartId k) || x.run = .idle ||
        !accessesDone s k then s
    else if i.killPa.isSome then { killCur { killCur { s with cur := .hart (aHartId k) } with cur := .hart (xHartId k) } with cur := s.cur }
    else
      let s1 := modHarts s [aHartId k, xHartId k] Hart.standDown
      let frame := coreFrame s1 i.context k i.prio
      if !deviceArea s1 frame 0xA000 then badFrame s1 i.context (xHartId k) (.core k)
      else
        let s2 := writeFrame s1 k i (stopHeader i none none) [] frame
        let u : Suspended :=
          { info := { i with kind := 0 }, frame := frame, order := s2.suspendCount, refusedA := a.refused, refusedX := x.refused,
            lostA := a.monitor.isSome, lostX := x.monitor.isSome, room := a.roomWait,
            halves := a.replay.map (·.half), tiles := (coreOf s2 k).tiles, follow := (coreOf s2 k).follow }
        let s3 := modHarts s2 [aHartId k, xHartId k] fun h => h.drop .idle
        modCore { s3 with suspendCount := s3.suspendCount + 1 } k fun q => { q.clearStep with suspended := q.suspended ++ [u] }

/-- PREEMPTION_SAVE (R368). -/
def execPreemptionSave (core : Nat) (s : State) : Result := event (decide (core < 128)) (suspend s core)

/-- The tables through which a saved step's code is fetched: its X-hart's own (R346, R382). -/
def savedCtx (s : State) (i : StepInfo) (frame : Nat) : AddrCtx :=
  let h := savedHart s i frame 0x8040
  { context := i.context, priv := i.priv, ptroot := h.ptroot, hndbase := h.hndbase, hndcount := h.hndcount, catbase := h.catbase,
    pav := none, wing := 0 }

/-- A suspended step that cannot be resumed is rejected (R494). -/
def rejectSaved (s : State) (k : Nat) (u : Suspended) (code : BitVec 8) : State :=
  leaveStep (rejectStep (rejectCaught s u.info) { context := u.info.context, va := u.info.launch } (k / 16) 0x0A (code.setWidth 64)) u.info
    (savedMembers s k u.info u.frame)

/-- STEP_RESUME: a suspended step leaves its frame once its segments are present; a changed record is rejected, and a frame that the save
engine cannot read, or poison in the block, is a partition fault (R355, R369, R383, R446, R477). -/
def resumeStep (s : State) (k : Nat) (u : Suspended) : State :=
  let s1 := modCore s k fun q => { q with suspended := q.suspended.filter (· != u) }
  match frameFault s u.info.context (xHartId k) u.frame 0xA000 with
  | some x => savedFault x.1 k u x.2
  | none =>
    if !recordIntact s1 u.info (u.frame + 0x8000) then
      leaveStep (rejectRecord s1 u.info u.frame (k / 16)) u.info (savedMembers s1 k u.info u.frame)
    else
      let c := savedCtx s u.info u.frame
      match readBlock s1 c u.info.launch with
      | .error e =>
        if e.1 = Cause.ue then
          let d := BitVec.ofNat 16 (docentId (k / 16))
          savedFault (logPoison s (physOf s c e.2).toNat u.info.context d) k u (ueFault d 7 e.2)
        else rejectSaved s1 k u e.1
      | .ok b =>
        match segmentCheck s1 c (k / 2) (BitVec.ofNat 64 (blkCode b)) (blkSegoff b) (blkSeglen b) with
        | .error e => rejectSaved s1 k u e.1
        | .ok m =>
          let s2 := segmentFetch (commitAll s1 m.commits) [xHartId k] u.info.context (k / 2) (BitVec.ofNat 64 (blkCode b)) (blkSegoff b)
            (blkSeglen b) m
          let s3 := reissueSegments s2 c (xHartId k) (k / 2) u.info
          let mon (l : Bool) : Option Monitor := if l then some { line := 0, triggered := false, lost := true } else none
          let s4 := modCore (ungate s3) k fun q =>
            { q.clearStep with step := some u.info, phase := .resuming, frame := u.frame, tiles := u.tiles, follow := u.follow }
          let s5 := modHart s4 (aHartId k) fun h =>
            { h with refused := u.refusedA, monitor := mon u.lostA, roomWait := u.room,
                     replay := u.halves.map fun v => { data := 0, cause := 0, strm := 0, size := 0, st := false, reg := 0, unit := 0, va := 0, half := v } }
          modHart s5 (xHartId k) fun h => { h with refused := u.refusedX, monitor := mon u.lostX }

/-- The part of a resumption that follows the landing of its segments: the frame's state is reloaded (R369). -/
def reloadCore (s : State) (k : Nat) (i : StepInfo) : State :=
  let a := hartOf s (aHartId k)
  let x := hartOf s (xHartId k)
  let s1 := readFrame s k i (coreOf s k).frame
  let half (es : List ReplayEntry) : List ReplayEntry :=
    (List.range es.length).zipWith (fun n e => { e with half := (a.replay[n]?.map (·.half)).getD 3 }) es
  modHart (modHart s1 (aHartId k) fun h =>
      { h with refused := a.refused, monitor := a.monitor, roomWait := a.roomWait, replay := half h.replay })
    (xHartId k) fun h => { h with refused := x.refused, monitor := x.monitor }

/-- The slots of a core that a migrating step brings (R370). -/
def slotsToMove (s : State) (k : Nat) (c : BitVec 16) : List Nat :=
  (List.range 8).filter fun n => ((coreOf s k).slots.get {} n).v && ((coreOf s k).slots.get {} n).owner == c

/-- A migration that R371 abandons: a slot or spill record of the context is in the way, or its frame is taken. -/
def migrationBarred (s : State) (j k : Nat) (u : Suspended) : Bool :=
  let c := u.info.context
  let base := (s.contexts.get {} c.toNat).spillbase
  (slotsToMove s j c).any (fun n =>
    (((coreOf s k).slots.get {} n).v && ((coreOf s k).slots.get {} n).owner == c) ||
      (!recordLost s (spillAddr base k n) && spillLive s (spillAddr base k n))) ||
  !frameFree s k c u.info.prio

/-- A slot to move still has a writer or a store in flight, which the save engine lets end. -/
def slotsBusy (s : State) (k : Nat) (c : BitVec 16) : Bool :=
  (slotsToMove s k c).any fun n => !((coreOf s k).slots.get {} n).full || beingStored (coreOf s k) n

/-- What keeps the save engine from a move of the step (j, u) to core `k`, with its log entry: a frame or spill record outside the places of
R307 and R355, or poison in the frame or in a record of the destination, which it reads (R371, R477). [DEDUCED, log 58] -/
def moveFault (s : State) (j k : Nat) (u : Suspended) : Option (State × FaultRec) :=
  let c := u.info.context
  let records := (slotsToMove s j c).map (spillAddr (s.contexts.get {} c.toNat).spillbase k)
  (frameFault s c (xHartId j) u.frame 0xA000).orElse fun _ =>
    if !deviceArea s (coreFrame s c k u.info.prio) 0xA000 then some (s, saveFault (xHartId k) Cause.xlate 0)
    else if !records.all (deviceArea s · 0x10080) then some (s, saveFault (xHartId k) Cause.slotown 0)
    else (records.find? (recordLost s)).map fun pa =>
      (logPoison s pa c (BitVec.ofNat 16 (xHartId k)), saveFault (xHartId k) Cause.ue (BitVec.ofNat 64 pa))

/-- Caught matrix work of a step goes with it from core `j` to core `k` (R370, R437). -/
def moveWork (s : State) (j k : Nat) (i : StepInfo) : State :=
  let go (w : MatrixWork) : Bool := w.again && sameStep w.entry.info i
  let moved := ((coreOf s j).matrix.filter go).map fun w =>
    { w with entry := { w.entry with hart := 2 * k + w.entry.hart % 2 },
             tiles := w.tiles.map fun t => if t.core = j then { t with core := k } else t }
  let stores := (coreOf s j).stores.filter fun e => sameStep e.info i
  modCore (modCore s j fun q => { q with matrix := q.matrix.filter (fun w => !go w), stores := q.stores.filter fun e => !sameStep e.info i }) k
    fun q => { q with matrix := q.matrix ++ moved, stores := q.stores ++ stores }

/-- STEP_MIGRATION: registers up to hw.REG over hw.EXTENT bytes, the saved state, and the slots as spill records go to core `k` (R370). -/
def migrate (s : State) (j k : Nat) (u : Suspended) : State × Suspended :=
  let c := u.info.context
  let dest := coreFrame s c k u.info.prio
  let base := (s.contexts.get {} c.toNat).spillbase
  let hw := readNat s (u.frame + 0x8758) 8
  let ext := bits hw 32 11
  let image := ((List.range 32).map fun n =>
    if hw.testBit 5 && decide (n ≤ bits hw 0 5) then readBytes s (u.frame + 1024 * n) ext ++ zeros (1024 - ext) else zeros 1024).flatten
  let s1 := writeBytes (writeBytes s dest image) (dest + 0x8000) (readBytes s (u.frame + 0x8000) 0x2000)
  let s2 := (slotsToMove s j c).foldl (fun t n =>
    let sl := (coreOf t j).slots.get {} n
    let at' := spillAddr base k n
    modCore (writeBytes (writeNat t at' 128 (sl.header (8 * k + n))) (at' + 128) (leBytes 65536 sl.words.toNat)) j fun q =>
      { q with slots := q.slots.set {} n { sl with v := false } }) s1
  let w := { u with frame := dest }
  (moveWork (modCore (modCore s2 j fun q => { q with suspended := q.suspended.filter (· != u) }) k
    fun q => { q with suspended := q.suspended ++ [w] }) j k u.info, w)

/-! ## The walker's choice (R365-R367, R370) -/

/-- A suspended step that may be resumed on its core now. -/
def mayResume (s : State) (k : Nat) (u : Suspended) : Bool := ctxRunning s u.info.context && pavilionFree s k u.info.context

/-- The counters after a dispatch or resumption at priority `p` (R366). -/
def grantUpdate (g : Tbl Nat) (p : Nat) (work : Nat → Bool) : Tbl Nat :=
  (List.range 4).foldl (fun t q =>
    t.set 0 q (if q = p || !work q then 0 else if p < q then t.get 0 q + 1 else t.get 0 q)) g

def grantWing (s : State) (w p : Nat) : State :=
  trimGrants (modWing s w fun v => { v with grants := grantUpdate v.grants p (hasWork s w) })

/-- The suspension that has lasted longest. -/
def oldest (l : List (Nat × Suspended)) : Option (Nat × Suspended) :=
  l.foldl (fun best u => match best with
    | none => some u
    | some b => if u.2.order < b.2.order then some u else best) none

/-- The suspended step of priority `p` that a free core resumes itself. -/
def ownSuspended (s : State) (k p : Nat) : Option Suspended :=
  (coreOf s k).suspended.find? fun u => u.info.prio == p && mayResume s k u

/-- The head of queue `p` that a free core may take. -/
def queueHead (s : State) (w k p : Nat) : Option BlockRef := ((wingOf s w).queue p).find? (mayDispatch s k p)

/-- A dispatch of a block's next step, with its grant. -/
def takeBlock (s : State) (w k p : Nat) (r : BlockRef) : State :=
  match queued? s r with
  | some b => grantWing (dispatchCore s k r b) w p
  | none => dequeue s r

/-- A suspended step that may not go to core `k` (R371, R382, R435). -/
def moveBarred (s : State) (k : Nat) (x : Nat × Suspended) : Bool :=
  migrationBarred s x.1 k x.2 || !pavilionFree s k x.2.info.context || !ctxRunning s x.2.info.context

/-- A move of the suspended step (j, u) to core `k`, or the request that frees its own core where R371 forbids the move. -/
def takeMoved (s : State) (w k p : Nat) (x : Nat × Suspended) : State :=
  if moveBarred s k x then
    if (coreOf s x.1).step.isNone then s else modCore s x.1 fun q => { q with preemptReq := true, preemptOwn := true }
  else if slotsBusy s x.1 x.2.info.context then s
  else
    match moveFault s x.1 k x.2 with
    | some f => savedFault f.1 x.1 x.2 f.2
    | none =>
      let m := migrate s x.1 k x.2
      grantWing (resumeStep m.1 k m.2) w p

/-- The step of priority `p` suspended longest on another core of the Wing, of those whose context runs. -/
def movedStep (s : State) (w k p : Nat) : Option (Nat × Suspended) :=
  oldest ((wingSuspended s w).filter fun x => x.1 != k && x.2.info.prio == p && ctxRunning s x.2.info.context)

/-- Rule 1 of R365 has work of priority `p` to give to core `k`. -/
def servable (s : State) (w k p : Nat) : Bool := (ownSuspended s k p).isSome || (queueHead s w k p).isSome || (movedStep s w k p).isSome

/-- The turn of the alternation of R365 goes to a suspended step or to the queue head. -/
def setTurn (s : State) (w p : Nat) (b : Bool) : State := modWing s w fun v => { v with turnSuspended := v.turnSuspended.set false p b }

/-- Rule 1 of R365 at priority `p`. A chosen step whose move R371 forbids keeps its turn until it is resumed on its own core. [DEDUCED, log 50] -/
def ruleOne (s : State) (w k p : Nat) : State :=
  let turn := (wingOf s w).turnSuspended.get false p
  match ownSuspended s k p with
  | some u =>
    let first := (oldest ((wingSuspended s w).filter fun x => x.2.info.prio == p)).map (·.2) == some u
    grantWing (resumeStep (if turn && first then setTurn s w p false else s) k u) w p
  | none =>
    let moved := movedStep s w k p
    match queueHead s w k p, moved with
    | some r, some x =>
      if !turn then takeBlock (setTurn s w p true) w k p r
      else if moveBarred s k x then takeMoved s w k p x
      else takeMoved (setTurn s w p false) w k p x
    | some r, none => takeBlock s w k p r
    | none, some x => takeMoved s w k p x
    | none, none => s

/-- Rule 2 of R365: the most urgent, a suspended step before a queue head; else a migration of R370. -/
def ruleTwo (s : State) (w k : Nat) : State :=
  match (List.range 4).find? fun p => (ownSuspended s k p).isSome || (queueHead s w k p).isSome with
  | some p => match ownSuspended s k p with
    | some u => grantWing (resumeStep s k u) w p
    | none => match queueHead s w k p with
      | some r => takeBlock s w k p r
      | none => s
  | none =>
    let busy := (wingSuspended s w).filter fun x => x.1 != k &&
      (match (coreOf s x.1).step with
       | some i => decide (i.prio < x.2.info.prio)
       | none => false)
    match oldest busy with
    | some x => if moveBarred s k x then s else takeMoved s w k x.2.info.prio x
    | none => s

/-- A queued block of a running context in which a walker that reads it meets poison (R477). -/
def poisonedHead (s : State) (refs : List BlockRef) : Option (BlockRef × Word) :=
  refs.findSome? fun r =>
    if !ctxRunning s r.context then none
    else match readBlock s (entryCtx s r.context) r.va with
      | .error e => if e.1 = Cause.ue then some (r, e.2) else none
      | .ok _ => none

/-- All blocks in a Wing's queues. -/
def Wing.queues (v : Wing) : List BlockRef := v.queue0 ++ v.queue1 ++ v.queue2 ++ v.queue3

/-- CORE_FREE_SELECT: the walker of a free core's Wing chooses its work (R365). No work is taken, suspended steps included, between a power
emergency and ACKHALT (R28). [DESIGN CHOICE, log 60] -/
def selectCore (s : State) (k : Nat) : State :=
  if !coreFree s k || !launchesTaken s then s
  else
    let w := k / 16
    match poisonedHead s (wingOf s w).queues with
    | some (r, v) => walkerPoison s r.context (docentId w) v
    | none =>
      match (List.range 4).find? fun p => decide (64 ≤ (wingOf s w).grants.get 0 p) && servable s w k p with
      | some p => ruleOne s w k p
      | none => ruleTwo s w k

/-- CORE_FREE_SELECT (R365). -/
def execCoreFreeSelect (core : Nat) (s : State) : Result := event (decide (core < 128)) (selectCore s core)

/-- PREEMPTION_REQUEST for ready work that no free core serves (R367). [DEDUCED, log 50] -/
def walkerRequests (s : State) (w : Nat) : State :=
  if !launchesTaken s then s else requestPreempt s w

/-! ## Row dispatch (R364, R497) -/

/-- A Pergola runs no row step. -/
def perFree (s : State) (g : Nat) : Bool := (perOf s g).step.isNone

/-- ROW_STEP_DISPATCH of step `n`, claimed, onto Pergola `g`. -/
def dispatchRow (s : State) (g : Nat) (r : BlockRef) (b : Block) (n : Nat) : State :=
  let c := entryCtx s r.context
  let w := rejectWing b
  if !(s.contexts.get {} r.context.toNat).v then rejectStep s r w 0x09 (BitVec.ofNat 64 n)
  else if !leasedTo s g r.context then rejectStep s r w 0x06 (BitVec.ofNat 64 g)
  else match segmentCheck s c (64 + g) (BitVec.ofNat 64 (blkCode b)) (blkSegoff b) (blkSeglen b) with
    | .error e => rejectStep s r w 0x0A (e.1.setWidth 64)
    | .ok m =>
      let s2 := segmentFetch (commitAll s m.commits) [bankId g 0] r.context (64 + g) (BitVec.ofNat 64 (blkCode b)) (blkSegoff b) (blkSeglen b) m
      let i := stepInfo s b r n
      let s3 := modHarts s2 ((List.range 8).map (bankId g)) fun _ => { entryHart s2 i with run := .exited }
      modPer (ungate s3) g fun p =>
        { p with step := some i, phase := .landing, fault := none, frame := perFrame s2 r.context g (blkPrio b) }

/-- STEP_START of a row step: gang mode and the state of R40; the row-side state stays. [DESIGN CHOICE, log 2] -/
def startPergola (s : State) (g : Nat) (i : StepInfo) (b : Block) : State :=
  let s1 := (List.range 8).foldl (fun t k => modHart t (bankId g k) fun h =>
    { (loadOrigins h.cleared b i.step).put 8 (BitVec.ofNat 64 (rowCoord g k 0)) with pred := true, run := .running }) s
  enterScope (modPer s1 g fun p =>
    { p with gang := true, pc := BitVec.ofNat 64 (blkEntry b), loops := [], lastBank := 7, actDone := 0, phase := .running })
    i.context i.scope 8

/-- Where the next step of a row block goes: its Pergola, once one may be chosen (R364). -/
def rowTarget (s : State) (l : List Nat) (r : BlockRef) (b : Block) : Option Nat :=
  if blkPlace b then l[blkNext b % blkOctn b]? else l.find? fun g => perFree s g && leasedTo s g r.context

/-- Steps claimed for a busy Pergola wait for it; those claimed after are not held back. -/
def claimAhead (s : State) (g : Nat) (r : BlockRef) : Nat → State
  | 0 => s
  | fuel + 1 => match queued? s r with
    | none => s
    | some b => match octets s (entryCtx s r.context) b with
      | .error _ => s
      | .ok l =>
        if !blkPlace b || stepCount b ≤ blkNext b then s
        else match l[blkNext b % blkOctn b]? with
          | none => s
          | some t =>
            if t = g || perFree s t then s
            else claimAhead (modWing (claim s r b) (rejectWing b) fun w =>
              { w with rowClaims := w.rowClaims ++ [{ block := r, step := blkNext b }] }) g r fuel

/-- A step already claimed for Pergola `g`. -/
def claimedFor (s : State) (g : Nat) (may : BitVec 16 → Nat → Bool) : Option (Nat × RowClaim) :=
  (List.range 8).findSome? fun w => ((wingOf s w).rowClaims.find? fun c =>
    match queued? s c.block with
    | some b => (match octets s (entryCtx s c.block.context) b with
      | .ok l => l[c.step % blkOctn b]? == some g && ctxRunning s c.block.context && may c.block.context (blkPrio b)
      | .error _ => false)
    | none => false).map fun c => (w, c)

def grantPer (s : State) (g p : Nat) : State :=
  trimGrants (modPer s g fun v => { v with grants := grantUpdate v.grants p (hasRowWork s g) })

/-- A row step that BYIELD set aside takes its Pergola again (R50). -/
def resumeRow (s : State) (g : Nat) (u : RowSuspended) : State :=
  let s0 := modPer s g fun p => { p with yielded := p.yielded.filter (· != u) }
  let sk := if u.saved.isEmpty then s0 else writeBytes (keepFrame s0 g u.frame) u.frame u.saved
  restartRow (modPer (ungate sk) g fun p => { p with step := some u.info, phase := .resuming, frame := u.frame, fault := none }) g u.info

/-- The choice for a free Pergola at priority `p`: a step set aside there, or the first listed block that goes to it; `may` says which
contexts and priorities it may take. Where no listed octet is leased any more the step is rejected, with the Pergola that chose as DETAIL (R495).
[DEDUCED, log 50] -/
def selectRowAt (s : State) (g : Nat) (may : BitVec 16 → Nat → Bool) (p : Nat) : Option State :=
  match (perOf s g).yielded.find? fun u => u.info.prio == p && ctxRunning s u.info.context && may u.info.context p with
  | some u => some (grantPer (resumeRow s g u) g p)
  | none => ((rowBlocks s g p).filter fun x => may x.1.context p).findSome? fun x =>
    let r := x.1
    let s1 := claimAhead s g r (blkOctn x.2.1)
    match queued? s1 r with
    | none => none
    | some b =>
      if stepCount b ≤ blkNext b then none
      else match rowTarget s1 x.2.2 r b with
        | some t => if t = g then some (grantPer (dispatchRow (claim (served s1 g r) r b) g r b (blkNext b)) g p) else none
        | none =>
          if x.2.2.any fun o => leasedTo s1 o r.context then none
          else some (trimGrants (rejectStep (claim (served s1 g r) r b) r (rejectWing b) 0x06 (BitVec.ofNat 64 g)))

/-- ROW_STEP_DISPATCH: a free Pergola takes a step claimed for it, or the most urgent work that lists it (R364-R366). -/
def selectRowFor (s : State) (g : Nat) (may : BitVec 16 → Nat → Bool) : Option State :=
  match claimedFor s g may with
  | some (w, c) =>
    (match queued? s c.block with
     | some b => some (grantPer (dispatchRow (served (modWing s w fun v => { v with rowClaims := v.rowClaims.filter (· != c) }) g c.block) g
         c.block b c.step) g (blkPrio b))
     | none => none)
  | none =>
    let hot := (List.range 4).filter fun p => decide (64 ≤ (perOf s g).grants.get 0 p) && hasRowWork s g p
    (hot ++ List.range 4).findSome? (selectRowAt s g may)

/-- The choice of a free Pergola among all work. -/
def selectRow (s : State) (g : Nat) : State :=
  if !perFree s g || !launchesTaken s then s
  else match poisonedHead s ((List.range 8).map fun w => (wingOf s w).queues ++ (wingOf s w).rowClaims.map (·.block)).flatten with
    | some (r, v) => walkerPoison s r.context (docentId (stackOfPer g % 8)) v
    | none => (selectRowFor s g fun _ _ => true).getD s

/-- ROW_STEP_DISPATCH (R364). -/
def execRowStepDispatch (pergola : Nat) (s : State) : Result := event (decide (pergola < 1152)) (selectRow s pergola)

/-! ## STEP_START (R382) -/

/-- The launch segment has landed, a block that met poison counting as landed, and every reissued range is settled (R346, R383). [DEDUCED, log 49] -/
def segmentsReady (s : State) (n : Nat) (i : StepInfo) (b : Block) (resuming : Bool) : Bool :=
  segmentSettled s n (blkSegoff b) (blkSeglen b) &&
    (!resuming || i.segs.all fun r => segmentSettled s n r.ovlOff.toNat r.len.toNat)

/-- The commands of the step's record find room beside those still in flight on the core (R441). [DEDUCED, log 80] -/
def roomToResume (s : State) (k : Nat) (i : StepInfo) : Bool :=
  decide (inFlight (coreOf s k) + (savedEngines s k i (coreOf s k).frame).length ≤ 8)

/-- STEP_START on a core: the segment has landed and the step starts, or goes on from its frame. In a context that halts, it does so only to
be stopped where its segment met poison, with a record of its own (R382, R437, R477). -/
def startOnCore (s : State) (k : Nat) : State :=
  match (coreOf s k).step with
  | none => s
  | some i =>
    let c := if (coreOf s k).phase = .resuming then savedCtx s i (coreOf s k).frame else { hartCtx s (xHartId k) with pav := none }
    match readBlock s c i.launch with
    | .error _ => s
    | .ok b =>
      if !ctxRunning s i.context && ((coreOf s k).fault.isNone || (haltOf s i.context).st == .halted) then s
      else if (coreOf s k).phase = .landing && segmentsReady s (k / 2) i b false then startCore s k i b
      else if (coreOf s k).phase = .resuming && segmentsReady s (k / 2) i b true && roomToResume s k i then
        match frameFault s i.context (xHartId k) (coreOf s k).frame 0xA000 with
        | some x => unitFault (modCore x.1 k fun q => { q with phase := .stopped, fault := none }) i.context (.core k) x.2
        | none => reloadCore s k i
      else s

/-- STEP_START on a Pergola. -/
def startOnPergola (s : State) (g : Nat) : State :=
  match (perOf s g).step with
  | none => s
  | some i =>
    match readBlock s (entryCtx s i.context) i.launch with
    | .error _ => s
    | .ok b =>
      let frame := (perOf s g).frame
      if !ctxRunning s i.context && ((perOf s g).fault.isNone || (haltOf s i.context).st == .halted) then s
      else if (perOf s g).phase ≠ .running && (perOf s g).phase ≠ .stopped && !leasedTo s g i.context then
        -- the lease ended meanwhile: the step is never run (R497)
        leaveStep (rejectStep (dropRowStep s g) { context := i.context, va := i.launch } (rejectWing b) 0x06 (BitVec.ofNat 64 g)) i
          (if (perOf s g).phase = .resuming then rowMembers (readBytes s frame 0x1000) else 0)
      else if (perOf s g).phase = .landing && segmentsReady s (64 + g) i b false then startPergola s g i b
      else if (perOf s g).phase = .resuming && segmentsReady s (64 + g) i b true then
        match frameFault s i.context (bankId g 0) frame 0x1000 with
        | some x => unitFault (modPer x.1 g fun p => { p with phase := .stopped, fault := none }) i.context (.pergola g) x.2
        | none =>
          if recordIntact s i frame then readRowFrame s g i frame
          else leaveStep (dropRowStep (rejectRecord s i frame (stackOfPer g % 8)) g) i (rowMembers (readBytes s frame 0x1000))
      else s

/-- STEP_START: the segment has landed and the step starts, or goes on from its frame. -/
def stepStart (s : State) (u : UnitRef) : State :=
  match u with
  | .core k => startOnCore s k
  | .pergola g => startOnPergola s g

/-- STEP_START (R382). -/
def execStepStart (unit : UnitRef) (s : State) : Result := event (unitExists unit) (stepStart s unit)

/-! ## Intake (R357, R358, R498) -/

/-- A fault of intake that is no rejection stops the docent (R498); a UE is logged (R491). -/
def intakeFault (s : State) (n : Nat) (c : AddrCtx) (e : BitVec 8 × Word) : State :=
  let s1 := if e.1 = Cause.ue then logError s 0x07 (physOf s c e.2) c.context (BitVec.ofNat 16 (docentId (n % 8))) Cause.ue 0 else s
  docentStop s1 (n % 8) e.1 (BitVec.ofNat 6 n) (e.2.extractLsb' 0 48)

/-- A block as intake takes it from a chain of context `k`: rejected with 0x04, 0x05 or 0x08, or decremented (R351, R358, R401). -/
def intakeBlock (s : State) (n : Nat) (c : AddrCtx) (k : BitVec 16) (va : Word) : State :=
  let r : BlockRef := { context := k, va := va }
  match readBlock s c va with
  | .error e => rejectBlock s c r none (n % 8) 0x08 (e.1.setWidth 64) k
  | .ok b =>
    let empty := blkState b = 0 && blkDeps b = 0
    match deviceRead s c (blkScope b) 64 64 with
    | .error e =>
      if e.1 ≠ Cause.misalign then rejectBlock s c r (some b) (n % 8) 0x08 (e.1.setWidth 64) k
      else if empty then rejectBlock s c r (some b) (n % 8) 0x05 0 k
      else decrement s c va
    | .ok x =>
      if recContext x.2 ≠ k.toNat then rejectBlock s c r (some b) (n % 8) 0x04 0 k
      else if empty then rejectBlock s c r (some b) (n % 8) 0x05 0 k
      else decrement s c va

/-- INTAKE_TAKE: one take of a chain, the decrement and CURSOR in one step, in the context that the anchor names (R357, R358, R498); poison is
a partition fault and takes nothing (R477). -/
def intakeTake (s : State) (n : Nat) : State :=
  match s.chains.get none n with
  | none => s
  | some ch =>
    if (wingOf s (n % 8)).docStopped || !launchesTaken s then s
    else
      let c := entryCtx s ch.context
      match deviceRead s c ch.anchor.toNat 64 64 with
      | .error e => if ctxRunning s ch.context then intakeFault s n c e else s
      | .ok a =>
        let k := BitVec.ofNat 16 (bits a.2 48 16)
        if !ctxRunning s ch.context || !ctxRunning s k then s
        else match deviceRead s c (bits a.2 128 64 + 96) 8 8 with
        | .error e => intakeFault s n c e
        | .ok l =>
          if l.2 = 0 then s
          else match blockPoison s c (BitVec.ofNat 64 l.2) with
            | some v => walkerPoison s k (docentId (n % 8)) v
            | none => writeNat (intakeBlock s n c k (BitVec.ofNat 64 l.2)) (a.1 + 16) 8 l.2

/-- INTAKE_TAKE (R358). -/
def execIntakeTake (chain : Nat) (s : State) : Result := event (decide (chain < 64)) (intakeTake s chain)

/-- DOCCTL_RESTART: a stopped docent restarts at its firmware entry, and intake resumes every chain of its Wing (R498). The firmware is not in
the spec: the hart runs where its overlay holds code at the entry, and otherwise stands idle beside the intake. [DESIGN CHOICE, log 15] -/
def docctlRestart (s : State) (w : Nat) : State :=
  if (wingOf s w).docStopped then
    let entry := Config.docentEntry w
    modHart (modWing s w fun v => { v with docStopped := false, docCause := 0, docChain := 0, docAddr := 0 }) (docentId w)
      fun h => { h with pc := entry, loops := [], run := if landed s (1216 + w) entry.toNat 4 then .running else .idle }
  else s

/-- DOCCTL_RESTART (R498). -/
def execDocctlRestart (wing : Nat) (s : State) : Result := event (decide (wing < 8)) (docctlRestart s wing)

end Sys2Proof.Machine
end

