-- ==== Sys2Proof/Machine/DevReg.lean ====
section
/-! DEFINITION. Device register space by 64-bit words: what a read brings and what a write does (R75, R84, R353, R444, R491, R495, R498, R501,
R504, R507). -/
namespace Sys2Proof.Machine

/-- Word `k` of a number. -/
def wordOf (n k : Nat) : Word := BitVec.ofNat 64 (n >>> (64 * k))

/-! ## Register contents -/

/-- OCTLEASE (R84). -/
def octlease (s : State) (g : Nat) : Word :=
  let p := perOf s g
  if !rowCapable s g then BitVec.ofNat 64 (3 * 2 ^ 46)
  else if p.lessee = 0 then 0
  else BitVec.ofNat 64 (p.remain % 2 ^ 40 + (if p.dual then 2 else 1) * 2 ^ 46 + p.lessee.toNat * 2 ^ 48)

/-- A context entry as 512 bits (R353). -/
def CtxEntry.toNat (e : CtxEntry) : Nat :=
  b2n e.v + 2 * b2n e.priv + e.ptroot.toNat * 2 ^ 128 + e.catbase.toNat * 2 ^ 192 + e.hndcount.toNat * 2 ^ 256 + e.hndbase.toNat * 2 ^ 320 +
    e.framebase.toNat * 2 ^ 384 + e.spillbase.toNat * 2 ^ 448

/-- HALTSTAT (R444). -/
def HaltStat.toWord (h : HaltStat) : Word :=
  BitVec.ofNat 64 ((match h.st with | .running => 0 | .halting => 1 | .halted => 2) + b2n h.pwr * 2 ^ 5 + h.cstop % 256 * 2 ^ 6 +
    h.rowstop % 2048 * 2 ^ 14 + h.engine.toNat * 2 ^ 25 + h.cause.toNat * 2 ^ 28 + h.origin.toNat * 2 ^ 36 + h.seq.toNat * 2 ^ 52)

/-- Error log entry `n` (R491). -/
def ErrEntry.toNat (e : ErrEntry) (n : Nat) : Nat :=
  n % 2 ^ 32 + e.count.toNat * 2 ^ 32 + e.cause.toNat * 2 ^ 80 + e.kind.toNat * 2 ^ 88 + e.hart.toNat * 2 ^ 96 + e.context.toNat * 2 ^ 112 +
    e.stamp.toNat * 2 ^ 128 + e.location.toNat * 2 ^ 192

/-- Scheduler log entry (R495). -/
def SchedEntry.toNat (e : SchedEntry) : Nat :=
  e.detail.toNat + e.reason.toNat * 2 ^ 88 + e.hart.toNat * 2 ^ 96 + e.context.toNat * 2 ^ 112 + e.stamp.toNat * 2 ^ 128 +
    e.address.toNat * 2 ^ 192

/-- The number of the newest entry in place `j` of a window of `size` places over `count` entries. -/
def logPlace (count size j : Nat) : Option Nat :=
  if j < count then some (j + (count - 1 - j) / size * size) else none

/-- DOCSTAT (R498). -/
def docstat (v : Wing) : Word :=
  BitVec.ofNat 64 (v.docAddr.toNat + b2n v.docStopped * 2 ^ 48 + v.docChain.toNat * 2 ^ 50 + v.docCause.toNat * 2 ^ 56)

/-- LINKERR as 512 bits (R501). -/
def Port.linkerr (p : Port) : Nat :=
  p.errCount.toNat * 2 ^ 320 + p.errKind % 16 * 2 ^ 420 + p.errReason.toNat * 2 ^ 424 + p.errHart.toNat * 2 ^ 432 + p.errAddress.toNat * 2 ^ 448

/-- A device register word that the spec lists, at an offset that is a multiple of 8. -/
def devWord (s : State) (off : Nat) : Option Word :=
  if 0x100000 ≤ off ∧ off < 0x100000 + 8 * 1152 then some (octlease s ((off - 0x100000) / 8))
  else if 0x300000 ≤ off ∧ off < 0x380000 then
    some (wordOf (s.contexts.get {} ((off - 0x300000) / 64)).toNat ((off - 0x300000) / 8 % 8))
  else if 0x380000 ≤ off ∧ off < 0x400000 then
    if off % 64 = 0 then some (haltOf s (BitVec.ofNat 16 ((off - 0x380000) / 64))).toWord
    else if off % 64 = 8 then some 0 else none
  else if 0x400000 ≤ off ∧ off < 0x400000 + 160 then some (s.nd.previous.get 0 ((off - 0x400000) / 8))
  else if off = 0x500000 then some (BitVec.ofNat 64 s.errLog.length)
  else if 0x501000 ≤ off ∧ off < 0x509000 then
    match logPlace s.errLog.length 1024 ((off - 0x501000) / 32) with
    | none => some 0
    | some n => (s.errLog[s.errLog.length - 1 - n]?).map fun e => wordOf (e.toNat n) ((off - 0x501000) / 8 % 4)
  else if off = 0x580000 then some (BitVec.ofNat 64 s.schedLog.length)
  else if 0x581000 ≤ off ∧ off < 0x583000 then
    match logPlace s.schedLog.length 256 ((off - 0x581000) / 32) with
    | none => some 0
    | some n => (s.schedLog[s.schedLog.length - 1 - n]?).map fun e => wordOf e.toNat ((off - 0x581000) / 8 % 4)
  else if 0x588000 ≤ off ∧ off < 0x588080 then
    if off % 16 = 0 then some (docstat (wingOf s ((off - 0x588000) / 16))) else some 0
  else if 0x600000 ≤ off ∧ off < 0x600200 then
    some (wordOf (s.nd.ports.get {} ((off - 0x600000) / 64)).linkerr ((off - 0x600000) / 8 % 8))
  else if off = 0x680000 then some s.nd.bundlestat
  else none

/-- The read of a device register word; one that the spec does not list reads as a free value (log 16). -/
def devRead (s : State) (off : Nat) : Word × State :=
  match devWord s (off / 8 * 8) with
  | some v => (v, s)
  | none => freeWord s

/-! ## Writes -/

def modCtx (s : State) (c : Nat) (f : CtxEntry → CtxEntry) : State := { s with contexts := s.contexts.modify {} c f }

/-- CONTEXT_ENTRY_INVALIDATE: V := 0 in a live entry; everything else stays (R353). -/
def ctxInvalidate (s : State) (c : Nat) : State := modCtx s c fun e => { e with v := false }

/-- A write to word `k` of a context entry (R353); that of context 0 keeps V = 0 (R354). -/
def ctxWrite (s : State) (c k : Nat) (v : Word) : State :=
  if (s.contexts.get {} c).v then (if k = 0 && !v.getLsbD 0 then ctxInvalidate s c else s)
  else modCtx s c fun e => match k with
    | 0 => { e with v := v.getLsbD 0 && c != 0, priv := v.getLsbD 1 }
    | 2 => { e with ptroot := v }
    | 3 => { e with catbase := v }
    | 4 => { e with hndcount := v.setWidth 32 }
    | 5 => { e with hndbase := v }
    | 6 => { e with framebase := v }
    | 7 => { e with spillbase := v }
    | _ => e

/-- CONTEXT_ENTRY_INVALIDATE (R353). -/
def execContextEntryInvalidate (context : Nat) (s : State) : Result := event (decide (context < 8192)) (ctxInvalidate s context)

def modPort (s : State) (p : Nat) (f : Port → Port) : State := { s with nd := { s.nd with ports := s.nd.ports.modify {} p f } }

/-- LINKERR_CLEAR: the first refusal and the count are gone (R501). -/
def linkerrClear (s : State) (p : Nat) : State :=
  modPort s p fun q => { q with errAddress := 0, errHart := 0, errReason := 0, errKind := 0, errCount := 0 }

/-- LINKERR_CLEAR (R501). -/
def execLinkerrClear (port : Nat) (s : State) : Result := event (decide (port < 8)) (linkerrClear s port)

/-- BUNDLESTAT_ACK: re-striping starts (R504 steps 2 and 3). [DESIGN CHOICE, log 16] -/
def bundleAck (s : State) : State :=
  if s.nd.bundlestat.getLsbD 0 then
    { s with nd := { s.nd with bundlestat := s.nd.bundlestat &&& ~~~1, restriping := true } }
  else s

/-- BUNDLESTAT_ACK (R504). -/
def execBundlestatAck (s : State) : Result := .next (bundleAck s)

/-- RESTRIPE_COMPLETE: INTLVSIZE takes the new size, the layer's interleaved octets count as retired, DONE is set (R504 step 4). -/
def restripeComplete (s : State) : State :=
  if s.nd.restriping then
    let layer := bits s.nd.bundlestat.toNat 24 8
    let gone := (List.range 8).foldl (fun (v : BitVec 1152) k =>
      if s.rowcap.getLsbD (8 * layer + k) then v else v ||| BitVec.ofNat 1152 (2 ^ (8 * layer + k))) s.retired
    { s with intlvSize := bits s.nd.bundlestat.toNat 32 32 * 2 ^ 20, retired := gone,
             nd := { s.nd with bundlestat := s.nd.bundlestat ||| 2, restriping := false } }
  else s

/-- RESTRIPE_COMPLETE (R504). -/
def execRestripeComplete (s : State) : Result := .next (restripeComplete s)

/-- HALTCTL (R444). -/
def haltctl (s : State) (c : BitVec 16) (v : Word) : State :=
  match v.toNat % 4 with
  | 1 => haltctlHalt s c
  | 2 => haltctlResume s c
  | 3 => haltctlKill s c
  | _ => s

/-- What the write of a device register word does; read-only and unlisted ones ignore it (log 16). -/
def devEffect (s : State) (off : Nat) (v : Word) : State :=
  let off := off / 8 * 8
  if 0x300000 ≤ off ∧ off < 0x380000 then ctxWrite s ((off - 0x300000) / 64) ((off - 0x300000) / 8 % 8) v
  else if 0x380040 ≤ off ∧ off < 0x400000 then (if off % 64 = 8 then haltctl s (BitVec.ofNat 16 ((off - 0x380000) / 64)) v else s)
  else if 0x588000 ≤ off ∧ off < 0x588080 then
    (if off % 16 = 8 && v.getLsbD 0 then docctlRestart s ((off - 0x588000) / 16) else s)
  else if 0x600000 ≤ off ∧ off < 0x600200 then linkerrClear s ((off - 0x600000) / 64)
  else if off = 0x680000 then (if v.getLsbD 0 then bundleAck s else s)
  else s

/-- The write of a device register word: its effect, and the monitors armed on its line are triggered (R225). [DESIGN CHOICE, log 16] -/
def devWrite (s : State) (off : Nat) (v : Word) : State := triggerMonitors (devEffect s off v) (0xF0000000000 + off / 8 * 8) 8

/-- A read of `n` bytes that lie within one word. -/
def devReadBytes (s : State) (off n : Nat) : List Byte × State :=
  let r := devRead s off
  (leBytes n (r.1.toNat >>> (8 * (off % 8))), r.2)

/-- A write of bytes within one word: a narrower write leaves the word's other bytes as they read (log 16). -/
def devWriteBytes (s : State) (off : Nat) (bytes : List Byte) : State :=
  let old := ((devWord s (off / 8 * 8)).getD 0).toNat
  devWrite s off (BitVec.ofNat 64 (setBits old (8 * (off % 8)) (8 * bytes.length) (leNat bytes)))

end Sys2Proof.Machine
end

