-- ==== Sys2Proof/Machine/Links.lean ====
section
/-! DEFINITION. Packets to peers: sending, what comes back, refusals (R138, R402, R499-R502). The remote module's own state is outside the model
(log 14). -/
namespace Sys2Proof.Machine

/-- A port that went down (R502). -/
def portDown (s : State) (link : Nat) : Bool := (s.nd.ports.get {} link).rate == 0

/-! ## Refusals (R500, R501) -/

/-- KIND of LINKERR (R501). -/
def kindCode (k : PacketKind) : Nat :=
  match k with
  | .read => 0
  | .write => 1
  | .atomic => 2
  | .reduction => 3
  | .copy => 4

/-- The packet was sent by this step. -/
def sentBy (p : Packet) (i : StepInfo) : Bool := i.context == p.context && i.launch == p.launch && i.step == p.step

/-- A suspended sender's REFUSED bit. -/
def markSuspended (p : Packet) (bit : BitVec 8) (u : Suspended) : Suspended :=
  if !sentBy p u.info then u
  else if p.hart % 2 = 1 then { u with refusedX := u.refusedX ||| bit } else { u with refusedA := u.refusedA ||| bit }

/-- The sender's REFUSED bit for the link is set, wherever its step is now; a step that is gone has none (R500). -/
def markRefused (s : State) (p : Packet) : State :=
  let bit := BitVec.ofNat 8 (2 ^ (p.link % 8))
  if 256 ≤ p.hart then modHart s p.hart fun h => { h with refused := h.refused ||| bit }
  else match s.cores.find? fun k => (k.2.step.map (sentBy p)).getD false with
    | some k => modHart s (2 * k.1 + p.hart % 2) fun h => { h with refused := h.refused ||| bit }
    | none => { s with cores := s.cores.map fun k => (k.1, { k.2 with suspended := k.2.suspended.map (markSuspended p bit) }) }

/-- A refusal is recorded: LINKERR, and for a packet that brings only an acknowledgement, or a copy's line, the REFUSED bit. -/
def noteRefusal (s : State) (p : Packet) (code : BitVec 8) : State :=
  let s1 := modPort s p.link fun q =>
    if q.errCount = 0 then
      { q with errAddress := BitVec.ofNat 64 p.address, errHart := BitVec.ofNat 16 p.hart, errReason := code, errKind := kindCode p.kind,
               errCount := 1 }
    else { q with errCount := q.errCount + 1 }
  if p.wants && p.kind != .copy then s1 else markRefused s1 p

/-! ## Sending -/

/-- A packet leaves; to a port that is down it is refused at once (R502). [DESIGN CHOICE, log 14] -/
def sendPacket (s : State) (p : Packet) : State :=
  if portDown s p.link then noteRefusal s p Cause.link
  else { s with packets := s.packets.set none s.nextPacket (some p), nextPacket := s.nextPacket + 1 }

/-- The packet of a hart for `n` bytes at a peer's address. -/
def packetOf (s : State) (id strm : Nat) (kind : PacketKind) (link addr n : Nat) (va : Word) (data : List Byte) (wants : Bool) : Packet :=
  let w := senderOf s id
  { link := link, kind := kind, address := addr, size := n, data := data, hart := id, va := va, strm := strm, wants := wants,
    context := w.1, launch := w.2.1, step := w.2.2 }

/-- The `k`-th value that an instruction needs from a peer: what came back, or the packet sent and a wait. A port that is down refuses. -/
def peerValue (s : State) (id k : Nat) (p : Packet) : M (Reply × State) :=
  match (hartOf s id).replies[k]? with
  | some r => .ok (r, s)
  | none =>
    if (hartOf s id).awaiting.isSome then .error (.wait s false)
    else if portDown s p.link then .ok (.refused Cause.link, sendPacket s p)
    else .error (.wait (modHart (sendPacket s p) id fun h => { h with awaiting := some s.nextPacket }) false)

/-- What came back for an instruction is used up. -/
def dropReplies (s : State) (id : Nat) : State :=
  if (hartOf s id).replies = [] ∧ (hartOf s id).awaiting = none ∧ (hartOf s id).vdone = [] then s
  else modHart s id fun h => { h with replies := [], awaiting := none, vdone := [] }

/-- An instruction that may have waited for a peer: a trap forgets what came back. [DESIGN CHOICE, log 14] -/
def remote (id : Nat) (r : M State) (s : State) : M State :=
  match r with
  | .ok t => .ok (dropReplies t id)
  | .error (.trap c i) => .error (.after (dropReplies s id) c i)
  | .error (.after t c i) => .error (.after (dropReplies t id) c i)
  | .error (.drain t c i) => .error (.drain (dropReplies t id) c i)
  | .error e => .error e

/-! ## What comes back -/

/-- A value or refusal reaches the hart that waits for it. [DESIGN CHOICE, log 14] -/
def deliverHart (s : State) (n : Nat) (p : Packet) (r : Reply) : State :=
  if (hartOf s p.hart).awaiting = some n then
    modHart s p.hart fun h => { h with awaiting := none, replies := h.replies ++ [r] }
  else s

/-- A source line, or none for a refusal, reaches the copy that waits for it. [DESIGN CHOICE, log 14] -/
def deliverCopy (s : State) (n : Nat) (line : List Byte × Bool) : State :=
  let take (e : EngineRec) : EngineRec := if e.awaiting = some n then { e with awaiting := none, arrived := some line } else e
  { s with cores := s.cores.map fun k => (k.1, { k.2 with engines := k.2.engines.map take }) }

/-- REMOTE_ACKNOWLEDGEMENT: the packet is no longer outstanding; its bytes reach the sender. [DESIGN CHOICE, log 14] -/
def acknowledged (s : State) (n : Nat) (data : List Byte) (poison : Bool) : State :=
  match s.packets.get none n with
  | none => s
  | some p =>
    let s1 := { s with packets := s.packets.set none n none }
    if !p.wants then s1
    else if p.kind = .copy then deliverCopy s1 n (data.take p.size, poison)
    else deliverHart s1 n p (.value (BitVec.ofNat 64 (leNat (data.take p.size))) poison)

/-- REMOTE_ACKNOWLEDGEMENT (R138). -/
def execRemoteAcknowledgement (packet : Nat) (data : List Byte) (poison : Bool) (s : State) : Result := .next (acknowledged s packet data poison)

/-- REFUSAL_RETURN: as performed without effect, and reported (R499, R500). -/
def refusalReturn (s : State) (n : Nat) (code : BitVec 8) : State :=
  match s.packets.get none n with
  | none => s
  | some p =>
    let s1 := noteRefusal { s with packets := s.packets.set none n none } p code
    if !p.wants then s1
    else if p.kind = .copy then deliverCopy s1 n ([], false)
    else deliverHart s1 n p (.refused code)

/-- REFUSAL_RETURN (R500). -/
def execRefusalReturn (packet : Nat) (code : BitVec 8) (s : State) : Result := .next (refusalReturn s packet code)

/-! ## Ports (R502) -/

/-- FLIT_CRC_REPLAY: the port replays its flit, and after eight times it retrains. -/
def flitReplay (s : State) (port : Nat) : State :=
  let q := s.nd.ports.get {} port
  if q.rate = 0 || q.retraining then s
  else if q.replays < 8 then modPort s port fun q => { q with replays := q.replays + 1 }
  else modPort s port fun q => { q with replays := 0, retraining := true, retrainFrom := s.nd.ltime.toNat }

/-- FLIT_CRC_REPLAY (R502). -/
def execFlitCrcReplay (port : Nat) (s : State) : Result := event (decide (port < 8)) (flitReplay s port)

/-- A flit has passed: the next one has its own eight replays (R502). -/
def flitPassed (s : State) (port : Nat) : State := if port < 8 then modPort s port fun q => { q with replays := 0 } else s

/-- The packets outstanding on a port count as refused with REASON LINK. -/
def dropPort (s : State) (port : Nat) : State :=
  (s.packets.filterMap fun q => match q.2 with
    | some p => if p.link = port then some q.1 else none
    | none => none).foldl (fun t n => refusalReturn t n Cause.link) s

/-- Word 1 of the start record shows the port's rate, 0 for down (R406). -/
def recordPort (s : State) (port : Nat) (rate : BitVec 8) : State :=
  let w := BitVec.ofNat 64 (setBits (s.nd.record.get 0 1).toNat (8 * port) 8 rate.toNat)
  { s with nd := { s.nd with record := s.nd.record.set 0 1 w } }

/-- RETRAIN_END: the port goes on, or counts a failure; after three in a row it is down until the next start. -/
def retrainEnd (s : State) (port : Nat) (passed : Bool) : State :=
  let q := s.nd.ports.get {} port
  if !q.retraining then s
  else if passed then modPort s port fun q => { q with retraining := false, failedRetrains := 0 }
  else if q.failedRetrains < 2 then modPort s port fun q => { q with failedRetrains := q.failedRetrains + 1, retrainFrom := s.nd.ltime.toNat }
  else dropPort (recordPort (modPort s port fun q => { q with retraining := false, failedRetrains := 0, rate := 0 }) port 0) port

/-- RETRAIN_END (R502). -/
def execRetrainEnd (port : Nat) (passed : Bool) (s : State) : Result := event (decide (port < 8)) (retrainEnd s port passed)

end Sys2Proof.Machine
end

