-- ==== Sys2Proof/Machine/MemInstr.lean ====
section
/-! DEFINITION. Majors 0x30 to 0x32: scalar loads and stores, atomics, fences, stream barriers and WAITV (R310-R316). Every access is performed
at issue, in program order (log 5). -/
namespace Sys2Proof.Machine

/-! ## A program's accesses (R102) -/

/-- Device registers read and written over a range, word by word. -/
def devReadSpan (s : State) (off n : Nat) : List Byte × State :=
  (List.range (n / 8 + 2)).foldl (fun (a : List Byte × State) j =>
    let lo := if j = 0 then off else off / 8 * 8 + 8 * j
    let hi := Nat.min (off + n) (off / 8 * 8 + 8 * (j + 1))
    if lo < hi then let q := devReadBytes a.2 lo (hi - lo); (a.1 ++ q.1, q.2) else a) ([], s)

def devWriteSpan (s : State) (off : Nat) (bytes : List Byte) : State :=
  (List.range (bytes.length / 8 + 2)).foldl (fun t j =>
    let lo := if j = 0 then off else off / 8 * 8 + 8 * j
    let hi := Nat.min (off + bytes.length) (off / 8 * 8 + 8 * (j + 1))
    if lo < hi then devWriteBytes t lo ((bytes.drop (lo - off)).take (hi - lo)) else t) s

/-- A read by a program (R102). -/
def progRead (s : State) (p : Place) (n : Nat) : List Byte × State :=
  match p with
  | .phys pa => memRead s pa n
  | .dev off => devReadSpan s off n
  | _ => (readPlace s p n, s)

/-- A write by a program (R102). -/
def progWrite (s : State) (p : Place) (bytes : List Byte) : State :=
  match p with
  | .phys pa => memWrite s pa bytes
  | .dev off => devWriteSpan s off bytes
  | _ => writePlace s p bytes

/-- A range read and written by a program, piece by piece. -/
def progReadRange (s : State) (m : RangeMap) : List Byte × State :=
  m.pieces.foldl (fun (a : List Byte × State) p => let r := progRead a.2 p.1 p.2; (a.1 ++ r.1, r.2)) ([], s)

def progWriteRange (s : State) (m : RangeMap) (bytes : List Byte) : State :=
  (m.pieces.foldl (fun (a : State × List Byte) p => (progWrite a.1 p.1 (a.2.take p.2), a.2.drop p.2)) (s, bytes)).1

/-! ## The value of one access of up to 8 bytes -/

/-- What an access at a peer waits for: overlapping accesses, and for a store or atomic the lines of earlier copies (R109, R138). -/
def beforePeer (s : State) (id strm : Nat) (p : Place) (n : Nat) (write : Bool) : M Unit :=
  match p with
  | .peer l a => do
    afterOverlap s id l a n
    if write then afterCopies s id l strm else .ok ()
  | _ => .ok ()

/-- A read that meets poison is UE (R476); one at a peer waits for its answer (R402, R500). The translations `l` are committed only when it
brings a value (R72). -/
def readValue (s : State) (l : List Resolved) (id strm k : Nat) (va : Word) (p : Place) (n : Nat) : M (Nat × State) :=
  match p with
  | .peer link a => do
    let r ← peerValue s id k (packetOf s id strm .read link a n va [] true)
    match r.1 with
    | .value v poison => if poison then .error (.after r.2 Cause.ue va) else .ok (v.toNat, commitAll r.2 l)
    | .refused c => .error (.after r.2 c va)
  | _ =>
    match placePoison s p n with
    | some o => .error (.trap Cause.ue (va + BitVec.ofNat 64 o))
    | none => let r := progRead (commitAll s l) p n; .ok (leNat r.1, r.2)

/-- A write; to a peer it leaves as a packet. -/
def writeValue (s : State) (id strm : Nat) (va : Word) (p : Place) (bytes : List Byte) : State :=
  match p with
  | .peer l a => sendPacket s (packetOf s id strm .write l a bytes.length va bytes false)
  | _ => progWrite s p bytes

/-! ## Major 0x30 -/

/-- The width in bytes of WID, and whether the load sign-extends (R311). -/
def widBytes (wid : BitVec 4) : Nat := if wid.toNat < 4 then 2 ^ wid.toNat else 2 ^ (wid.toNat - 4)
def widExtend (wid : BitVec 4) (v : Nat) : Word :=
  if wid.toNat < 4 then BitVec.ofNat 64 v else (BitVec.ofNat (8 * widBytes wid) v).signExtend 64

/-- The effective address of format M (R310). -/
def memAddr (s : State) (f : FmtM) : Word := xRead s f.base + f.off.signExtend 64

/-- LD, LDACQ, LDNT (R311). [DESIGN CHOICE, log 5] -/
def load (f : FmtM) (s : State) : M State :=
  let id := leadHart s
  remote id (do
    let va := memAddr s f
    let n := widBytes f.wid
    afterStream s id f.strm.toNat
    let r ← lift (resolve s (hartCtx s id) { rd := true, handle := .published, align := n } va)
    beforePeer s id f.strm.toNat r.1 n false
    let v ← readValue s r.2 id f.strm.toNat 0 va r.1 n
    ok (advance (xWrite v.2 f.data (widExtend f.wid v.1)))) s

/-- ST and STREL; a release waits for every earlier access (R113, R311). [DESIGN CHOICE, log 5] -/
def store (f : FmtM) (release : Bool) (s : State) : M State := do
  let id := leadHart s
  let va := memAddr s f
  let n := widBytes f.wid
  if release then afterAll s id else afterStream s id f.strm.toNat
  let r ← lift (resolve s (hartCtx s id) { wr := true, handle := .refused, align := n } va)
  beforePeer s id f.strm.toNat r.1 n true
  ok (advance (writeValue (commitAll s r.2) id f.strm.toNat va r.1 (leBytes n (xRead s f.data).toNat)))

/-- LD (R311). -/
def execLd (f : FmtM) (s : State) : Result := perform (.ld f) s (load f)
/-- ST (R311). -/
def execSt (f : FmtM) (s : State) : Result := perform (.st f) s (store f false)
/-- LDACQ (R112, R311). -/
def execLdacq (f : FmtM) (s : State) : Result := perform (.ldacq f) s (load f)
/-- STREL (R113, R311). -/
def execStrel (f : FmtM) (s : State) : Result := perform (.strel f) s (store f true)
/-- LDNT (R311). -/
def execLdnt (f : FmtM) (s : State) : Result := perform (.ldnt f) s (load f)

/-! ## Atomics (R312, R313) -/

/-- The signed value of a number of `w` bits. -/
def signedOf (w v : Nat) : Int := (BitVec.ofNat w v).toInt

/-- The new value of an atomic at width `w`, `none` for no write, and the flags of AMOFADD. -/
def amoNew (sub w m b c : Nat) : Option Nat × Flg :=
  match sub with
  | 0 => (some ((m + b) % 2 ^ w), 0)
  | 1 => (some (m &&& b), 0)
  | 2 => (some (m ||| b), 0)
  | 3 => (some (m ^^^ b), 0)
  | 4 => (some (if signedOf w b < signedOf w m then b else m), 0)
  | 5 => (some (if signedOf w m < signedOf w b then b else m), 0)
  | 6 => (some b, 0)
  | 7 => (if m = c then some b else none, 0)
  | 8 => let r := add32 m b; (some r.val, r.fl)
  | _ => (some (if b ≤ m then 0 else m + 1), 0)

/-- An atomic on a place: the old value, and the state with the new one; poison is UE and nothing is written (R476). -/
def amoPlace (s : State) (va : Word) (p : Place) (n sub b c : Nat) : M (Nat × State × Flg) := do
  match placePoison s p n with
  | some o => .error (.trap Cause.ue (va + BitVec.ofNat 64 o))
  | none =>
    let m := progRead s p n
    let r := amoNew sub (8 * n) (leNat m.1) b c
    .ok (leNat m.1, (match r.1 with
      | some v => progWrite m.2 p (leBytes n v)
      | none => m.2), r.2)

/-- The width in bytes, order and stream of an atomic's MOD (R183). -/
def amoBytes (f : FmtR) : Nat := 2 ^ (f.mod.extractLsb' 8 2).toNat
def amoOrder (f : FmtR) : Nat := (f.mod.extractLsb' 6 2).toNat
def amoStrm (f : FmtR) : Nat := (f.mod.extractLsb' 0 4).toNat

/-- An atomic at a peer: a reduction packet for a relaxed AMOADD or AMOFADD into x0, otherwise a remote atomic (R402). -/
def amoPeer (s : State) (l : List Resolved) (f : FmtR) (sub link a b c : Nat) (va : Word) : M State :=
  let id := leadHart s
  let n := amoBytes f
  let data := leBytes 8 b ++ leBytes 8 c
  if (sub = 0 || sub = 8) && f.d.num == 0 && amoOrder f == 0 then
    ok (advance (sendPacket (commitAll s l) { packetOf s id (amoStrm f) .reduction link a n va data false with sub := sub }))
  else do
    let r ← peerValue s id 0 { packetOf s id (amoStrm f) .atomic link a n va data true with sub := sub }
    match r.1 with
    | .value v poison =>
      if poison then .error (.after r.2 Cause.ue va)
      else ok (advance (modHart (commitAll r.2 l) id fun h => (h.dest f.d v).raise (amoNew sub (8 * n) v.toNat b c).2))
    | .refused e => .error (.after r.2 e va)

/-- The atomics, by SUB of major 0x31. [DESIGN CHOICE, log 5] -/
def atomic (i : Instr) (f : FmtR) (sub : Nat) (s : State) : M State :=
  let id := leadHart s
  remote id (do
    let n := amoBytes f
    need (sub != 8 || n == 4) Cause.reservedField (instrWord i)
    let va := xRead s f.a
    if 2 ≤ amoOrder f then afterAll s id else afterStream s id (amoStrm f)
    let r ← lift (resolve s (hartCtx s id) { rd := true, wr := true, handle := .refused, align := n } va)
    beforePeer s id (amoStrm f) r.1 n true
    let b := (xRead s f.b).toNat % 2 ^ (8 * n)
    let c := (xRead s f.c).toNat % 2 ^ (8 * n)
    match r.1 with
    | .peer l a => amoPeer s r.2 f sub l a b c va
    | p => do
      let x ← amoPlace (commitAll s r.2) va p n sub b c
      ok (advance (modHart x.2.1 id fun h => (h.dest f.d (BitVec.ofNat 64 x.1)).raise x.2.2))) s

/-- AMOADD (R312). -/
def execAmoadd (f : FmtR) (s : State) : Result := perform (.amoadd f) s (atomic (.amoadd f) f 0)
/-- AMOAND (R312). -/
def execAmoand (f : FmtR) (s : State) : Result := perform (.amoand f) s (atomic (.amoand f) f 1)
/-- AMOOR (R312). -/
def execAmoor (f : FmtR) (s : State) : Result := perform (.amoor f) s (atomic (.amoor f) f 2)
/-- AMOXOR (R312). -/
def execAmoxor (f : FmtR) (s : State) : Result := perform (.amoxor f) s (atomic (.amoxor f) f 3)
/-- AMOMIN (R312). -/
def execAmomin (f : FmtR) (s : State) : Result := perform (.amomin f) s (atomic (.amomin f) f 4)
/-- AMOMAX (R312). -/
def execAmomax (f : FmtR) (s : State) : Result := perform (.amomax f) s (atomic (.amomax f) f 5)
/-- AMOSWP (R312). -/
def execAmoswp (f : FmtR) (s : State) : Result := perform (.amoswp f) s (atomic (.amoswp f) f 6)
/-- AMOCAS (R312, R313). -/
def execAmocas (f : FmtR) (s : State) : Result := perform (.amocas f) s (atomic (.amocas f) f 7)
/-- AMOFADD (R312). -/
def execAmofadd (f : FmtR) (s : State) : Result := perform (.amofadd f) s (atomic (.amofadd f) f 8)
/-- AMOINC (R312, R313). -/
def execAmoinc (f : FmtR) (s : State) : Result := perform (.amoinc f) s (atomic (.amoinc f) f 9)

/-! ## Fences and waits -/

/-- A follow-on's failure reported to the A-hart, the oldest that `sel` takes (R452). -/
def followReport (s : State) (sel : FollowFail → Bool) : M Unit :=
  let k := curCore s
  match (coreOf s k).follow.find? sel with
  | none => .ok ()
  | some w => .error (.after (modCore s k fun c => { c with follow := c.follow.erase w }) w.code w.info)

/-- REFUSED bits raise LINK, with the lowest link, and are cleared by the delivery (R500). -/
def refusedReport (s : State) : M Unit :=
  let r := (hartOf s (leadHart s)).refused
  match (List.range 8).find? fun l => r.getLsbD l with
  | none => .ok ()
  | some l => .error (.after (modHart s (leadHart s) fun h => { h with refused := 0 }) Cause.link (BitVec.ofNat 64 l))

/-- FENCE: earlier packets are acknowledged; kind 11 waits for the hart's engine commands and reports a follow-on's failure; system scope
waits for every acknowledgement, a copy's source lines among them, and reports refusals (R117, R138, R402, R452, R500). -/
def fence (f : FmtR) (s : State) : M State := do
  let id := leadHart s
  let eng := f.mod.extractLsb' 0 2 == 3
  if eng && !(commandsOf s id).isEmpty then .error (.wait s true) else .ok ()
  if f.mod.getLsbD 1 then afterAll s id else afterLanding s id
  if f.mod.extractLsb' 2 3 == 4 && outstanding s id (fun _ => true) then .error (.wait s false) else .ok ()
  if eng && kindOfId id == some .aHart then followReport s fun _ => true else .ok ()
  if f.mod.extractLsb' 2 3 == 4 then refusedReport s else .ok ()
  ok (advance s)

/-- FENCE (R117, R314). -/
def execFence (f : FmtR) (s : State) : Result := perform (.fence f) s (fence f)

/-- SBAR: what the hart sent on the streams of the mask is performed first, and its commands on them have begun (R111). -/
def sbar (f : FmtI) (s : State) : M State :=
  if streamBusy s (leadHart s) (f.imm.getLsbD ·) then stall s else ok (advance s)

/-- SBAR (R111, R315). -/
def execSbar (f : FmtI) (s : State) : Result := perform (.sbar f) s (sbar f)

/-- The condition of WAITV (R316). -/
def waitvHolds (cond m b : Nat) : Bool :=
  match cond % 4 with
  | 0 => m == b
  | 1 => m != b
  | 2 => decide (b ≤ m)
  | _ => decide (m < b)

/-- WAITV: one read; if it satisfies the condition the wait ends, otherwise the hart waits on (R115, R316). -/
def waitv (f : FmtR) (s : State) : M State :=
  let id := leadHart s
  remote id (do
    killFirst s
    let n := amoBytes f
    let va := xRead s f.a
    afterStream s id (amoStrm f)
    let r ← lift (resolve s (hartCtx s id) { rd := true, handle := .published, align := n } va)
    beforePeer s id (amoStrm f) r.1 n false
    let v ← readValue s r.2 id (amoStrm f) 0 va r.1 n
    if waitvHolds f.c.bits.toNat v.1 ((xRead s f.b).toNat % 2 ^ (8 * n)) then ok (advance (xWrite v.2 f.d (BitVec.ofNat 64 v.1)))
    else .error (.wait (dropReplies v.2 id) true)) s

/-- WAITV (R316). -/
def execWaitv (f : FmtR) (s : State) : Result := perform (.waitv f) s (waitv f)

/-- A hart that stands at a WAITV whose next read satisfies its condition goes on. -/
def endWaitv (s : State) (id : Nat) : State :=
  if (hartOf s id).run = .running ∧ (hartOf s id).parked then
    match standsAt s id with
    | some (.waitv f) => match waitv f { s with cur := .hart id } with
      | .ok t => modHart t id fun h => { h with parked := false }
      | .error _ => s
    | _ => s
  else s

/-- WAITV_SATISFIED (R115, R316). -/
def execWaitvSatisfied (hart : Nat) (s : State) : Result := event ((kindOfId hart).isSome) (endWaitv s hart)

/-! ## Vector images (R101) -/

/-- VECTOR_LINE_FETCH: which lines are resident is not architectural; the register's contents stay what they were. -/
def execVectorLineFetch (core _reg : Nat) (s : State) : Result := event (decide (core < 128)) s

end Sys2Proof.Machine
end

