-- ==== Sys2Proof/Machine/Catalogue.lean ====
section
/-! DEFINITION. Major 0x92: the Catalogue (R93-R96, R332, R333, R469). What its map table and block states hold is not architectural; the model
keeps it as data under the descriptor's address (log 12). -/
namespace Sys2Proof.Machine

/-! ## The descriptor (R93) -/

structure CatDesc where
  pa : Nat
  raw : Nat
  deriving DecidableEq, Repr

def CatDesc.row (d : CatDesc) : Bool := d.raw % 4 == 2
def CatDesc.mapLog (d : CatDesc) : Nat := bits d.raw 2 6
def CatDesc.blocks (d : CatDesc) : Nat := bits d.raw 96 32
def CatDesc.pool (d : CatDesc) : Nat := bits d.raw 128 64
def CatDesc.blkBase (d : CatDesc) : Nat := bits d.raw 192 64
def CatDesc.mapBase (d : CatDesc) : Nat := bits d.raw 256 64

/-- A check whose fault names x[A] (R469). [DESIGN CHOICE, log 12] -/
def catLift {α : Type} (name : Word) (c : Chk α) : M α := lift (c.mapError fun e => (e.1, name))

/-- The descriptor, and that its tables can be read (R469): CATBASE 0 is XLATE; KIND and MAPLOG2 are checked. -/
def catDesc (s : State) (name : Word) : M (CatDesc × List Resolved) := do
  let c := hartCtx s (leadHart s)
  need (c.catbase != 0) Cause.xlate name
  let x ← catLift name (deviceAddr s c c.catbase.toNat true 1)
  let raw := readNat s x.1 64
  if (firstPoison s x.1 64).isSome then .error (.trap Cause.ue name) else .ok ()
  let d : CatDesc := { pa := x.1, raw := raw }
  need ((raw % 4 == 1 || raw % 4 == 2) && decide (10 ≤ d.mapLog) && decide (d.mapLog ≤ 30)) Cause.catalogue name
  let m ← catLift name (resolveRange s c { rd := true, device := true, peer := false } (BitVec.ofNat 64 d.mapBase) (16 * 2 ^ d.mapLog))
  let b ← catLift name (resolveRange s c { rd := true, device := true, peer := false } (BitVec.ofNat 64 d.blkBase) (8 * d.blocks))
  .ok (d, x.2 :: (m.commits ++ b.commits))

/-! ## Names and blocks -/

/-- What a descriptor maps. One whose MAPPED is not the count that the device keeps was created anew: its tables are zero (R93). [DESIGN CHOICE, log 12] -/
def catOf (s : State) (d : CatDesc) : Catalogue :=
  let k := s.catalogues.get {} d.pa
  if bits d.raw 32 32 = k.names.length then k else {}

/-- The block that a name is mapped to. -/
def Catalogue.find (k : Catalogue) (name : Nat) : Option Nat := (k.names.find? fun p => p.1 == name).map (·.2)

def Catalogue.count (k : Catalogue) (b : Nat) : Nat := k.counts.get 0 b

/-- The free blocks. -/
def Catalogue.free (k : Catalogue) (d : CatDesc) : List Nat := (List.range d.blocks).filter fun b => k.count b == 0

/-- A name mapped, or unmapped, with its block's count. -/
def Catalogue.map (k : Catalogue) (name b : Nat) : Catalogue :=
  { names := (name, b) :: k.names, counts := k.counts.set 0 b (k.count b + 1) }
def Catalogue.unmap (k : Catalogue) (name b : Nat) : Catalogue :=
  { names := k.names.filter fun p => p.1 != name, counts := k.counts.set 0 b (k.count b - 1) }

/-- The Catalogue replaced, with FREE and MAPPED in the descriptor. [DESIGN CHOICE, log 12] -/
def putCat (s : State) (d : CatDesc) (k : Catalogue) : State :=
  writeNat (writeNat { s with catalogues := s.catalogues.set {} d.pa k } (d.pa + 4) 4 k.names.length) (d.pa + 8) 4 (k.free d).length

/-- A free block for a new name (log 12). -/
def takeBlock? (s : State) (d : CatDesc) (k : Catalogue) : Option (Nat × State) :=
  match k.free d with
  | [] => none
  | l => (l[Config.catPick s.freeCount % l.length]?).map fun b => (b, { s with freeCount := s.freeCount + 1 })

/-- The location of a block: a virtual address, or a row coordinate read from the pool's array (R94). -/
def catLocation (s : State) (d : CatDesc) (name : Word) (b : Nat) : M (Word × List Resolved) :=
  if d.row then do
    let c := hartCtx s (leadHart s)
    let at' := (d.pool + 4 * b) % 2 ^ 64
    let x ← catLift name (deviceAddr s c at' false 1)
    if (firstPoison s x.1 4).isSome then .error (.trap Cause.ue name)
    else .ok (BitVec.ofNat 64 (readNat s x.1 4 % 2 ^ 27), [x.2])
  else .ok (BitVec.ofNat 64 ((d.pool + 8192 * b) % 2 ^ 56), [])

/-- A name's bits 63:60 are zero (R332). -/
def needName (name : Word) : M Unit := need (name.toNat < 2 ^ 60) Cause.reservedField name

/-! ## The instructions (R94, R333) -/

/-- CATALLOC (R94). -/
def catalloc (f : FmtE) (s : State) : M State := do
  let name := xRead s f.a
  let x ← catDesc s name
  needName name
  let d := x.1
  let k := catOf s d
  need ((k.find name.toNat).isNone && decide (4 * (k.names.length + 1) ≤ 3 * 2 ^ d.mapLog)) Cause.catalogue name
  match takeBlock? s d k with
  | none => .error (.trap Cause.catalogue name)
  | some (b, t) => do
    let l ← catLocation t d name b
    afterAll s (leadHart s)
    ok (advance (xWrite (putCat (commitAll t (x.2 ++ l.2)) d (k.map name.toNat b)) f.d l.1))

/-- CATMAP.w of a shared block of an ordinary pool: the copy, and the name's new block (R95). -/
def catCopy (s : State) (d : CatDesc) (name : Word) (k : Catalogue) (old : Nat) : M (Nat × State × Catalogue) :=
  match takeBlock? s d k with
  | none => .error (.trap Cause.catalogue name)
  | some (b, t) => do
    let c := hartCtx s (leadHart s)
    let src ← catLift name (resolveRange t c { rd := true, peer := false } (BitVec.ofNat 64 (d.pool + 8192 * old)) 8192)
    let dst ← catLift name (resolveRange t c { wr := true, peer := false } (BitVec.ofNat 64 (d.pool + 8192 * b)) 8192)
    if (rangePoison t src 0 8192).isSome then .error (.trap Cause.ue name)
    else
      let got := progReadRange (commitAll t (src.commits ++ dst.commits)) src
      .ok (b, progWriteRange got.2 dst got.1, (k.unmap name.toNat old).map name.toNat b)

/-- CATMAP (R94, R95). -/
def catmap (f : FmtE) (s : State) : M State := do
  let name := xRead s f.a
  let x ← catDesc s name
  needName name
  let d := x.1
  let k := catOf s d
  afterStream s (leadHart s) f.strm.toNat
  match k.find name.toNat with
  | none => .error (.trap Cause.catalogue name)
  | some b =>
    if f.b.bits.getLsbD 0 && decide (1 < k.count b) then do
      need (!d.row) Cause.catalogue name
      let r ← catCopy s d name k b
      let l ← catLocation r.2.1 d name r.1
      ok (advance (xWrite (putCat (commitAll r.2.1 (x.2 ++ l.2)) d r.2.2) f.d l.1))
    else do
      let l ← catLocation s d name b
      ok (advance (xWrite (commitAll s (x.2 ++ l.2)) f.d l.1))

/-- Name `i` of a block range: source and target (R333). -/
def catNames (name tgt : Word) (i : Nat) : Nat × Nat :=
  let low := name.toNat % 2 ^ 28 + i
  (name.toNat / 2 ^ 28 * 2 ^ 28 + low, tgt.toNat / 2 ^ 32 * 2 ^ 28 + low)

/-- CATSHARE: every name of the range, or none (R94). -/
def catshare (f : FmtE) (s : State) : M State := do
  let name := xRead s f.a
  let t := xRead s f.b
  let x ← catDesc s name
  needName name
  need (bits t.toNat 17 15 == 0) Cause.reservedField name
  let d := x.1
  let n := t.toNat % 2 ^ 17
  need (n != 0 && decide (name.toNat % 65536 + n ≤ 65536)) Cause.catalogue name
  let k := catOf s d
  let out := (List.range n).foldl (fun (o : Option Catalogue) i => o.bind fun q =>
    let p := catNames name t i
    match k.find p.1, q.find p.2 with
    | some b, none => if q.count b < 65535 then some (q.map p.2 b) else none
    | _, _ => none) (some k)
  match out with
  | none => .error (.trap Cause.catalogue name)
  | some q => do
    afterAll s (leadHart s)
    ok (advance (putCat (commitAll s x.2) d q))

/-- CATFREE (R94). -/
def catfree (f : FmtE) (s : State) : M State := do
  let name := xRead s f.a
  let x ← catDesc s name
  needName name
  let d := x.1
  let k := catOf s d
  match k.find name.toNat with
  | none => .error (.trap Cause.catalogue name)
  | some b => do
    afterAll s (leadHart s)
    ok (advance (putCat (commitAll s x.2) d (k.unmap name.toNat b)))

/-- CATALLOC (R333). -/
def execCatalloc (f : FmtE) (s : State) : Result := perform (.catalloc f) s (catalloc f)
/-- CATMAP (R333). -/
def execCatmap (f : FmtE) (s : State) : Result := perform (.catmap f) s (catmap f)
/-- CATSHARE (R333). -/
def execCatshare (f : FmtE) (s : State) : Result := perform (.catshare f) s (catshare f)
/-- CATFREE (R333). -/
def execCatfree (f : FmtE) (s : State) : Result := perform (.catfree f) s (catfree f)

end Sys2Proof.Machine
end

