-- ==== Sys2Proof/Machine/Late.lean ====
section
/-! DEFINITION. The vector queue and its history buffer: what may run ahead of queued instructions, how scalar changes are undone, and
LATE_FAULT (R428, R429). An instruction whose turn comes at once never enters the queue (log 6). -/
namespace Sys2Proof.Machine

/-! ## The history buffer (R429) -/

/-- One change undone. -/
def Hart.undo (h : Hart) (e : History) : Hart :=
  match e with
  | .reg n old => h.put n old
  | .flags old => { h with flags := old }
  | .nflags old => { h with nflags := old }
  | .loops old => { h with loops := old }

/-- The changes of an instruction: scalar registers, FLAGS, NFLAGS, the loop stack (R429). -/
def changes (h t : Hart) : List History :=
  ((List.range 64).filter fun n => h.get n != t.get n).map (fun n => .reg n (h.get n)) ++
  (if h.flags = t.flags then [] else [.flags h.flags]) ++ (if h.nflags = t.nflags then [] else [.nflags h.nflags]) ++
  (if h.loops = t.loops then [] else [.loops h.loops])

/-- Every change since the queue's head was queued, newest first (R428). -/
def undoAll (q : List QueueEntry) : List History := q.reverse.flatMap (·.undo)

/-- The hart as it stood at a queued instruction. -/
def Hart.rewind (h : Hart) (q : List QueueEntry) : Hart :=
  { (undoAll q).foldl Hart.undo h with pc := (q.head?.map (·.pc)).getD h.pc, replies := [], awaiting := none, vdone := [] }

/-- A change kept for the youngest queued instruction, and so for all before it. -/
def record (q : List QueueEntry) (l : List History) : List QueueEntry := q.modify (q.length - 1) fun e => { e with undo := l ++ e.undo }

/-- The changes that the history buffer holds. -/
def historyLength (q : List QueueEntry) : Nat := (undoAll q).length

/-! ## What waits beside the queue -/

/-- What waits until no queued instruction can fault: majors 0x23, 0xA0 and 0xB0 but for NOP (R429). -/
def queueBars (i : Instr) : Bool :=
  major i == 0x23 || major i == 0xA0 || (major i == 0xB0 && !(match i with
    | .nop _ => true
    | _ => false))

/-- The scalar registers that an instruction writes. -/
def scalarDests (i : Instr) : List Nat :=
  (shape i).ops.filterMap fun p => match p.1 with
    | .dst .x => some p.2.num.toNat
    | _ => none

/-- The scalar registers that an instruction names. -/
def scalarNames (i : Instr) : List Nat :=
  (shape i).ops.filterMap fun p => match p.1 with
    | .dst .x => some p.2.num.toNat
    | .src .x => some p.2.num.toNat
    | _ => none

/-- A vector compare, which writes FLAGS (R208). -/
def comparesVectors (i : Instr) : Bool :=
  match i with
  | .vcmp _ => true
  | _ => false

/-- The instruction names a register that a queued one is to write, or FLAGS behind a queued compare (R208). [DESIGN CHOICE, log 6] -/
def behindQueue (q : List QueueEntry) (i : Instr) : Bool :=
  q.any fun e => (scalarDests e.instr).any ((scalarNames i).contains ·) || (usesFlags i && comparesVectors e.instr)

/-- The issuer is an X-hart: its core. -/
def issuingX (s : State) : Option Nat :=
  match s.cur with
  | .hart id => if kindOfId id = some .xHart then some (coreOfHart id) else none
  | _ => none

/-- An instruction waits where it stands. -/
def held (s : State) : State := { s with waited := true }

/-- A scalar instruction beside a queue: its changes enter the history buffer of 16 entries. It waits with a trap, with an iteration boundary,
and for room in the buffer. [DESIGN CHOICE, log 6] -/
def runAhead (s t : State) (k : Nat) : State :=
  let h := hartOf s (xHartId k)
  let u := hartOf t (xHartId k)
  let q := record (coreOf s k).vqueue (changes h u)
  if u.boundary || u.parked || u.ih != h.ih || (coreOf t k).fault != (coreOf s k).fault || decide (16 < historyLength q) then held s
  else modCore t k fun c => { c with vqueue := q }

/-- A vector or matrix instruction enters the queue of 16, past steps 1 to 4 of R187; its end step is a change since it was queued (R428,
R429). One that ends a loop's body waits for the queue to be empty. [DESIGN CHOICE, log 6] -/
def queueUp (s : State) (k : Nat) (i : Instr) : State :=
  let h := hartOf s (xHartId k)
  let t := advance s
  let u := hartOf t (xHartId k)
  let q := (coreOf s k).vqueue ++ [{ pc := h.pc, instr := i, undo := changes h u }]
  if (preCheck .xHart i s).isSome || u.boundary || decide (16 < q.length) || decide (16 < historyLength q) then held s
  else modCore t k fun c => { c with vqueue := q }

/-! ## The head of the queue -/

/-- The state in which the queue's head runs: the hart as it stood there, with no loop to end. -/
def headState (s : State) (k : Nat) : State :=
  let q := (coreOf s k).vqueue
  modHart (modCore { s with cur := .hart (xHartId k), waited := false } k fun c => { c with vqueue := [] }) (xHartId k)
    fun h => { h.rewind q with loops := [] }

/-- The head has passed: the PC is past it, and no trap was taken. -/
def headPassed (s0 t : State) (k : Nat) : Bool :=
  let h := hartOf s0 (xHartId k)
  let u := hartOf t (xHartId k)
  !t.waited && u.run == h.run && u.pc == h.pc + 8 && u.ih == h.ih && (coreOf t k).fault == (coreOf s0 k).fault

/-- What a head that has passed leaves: its own changes stand beside those of the scalar side, its history entries are freed, and the flags that
it raised are not undone (R429). [DESIGN CHOICE, log 6] -/
def mergeHead (s s0 t : State) (k : Nat) : State :=
  let x := xHartId k
  let h0 := hartOf s0 x
  let u := hartOf t x
  let new := u.nflags &&& ~~~h0.nflags
  let h := (((List.range 64).filter fun n => h0.get n != u.get n).foldl (fun (h : Hart) n => h.put n (u.get n)) (hartOf s x))
  let rest := (coreOf s k).vqueue.tail.map fun e => { e with undo := e.undo.map fun c => match c with
    | .nflags old => .nflags (old ||| new)
    | c => c }
  modCore (modHart { t with cur := s.cur, waited := s.waited } x fun _ =>
    { h with flags := if u.flags = h0.flags then h.flags else u.flags, nflags := h.nflags ||| new }) k fun c => { c with vqueue := rest }

/-- The scalar side taken back to the queue's head, the queue empty. -/
def rewindQueue (s : State) (k : Nat) : State :=
  modCore (modHart s (xHartId k) fun h => h.rewind (coreOf s k).vqueue) k fun c => { c with vqueue := [] }

/-- LATE_FAULT: the history is restored newest first, the queue is discarded, and the trap names the queue's head with LATE = 1; in a
cancelled hart it is not delivered (R428, R450). [DESIGN CHOICE, log 6] -/
def lateFault (s : State) (k : Nat) (code : BitVec 8) (info : Word) : State :=
  let x := xHartId k
  match (coreOf s k).vqueue with
  | [] => s
  | q :: _ =>
    if !(hartOf s x).live then s
    else if (hartOf s x).killReq then { killCur { rewindQueue s k with cur := .hart x } with cur := s.cur }
    else trapHart (rewindQueue s k) x q.pc code info true false

/-- LATE_FAULT (R428). -/
def execLateFault (core : Nat) (code : BitVec 8) (info : Word) (s : State) : Result :=
  event (decide (core < 128)) (lateFault s core code info)

end Sys2Proof.Machine
end

