-- ==== Sys2Proof/Machine/Operands.lean ====
section
/-! DEFINITION. Operand forms of the lanes: elements of registers and rows, active elements, one pass of an operation over them, best-k lists
(R7, R168, R228, R254, R263, R268, R282). -/
namespace Sys2Proof.Machine

/-! ## Elements -/

/-- The elements of a 1 KiB register and of an 8 KiB row at a width, element 0 first. -/
def vElems (w : Nat) (r : VReg) : List Nat := unpackElems w (8192 / w) r.toNat
def rowElems (w : Nat) (r : Row) : List Nat := unpackElems w (65536 / w) r.toNat

def ofVElems (w : Nat) (l : List Nat) : VReg := BitVec.ofNat 8192 (packElems w l)
def ofRowElems (w : Nat) (l : List Nat) : Row := BitVec.ofNat 65536 (packElems w l)

/-- Element `e` of a register and of a row. -/
def vElem (w e : Nat) (r : VReg) : Nat := elemNat w e r.toNat
def rowElem (w e : Nat) (r : Row) : Nat := elemNat w e r.toNat
def setVElem (w e : Nat) (r : VReg) (x : Nat) : VReg := BitVec.ofNat 8192 (setElemNat w e r.toNat x)
def setRowElem (w e : Nat) (r : Row) (x : Nat) : Row := BitVec.ofNat 65536 (setElemNat w e r.toNat x)

/-- An element written to a scalar register: the signed codes are sign-extended, the others are raw bits (R262, R283). [DEDUCED, log 64] -/
def elemToX (c b : Nat) : Word := if codeSigned c then BitVec.ofInt 64 (intVal c b) else BitVec.ofNat 64 b

/-! ## A pass over elements -/

/-- Which elements take part: those in `[lo, hi)` whose mask bit 0 is 1, or all of them without a mask (R168). -/
def activeList (lo hi : Nat) (mask : Option (List Nat)) (n : Nat) : List Bool :=
  match mask with
  | none => (List.range n).map fun e => decide (lo ≤ e) && decide (e < hi)
  | some m => (List.range n).zipWith (fun e b => decide (lo ≤ e) && decide (e < hi) && b % 2 == 1) m

/-- The results of an operation on the active elements. -/
def elemPass (op : Nat → Nat → Nat → Elem) : List Bool → List Nat → List Nat → List Nat → List (Option Elem)
  | g :: gs, a :: as, b :: bs, c :: cs => (if g then some (op a b c) else none) :: elemPass op gs as bs cs
  | _, _, _, _ => []

/-- The destination's elements: an inactive one keeps its value. -/
def mergeElems : List Nat → List (Option Elem) → List Nat
  | d :: ds, r :: rs => (match r with
    | some x => x.val
    | none => d) :: mergeElems ds rs
  | ds, [] => ds
  | [], _ => []

/-- The flags of a pass. -/
def flagsOf (r : List (Option Elem)) : Flg := r.foldl (fun fl x => match x with
  | some y => fl ||| y.fl
  | none => fl) 0

/-- The mask register's elements after XM (R170). -/
def maskElems (w : Nat) : List Nat → List (Option Elem) → List Nat
  | d :: ds, r :: rs => (match r with
    | some x => excMask w x.fl
    | none => d) :: maskElems w ds rs
  | ds, [] => ds
  | [], _ => []

/-! ## Best-k lists (R254, R282) -/

/-- Order of an FP32 value: negatives, -0, +0, positives, NaN. -/
def valueKey (v : Nat) : Nat :=
  if (f32.decode v).isNan then 2 ^ 33 else if v.testBit 31 then 2 ^ 32 - 1 - v else 2 ^ 32 + v

/-- Order of a (value, index) pair. -/
def pairKey (p : Nat × Nat) : Nat := valueKey p.1 * 2 ^ 32 + p.2

/-- Insertion after every pair that is not greater. -/
def insertPair (p : Nat × Nat) : List (Nat × Nat) → List (Nat × Nat)
  | [] => [p]
  | q :: t => if pairKey p < pairKey q then p :: q :: t else q :: insertPair p t

/-- The `k` smallest pairs, ascending, earlier ones of equal pairs first. -/
def bestK (k : Nat) (l : List (Nat × Nat)) : List (Nat × Nat) := (l.foldl (fun t p => insertPair p t) []).take k

/-- The first `k` entries of a list register, and a register with its first `k` entries replaced. -/
def pairsOf (k n : Nat) : List (Nat × Nat) := (unpackElems 64 k n).map fun w => (w % 2 ^ 32, w >>> 32)
def packPairs (l : List (Nat × Nat)) : Nat := packElems 64 (l.map fun p => p.1 + 2 ^ 32 * p.2)

end Sys2Proof.Machine
end

