-- ==== Sys2Proof/Machine/Vector.lean ====
section
/-! DEFINITION. Majors 0x60, 0x61, 0x62 and 0x64: vector arithmetic, compare, permutation and configuration (R263-R287). An instruction
takes effect as it issues and leaves its destination empty until VECTOR_COMPLETE (R37, log 6). -/
namespace Sys2Proof.Machine

/-! ## What every vector instruction shares -/

/-- The core of the issuing hart. -/
def vCore (s : State) : Core := coreOf s (curCore s)

/-- vn is empty (R37). -/
def vEmpty (k : Core) (n : Nat) : Bool := k.vempty.getLsbD n

/-- hw after a write of register `n` up to byte `bytes` (R286). -/
def hwAfter (hw : Word) (n bytes : Nat) : Word :=
  let ext := Nat.max (bits hw.toNat 32 11) (Nat.min 1024 bytes)
  let reg := if hw.getLsbD 5 then Nat.max (bits hw.toNat 0 5) n else n
  BitVec.ofNat 64 (ext * 2 ^ 32 + 32 + reg)

/-- A destination written: its value, empty until completion, and hw. -/
def vPut (s : State) (n : Nat) (v : VReg) (bytes : Nat) : State :=
  modCore s (curCore s) fun k =>
    { k with v := k.v.set 0 n v, vempty := k.vempty ||| BitVec.ofNat 32 (2 ^ n), vpend := k.vpend ++ [n], hw := hwAfter k.hw n bytes }

/-- A mask register written by XM beside the destination (R170). -/
def vPutMask (s : State) (n : Nat) (v : VReg) (bytes : Nat) : State :=
  modCore s (curCore s) fun k => { k with v := k.v.set 0 n v, hw := hwAfter k.hw n bytes }

/-- vresume := 0 at completion (R264). -/
def endVector (s : State) : State := modCore s (curCore s) fun k => { k with vresume := 0 }

/-- EMPTY-TRAP of a source with FE = 1; nothing more with vl = 0; the waits of R37; then the instruction. `plain` are the registers read
without an FE bit, `dst` the destinations. [DEDUCED, log 28] -/
def vGo (s : State) (srcs : List Opnd) (plain dst : List Nat) (run : State → M State) : M State :=
  let k := vCore s
  match srcs.find? fun o => o.fe && vEmpty k o.num.toNat with
  | some o => .error (.trap Cause.emptyTrap (BitVec.ofNat 64 o.num.toNat))
  | none =>
    if k.vl = 0 then ok (advance (endVector s))
    else if (srcs.map (·.num.toNat) ++ plain ++ dst).any (vEmpty k) then stall s
    else run s

/-- The effective format of majors 0x60 to 0x62 (R264). -/
def vEff (s : State) : Eff := effOf 0 (vCore s).vtype

/-- A trap that names the instruction, unless the condition holds. -/
def needI (i : Instr) (c : Bool) (code : BitVec 8) : M Unit := need c code (instrWord i)

/-- The effective format is not grouped (R266). -/
def needPlain (i : Instr) (F : Eff) : M Unit := needI i (!codeGrouped F.code F.blk && F.code != 11) Cause.reservedField

/-- XM writes neither the destination nor a source that is not the mask itself (R170). -/
def needMask (i : Instr) (f : FmtV) (srcs : List Nat) : M Unit :=
  needI i (!f.xm || (f.mreg.toNat != f.vd.num.toNat && !srcs.contains f.mreg.toNat)) Cause.reservedField

/-- The mask registers that an instruction reads. -/
def maskRegs (f : FmtV) : List Nat := if f.masken || f.xm then [f.mreg.toNat] else []

/-- A register's elements. -/
def vRegElems (s : State) (w n : Nat) : List Nat := vElems w ((vCore s).v.get 0 n)

/-- The mask's elements, when the instruction is masked. -/
def vMask (s : State) (f : FmtV) (w : Nat) : Option (List Nat) := if f.masken then some (vRegElems s w f.mreg.toNat) else none

/-- The active elements of an instruction (R168, R264). -/
def vActive (s : State) (f : FmtV) (w : Nat) : List Bool :=
  activeList (vCore s).vresume (vCore s).vl (vMask s f w) (8192 / w)

/-- Results of a pass written: destination, exception mask, NFLAGS; then the end. -/
def vFinish (f : FmtV) (w : Nat) (r : List (Option Elem)) (s : State) : State :=
  let vl := (vCore s).vl
  let d := f.vd.num.toNat
  let s1 := vPut s d (ofVElems w (mergeElems (vRegElems s w d) r)) (elemBytes w vl)
  let s2 := if f.xm then vPutMask s1 f.mreg.toNat (ofVElems w (maskElems w (vRegElems s w f.mreg.toNat) r)) (elemBytes w vl) else s1
  advance (endVector (modHart s2 (leadHart s) fun h => h.raise (flagsOf r)))

/-- An elementwise instruction: the format's class, the checks, and one operation on each active element (R264-R270). -/
def vElementwise (i : Instr) (f : FmtV) (cls : Nat → Bool) (srcs : List Opnd) (op : Nat → Nat → Nat → Nat → Elem) (s : State) : M State := do
  let F := vEff s
  needI i (cls F.code) Cause.illegal
  needPlain i F
  needMask i f (srcs.map (·.num.toNat))
  vGo s srcs (maskRegs f) [f.vd.num.toNat] fun s =>
    let w := codeWidth F.code
    ok (vFinish f w (elemPass (op F.code) (vActive s f w) (vRegElems s w f.va.num.toNat) (vRegElems s w f.vb.num.toNat)
      (vRegElems s w f.vc.num.toNat)) s)

def anyClass (_ : Nat) : Bool := true
def intClass (c : Nat) : Bool := !codeFloat c

def rmOf (f : FmtV) : Nat := f.rm.toNat

/-! ## Major 0x60 (R270, R271) -/

/-- VADD: a + b (R270). -/
def execVadd (f : FmtV) (s : State) : Result :=
  perform (.vadd f) s (vElementwise (.vadd f) f anyClass [f.va, f.vb] fun c a b _ => eAdd c (rmOf f) f.sat a b)
/-- VSUB: a - b (R270). -/
def execVsub (f : FmtV) (s : State) : Result :=
  perform (.vsub f) s (vElementwise (.vsub f) f anyClass [f.va, f.vb] fun c a b _ => eSub c (rmOf f) f.sat a b)
/-- VMUL: a * b (R270). -/
def execVmul (f : FmtV) (s : State) : Result :=
  perform (.vmul f) s (vElementwise (.vmul f) f anyClass [f.va, f.vb] fun c a b _ => eMul c (rmOf f) f.sat a b)
/-- VFMA: a * b + c with one rounding (R270). -/
def execVfma (f : FmtV) (s : State) : Result :=
  perform (.vfma f) s (vElementwise (.vfma f) f anyClass [f.va, f.vb, f.vc] fun c a b d => eFma c (rmOf f) f.sat a b d)
/-- VMIN: minimum, floating by R158 (R270). -/
def execVmin (f : FmtV) (s : State) : Result :=
  perform (.vmin f) s (vElementwise (.vmin f) f anyClass [f.va, f.vb] fun c a b _ => eMinMax c false a b)
/-- VMAX: maximum, floating by R158 (R270). -/
def execVmax (f : FmtV) (s : State) : Result :=
  perform (.vmax f) s (vElementwise (.vmax f) f anyClass [f.va, f.vb] fun c a b _ => eMinMax c true a b)
/-- VAND: bitwise and (R270). -/
def execVand (f : FmtV) (s : State) : Result :=
  perform (.vand f) s (vElementwise (.vand f) f anyClass [f.va, f.vb] fun _ a b _ => ⟨a &&& b, 0⟩)
/-- VOR: bitwise or (R270). -/
def execVor (f : FmtV) (s : State) : Result :=
  perform (.vor f) s (vElementwise (.vor f) f anyClass [f.va, f.vb] fun _ a b _ => ⟨a ||| b, 0⟩)
/-- VXOR: bitwise exclusive-or (R270). -/
def execVxor (f : FmtV) (s : State) : Result :=
  perform (.vxor f) s (vElementwise (.vxor f) f anyClass [f.va, f.vb] fun _ a b _ => ⟨a ^^^ b, 0⟩)

/-- The shift count: log2 w low bits of b (R270). -/
def shiftCount (c b : Nat) : Nat := b % codeWidth c

/-- VSHL: a * 2^n, exact, then wrapped or clamped (R270, R271). -/
def execVshl (f : FmtV) (s : State) : Result :=
  perform (.vshl f) s (vElementwise (.vshl f) f intClass [f.va, f.vb] fun c a b _ =>
    intResult c f.sat (intVal c a * 2 ^ shiftCount c b))
/-- VSHR: element bits shifted right, zeros in (R270). -/
def execVshr (f : FmtV) (s : State) : Result :=
  perform (.vshr f) s (vElementwise (.vshr f) f intClass [f.va, f.vb] fun c a b _ => ⟨a >>> shiftCount c b, 0⟩)
/-- VSRA: floor of a / 2^n (R270). -/
def execVsra (f : FmtV) (s : State) : Result :=
  perform (.vsra f) s (vElementwise (.vsra f) f intClass [f.va, f.vb] fun c a b _ =>
    ⟨intBits (codeWidth c) (intVal c a / 2 ^ shiftCount c b), 0⟩)
/-- VABS: exact absolute value (R271). -/
def execVabs (f : FmtV) (s : State) : Result :=
  perform (.vabs f) s (vElementwise (.vabs f) f anyClass [f.va] fun c a _ _ => eAbs c f.sat a)
/-- VNEG: exact negation (R271). -/
def execVneg (f : FmtV) (s : State) : Result :=
  perform (.vneg f) s (vElementwise (.vneg f) f anyClass [f.va] fun c a _ _ => eNeg c f.sat a)
/-- VEXP2: 2^x (R162). -/
def execVexp2 (f : FmtV) (s : State) : Result :=
  perform (.vexp2 f) s (vElementwise (.vexp2 f) f codeFloat [f.va] fun c a _ _ => exp2Num (fltOf c) (rmOf f) ((fltOf c).decode a))
/-- VRCP: 1 / x (R162). -/
def execVrcp (f : FmtV) (s : State) : Result :=
  perform (.vrcp f) s (vElementwise (.vrcp f) f codeFloat [f.va] fun c a _ _ => vrcpOp (fltOf c) (rmOf f) a)
/-- VRSQRT: 1 / sqrt x (R162). -/
def execVrsqrt (f : FmtV) (s : State) : Result :=
  perform (.vrsqrt f) s (vElementwise (.vrsqrt f) f codeFloat [f.va] fun c a _ _ => vrsqrtOp (fltOf c) (rmOf f) a)
/-- VDIV: a / b (R162). -/
def execVdiv (f : FmtV) (s : State) : Result :=
  perform (.vdiv f) s (vElementwise (.vdiv f) f codeFloat [f.va, f.vb] fun c a b _ => vdivOp (fltOf c) (rmOf f) a b)
/-- VSQRT: sqrt x (R162). -/
def execVsqrt (f : FmtV) (s : State) : Result :=
  perform (.vsqrt f) s (vElementwise (.vsqrt f) f codeFloat [f.va] fun c a _ _ => vsqrtOp (fltOf c) (rmOf f) a)

/-! ## VCVT (R272) -/

structure Cvt where
  dfmt : Nat
  part : Nat
  dblk : Nat
  /-- number of elements converted -/
  n : Nat
  /-- first source and first destination element -/
  s0 : Nat
  d0 : Nat
  deriving DecidableEq, Repr

/-- The element mapping of a conversion (R247, R272): `max` are the element counts of the two formats in one register. -/
def cvtMap (dfmt part dblk srcMax dstMax : Nat) : Cvt :=
  let n := Nat.min srcMax dstMax
  { dfmt := dfmt, part := part, dblk := dblk, n := n, s0 := if dstMax < srcMax then part * n else 0,
    d0 := if dstMax < srcMax then 0 else part * n }

/-- The elements of a conversion: source elements with their entries, destination entries, the mask at destination elements. -/
def cvtPass (active : List Bool) (src : List Nat) (srcEnt dstEnt : Nat → Nat) (c : Cvt)
    (conv : Nat → Nat → Nat → Elem) : List (Option Elem) :=
  (List.range c.n).zipWith (fun i ga => if ga.1 then some (conv ga.2 (srcEnt (c.s0 + i)) (dstEnt (c.d0 + i))) else none)
    (active.zip ((src.drop c.s0).take c.n))

/-- Elements replaced from position `k`. -/
def mergeAt (k : Nat) (d : List Nat) (merge : List Nat → List Nat) (n : Nat) : List Nat :=
  d.take k ++ merge ((d.drop k).take n) ++ d.drop (k + n)

/-- VCVT (R170, R272). MREG may be the SREG that vtype names. [DEDUCED, log 71] -/
def vcvt (f : FmtV) (s : State) : M State := do
  let i : Instr := .vcvt f
  let F := vEff s
  let imm := f.vc.bits.toNat
  let dfmt := imm % 16
  let part := (imm >>> 4) % 8
  let dblk := (imm >>> 7) % 4
  let srcG := codeGrouped F.code F.blk
  let dstG := codeGrouped dfmt dblk
  let va := f.va.num.toNat
  let vb := f.vb.num.toNat
  let vd := f.vd.num.toNat
  needI i (decide (1 ≤ dfmt) && decide (dfmt ≤ 10)) Cause.reservedField
  let c := cvtMap dfmt part dblk (vlmax F.code) (vlmax dfmt)
  needI i (decide ((part + 1) * c.n ≤ Nat.max (vlmax F.code) (vlmax dfmt))) Cause.reservedField
  needI i (!((dfmt == 1 || dfmt == 3) && dblk == 0)) Cause.reservedField
  needI i (!(srcG && dstG)) Cause.reservedField
  needI i (vd != va) Cause.reservedField
  needI i (!(dstG && (vd == vb || va == vb))) Cause.reservedField
  needI i (dstG || f.vb.bits == 0) Cause.reservedField
  needI i (!(decide (5 ≤ dfmt) && dblk != 0)) Cause.reservedField
  needMask i f (if dstG then [va, vb] else [va])
  need (!(srcG && decide ((vCore s).allot ≤ F.sreg))) Cause.allot (BitVec.ofNat 64 F.sreg)
  vGo s (if dstG then [f.va, f.vb] else [f.va]) (maskRegs f ++ (if srcG then [F.sreg] else [])) [vd] fun s =>
    let k := vCore s
    let wd := codeWidth dfmt
    let srcEnts := if srcG then vRegElems s 32 F.sreg else []
    let dstEnts := if dstG then vRegElems s 32 vb else []
    let mask := (vMask s f wd).map fun m => (m.drop c.d0).take c.n
    let active := activeList (k.vresume - c.s0) (k.vl - c.s0) mask c.n
    let r := cvtPass active (vRegElems s (codeWidth F.code) va) (fun e => srcEnts.getD (e >>> blkLog F.blk) 0)
      (fun e => dstEnts.getD (e >>> blkLog dblk) 0) c fun b se de => convTo F.code dfmt (rmOf f) f.sat srcG dstG b se de
    let top := c.d0 + Nat.min c.n (k.vl - c.s0)
    let s1 := if top = c.d0 then s
              else vPut s vd (ofVElems wd (mergeAt c.d0 (vRegElems s wd vd) (fun d => mergeElems d r) c.n)) (elemBytes wd top)
    let s2 := if f.xm && top != c.d0 then
        vPutMask s1 f.mreg.toNat (ofVElems wd (mergeAt c.d0 (vRegElems s wd f.mreg.toNat) (fun d => maskElems wd d r) c.n)) (elemBytes wd top)
      else s1
    ok (advance (endVector (modHart s2 (leadHart s) fun h => h.raise (flagsOf r))))

/-- VCVT (R272). -/
def execVcvt (f : FmtV) (s : State) : Result := perform (.vcvt f) s (vcvt f)

/-! ## Major 0x61 (R274-R276) -/

/-- The active elements' values among `as`. -/
def pickActive : List Bool → List Nat → List Nat
  | g :: gs, a :: as => if g then a :: pickActive gs as else pickActive gs as
  | _, _ => []

def vcmp (f : FmtV) (s : State) : M State := do
  let i : Instr := .vcmp f
  let F := vEff s
  let pred := f.vc.bits.toNat % 8
  needI i (decide (pred < 6)) Cause.reservedField
  needPlain i F
  vGo s [f.va, f.vb] (maskRegs f) [f.vd.num.toNat] fun s =>
    let w := codeWidth F.code
    let r := elemPass (fun a b _ => let x := eCmp F.code pred a b; ⟨if x.1 then 1 else 0, x.2⟩) (vActive s f w)
      (vRegElems s w f.va.num.toNat) (vRegElems s w f.vb.num.toNat) (vRegElems s w f.vb.num.toNat)
    let st := cmpState (r.filterMap fun x => x.map fun e => e.val == 1)
    ok (vFinish f w r (modHart s (leadHart s) fun h => { h with flags := st }))

/-- VCMP (R274). -/
def execVcmp (f : FmtV) (s : State) : Result := perform (.vcmp f) s (vcmp f)

def vmerge (f : FmtV) (s : State) : M State := do
  let F := vEff s
  needPlain (.vmerge f) F
  vGo s [f.va, f.vb] [f.mreg.toNat] [f.vd.num.toNat] fun s =>
    let w := codeWidth F.code
    ok (vFinish f w (elemPass (fun a b m => ⟨if m % 2 = 1 then a else b, 0⟩) (vActive s f w)
      (vRegElems s w f.va.num.toNat) (vRegElems s w f.vb.num.toNat) (vRegElems s w f.mreg.toNat)) s)

/-- VMERGE (R275). -/
def execVmerge (f : FmtV) (s : State) : Result := perform (.vmerge f) s (vmerge f)

/-- The indices of the active elements whose bit 0 is 1, ascending. [DEDUCED, log 28] -/
def setIndices (s : State) (f : FmtV) (w : Nat) : List Nat :=
  let on := (vActive s f w).zipWith (fun g a => g && a % 2 == 1) (vRegElems s w f.va.num.toNat)
  pickActive on (List.range (8192 / w))

/-- A count of mask elements written to a scalar register (R276). -/
def vcount (i : Instr) (f : FmtV) (val : List Nat → Word) (s : State) : M State := do
  let F := vEff s
  needPlain i F
  vGo s [f.va] (maskRegs f) [] fun s =>
    ok (advance (endVector (xWrite s f.vd (val (setIndices s f (codeWidth F.code))))))

/-- VPOPC (R276). -/
def execVpopc (f : FmtV) (s : State) : Result := perform (.vpopc f) s (vcount (.vpopc f) f fun l => BitVec.ofNat 64 l.length)
/-- VFIRST (R276). -/
def execVfirst (f : FmtV) (s : State) : Result :=
  perform (.vfirst f) s (vcount (.vfirst f) f fun l => match l with
    | e :: _ => BitVec.ofNat 64 e
    | [] => 0xFFFFFFFFFFFFFFFF#64)

/-! ## Major 0x62 (R278-R283) -/

/-- The registers of an index vector at `base` for `vl` indices (R278). -/
def indexGroup (base vl : Nat) : List Nat := (List.range ((vl + 511) / 512)).map (base + ·)

/-- The group lies within v31 and within the allotment (R278, R463). -/
def needGroup (i : Instr) (g : List Nat) : M Unit := do
  needI i (g.all (· < 32)) Cause.reservedField

def needAllot (s : State) (g : List Nat) : M Unit :=
  match g.filter fun n => decide ((vCore s).allot ≤ n) with
  | [] => .ok ()
  | n :: t => .error (.trap Cause.allot (BitVec.ofNat 64 (t.foldl Nat.min n)))

def vcompress (f : FmtV) (s : State) : M State := do
  let i : Instr := .vcompress f
  let F := vEff s
  let g := indexGroup f.vd.num.toNat (vCore s).vl
  needPlain i F
  needGroup i g
  needI i (!g.contains f.va.num.toNat && !(f.masken && g.contains f.mreg.toNat)) Cause.reservedField
  needAllot s g
  vGo s [f.va] (maskRegs f) g fun s =>
    let l := setIndices s f (codeWidth F.code)
    let s1 := modCore s (curCore s) fun k => { k with vl := l.length }
    let s2 := (List.range g.length).foldl (fun t j =>
      let part := (l.drop (512 * j)).take 512
      vPut t (f.vd.num.toNat + j) (ofVElems 16 part) (2 * part.length)) s1
    ok (advance (endVector s2))

/-- VCOMPRESS (R278). -/
def execVcompress (f : FmtV) (s : State) : Result := perform (.vcompress f) s (vcompress f)

/-- The indices of an index vector. -/
def indexElems (s : State) (g : List Nat) : List Nat := (g.map fun n => vRegElems s 16 n).flatten

/-- VGATHER; FE of VB is of its group's first register. [DEDUCED, log 74] -/
def vgather (f : FmtV) (s : State) : M State := do
  let i : Instr := .vgather f
  let F := vEff s
  let g := indexGroup f.vb.num.toNat (vCore s).vl
  needPlain i F
  needGroup i g
  needI i (f.vd.num != f.va.num && !g.contains f.vd.num.toNat) Cause.reservedField
  needAllot s g
  vGo s [f.va, f.vb] (maskRegs f ++ g) [f.vd.num.toNat] fun s =>
    let w := codeWidth F.code
    let src := (vCore s).v.get 0 f.va.num.toNat
    let idx := indexElems s g
    let pad := idx ++ List.replicate (8192 / w - idx.length) 0
    ok (vFinish f w (elemPass (fun x _ _ => ⟨if x < 8192 / w then vElem w x src else 0, 0⟩) (vActive s f w) pad pad pad) s)

/-- VGATHER (R279). -/
def execVgather (f : FmtV) (s : State) : Result := perform (.vgather f) s (vgather f)

def vslide (f : FmtV) (s : State) : M State := do
  let i : Instr := .vslide f
  let F := vEff s
  let n := (xRead s f.vb).toNat
  needPlain i F
  needI i (f.vd.num != f.va.num) Cause.reservedField
  vGo s [f.va] (maskRegs f) [f.vd.num.toNat] fun s =>
    let w := codeWidth F.code
    let vl := (vCore s).vl
    let src := (vCore s).v.get 0 f.va.num.toNat
    let es := List.range (8192 / w)
    let op (e old _ : Nat) : Elem :=
      ⟨if f.vc.bits.getLsbD 0 then (if n ≤ e then vElem w (e - n) src else old)
       else (if e + n < vl then vElem w (e + n) src else 0), 0⟩
    ok (vFinish f w (elemPass op (vActive s f w) es (vRegElems s w f.vd.num.toNat) es) s)

/-- VSLIDE (R280). -/
def execVslide (f : FmtV) (s : State) : Result := perform (.vslide f) s (vslide f)

/-- One step of a reduction in format `A` over an element of format `F`; a bitwise one sets no flag for a signalling NaN that it widens (R281). [DEDUCED, log 28] -/
def redStep (op F A rm : Nat) (sat : Bool) (acc x : Nat) : Elem :=
  let wide : Elem :=
    if F = A then ⟨x, 0⟩
    else if codeFloat F then roundNum (fltOf A) 0 ((fltOf F).decode x)
    else ⟨intBits 32 (intVal F x), 0⟩
  let sig : Flg := if codeFloat F then sigFlag ((fltOf F).decode x).isSig else 0
  match op with
  | 0 =>
    if codeFloat A then (addNum rm ((fltOf A).decode acc) ((fltOf F).decode x)).round (fltOf A) rm
    else intResult A sat (intVal A acc + intVal F x)
  | 1 => let r := eMinMax A false acc wide.val; ⟨r.val, r.fl ||| sig⟩
  | 2 => let r := eMinMax A true acc wide.val; ⟨r.val, r.fl ||| sig⟩
  | 3 => ⟨acc &&& wide.val, 0⟩
  | 4 => ⟨acc ||| wide.val, 0⟩
  | _ => ⟨acc ^^^ wide.val, 0⟩

/-- A chain of steps from an accumulator, with the union of their flags (R163). -/
def chain (step : Nat → Nat → Elem) (acc : Elem) (xs : List Nat) : Elem :=
  xs.foldl (fun a x => let r := step a.val x; ⟨r.val, a.fl ||| r.fl⟩) acc

def vred (f : FmtV) (s : State) : M State := do
  let i : Instr := .vred f
  let F := vEff s
  let op := f.vc.bits.toNat % 8
  let A := if f.vc.bits.getLsbD 3 then (if codeFloat F.code then 10 else 7) else F.code
  needPlain i F
  needI i (decide (op < 6)) Cause.reservedField
  vGo s [f.va, f.vb] (maskRegs f) [f.vd.num.toNat] fun s =>
    let w := codeWidth F.code
    let wa := codeWidth A
    let k := vCore s
    let r := chain (redStep op F.code A (rmOf f) f.sat) ⟨vElem wa 0 (k.v.get 0 f.vb.num.toNat), 0⟩
      (pickActive (vActive s f w) (vRegElems s w f.va.num.toNat))
    let s1 := vPut s f.vd.num.toNat (setVElem wa 0 (k.v.get 0 f.vd.num.toNat) r.val) (elemBytes wa 1)
    ok (advance (endVector (modHart s1 (leadHart s) fun h => h.raise r.fl)))

/-- VRED (R281). -/
def execVred (f : FmtV) (s : State) : Result := perform (.vred f) s (vred f)

def vtopk (f : FmtV) (s : State) : M State := do
  let n := f.vc.bits.toNat % 64
  needI (.vtopk f) (decide (1 ≤ n) && decide (n ≤ 32)) Cause.reservedField
  vGo s [f.va, f.vb] [] [f.vd.num.toNat] fun s =>
    let k := vCore s
    let lst (o : Opnd) := pairsOf n (k.v.get 0 o.num.toNat).toNat
    let best := bestK n (lst f.va ++ lst f.vb)
    let old := (k.v.get 0 f.vd.num.toNat).toNat
    ok (advance (endVector (vPut s f.vd.num.toNat (BitVec.ofNat 8192 (setBits old 0 (64 * n) (packPairs best))) (8 * n))))

/-- VTOPK (R282). -/
def execVtopk (f : FmtV) (s : State) : Result := perform (.vtopk f) s (vtopk f)

def viota (f : FmtV) (s : State) : M State := do
  let i : Instr := .viota f
  let F := vEff s
  needI i (!codeFloat F.code) Cause.illegal
  needPlain i F
  vGo s [] (maskRegs f) [f.vd.num.toNat] fun s =>
    let w := codeWidth F.code
    let es := List.range (8192 / w)
    ok (vFinish f w (elemPass (fun e _ _ => intResult F.code f.sat (e : Int)) (vActive s f w) es es es) s)

/-- VIOTA (R283). -/
def execViota (f : FmtV) (s : State) : Result := perform (.viota f) s (viota f)

def vbcast (f : FmtV) (s : State) : M State := do
  let F := vEff s
  let x := (xRead s f.va).toNat
  needPlain (.vbcast f) F
  vGo s [] (maskRegs f) [f.vd.num.toNat] fun s =>
    let w := codeWidth F.code
    let es := List.range (8192 / w)
    ok (vFinish f w (elemPass (fun _ _ _ => ⟨x % 2 ^ w, 0⟩) (vActive s f w) es es es) s)

/-- VBCAST (R283). -/
def execVbcast (f : FmtV) (s : State) : Result := perform (.vbcast f) s (vbcast f)

def vext (f : FmtV) (s : State) : M State := do
  let F := vEff s
  needPlain (.vext f) F
  vGo s [f.va] [] [] fun s =>
    let x := vElem (codeWidth F.code) ((xRead s f.vb).toNat % vlmax F.code) ((vCore s).v.get 0 f.va.num.toNat)
    ok (advance (endVector (xWrite s f.vd (elemToX F.code x))))

/-- VEXT (R283). -/
def execVext (f : FmtV) (s : State) : Result := perform (.vext f) s (vext f)

/-! ## Major 0x64 (R284-R287) -/

def vsetvl (f : FmtV) (s : State) : M State :=
  let n := Nat.min (xRead s f.va).toNat (vlmax (typeFmt (vCore s).vtype))
  ok (advance (xWrite (modCore s (curCore s) fun k => { k with vl := n }) f.vd (BitVec.ofNat 64 n)))

/-- VSETVL (R284). -/
def execVsetvl (f : FmtV) (s : State) : Result := perform (.vsetvl f) s (vsetvl f)

def vsettype (f : FmtV) (s : State) : M State := do
  let t := xRead s f.va
  needI (.vsettype f) (typeOk false t) Cause.reservedField
  ok (advance (xWrite (modCore s (curCore s) fun k => { k with vtype := t, vl := Nat.min k.vl (vlmax (typeFmt t)) }) f.vd
    (vCore s).vtype))

/-- VSETTYPE (R285). -/
def execVsettype (f : FmtV) (s : State) : Result := perform (.vsettype f) s (vsettype f)
/-- VRDHW (R284). -/
def execVrdhw (f : FmtV) (s : State) : Result := perform (.vrdhw f) s fun s => ok (advance (xWrite s f.vd (vCore s).hw))

/-- The vector file after a change of the allotment: released registers and gained ones hold zeros (R101, R287). -/
def reallot (k : Core) (n : Nat) : Core :=
  let v := (List.range 32).foldl (fun t r => if Nat.min k.allot n ≤ r then t.set 0 r 0 else t) k.v
  let reg := bits k.hw.toNat 0 5
  { k with v := v, allot := n, hw := if k.hw.getLsbD 5 && decide (n ≤ reg) then k.hw - BitVec.ofNat 64 (reg - (n - 1)) else k.hw }

def vallot (f : FmtV) (s : State) : M State :=
  let n := (xRead s f.va).toNat
  let k := vCore s
  if n = 8 ∨ n = 16 ∨ n = 32 then
    if (List.range 32).any fun r => decide (n ≤ r) && vEmpty k r then stall s
    else ok (advance (xWrite (modCore s (curCore s) fun k => reallot k n) f.vd (BitVec.ofNat 64 k.allot)))
  else
    -- the trap names no register: its TRAPINFO is a free value (log 8)
    .error (.after (freeWord s).2 Cause.allot (freeWord s).1)

/-- VALLOT (R287). -/
def execVallot (f : FmtV) (s : State) : Result := perform (.vallot f) s (vallot f)

/-! ## Steps of the device -/

/-- VECTOR_COMPLETE: the last element of a register's pending write is written: the register is full (R37). -/
def vectorComplete (s : State) (c n : Nat) : State :=
  if ((coreOf s c).vpend.contains n) then
    modCore s c fun k => { k with vpend := k.vpend.erase n,
                                  vempty := if (k.vpend.erase n).contains n then k.vempty else k.vempty &&& ~~~(BitVec.ofNat 32 (2 ^ n)) }
  else s

/-- VECTOR_COMPLETE (R37). -/
def execVectorComplete (core reg : Nat) (s : State) : Result :=
  event (decide (core < 128)) (if reg < 32 then vectorComplete s core reg else s)

end Sys2Proof.Machine
end

