-- ==== Sys2Proof/Machine/Slots.lean ====
section
/-! DEFINITION. The C-file: slots, ownership misses and the spill assist, and the commands in flight on a core (R288-R290, R307-R309, R441). -/
namespace Sys2Proof.Machine

def slotOf (s : State) (c n : Nat) : Slot := (coreOf s c).slots.get {} n
def modSlot (s : State) (c n : Nat) (f : Slot → Slot) : State := modCore s c fun k => { k with slots := k.slots.modify {} n f }

/-- The slot holds data of the context (R290). -/
def ownsSlot (s : State) (c n : Nat) (ctx : BitVec 16) : Bool := (slotOf s c n).v && (slotOf s c n).owner == ctx

/-- A fresh slot: +0 words, with no writer in flight, hence FULL 1 (R288, R309). [DEDUCED, log 29] -/
def freshSlot (ctx : BitVec 16) : Slot := { owner := ctx, v := true }

/-- The spill assist on an ownership miss: another context's data are spilled, the own record is consumed or the slot is fresh (R309). An
access outside the places of R307 is SLOTOWN; poison is UE. [DEDUCED, log 29] -/
def serveMiss (s : State) (c n : Nat) (ctx : BitVec 16) (base : Word) : Except (BitVec 8 × Word) State :=
  let e := slotOf s c n
  if ownsSlot s c n ctx then .ok s
  else
    let mine := spillAddr base c n
    let theirs := spillAddr (s.contexts.get {} e.owner.toNat).spillbase c n
    let live := spillLive s mine
    if !deviceArea s mine (if live then 0x10080 else 128) || (e.v && !deviceArea s theirs (if e.d then 0x10080 else 128)) then
      .error (Cause.slotown, 0)
    else
      match firstPoison s mine (if live then 0x10080 else 128) with
      | some p => .error (Cause.ue, BitVec.ofNat 64 p)
      | none =>
        let s1 := if e.v then
            let t := writeNat s theirs 128 (e.header (8 * c + n))
            if e.d then writeBytes t (theirs + 128) (leBytes 65536 e.words.toNat) else t
          else s
        if spillLive s1 mine then
          let sl := Slot.ofHeader (readNat s1 mine 128) (BitVec.ofNat 524288 (readNat s1 (mine + 128) 65536))
          .ok (modSlot (writeBytes s1 mine [readByte s1 mine &&& 0xFE#8]) c n fun _ => sl)
        else .ok (modSlot s1 c n fun _ => freshSlot ctx)

/-- The slot made the hart's before the instruction proceeds; a service that fails is a partition fault of the spill assist (R290). -/
def ownSlot (s : State) (c n id : Nat) : M State :=
  let h := hartOf s id
  match serveMiss s c n h.context h.spillbase with
  | .ok t => .ok t
  | .error e => .error (.part s e.1 4 e.2)

/-- Matrix work that a stop has caught still writes this slot of its context: it is in flight again before anything else uses the slot
(R289, R437). [DESIGN CHOICE, log 62] -/
def slotAwaited (s : State) (c n : Nat) (ctx : BitVec 16) : Bool :=
  s.cores.any fun k => k.2.matrix.any fun w =>
    w.again && w.slot == n && w.entry.info.context == ctx && w.tiles.any fun t => t.pending && t.core == c

/-- A slot that a hart of the context may name now: full, and its words not being read by a store where they are to change (R289, R309). -/
def slotFree (s : State) (c n : Nat) (ctx : BitVec 16) (writer : Bool) : Bool :=
  (slotOf s c n).full && !slotAwaited s c n ctx && !((writer || !ownsSlot s c n ctx) && beingStored (coreOf s c) n)

/-- An instruction on a slot: the waits of R289, then the ownership of R290, then its own part on the state so served. -/
def onSlot (s : State) (n : Nat) (writer : Bool) (run : State → M State) : M State :=
  let c := curCore s
  if !slotFree s c n (hartOf s (leadHart s)).context writer then stall s
  else do
    let t ← ownSlot s c n (leadHart s)
    run t

/-- A ninth command or matrix instruction waits (R441). -/
def matrixRoom (s : State) : M Unit := if 8 ≤ inFlight (coreOf s (curCore s)) then .error (.wait s false) else .ok ()

/-- MZERO has changed a slot: FULL is 0 until MATRIX_COMPLETE (R289). -/
def slotWritten (s : State) (c n : Nat) (f : Slot → Slot) : State :=
  modCore (modSlot s c n fun t => { f t with full := false }) c fun k => { k with mpend := k.mpend ++ [n] }

/-- The slot that an instruction of major 0x80 names; MFIND names none (R290). -/
def namedSlot (i : Instr) : Option Nat :=
  match i with
  | .mfind _ => none
  | _ => if major i = 0x80 then some (bits (instrWord i).toNat 14 3) else none

/-- OWNERSHIP_MISS_SERVICE: the X-hart of the context stands at an instruction that misses on the slot, and the miss is served (R309). -/
def missService (s : State) (c n : Nat) (ctx : BitVec 16) : State :=
  let id := xHartId c
  let h := hartOf s id
  if h.run = .running && h.context == ctx && slotFree s c n ctx false && ((standsAt s id).bind namedSlot) == some n then
    match serveMiss s c n ctx h.spillbase with
    | .ok t => t
    | .error e =>
      partitionFault (if e.1 = Cause.ue then logPoison s e.2.toNat ctx (BitVec.ofNat 16 id) else s) id
        { cause := e.1, origin := BitVec.ofNat 16 id, engine := 4, info := e.2, fpc := h.pc }
  else s

/-- OWNERSHIP_MISS_SERVICE (R309). -/
def execOwnershipMissService (core slot : Nat) (context : BitVec 16) (s : State) : Result :=
  event (decide (core < 128)) (if slot < 8 then missService s core slot context else s)

end Sys2Proof.Machine
end

