-- ==== Sys2Proof/Machine/Matrix.lean ====
section
/-! DEFINITION. Major 0x80: matrix products, slots and the fast-weight update (R291-R306). -/
namespace Sys2Proof.Machine

/-- The 16,384 words of a slot, and back. -/
def slotWords (t : Slot) : List Nat := unpackElems 32 16384 t.words.toNat
def ofSlotWords (l : List Nat) : SlotWords := BitVec.ofNat 524288 (packElems 32 l)

/-! ## Reading the operands -/

/-- The elements of row `m` of A, as encoded (R293). -/
def aRow (s : State) (core : Nat) (p : Prod) (m : Nat) : List Nat :=
  let w := codeWidth p.aFmt
  unpackElems w p.k (leNat (readStore s (core / 2) (p.aOff + m * p.aStride) (elemBytes w p.k)))

/-- Element `n` of row `r` of B in a W-buffer (R294). -/
def bElem (k : Core) (p : Prod) (r n : Nat) : Nat :=
  let w := codeWidth p.fmt
  let at' := p.bOff + r * p.bStride + w * n / 8
  let v := leNat (Tbl.getSpan 0 k.wbuf at' ((w + 7) / 8))
  if w = 4 then elemNat 4 (n % 2) v else v

/-- Element (k, n) of a staged tile; `none` where every byte it reads is padding (R329). -/
def tileElem (t : Tile) (p : Prod) (r n : Nat) : Option Nat :=
  let w := codeWidth p.fmt
  let at' := r * p.bStride + w * n / 8
  let len := (w + 7) / 8
  if (Tbl.getSpan false t.pad at' len).all id then none
  else
    let v := leNat (Tbl.getSpan 0 t.bytes at' len)
    some (if w = 4 then elemNat 4 (n % 2) v else v)

/-- KEEP of a metadata word, and the word's check (R165). -/
def metaWord (k : Core) (p : Prod) (g n : Nat) : Nat := leNat (Tbl.getSpan 0 k.wbuf (p.mOff + 2 * (g * p.n + n)) 2)
def keepCount (w : Nat) : Nat := ((List.range 12).filter w.testBit).length
def metaOk (p : Prod) (w : Nat) : Bool := decide (w < 4096) && keepCount w == p.sparse

/-- The terms of column `n`: each position of K that contributes, with its value in B, ascending (R163, R164, R296). -/
def bColumn (k : Core) (tile : Option Tile) (p : Prod) (n : Nat) : List (Nat × Nat) :=
  if p.sparse = 0 then
    (List.range p.k).filterMap fun r => match tile with
      | some t => (tileElem t p r n).map fun b => (r, b)
      | none => some (r, bElem k p r n)
  else
    ((List.range (p.k / 12)).map fun g =>
      let kept := (List.range 12).filter (metaWord k p g n).testBit
      kept.zipWith (fun i r => (12 * g + i, bElem k p (g * p.sparse + r) n)) (List.range kept.length)).flatten

/-- The scale entry of group `g` and column `n` (R294). -/
def scaleEntry (k : Core) (p : Prod) (g n : Nat) : Nat := leNat (Tbl.getSpan 0 k.wbuf (p.sOff + 4 * (g * p.n + n)) 4)

/-! ## One result element (R163, R164, R295) -/

/-- The dense floating chain. -/
def floatTerm (p : Prod) (acc : Elem) (a b : Nat) : Elem :=
  let F := fltOf p.fmt
  let r := (fmaNum 0 (F.decode a) (F.decode b) (f32.decode acc.val)).round f32 0
  ⟨r.val, acc.fl ||| r.fl⟩

/-- The integer chain, clamped at every addition. -/
def intTerm (p : Prod) (acc : Elem) (a b : Nat) : Elem :=
  let r := intResult 7 true (intVal 7 acc.val + intVal p.aFmt a * intVal p.fmt b)
  ⟨r.val, acc.fl ||| r.fl⟩

/-- The exact contribution of one group: the sum of its products with no rounding between. -/
def groupSum (p : Prod) (ent : Nat) (l : List (Nat × Nat)) : Option Exact :=
  l.foldl (fun acc ab =>
    let d := dequant p.fmt ab.2 ent
    let q := mulNum (numOfInt (intVal 4 ab.1)) d.num
    match acc with
    | none => some { num := q.num, fl := d.fl ||| q.fl }
    | some x => let t := addNum 0 x.num q.num; some { num := t.num, fl := x.fl ||| d.fl ||| q.fl ||| t.fl }) none

/-- The chain of one element over a column's terms. -/
def productElem (p : Prod) (ents : Nat → Nat) (init : Nat) (a : List Nat) (col : List (Nat × Nat)) : Elem :=
  let pairs := col.map fun kb => (kb.1, a.getD kb.1 0, kb.2)
  if p.grouped then
    let G := 2 ^ blkLog p.blk
    (List.range (p.k / G)).foldl (fun acc g =>
      match groupSum p (ents g) ((pairs.filter fun t => t.1 / G == g).map fun t => t.2) with
      | none => acc
      | some x =>
        let r := (addNum 0 (f32.decode acc.val) x.num).round f32 0
        ⟨r.val, acc.fl ||| x.fl ||| r.fl⟩) ⟨init, 0⟩
  else if codeFloat p.fmt then pairs.foldl (fun acc t => floatTerm p acc t.2.1 t.2.2) ⟨init, 0⟩
  else pairs.foldl (fun acc t => intTerm p acc t.2.1 t.2.2) ⟨init, 0⟩

/-- Tile (ti, tj) of a product into its core's slot (R295, R298), over the reduction positions that `sel` takes, from 0 or the old words: words,
flags, D, GRP. -/
def productPart (s : State) (src : Nat) (p : Prod) (tile : Option Tile) (ti tj : Nat) (zero : Bool) (sel : Nat → Bool) : Slot → Core → Slot :=
  fun t k =>
  let rows := (List.range (p.rows ti)).map fun i => aRow s src p (128 * ti + i)
  let col0 := if p.staged then 128 * tj else 0
  let cols := (List.range (p.cols tj)).map fun j => (j, (bColumn k tile p (col0 + j)).filter fun b => sel b.1)
  let old := slotWords t
  let out := (List.range 128).map fun i => match rows[i]? with
    | none => ((old.drop (128 * i)).take 128).map fun w => (⟨w, 0⟩ : Elem)
    | some a =>
      cols.zipWith (fun c w => productElem p (fun g => scaleEntry k p g c.1) (if zero then 0 else w) a c.2) ((old.drop (128 * i)).take 128) ++
        ((old.drop (128 * i + p.cols tj)).take (128 - p.cols tj)).map fun w => ⟨w, 0⟩
  let es := out.flatten
  { t with words := ofSlotWords (es.map (·.val)), sticky := t.sticky ||| es.foldl (fun fl e => fl ||| e.fl) 0, d := true,
           grp := if p.coop then BitVec.ofNat 6 (32 + 8 * ti + tj) else 0 }

/-- The first failed check of a product (R458): its cause, and the TRAPINFO of R452. -/
def Prod.check (p : Prod) (s : State) (c : Nat) (word : Word) : Chk Unit :=
  if !p.fieldsOk then .error (Cause.reservedField, word)
  else match p.badRange with
    | some off => .error (Cause.prot, BitVec.ofNat 64 off)
    | none =>
      if p.staged && ((coreOf s c).tiles.get {} p.bOff).st == .empty then .error (Cause.token, BitVec.ofNat 64 p.bOff)
      else if p.sparse != 0 && !((p.targets c).all fun x => (List.range (p.k / 12)).all fun g =>
          (List.range (p.cols x.2.2)).all fun n => metaOk p (metaWord (coreOf s x.1) p g n)) then .error (Cause.reservedField, word)
      else .ok ()

/-- The tile of a staged operand. [DEDUCED, log 29] -/
def Prod.tile (p : Prod) (s : State) (c : Nat) : Option Tile := if p.staged then some ((coreOf s c).tiles.get {} p.bOff) else none

/-- The step whose members a command belongs to, and the tables its addresses use. [DEDUCED, log 26] -/
def engineRec (s : State) (instr : Word) (ops : List Word) (token : Nat) (engine : BitVec 3) : EngineRec :=
  let id := leadHart s
  let h := hartOf s id
  let info := (stepOfHart s id).getD { launch := 0, step := 0, prio := 0, context := h.context, scope := h.home }
  { instr := instr, ops := ops, finstr := 0, fops := [0, 0, 0], done := 0, token := token, engine := engine, fpend := false, hart := id,
    info := info, priv := h.priv, ptroot := h.ptroot, hndbase := h.hndbase, hndcount := h.hndcount, vtype := (vCore s).vtype }

/-- Matrix work of a core in flight. -/
def addWork (s : State) (c : Nat) (w : MatrixWork) : State := modCore s c fun k => { k with matrix := k.matrix ++ [w] }

/-- The tiles of a product before it is performed. -/
def Prod.tiles (p : Prod) (s : State) (c : Nat) : List MatrixTile :=
  (p.targets c).map fun x => { core := x.1, row := x.2.1, col := x.2.2, before := slotOf s x.1 p.slot }

/-- A product performed on every target core over the positions of K from `from'` on; its slots are full when each tile's last word is written. -/
def runProduct (s : State) (c : Nat) (p : Prod) (from' : Nat) (e : EngineRec) (follow : Bool) : State :=
  addWork ((p.targets c).foldl (fun t x => modSlot t x.1 p.slot fun sl =>
      { productPart s c p (p.tile s c) x.2.1 x.2.2 (p.accz && from' == 0) (fun k => decide (from' ≤ k)) sl (coreOf s x.1) with full := false }) s)
    c { entry := e, slot := p.slot, tiles := p.tiles s c, follow := follow }

/-- MMA and MMAS as issued by the X-hart: checks, waits, ownership on every target core, the product (R291-R298). -/
def product (i : Instr) (f : FmtX) (sparse : Bool) (s : State) : M State := do
  needI i (!(sparse && (f.spn == 0))) Cause.reservedField
  let h := hartOf s (leadHart s)
  let c := curCore s
  let ops := [xRead s f.da, xRead s f.db, xRead s f.dk, h.get (f.db.num.toNat + 1)]
  let p := Prod.make f sparse (vCore s).vtype (xRead s f.da) (xRead s f.db) (h.get (f.db.num.toNat + 1)) (xRead s f.dk)
  if p.fieldsOk && p.badRange.isNone && p.staged && ((vCore s).tiles.get {} p.bOff).st == .loading then stall s
  else do
    lift (p.check s c (instrWord i))
    matrixRoom s
    let ts := p.targets c
    if ts.any fun x => !slotFree s x.1 p.slot h.context true then stall s
    else do
      let t ← ts.foldlM (fun t x => ownSlot t x.1 p.slot (leadHart s)) s
      ok (advance (runProduct t c p 0 { engineRec s (instrWord i) [0, 0, 0] 0 3 with fops := ops } false))

/-- MMA (R295). -/
def execMma (f : FmtX) (s : State) : Result := perform (.mma f) s (product (.mma f) f false)
/-- MMAS (R296). -/
def execMmas (f : FmtX) (s : State) : Result := perform (.mmas f) s (product (.mmas f) f true)

/-! ## Slot data, pins and flags (R299-R303) -/

/-- MZERO (R299). -/
def mzero (f : FmtX) (s : State) : M State :=
  onSlot s f.slot.toNat true fun s =>
    ok (advance (slotWritten s (curCore s) f.slot.toNat fun t => { t with words := 0, sticky := 0, prog := 0, grp := 0, d := true }))

/-- MZERO (R299). -/
def execMzero (f : FmtX) (s : State) : Result := perform (.mzero f) s (mzero f)

/-- An engine command issued: it is a member of the step's scope until it completes (R59). -/
def addEngine (s : State) (e : EngineRec) : State :=
  enterScope (modCore s (curCore s) fun k => { k with engines := k.engines ++ [e] }) e.info.context e.info.scope 1

/-- The slot under which a key is pinned: resident entries first, then the core's spill records, ascending; a misplaced record
or poison stops the search (R302, R307). [DEDUCED, log 29] -/
def findKey (s : State) (c : Nat) (ctx : BitVec 16) (base key : Word) (but : Option Nat) : Except (BitVec 8 × Word) (Option Nat) :=
  match (List.range 8).find? fun n =>
    let t := slotOf s c n
    t.v && t.p && t.owner == ctx && t.key == key && some n != but with
  | some n => .ok (some n)
  | none => (List.range 8).foldlM (fun got n =>
    let at' := spillAddr base c n
    match got with
    | some k => .ok (some k)
    | none =>
      if !deviceArea s at' 128 then .error (Cause.slotown, 0)
      else match firstPoison s at' 128 with
        | some p => .error (Cause.ue, BitVec.ofNat 64 p)
        | none =>
          let h := readNat s at' 128
          .ok (if spillLive s at' && h.testBit 2 && bits h 144 16 == ctx.toNat && bits h 192 64 == key.toNat then some n else none)) none

/-- A failure of the spill assist as an instruction's outcome. [DEDUCED, log 29] -/
def spillFail {α : Type} (s : State) (r : Except (BitVec 8 × Word) α) : M α :=
  match r with
  | .ok a => .ok a
  | .error e => .error (.part s e.1 4 e.2)

/-- A live record of the hart's context that is its home scope or a descendant (R62, R301): its number and address. -/
def liveScope (s : State) (id : Nat) (va : Word) : Option (Nat × Nat) :=
  let h := hartOf s id
  let a := hartCtx s id
  match deviceRead s a va.toNat 64 64, deviceAddr s a h.home.toNat false 64 with
  | .ok x, .ok home => if recState x.2 = 0 && recContext x.2 == h.context.toNat && inSubtree s a x.1 home.1 then some x else none
  | _, _ => none

/-- The reads of `liveScope` have been performed: the records from the one named up to the home scope (R72). -/
def liveScopeReads (s : State) (id : Nat) (va : Word) : State :=
  match deviceAddr s (hartCtx s id) (hartOf s id).home.toNat false 64 with
  | .ok home => chainTouch (hartCtx s id) home.1 17 s va.toNat
  | .error _ => s

/-- MPIN (R301). -/
def mpin (f : FmtX) (s : State) : M State := do
  let va := xRead s f.db
  let key := xRead s f.dk
  let n := f.slot.toNat
  let id := leadHart s
  match liveScope s id va with
  | none => .error (.trap Cause.scopefault va)
  | some x => onSlot s n false fun s => do
    let c := curCore s
    if (slotOf s c n).p then .error (.after s Cause.slotpin (BitVec.ofNat 64 n))
    else
      let got ← spillFail s (findKey s c (hartOf s id).context (hartOf s id).spillbase key (some n))
      if got.isSome then .error (.after s Cause.slotpin (BitVec.ofNat 64 n))
      else ok (advance (modSlot (liveScopeReads s id va) c n fun t => { t with p := true, key := key, scopeId := BitVec.ofNat 32 (recId x.2) }))

/-- MPIN (R301). -/
def execMpin (f : FmtX) (s : State) : Result := perform (.mpin f) s (mpin f)

/-- MUNPIN (R301). -/
def munpin (f : FmtX) (s : State) : M State :=
  let n := f.slot.toNat
  onSlot s n false fun s =>
    if (slotOf s (curCore s) n).p then ok (advance (modSlot s (curCore s) n fun t => { t with p := false, key := 0, scopeId := 0 }))
    else .error (.after s Cause.slotpin (BitVec.ofNat 64 n))

/-- MUNPIN (R301). -/
def execMunpin (f : FmtX) (s : State) : Result := perform (.munpin f) s (munpin f)

/-- MXFL: the sticky flags, cleared with DK[0] (R303). -/
def mxfl (f : FmtX) (s : State) : M State :=
  let n := f.slot.toNat
  onSlot s n false fun s =>
    let c := curCore s
    let s1 := xWrite s f.da ((slotOf s c n).sticky.setWidth 64)
    ok (advance (if f.dk.bits.getLsbD 0 then modSlot s1 c n fun t => { t with sticky := 0 } else s1))

/-- MXFL (R303). -/
def execMxfl (f : FmtX) (s : State) : Result := perform (.mxfl f) s (mxfl f)

/-- MFIND: the slot of a key, or all ones (R302). -/
def mfind (f : FmtX) (s : State) : M State := do
  let h := hartOf s (leadHart s)
  let got ← spillFail s (findKey s (curCore s) h.context h.spillbase (xRead s f.dk) none)
  ok (advance (xWrite s f.da (match got with
    | some n => BitVec.ofNat 64 n
    | none => 0xFFFFFFFFFFFFFFFF#64)))

/-- MFIND (R302). -/
def execMfind (f : FmtX) (s : State) : Result := perform (.mfind f) s (mfind f)

/-! ## Fast-weight update and read-out (R304-R306) -/

/-- The descriptor of R304. -/
structure Fast where
  raw : Nat
  deriving DecidableEq, Repr

def Fast.t (d : Fast) : Nat := bits d.raw 41 5
def Fast.dv (d : Fast) : Nat := bits d.raw 33 8
def Fast.dk (d : Fast) : Nat := bits d.raw 25 8
def Fast.oreg (d : Fast) : Nat := bits d.raw 20 5
def Fast.greg (d : Fast) : Nat := bits d.raw 15 5
def Fast.qreg (d : Fast) : Nat := bits d.raw 10 5
def Fast.vreg (d : Fast) : Nat := bits d.raw 5 5
def Fast.kreg (d : Fast) : Nat := bits d.raw 0 5

/-- The registers of a group of `n` FP32 elements. -/
def fastGroup (base n : Nat) : List Nat := (List.range ((n + 255) / 256)).map (base + ·)

/-- Fields of R304 in range. -/
def Fast.ok (d : Fast) : Bool :=
  bits d.raw 46 18 == 0 && decide (1 ≤ d.t) && decide (d.t ≤ 16) && decide (1 ≤ d.dv) && decide (d.dv ≤ 128) && decide (1 ≤ d.dk) &&
  decide (d.dk ≤ 128)

/-- The elements of a group, and a group with elements replaced. -/
def groupElems (s : State) (g : List Nat) : List Nat := (g.map fun n => vRegElems s 32 n).flatten

/-- Output elements written over a group from its base; a register's written prefix is what hw counts. -/
def putGroup (s : State) (base : Nat) (out : List Nat) : State :=
  (List.range ((out.length + 255) / 256)).foldl (fun t j =>
    let part := (out.drop (256 * j)).take 256
    vPut t (base + j) (ofVElems 32 (part ++ (vRegElems t 32 (base + j)).drop part.length)) (4 * part.length)) s

/-- A step of FP32 arithmetic that keeps the flags met so far. -/
def keep (fl : Flg) (e : Elem) : Elem := ⟨e.val, fl ||| e.fl⟩

/-- Fma32 chain of two lists from +0. -/
def dot32 (fl : Flg) (a b : List Nat) : Elem := (a.zip b).foldl (fun acc x => keep acc.fl (fma32 x.1 x.2 acc.val)) ⟨0, fl⟩

/-- Rows of S, dk columns each, from a slot's words (R304). -/
def fastRows (w : List Nat) (dv dk : Nat) : List (List Nat) := (List.range dv).map fun i => (w.drop (128 * i)).take dk

/-- One token of MDELTA: the new rows of S, the outputs, the flags (R305). -/
def deltaToken (rows : List (List Nat)) (kt qt vt : List Nat) (alpha beta : Nat) (fl : Flg) : List (List Nat) × List Nat × Flg :=
  let step1 := (rows.zip vt).foldl (fun (acc : List Nat × Flg) rv =>
    let u := dot32 acc.2 rv.1 kt
    let au := keep u.fl (mul32 alpha u.val)
    let w := keep au.fl ((addNum 0 (f32.decode rv.2) (f32.decode au.val).negate).round f32 0)
    (acc.1 ++ [w.val], w.fl)) ([], fl)
  let step2 := (rows.zip step1.1).foldl (fun (acc : List (List Nat) × Flg) rw =>
    let row := (rw.1.zip kt).foldl (fun (r : List Nat × Flg) sk =>
      let bw := keep r.2 (mul32 beta rw.2)
      let as' := keep bw.fl (mul32 alpha sk.1)
      let x := keep as'.fl (fma32 bw.val sk.2 as'.val)
      (r.1 ++ [x.val], x.fl)) ([], acc.2)
    (acc.1 ++ [row.1], row.2)) ([], step1.2)
  let step3 := step2.1.foldl (fun (acc : List Nat × Flg) row => let o := dot32 acc.2 row qt; (acc.1 ++ [o.val], o.fl)) ([], step2.2)
  (step2.1, step3.1, step3.2)

/-- A slot's words with rows of S replaced. -/
def putRows (w : List Nat) (rows : List (List Nat)) (dk : Nat) : List Nat :=
  ((List.range 128).map fun i => match rows[i]? with
    | some r => r ++ (w.drop (128 * i + dk)).take (128 - dk)
    | none => (w.drop (128 * i)).take 128).flatten

/-- The checks of MDELTA and MREAD: fields, group extents, overlap, allotment (R304). -/
def fastCheck (i : Instr) (s : State) (f : FmtX) (d : Fast) (ins outs : List Nat) (extra : Bool) : M Unit := do
  needI i (f.fmt == 10 && d.ok && extra && (ins ++ outs).all (· < 32) && !(outs.any ins.contains)) Cause.reservedField
  needAllot s (ins ++ outs)

/-- The tokens of a chunk from PROG up to `upTo` (R305): rows of S, the outputs, the flags. -/
def deltaRun (ke qe ve ge : List Nat) (d : Fast) (sl : Slot) (upTo : Nat) : List (List Nat) × List Nat × Flg :=
  (List.range (upTo - sl.prog.toNat)).foldl (fun (acc : List (List Nat) × List Nat × Flg) j =>
    let t := sl.prog.toNat + j
    let r := deltaToken acc.1 ((ke.drop (t * d.dk)).take d.dk) ((qe.drop (t * d.dk)).take d.dk) ((ve.drop (t * d.dv)).take d.dv)
      (ge.getD t 0) (ge.getD (16 + t) 0) acc.2.2
    (r.1, acc.2.1 ++ r.2.1, r.2.2)) (fastRows (slotWords sl) d.dv d.dk, [], sl.sticky)

/-- The groups of an MDELTA: keys, queries, values, outputs (R304). -/
def Fast.keys (d : Fast) : List Nat := fastGroup d.kreg (d.t * d.dk)
def Fast.queries (d : Fast) : List Nat := fastGroup d.qreg (d.t * d.dk)
def Fast.values (d : Fast) : List Nat := fastGroup d.vreg (d.t * d.dv)
def Fast.outputs (d : Fast) : List Nat := fastGroup d.oreg (d.t * d.dv)

/-- The elements of a group, by register. -/
def groupIn (v : Nat → VReg) (g : List Nat) : List Nat := (g.map fun n => vElems 32 (v n)).flatten

/-- MDELTA on registers `v` and a slot: the slot after token `upTo - 1`, and the outputs of the finished tokens over `old`. -/
def deltaSlot (v : Nat → VReg) (d : Fast) (sl : Slot) (upTo : Nat) : Slot × List Nat :=
  let go := deltaRun (groupIn v d.keys) (groupIn v d.queries) (groupIn v d.values) (vElems 32 (v d.greg)) d sl upTo
  ({ sl with words := ofSlotWords (putRows (slotWords sl) go.1 d.dk), sticky := go.2.2, d := true, grp := 0, prog := BitVec.ofNat 5 upTo },
   (groupIn v d.outputs).take (sl.prog.toNat * d.dv) ++ go.2.1)

/-- MDELTA performed by the X-hart's core: the slot, the outputs, the work in flight. -/
def runDelta (s : State) (c n : Nat) (d : Fast) (e : EngineRec) : State :=
  let k := coreOf s c
  let sl := slotOf s c n
  let r := deltaSlot (k.v.get 0) d sl d.t
  let shot (g : List Nat) : List (Nat × VReg) := g.map fun n => (n, k.v.get 0 n)
  addWork (putGroup (modSlot s c n fun _ => { r.1 with prog := 0, full := false }) d.oreg r.2) c
    { entry := e, slot := n, tiles := [{ core := c, before := sl }], ins := shot (d.keys ++ d.queries ++ d.values ++ [d.greg]), outs := shot d.outputs }

def mdelta (f : FmtX) (s : State) : M State := do
  let d : Fast := { raw := (xRead s f.dk).toNat }
  let ins := d.keys ++ d.queries ++ d.values ++ [d.greg]
  fastCheck (.mdelta f) s f d ins d.outputs true
  if (ins ++ d.outputs).any (vEmpty (vCore s)) then stall s
  else do
    matrixRoom s
    let n := f.slot.toNat
    onSlot s n true fun s =>
      let c := curCore s
      if !(slotOf s c n).p then .error (.after s Cause.slotpin (BitVec.ofNat 64 n))
      else ok (advance (runDelta s c n d { engineRec s (instrWord (.mdelta f)) [0, 0, 0] 0 3 with fops := [0, 0, xRead s f.dk] }))

/-- MDELTA (R305). -/
def execMdelta (f : FmtX) (s : State) : Result := perform (.mdelta f) s (mdelta f)

def mread (f : FmtX) (s : State) : M State := do
  let d : Fast := { raw := (xRead s f.dk).toNat }
  let qs := fastGroup d.qreg (d.t * d.dk)
  let os := fastGroup f.da.num.toNat (d.t * d.dv)
  fastCheck (.mread f) s f d qs os (d.oreg == 0 && d.greg == 0 && d.vreg == 0 && d.kreg == 0)
  if (qs ++ os).any (vEmpty (vCore s)) then stall s
  else
    let n := f.slot.toNat
    onSlot s n false fun s =>
      let c := curCore s
      let sl := slotOf s c n
      if !sl.p then .error (.after s Cause.slotpin (BitVec.ofNat 64 n))
      else
        let qe := groupElems s qs
        let rows := fastRows (slotWords sl) d.dv d.dk
        let go := (List.range d.t).foldl (fun (acc : List Nat × Flg) t =>
          rows.foldl (fun (a : List Nat × Flg) row => let o := dot32 a.2 row ((qe.drop (t * d.dk)).take d.dk); (a.1 ++ [o.val], o.fl)) acc)
          ([], sl.sticky)
        ok (advance (putGroup (modSlot s c n fun t => { t with sticky := go.2 }) f.da.num.toNat go.1))

/-- MREAD (R306). -/
def execMread (f : FmtX) (s : State) : Result := perform (.mread f) s (mread f)

/-! ## The matrix engine's own moves (R289, R437, R447) -/

/-- The product of matrix work; none for MDELTA. -/
def MatrixWork.prod (w : MatrixWork) : Option Prod := if w.follow then followProd w.entry else prodOf w.entry.instr w.entry.fops w.entry.vtype

/-- The descriptor of an MDELTA in flight. -/
def MatrixWork.fast (w : MatrixWork) : Fast := { raw := (w.entry.fops.getD 2 0).toNat }

/-- Work that writes tile (c, n) and that `sel` takes: its core and its place there. -/
def workAt (s : State) (c n : Nat) (sel : MatrixWork → Bool) : Option (Nat × Nat) :=
  s.cores.findSome? fun k => (k.2.matrix.findIdx? fun w => sel w && w.slot == n && w.tiles.any fun t => t.pending && t.core == c).map
    fun j => (k.1, j)

/-- The last word of a tile is written; with the last tile the work is done. -/
def tileDone (s : State) (k j c n : Nat) : State :=
  modSlot (modCore s k fun q => { q with
    matrix := (q.matrix.modify j fun w => { w with tiles := w.tiles.map fun t => if t.core = c then { t with pending := false } else t }).filter
      fun w => w.tiles.any (·.pending) }) c n fun t => { t with full := true }

/-- The step that a command belongs to: where it stands (R59, R60, R368). -/
inductive Whereabouts where
  | core (k : Nat)
  | suspended (k : Nat) (u : Suspended)
  | gone
  deriving DecidableEq, Repr

def whereStep (s : State) (i : StepInfo) : Whereabouts :=
  match s.cores.find? fun k => (k.2.step.map (sameStep i)).getD false with
  | some k => .core k.1
  | none => match (s.cores.map fun k => (k.2.suspended.filter fun u => sameStep i u.info).map fun u => (k.1, u)).flatten.head? with
    | some x => .suspended x.1 x.2
    | none => .gone

/-- A partition fault of an engine: recorded for the step if it runs here, and the context's halt line is asserted (R435, R477). [DEDUCED, log 30] -/
def engineFault (s : State) (core : Nat) (e : EngineRec) (code : BitVec 8) (info : Word) : State :=
  let f : FaultRec := { cause := code, origin := BitVec.ofNat 16 e.hart, engine := e.engine, info := info, fpc := 0 }
  let s1 := match whereStep s e.info with
    | .core k => if k = core then recordFault s (.core k) f else s
    | _ => s
  assertHalt (if code = Cause.ue then logUe s s1 e.hart info false else s1) e.info.context f.origin f.cause f.engine false

/-- Caught work goes on once its step runs again: its slots are the context's again, the remaining positions or tokens follow (R437, R447). -/
def reissue (s : State) (k j : Nat) : State :=
  match (coreOf s k).matrix[j]? with
  | none => s
  | some w =>
    if !w.again || w.entry.fpend || whereStep s w.entry.info ≠ .core k || (coreOf s k).phase ≠ .running then s
    else if w.tiles.any fun x => !(slotOf s x.core w.slot).full || beingStored (coreOf s x.core) w.slot then s
    else match w.tiles.foldlM (fun t x => serveMiss t x.core w.slot w.entry.info.context (hartOf s (xHartId k)).spillbase) s with
      | .error x => engineFault s k { w.entry with engine := 4 } x.1 x.2
      | .ok t =>
        let t1 := modCore t k fun q => { q with matrix := q.matrix.eraseIdx j }
        match w.prod with
        | some p => runProduct t1 k p w.entry.done w.entry w.follow
        | none => { runDelta { t1 with cur := .hart (xHartId k) } k w.slot w.fast w.entry with cur := s.cur }

/-- MATRIX_COMPLETE: the writer's last word in this slot is written (R289); of caught work the engine takes up the rest. -/
def matrixComplete (s : State) (c n : Nat) : State :=
  if (coreOf s c).mpend.contains n then
    modCore s c fun k =>
      { k with mpend := k.mpend.erase n,
               slots := if (k.mpend.erase n).contains n then k.slots else k.slots.modify {} n fun t => { t with full := true } }
  else match workAt s c n fun w => !w.again with
    | some x => tileDone s x.1 x.2 c n
    | none => match workAt s c n fun w => w.again with
      | some x => reissue s x.1 x.2
      | none => s

/-- MATRIX_COMPLETE (R289). -/
def execMatrixComplete (core slot : Nat) (s : State) : Result :=
  event (decide (core < 128)) (if slot < 8 then matrixComplete s core slot else s)

end Sys2Proof.Machine
end

