-- ==== Sys2Proof/Machine/Engine.lean ====
section
/-! DEFINITION. Majors 0x90 and 0x91: engine commands, their progress line by line, tokens, tiles, handles and follow-ons
(R89, R91, R92, R99, R125-R128, R321-R331, R437, R441, R452, R467, R468). -/
namespace Sys2Proof.Machine

/-! ## What a command's step is to it (R59, R60, R368) -/

/-- The command's step is being killed or was (R60). -/
def engineDead (s : State) (e : EngineRec) : Bool :=
  match whereStep s e.info with
  | .core k => (((coreOf s k).step).bind (·.killPa)).isSome
  | .suspended _ _ => false
  | .gone => true

/-- A command stands still from the assertion of its context's halt line, whatever its step does (R435, R437). -/
def engineMoves (s : State) (e : EngineRec) : Bool := ctxRunning s e.info.context

/-- A token's count in the running step, or in the frame of one that is suspended or about to resume. -/
def tokenAt (frame t : Nat) : Nat := frame + 0x8000 + 0x780 + t

/-- The token's count falls by one (R321, R368); the new count. -/
def lowerToken (s : State) (i : StepInfo) (t : Nat) : Nat × State :=
  let inFrame (frame : Nat) : Nat × State :=
    let n := (readByte s (tokenAt frame t)).toNat - 1
    (n, writeBytes s (tokenAt frame t) [BitVec.ofNat 8 n])
  match whereStep s i with
  | .core k =>
    if (coreOf s k).phase = .resuming then inFrame (coreOf s k).frame
    else
      let n := (coreOf s k).tokens.get 0 t - 1
      (n, modCore s k fun c => { c with tokens := c.tokens.set 0 t n })
  | .suspended _ u => inFrame u.frame
  | .gone => (0, s)

def modTiles (s : State) (i : StepInfo) (f : Tbl Tile → Tbl Tile) : State :=
  match whereStep s i with
  | .core k => modCore s k fun c => { c with tiles := f c.tiles }
  | .suspended k u => modCore s k fun c => { c with suspended := c.suspended.map fun v => if v = u then { v with tiles := f v.tiles } else v }
  | .gone => s

/-- TILE_STAGED: with its token marked, every tile that has been read is STAGED (R329). -/
def stageTiles (t : Nat) (tiles : Tbl Tile) : Tbl Tile :=
  tiles.map fun p => (p.1, if p.2.st = .loading ∧ p.2.ready ∧ p.2.token = t then { p.2 with st := .staged } else p.2)

/-! ## Moving data -/

def modEngine (s : State) (core n : Nat) (f : EngineRec → EngineRec) : State :=
  modCore s core fun k => { k with engines := k.engines.modify n f }

def engineAt (s : State) (core n : Nat) : Option EngineRec := (coreOf s core).engines[n]?

/-- Bytes that lie in one place from an address on. -/
def pieceLeft (va : Word) : Nat :=
  if inHandle va then 128 - va.toNat % 128 else if va.toNat / 2 ^ 54 = 1 then 2 ^ 26 else 65536 - va.toNat % 65536

/-- Where a command's bytes go. -/
inductive Dest where
  | mem (p : Place)
  | wbuf (off : Nat)
  | slot (n off : Nat)
  deriving DecidableEq, Repr

/-- The packet of a copy's line at a peer (R402). -/
def linePacket (e : EngineRec) (l a : Nat) (va : Word) (data : List Byte) (wants : Bool) : Packet :=
  { link := l, kind := .copy, address := a, size := data.length, data := data, hart := e.hart, va := va, strm := e.strm, wants := wants,
    context := e.info.context, launch := e.info.launch, step := e.info.step }

/-- The bytes arrive at their destination. -/
def putDest (s : State) (core : Nat) (e : EngineRec) (d : Dest) (va : Word) (bytes : List Byte) : State :=
  match d with
  | .mem (.peer l a) => sendPacket s (linePacket e l a va bytes false)
  | .mem p => progWrite s p bytes
  | .wbuf o => modCore s core fun k => { k with wbuf := k.wbuf.setSpan 0 o bytes }
  | .slot n o => modSlot s core n fun t =>
      { t with words := BitVec.ofNat 524288 (setBits t.words.toNat (8 * o) (8 * bytes.length) (leNat bytes)), d := true }

/-- Bytes that arrive but for those of a refused source line, which are not written (R499). A line at a peer is one packet. -/
def putSome (s : State) (core : Nat) (e : EngineRec) (d : Dest) (va : Word) (bytes : List (Option Byte)) : State :=
  if bytes.all (·.isSome) then putDest s core e d va (bytes.map (·.getD 0))
  else match d with
    | .mem (.peer l a) =>
      if bytes.all (·.isNone) then s
      else sendPacket s { linePacket e l a va (bytes.map (·.getD 0)) false with mask := bytes.map (·.isSome) }
    | _ => (List.range bytes.length).foldl (fun t j => match bytes.getD j none with
      | none => t
      | some b => putDest t core e (match d with
        | .mem p => .mem (p.plus j)
        | .wbuf o => .wbuf (o + j)
        | .slot n o => .slot n (o + j)) (va + BitVec.ofNat 64 j) [b]) s

/-- The rights of a command's reads: the tile fetch unit is in no column of the A-store (R86). [DEDUCED, log 61] -/
def EngineRec.reads (e : EngineRec) (peer : Bool) (align : Nat) : Req :=
  { rd := true, handle := .published, peer := peer, align := align, astore := e.kind != .tfetch }

/-- An earlier copy of the hart still has lines to send on this stream to the link that the place names (R138). -/
def linesAhead (s : State) (core n : Nat) (e : EngineRec) (p : Place) : Bool :=
  match p with
  | .peer l _ => (((coreOf s core).engines.take n) ++ (s.cores.filter fun k => k.1 != core).flatMap fun k => k.2.engines).any fun g =>
      sameStep g.info e.info && g.hart % 2 == e.hart % 2 && copiesTo s g l e.strm
  | _ => false

/-- What a source gives now: bytes, a wait for a peer's line, or poison at an offset. -/
inductive Got where
  | bytes (l : List (Option Byte)) (s : State)
  | wait (s : State)
  | poison (off : Nat)
  deriving DecidableEq, Repr

/-- `n` bytes of a source in memory; a peer's line comes back in its own time (R402). A refused line, or one for a port that is down, brings
no bytes (R499, R502). -/
def getSource (s : State) (core n : Nat) (e : EngineRec) (p : Place) (va : Word) (len : Nat) : Got :=
  match p with
  | .peer l a =>
    match e.arrived with
    | some (bs, poison) =>
      if poison then .poison 0 else .bytes ((List.range len).map (bs[·]?)) (modEngine s core n fun x => { x with arrived := none })
    | none =>
      if e.awaiting.isSome || linesAhead s core n e p then .wait s
      else
        let pk : Packet := { linePacket e l a va [] true with size := len }
        if portDown s l then .bytes (List.replicate len none) (sendPacket s pk)
        else .wait (modEngine (sendPacket s pk) core n fun x => { x with awaiting := some s.nextPacket })
  | _ =>
    match placePoison s p len with
    | some o => .poison o
    | none => let r := progRead s p len; .bytes (r.1.map some) r.2

/-- A word's place touches `k` bytes at another place: for overlapping copies (R325). -/
def touches (w q : Place) (k : Nat) : Bool :=
  match w, q with
  | .phys a, .phys b => decide (a < b + k) && decide (b < a + 8)
  | .store v o, .store v' o' => v == v' && decide (o < o' + k) && decide (o' < o + 8)
  | .striped u a, .striped u' b => u == u' && decide (a < b + k) && decide (b < a + 8)
  | .striped u a, .store v o => stripePav u a == v && decide (stripeOff a < o + k) && decide (o < stripeOff a + 8)
  | .store v o, .striped u b =>
    let a := ((o >>> 7) <<< 10) + ((v % 8) <<< 7) + o % 128
    v / 8 == u && decide (a < b + k) && decide (b < a + 8)
  | _, _ => false

/-- The start of the aligned 8-byte word that holds a byte of a place. -/
def wordStart : Place → Place
  | .phys a => .phys (a / 8 * 8)
  | .store v o => .store v (o / 8 * 8)
  | .striped u a => .striped u (a / 8 * 8)
  | p => p

/-- The pieces of a linear copy's source. -/
def sourceMap (s : State) (e : EngineRec) : RangeMap :=
  match resolveRange s (engineCtx s e) { rd := true, handle := .published } e.opB e.total with
  | .ok m => m
  | .error _ => {}

/-- Byte `b` of a destination chunk lies in a word that overlaps the source. -/
def overlapped (m : RangeMap) (d : Dest) (b : Nat) : Bool :=
  match d with
  | .mem p => m.pieces.any fun q => touches (wordStart (p.plus b)) q.1 q.2
  | _ => false

/-- The destination of byte `done` of a linear command. -/
def linearDest (s : State) (e : EngineRec) (off : Nat) : Chk Dest :=
  match e.kind with
  | .cpyw => .ok (.wbuf (e.opA.toNat + off))
  | .mld => .ok (.slot (bits e.instr.toNat 14 3) off)
  | _ => (enginePlace s e (e.opA + BitVec.ofNat 64 off) true).map fun r => .mem r.1

/-- How many bytes the next chunk of a linear command moves: up to the end of its destination line (R437) and within one place there. [DESIGN CHOICE, log 67] -/
def chunkLen (e : EngineRec) : Nat :=
  let left := e.total - e.done
  let dst := e.opA + BitVec.ofNat 64 e.done
  let line := if e.kind = .tiermv then 4096 - e.done % 4096 else 128 - dst.toNat % 128
  let n := Nat.min left line
  if e.kind = .cpyw ∨ e.kind = .mld then n else Nat.min n (pieceLeft dst)

/-- The source address of a linear command. -/
def EngineRec.srcBase (e : EngineRec) : Word := if e.kind = .mld then e.opA else e.opB

/-- A chunk's bytes without the words that overlap the source, which take free values with the last chunk (R325). -/
def putCopied (s : State) (core : Nat) (e : EngineRec) (d : Dest) (va : Word) (bytes : List (Option Byte)) : State :=
  let m := if e.kind = .cpy then sourceMap s e else {}
  putSome s core e d va ((List.range bytes.length).map fun b => if overlapped m d b then none else bytes.getD b none)

/-- Every destination byte in an overlapping word takes a free value. [DESIGN CHOICE, log 8] [DESIGN CHOICE, log 67] -/
def spoilOverlap (s : State) (core : Nat) (e : EngineRec) : State :=
  let m := if e.kind = .cpy then sourceMap s e else {}
  match (if e.kind = .cpy then resolveRange s (engineCtx s e) { wr := true, handle := .hidden } e.opA e.total else .ok {}) with
  | .error _ => s
  | .ok dm =>
    if !dm.pieces.any (fun q => m.pieces.any fun p => touches (wordStart q.1) p.1 (p.2 + q.2) || touches (wordStart p.1) q.1 (p.2 + q.2)) then s
    else (List.range e.total).foldl (fun t b => match dm.at b with
      | some p => if overlapped m (.mem p) 0 then
          let f := freeBytes t 1
          putDest f.2 core e (.mem p) e.opA f.1
        else t
      | none => t) s

/-- The source line that a destination line depends on is free of poison: the first poisoned byte. -/
def linePoison (s : State) (e : EngineRec) (n : Nat) : Option Nat :=
  if e.kind = .mst then none
  else
    let left := e.total - e.done
    let dst := e.opA + BitVec.ofNat 64 e.done
    let line := if e.kind = .tiermv then 4096 - e.done % 4096 else 128 - dst.toNat % 128
    let src := (if e.kind = .mld then e.opA else e.opB) + BitVec.ofNat 64 e.done
    match resolveRange s (engineCtx s e) { rd := true, handle := .published } src (Nat.max n (Nat.min left line)) with
    | .ok m => rangePoison s m 0 (Nat.max n (Nat.min left line))
    | .error _ => none

/-- Source bytes of a linear command, from `done` on, until `want` are there: each source word is read whole, and what a chunk does not need
stays for the next (R120, R126). A line at a peer comes in its own time. [DESIGN CHOICE, log 14] -/
def fillBuffer (core n want : Nat) : Nat → State → State
  | 0, s => s
  | fuel + 1, s => match engineAt s core n with
    | none => s
    | some e =>
      let have' := e.buffer.length
      if want ≤ have' then s
      else
        let va := e.srcBase + BitVec.ofNat 64 (e.done + have')
        let upTo := Nat.min (e.total - e.done) (want + (8 - ((e.srcBase.toNat + e.done + want) % 8)) % 8)
        match enginePlace s e va false with
        | .error x => engineFault s core e x.1 x.2
        | .ok r =>
          let len := Nat.min (upTo - have') (match r.1 with
            | .peer _ a => Nat.min (pieceLeft va) (128 - a % 128)
            | _ => pieceLeft va)
          match getSource s core n e r.1 va len with
          | .wait t => t
          | .poison o => engineFault s core e Cause.ue (va + BitVec.ofNat 64 o)
          | .bytes bs t => fillBuffer core n want fuel (modEngine t core n fun x => { x with buffer := x.buffer ++ bs.take len })

/-- The next chunk of a linear command. [DESIGN CHOICE, log 67] -/
def linearGroup (s : State) (core n : Nat) (e : EngineRec) : State :=
  let dstVa := e.opA + BitVec.ofNat 64 e.done
  let len := chunkLen e
  match linePoison s e len with
  | some o => engineFault s core e Cause.ue (e.srcBase + BitVec.ofNat 64 (e.done + o))
  | none =>
    match linearDest s e e.done with
    | .error x => engineFault s core e x.1 x.2
    | .ok d =>
      let finish (t : State) (bytes : List (Option Byte)) : State :=
        let t1 := modEngine (putCopied t core e d dstVa bytes) core n fun x => { x with done := e.done + len, buffer := x.buffer.drop len }
        if e.total ≤ e.done + len then spoilOverlap t1 core e else t1
      if (match d with
          | .mem p => linesAhead s core n e p
          | _ => false) then s
      else if e.kind = .mst then
        finish s ((leBytes len ((e.snap.getD (slotOf s core (bits e.instr.toNat 14 3)).words).toNat >>> (8 * e.done))).map some)
      else
        let t := fillBuffer core n len 64 s
        match engineAt t core n with
        | none => t
        | some x => if len ≤ x.buffer.length then finish t (x.buffer.take len) else t

/-- Where a byte of a mapped copy goes, by its offset from the destination. -/
def mapDest (s : State) (e : EngineRec) (off : Nat) : Chk Dest :=
  match e.kind with
  | .cpyw => .ok (.wbuf (e.opA.toNat + off))
  | _ => (enginePlace s e (e.opA + BitVec.ofNat 64 off) true).map fun r => .mem r.1

/-! ### What a mapped command has read: words, and a peer's lines, each once (R126, R402) -/

/-- A place as a key. -/
def Place.key : Place → Nat × Nat × Nat
  | .phys a => (0, 0, a)
  | .store v o => (1, v, o)
  | .striped w a => (2, w, a)
  | .dev o => (3, 0, o)
  | .peer l a => (4, l, a)

/-- The unit that a source byte is read with: its aligned word, a peer's 128-byte line; a device register's byte alone. The unit's place, the
byte's offset in it, and its length. -/
def sourceUnit (p : Place) : Place × Nat × Nat :=
  match p with
  | .peer l a => (.peer l (a / 128 * 128), a % 128, 128)
  | .dev o => (.dev o, 0, 1)
  | .phys a => (wordStart p, a % 8, 8)
  | .store _ o => (wordStart p, o % 8, 8)
  | .striped _ a => (wordStart p, a % 8, 8)

/-- One source byte of a mapped command. -/
def sourceByte (s : State) (core n : Nat) (e : EngineRec) (p : Place) (va : Word) : Got :=
  let u := sourceUnit p
  match e.cached.find? fun c => c.1 == u.1.key with
  | some c => .bytes [c.2.getD u.2.1 none] s
  | none => match getSource s core n e u.1 (va - BitVec.ofNat 64 u.2.1) u.2.2 with
    | .bytes bs t => .bytes [bs.getD u.2.1 none] (modEngine t core n fun x => { x with cached := (u.1.key, bs) :: x.cached })
    | .poison _ => .poison 0
    | .wait t => .wait t

/-- The bytes of an element at the places it lies in; `got` are those read before. -/
def placeBytes (core n : Nat) (va : Word) : List Place → List (Option Byte) → State → Got
  | [], got, s => .bytes got s
  | p :: rest, got, s => match engineAt s core n with
    | none => .bytes got s
    | some e => match sourceByte s core n e p (va + BitVec.ofNat 64 got.length) with
      | .bytes b t => placeBytes core n va rest (got ++ b) t
      | .poison _ => .poison got.length
      | .wait t => .wait t

/-! ### What a mapped copy writes: words, and a peer's lines, each whole (R120, R402) -/

/-- The unit of the destination that holds the byte at an offset: where it starts and ends, as offsets. -/
def destUnit (s : State) (e : EngineRec) (off : Nat) : Nat × Nat :=
  let len := match mapDest s e off with
    | .ok (.mem (.peer _ _)) => 128
    | _ => 8
  let lead := (e.opA.toNat + off) % len
  (off - lead, off + (len - lead))

/-- A position from `done` on writes between these offsets. Without a transposition the offsets rise with the positions (R328). -/
def writesLater (t : Nat × List Nat) (done lo hi : Nat) : Bool :=
  let there (k : Nat) : Bool := let o := (tmPos t.1 t.2 k).2; decide (o < hi) && decide (lo < o + tmEsize t.1)
  if tmTrans t.1 then (List.range (tmCount t.1 - done)).any fun j => there (done + j)
  else decide (done < tmCount t.1) && there done

/-- A unit's bytes leave: to memory in one step, to a peer as one packet; a line waits for those of earlier copies (R138). -/
def flushUnit (s : State) (core n : Nat) (u : Nat × Nat) : State :=
  match engineAt s core n with
  | none => s
  | some e => match (e.out.filter fun p => decide (u.1 ≤ p.1) && decide (p.1 < u.2)).map (·.1) with
    | [] => s
    | lo :: rest =>
      let len := rest.getLastD lo + 1 - lo
      let t := modEngine s core n fun x => { x with out := x.out.filter fun p => !(decide (u.1 ≤ p.1) && decide (p.1 < u.2)) }
      match mapDest s e lo with
      | .error _ => t
      | .ok d =>
        if (match d with
            | .mem p => linesAhead s core n e p
            | _ => false) then s
        else putSome t core e d (e.opA + BitVec.ofNat 64 lo) ((List.range len).map fun j => e.out.get none (lo + j))

/-- The units that no later position writes leave, the lowest first. -/
def flushOut (s : State) (core n : Nat) : State :=
  match engineAt s core n with
  | none => s
  | some e =>
    let units := e.out.foldl (fun l p => let u := destUnit s e p.1; if l.contains u then l else l ++ [u]) []
    units.foldl (fun t u => if (e.tmap.map fun m => writesLater m e.done u.1 u.2).getD false then t else flushUnit t core n u) s

/-- One element's bytes: into a tile with its padded mark, or among those on their way to the destination. -/
def putElem (s : State) (core n : Nat) (e : EngineRec) (off : Nat) (bytes : List (Option Byte)) (pad : Bool) : State :=
  modEngine s core n fun x =>
    if e.kind = .tfetch then
      { x with tile := { x.tile with bytes := x.tile.bytes.setSpan 0 off (bytes.map (·.getD 0)),
                                     pad := x.tile.pad.setSpan false off (bytes.map fun _ => pad) } }
    else { x with out := x.out.setSpan none off bytes }

/-- The next element position of a mapped command. -/
def mapElem (s : State) (core n : Nat) (e : EngineRec) (t : Nat × List Nat) : State :=
  let p := tmPos t.1 t.2 e.done
  let es := tmEsize t.1
  let next (u : State) : State := flushOut (modEngine u core n fun x => { x with done := e.done + 1 }) core n
  match p.1 with
  | none => next (putElem s core n e p.2 (List.replicate es (some 0)) true)
  | some va =>
    match resolveRange s (engineCtx s e) (e.reads true 1) va es with
    | .error x => engineFault s core e x.1 x.2
    | .ok m => match placeBytes core n va ((List.range es).filterMap m.at) [] s with
      | .wait u => u
      | .poison o => engineFault s core e Cause.ue (va + BitVec.ofNat 64 o)
      | .bytes bs u => next (putElem u core n e p.2 bs false)

/-- A map and its GIDX words read again after a stop (R441). [DEDUCED, log 30] -/
def loadMap (s : State) (core n : Nat) (e : EngineRec) : State :=
  let c := engineCtx s e
  match resolveRange s c (e.reads false 1) e.mapAddr 128 with
  | .error x => engineFault s core e x.1 x.2
  | .ok m => match rangePoison s m 0 128 with
    | some o => engineFault s core e Cause.ue (e.mapAddr + BitVec.ofNat 64 o)
    | none =>
      let r := progReadRange s m
      let t := leNat r.1
      let len := if tmKind t = 2 then 4 * tmBox t 1 else 0
      match resolveRange r.2 c (e.reads false 1) (tmGidx t) len with
      | .error x => engineFault r.2 core e x.1 x.2
      | .ok g => match rangePoison r.2 g 0 len with
        | some o => engineFault r.2 core e Cause.ue (tmGidx t + BitVec.ofNat 64 o)
        | none =>
          let q := progReadRange r.2 g
          modEngine q.2 core n fun x => { x with tmap := some (t, idxWords q.1 (tmBox t 1)) }

/-- The positions of a mapped command that one group holds: 128 bytes of elements, fewer where one waits or faults. -/
def mapGroup (s : State) (core n : Nat) : Nat → State
  | 0 => s
  | fuel + 1 => match engineAt s core n with
    | none => s
    | some e => match e.tmap with
      | none => loadMap s core n e
      | some t =>
        if e.moved then s
        else
          let s1 := mapElem s core n e t
          match engineAt s1 core n with
          | some x => if x.done = e.done then s1 else mapGroup s1 core n fuel
          | none => s1

/-- COPY_GROUP_ARRIVAL: the next line of a command, or the next 128 bytes of a map's elements, arrives (R89, R437). [DESIGN CHOICE, log 7] -/
def groupArrival (s : State) (core n : Nat) : State :=
  match engineAt s core n with
  | none => s
  | some e =>
    if !engineMoves s e then s
    else if e.moved then flushOut s core n
    else if e.mapped then mapGroup s core n (match e.tmap with
      | some t => 128 / tmEsize t.1
      | none => 1)
    else linearGroup s core n e

/-- COPY_GROUP_ARRIVAL (R89). -/
def execCopyGroupArrival (core cmd : Nat) (s : State) : Result := event (decide (core < 128)) (groupArrival s core cmd)

/-! ## Completion (R127, R321) and follow-ons (R326, R452) -/

/-- A command's lines to peers are still unacknowledged. -/
def linesOut (s : State) (e : EngineRec) : Bool :=
  s.packets.any fun q => match q.2 with
    | some p => p.kind == .copy && p.context == e.info.context && p.launch == e.info.launch && p.step == e.info.step && p.strm == e.strm
    | none => false

/-- The follow-on that a copy has issued is still in flight (R325, R326). -/
def followOut (s : State) (core : Nat) (e : EngineRec) : Bool :=
  e.finstr != 0 && (coreOf s core).matrix.any fun w => w.follow && w.entry.finstr == e.finstr && w.entry.token == e.token && sameStep w.entry.info e.info

/-- ENGINE_COMMAND_COMPLETE: its writes are performed; its token's count falls, its tile may be staged, and it leaves its scope. [DESIGN CHOICE, log 7] -/
def engineComplete (s : State) (core n : Nat) : State :=
  match engineAt s core n with
  | none => s
  | some e =>
    if !e.moved || !e.out.isEmpty || e.fpend || linesOut s e || !engineMoves s e || followOut s core e then s
    else
      let s1 := modCore s core fun k => { k with engines := k.engines.eraseIdx n }
      let s2 := if engineDead s1 e && (e.kind = .cpy || e.kind = .tiermv) then staleHandle s1 (engineCtx s1 e) e.opA else s1
      let s3 := match e.kind with
        | .mld => modSlot s2 core (bits e.instr.toNat 14 3) fun t => { t with full := true, grp := 0 }
        | .tfetch => modTiles s2 e.info fun ts => ts.set {} (e.opA.toNat % 16)
            { e.tile with st := .loading, map := e.opB, token := e.token, ready := true }
        | _ => s2
      let s4 := if e.kind = .mld ∨ e.kind = .mst then s3
        else
          let r := lowerToken s3 e.info e.token
          if r.1 = 0 then modTiles r.2 e.info (stageTiles e.token) else r.2
      leaveStep s4 e.info 1

/-- ENGINE_COMMAND_COMPLETE (R127). -/
def execEngineCommandComplete (core cmd : Nat) (s : State) : Result := event (decide (core < 128)) (engineComplete s core cmd)

/-- The follow-on of a copy that a stop had caught with it. -/
def caughtFollow (e : EngineRec) (w : MatrixWork) : Bool :=
  w.again && w.follow && w.entry.fpend && w.entry.finstr == e.finstr && w.entry.token == e.token && sameStep w.entry.info e.info

/-- A follow-on's failure, to be reported to the A-hart (R452); its slots keep their words, FULL := 1 (R451). [DEDUCED, log 30] -/
def followFail (s : State) (core n : Nat) (e : EngineRec) (code : BitVec 8) (info : Word) : State :=
  let w : FollowFail := { token := e.token, code := code, info := info }
  let s1 := (followCores e core).foldl (fun t c => modSlot t c (followSlot e) fun x => { x with full := true })
    (modEngine s core n fun x => { x with fpend := false })
  match whereStep s1 e.info with
  | .core k => modCore s1 k fun c => { c with follow := c.follow ++ [w] }
  | .suspended k u =>
    modCore s1 k fun c => { c with suspended := c.suspended.map fun v => if v = u then { v with follow := v.follow ++ [w] } else v }
  | .gone => s1

/-- FOLLOW_ON_ISSUE: once the copy's last byte has landed, the product is issued to the matrix engine; of a cancelled copy it is not. Slots
that a stop gave up meanwhile are made the context's again. [DEDUCED, log 30] [DESIGN CHOICE, log 62] -/
def followIssue (s : State) (core n : Nat) : State :=
  match engineAt s core n with
  | none => s
  | some e =>
    let caught := (coreOf s core).matrix.any (caughtFollow e)
    let taken := modCore s core fun k => { k with matrix := k.matrix.filter fun w => !caughtFollow e w }
    if !e.moved || !e.out.isEmpty || !e.fpend || linesOut s e || !engineMoves s e then s
    else if engineDead s e then dropFollow (modEngine taken core n fun x => { x with fpend := false }) core e
    else match followProd e with
      | none => followFail taken core n e Cause.reservedField e.finstr
      | some p =>
        if p.fieldsOk && p.badRange.isNone && p.staged && ((coreOf s core).tiles.get {} p.bOff).st == .loading then s
        else match p.check s core e.finstr with
          | .error x => followFail taken core n e x.1 x.2
          | .ok _ =>
            let cores := (p.targets core).map (·.1)
            if caught && cores.any fun c => !slotFree taken c p.slot e.info.context true then s
            else
              let base := (s.contexts.get {} e.info.context.toNat).spillbase
              match cores.foldlM (fun t c => serveMiss t c p.slot e.info.context base) taken with
              | .error x => engineFault s core { e with engine := 4 } x.1 x.2
              | .ok t =>
                let x := { e with fpend := false }
                modEngine (runProduct t core p 0 x true) core n fun _ => x

/-- FOLLOW_ON_ISSUE (R326). -/
def execFollowOnIssue (core cmd : Nat) (s : State) : Result := event (decide (core < 128)) (followIssue s core cmd)

/-! ## Issue -/

/-- A record of the command about to issue. [DEDUCED, log 26] -/
def newEngine (s : State) (i : Instr) (ops : List Word) (token : Nat) (engine : BitVec 3) : EngineRec :=
  { engineRec s (instrWord i) ops token engine with vtype := (coreOf s (curCore s)).vtype }

/-- The end of the W-buffer: a range that begins inside it and runs past it fails at that end, any other at its start (R325, R457). -/
def wbufRange (off n : Nat) : Chk Unit :=
  if 2 ^ 21 < off + n then .error (Cause.prot, BitVec.ofNat 64 (Nat.max off (2 ^ 21))) else .ok ()

/-- An engine's pages checked: every element position in range and, for a copy, every destination element (R71, R467). [DEDUCED, log 30] -/
def mapChecks (s : State) (e : EngineRec) (t : Nat × List Nat) : Chk (List Resolved) :=
  let c := engineCtx s e
  let es := tmEsize t.1
  (List.range (tmCount t.1)).foldlM (init := ([] : List Resolved)) fun l k => do
    let p := tmPos t.1 t.2 k
    let a ← match p.1 with
      | some va => (resolveRange s c (e.reads (e.kind == .cpy) 1) va es).map (·.commits)
      | none => .ok []
    let b ← match e.kind with
      | .cpy => (resolveRange s c { wr := true, handle := .hidden } (e.opA + BitVec.ofNat 64 p.2) es).map (·.commits)
      | .cpyw => (wbufRange (e.opA.toNat + p.2) es).map fun _ => []
      | _ => .ok []
    .ok (l ++ (a ++ b).filter fun r => !l.contains r)

/-- The map and its words, read before any data, and every check of a mapped command; poison there is the engine's partition fault. The state
is the one after the reads. -/
def mapIssue (i : Instr) (s : State) (e : EngineRec) : M (State × List Resolved × (Nat × List Nat)) := do
  let c := engineCtx s e
  let m ← lift (resolveRange s c (e.reads false 128) e.mapAddr 128)
  match rangePoison s m 0 128 with
  | some o => .error (.part s Cause.ue e.engine (e.mapAddr + BitVec.ofNat 64 o))
  | none => .ok ()
  let r := progReadRange s m
  let t := leNat r.1
  needI i (tmOk t && (e.kind == .tfetch || tmBase t == e.opB.toNat)) Cause.reservedField
  needI i (e.kind != .tfetch || decide ((tmRows t - 1) * tmDpitch t + tmRowLen t ≤ 131072)) Cause.reservedField
  let len := if tmKind t = 2 then 4 * tmBox t 1 else 0
  let g ← lift (resolveRange s c (e.reads false 1) (tmGidx t) len)
  match rangePoison s g 0 len with
  | some o => .error (.part s Cause.ue e.engine (tmGidx t + BitVec.ofNat 64 o))
  | none => .ok ()
  let q := progReadRange r.2 g
  let tm := (t, idxWords q.1 (tmBox t 1))
  let l ← lift (mapChecks s e tm)
  .ok (q.2, m.commits ++ g.commits ++ l, tm)

/-- A handle destination is open (R98, R468): PUBLISH with the handle's number unless OPEN is 1. -/
def handleOpen (s : State) (c : AddrCtx) (va : Word) : Chk Unit :=
  if !inHandle va then .ok ()
  else do
    let n := (va.toNat >>> 32) % 2 ^ 20
    let h ← handleEntry s c { rd := true, device := true } n va
    if h.1.opened then .ok () else .error (Cause.publish, BitVec.ofNat 64 n)

/-- What the follow-on's place holds: MMA or MMAS with FOLL = 1, its own steps 1 and 3 of R187 passed (R186). In a block that has not landed
it is the copy's own SEGABSENT, with the follow-on's place as TRAPINFO. [DEDUCED, log 30] -/
def followInstr (i : Instr) (s : State) : M (Option Instr) :=
  if !(instrWord i).getLsbD 48 then .ok none
  else match fetchFollow s with
    | .absent off => .error (.trap Cause.segabsent off)
    | .instr j =>
      (match j with
       | .mma f => if f.foll then (if fieldsOk .xHart j then .ok (some j) else .error (.trap Cause.reservedField (instrWord j)))
                   else .error (.trap Cause.illegal (instrWord i))
       | .mmas f => if f.foll then (if fieldsOk .xHart j then .ok (some j) else .error (.trap Cause.reservedField (instrWord j)))
                    else .error (.trap Cause.illegal (instrWord i))
       | _ => .error (.trap Cause.illegal (instrWord i)))
    | .illegal _ => .error (.trap Cause.illegal (instrWord i))

/-- The follow-on's registers, read at the copy's issue (R326): x[DA], x[DB], x[DK] and x[DB + 1]. [DEDUCED, log 26] -/
def followOps (s : State) (j : Instr) : List Word :=
  let h := hartOf s (leadHart s)
  match j with
  | .mma f => [h.opnd f.da, h.opnd f.db, h.opnd f.dk, h.get (f.db.num.toNat + 1)]
  | .mmas f => [h.opnd f.da, h.opnd f.db, h.opnd f.dk, h.get (f.db.num.toNat + 1)]
  | _ => []

/-- A command issued: one more on its token, in flight, a member of the scope; its first line at once, since a later access on its stream
follows the beginning of its first (R108, R125). [DESIGN CHOICE, log 5] -/
def issueEngine (s : State) (e : EngineRec) (len : Word) : State :=
  let c := curCore s
  let n := (coreOf s c).engines.length
  let s1 := modCore (addEngine s e) c fun k => { k with tokens := k.tokens.set 0 e.token (k.tokens.get 0 e.token + 1) }
  groupArrival (advanceBy len s1) c n

/-- The waits of a command: a 256th on its token, a ninth in flight (R321, R441). -/
def engineRoom (s : State) (token : Nat) : M Unit :=
  if 255 ≤ (coreOf s (curCore s)).tokens.get 0 token || 8 ≤ inFlight (coreOf s (curCore s)) then .error (.wait s false) else .ok ()

/-- The slots of a follow-on made the context's, on every target core, and not full from the copy's issue on (R289, R298, R326). -/
def pledgeSlots (s : State) (id : Nat) (cores : List Nat) (n : Nat) : M State := do
  let t ← cores.foldlM (fun t c => ownSlot t c n id) s
  .ok (cores.foldl (fun t c => modSlot t c n fun x => { x with full := false }) t)

/-- CPY and CPYW (R323-R326). -/
def copy (i : Instr) (f : FmtE) (wbuf : Bool) (s : State) : M State := do
  let id := leadHart s
  let h := hartOf s id
  needI i (f.b.num != 63) Cause.reservedField
  let fol ← followInstr i s
  let shape := h.get (f.b.num.toNat + 1)
  let e := newEngine s i [h.opnd f.a, h.opnd f.b, shape] (f.d.num.toNat % 32) 1
  needI i (bits shape.toNat 56 7 == 0 && (shape.getLsbD 63 || bits shape.toNat 32 24 == 0) && (!wbuf || decide (e.opA.toNat < 2 ^ 21)))
    Cause.reservedField
  let got ← if e.mapped then do
      let r ← mapIssue i s e
      .ok (commitAll r.1 r.2.1, { e with tmap := some r.2.2 })
    else do
      let n := e.total
      let a ← lift (resolveRange s (engineCtx s e) (e.reads (!wbuf) 1) e.opB n)
      let b ← if wbuf then lift ((wbufRange e.opA.toNat n).map fun _ => [])
        else lift ((resolveRange s (engineCtx s e) { wr := true, handle := .hidden } e.opA n).map (·.commits))
      .ok (commitAll s (a.commits ++ b), e)
  if wbuf || e.total == 0 then .ok () else lift (handleOpen s (engineCtx s e) e.opA)
  afterStream s id e.strm
  engineRoom s e.token
  match fol with
  | none => if got.2.total = 0 then ok (advance got.1) else ok (issueEngine got.1 got.2 8)
  | some j =>
    let e1 := { got.2 with finstr := instrWord j, fops := followOps s j, fpend := true }
    let cores := followCores e1 (curCore s)
    if cores.any fun c => !slotFree s c (followSlot e1) h.context true then stall s
    else do
      let t ← pledgeSlots got.1 id cores (followSlot e1)
      ok (issueEngine t e1 16)

/-- CPY (R323-R325). -/
def execCpy (f : FmtE) (s : State) : Result := perform (.cpy f) s (copy (.cpy f) f false)
/-- CPYW (R323-R325). -/
def execCpyw (f : FmtE) (s : State) : Result := perform (.cpyw f) s (copy (.cpyw f) f true)

/-- A product of the running step reads this tile: one in flight or caught by a stop, or a follow-on not yet issued (R329, R468). -/
def tileRead (k : Core) (n : Nat) : Bool :=
  let reads (p : Option Prod) : Bool := match p with
    | some p => p.staged && p.bOff == n
    | none => false
  let own (e : EngineRec) : Bool := (k.step.map (sameStep e.info)).getD true
  (k.engines.any fun e => e.fpend && own e && reads (followProd e)) ||
  (k.matrix.any fun w => own w.entry && w.tiles.any (·.pending) && reads w.prod)

/-- TFETCH: after the name's readers, its tile is LOADING until the token is marked (R329). -/
def tfetch (f : FmtE) (s : State) : M State := do
  let i : Instr := .tfetch f
  let id := leadHart s
  let h := hartOf s id
  let e := newEngine s i [h.opnd f.a, h.opnd f.b, 0] (f.d.num.toNat % 32) 2
  needI i (decide (e.opA.toNat < 16)) Cause.reservedField
  let r ← mapIssue i s e
  afterStream s id e.strm
  engineRoom s e.token
  let k := coreOf s (curCore s)
  if (k.tiles.get {} e.opA.toNat).st = .loading || tileRead k e.opA.toNat then stall s
  else
    let s1 := modCore (commitAll r.1 r.2.1) (curCore s) fun k =>
      { k with tiles := k.tiles.set {} e.opA.toNat { st := .loading, map := e.opB, token := e.token } }
    ok (issueEngine s1 { e with tmap := some r.2.2 } 8)

/-- TFETCH (R329). -/
def execTfetch (f : FmtE) (s : State) : Result := perform (.tfetch f) s (tfetch f)

/-- TFREL: waits for the name's readers and for a LOADING one, then empties it (R329, R468). -/
def tfrel (f : FmtE) (s : State) : M State := do
  let n := (xRead s f.a).toNat
  needI (.tfrel f) (decide (n < 16)) Cause.reservedField
  let k := coreOf s (curCore s)
  if (k.tiles.get {} n).st = .loading || tileRead k n then stall s
  else ok (advance (modCore s (curCore s) fun k => { k with tiles := k.tiles.set {} n {} }))

/-- TFREL (R329). -/
def execTfrel (f : FmtE) (s : State) : Result := perform (.tfrel f) s (tfrel f)

/-- PREFB: checked as a read of the range; only its token and timing show (R91, R330). -/
def prefb (f : FmtE) (s : State) : M State := do
  let i : Instr := .prefb f
  let id := leadHart s
  let e := newEngine s i [xRead s f.a, xRead s f.b, 0] (f.d.num.toNat % 32) 1
  needI i (decide (e.opB.toNat ≤ 2 ^ 32)) Cause.reservedField
  let m ← lift (resolveRange s (engineCtx s e) { rd := true, handle := .published, peer := false } e.opA e.opB.toNat)
  afterStream s id e.strm
  if e.opB = 0 then ok (advance s)
  else do
    engineRoom s e.token
    ok (issueEngine (commitAll s m.commits) e 8)

/-- PREFB (R330). -/
def execPrefb (f : FmtE) (s : State) : Result := perform (.prefb f) s (prefb f)

/-- The places that TIERMV moves between (R92): the first byte of a range that lies elsewhere. [DESIGN CHOICE, log 7] -/
def tierPlaces (s : State) (m : RangeMap) (va : Word) : Chk Unit :=
  let rec go : List (Place × Nat) → Nat → Chk Unit
    | [], _ => .ok ()
    | (p, n) :: t, o =>
      let good := match p with
        | .phys pa => (match region s pa with
          | .stack => true
          | .tier => true
          | .row _ => true
          | _ => false)
        | _ => false
      if good then go t (o + n) else .error (Cause.prot, va + BitVec.ofNat 64 o)
  go m.pieces 0

/-- One end of TIERMV: its range checked as R457 orders it, then the places of R92. -/
def tierEnd (s : State) (e : EngineRec) (va : Word) (len : Nat) (wr : Bool) : Chk (List Resolved) := do
  let req : Req := { rd := !wr, wr := wr, handle := if wr then .hidden else .published, peer := false, align := 4096 }
  let m ← resolveRange s (engineCtx s e) req va len
  tierPlaces s m va
  .ok m.commits

/-- TIERMV (R92, R330). [DEDUCED, log 30] -/
def tiermv (f : FmtE) (s : State) : M State := do
  let i : Instr := .tiermv f
  let id := leadHart s
  let h := hartOf s id
  needI i (f.b.num != 63) Cause.reservedField
  let len := (h.get (f.b.num.toNat + 1)).toNat
  let e := newEngine s i [h.opnd f.a, h.opnd f.b, h.get (f.b.num.toNat + 1)] (f.d.num.toNat % 32) 1
  need (len % 4096 == 0) Cause.misalign e.opA
  let d ← lift (tierEnd s e e.opA len true)
  let m ← lift (tierEnd s e e.opB len false)
  if len = 0 then .ok () else lift (handleOpen s (engineCtx s e) e.opA)
  afterStream s id e.strm
  if len = 0 then ok (advance s)
  else do
    engineRoom s e.token
    ok (issueEngine (commitAll s (d ++ m)) e 8)

/-- TIERMV (R330). -/
def execTiermv (f : FmtE) (s : State) : Result := perform (.tiermv f) s (tiermv f)

/-! ## MLD and MST (R300) -/

/-- The 64 KiB checked whole, then an engine command without a token. -/
def slotMove (i : Instr) (f : FmtX) (load : Bool) (s : State) : M State := do
  let id := leadHart s
  let va := xRead s f.da
  let m ← lift (resolveRange s { hartCtx s id with pav := none }
    { rd := load, wr := !load, handle := .none, window := false, align := 128, peer := false } va 65536)
  afterStream s id (f.db.num.toNat % 16)
  onSlot s f.slot.toNat load fun s =>
    if 8 ≤ inFlight (vCore s) then stall s
    else
      let c := curCore s
      let n := (coreOf s c).engines.length
      let s1 := addEngine (commitAll s m.commits) (newEngine s i [va, 0, 0] 0 3)
      ok (groupArrival (advance (if load then modSlot s1 c f.slot.toNat fun t => { t with full := false } else s1)) c n)

/-- MLD (R300). -/
def execMld (f : FmtX) (s : State) : Result := perform (.mld f) s (slotMove (.mld f) f true)
/-- MST (R300). -/
def execMst (f : FmtX) (s : State) : Result := perform (.mst f) s (slotMove (.mst f) f false)

/-! ## Handles (R99, R128, R331, R468) -/

/-- The entry that SHADOW and PUBLISH write: read and written through the context's tables; faults name the handle. -/
def handleWrite (s : State) (num : Word) : Chk (Handle × Nat × Resolved) := do
  if 2 ^ 20 ≤ num.toNat then .error (Cause.xlate, num)
  else
    let h ← handleEntry s (hartCtx s (leadHart s)) { rd := true, wr := true, device := true } num.toNat num
    match h.2.place with
    | .phys pa => .ok (h.1, pa, h.2)
    | _ => .error (Cause.prot, num)

/-- SHADOW: OPEN := 1, STALE := 0; nothing where the side is open (R99, R468). [DEDUCED, log 30] -/
def shadow (f : FmtE) (s : State) : M State := do
  let x ← lift (handleWrite s (xRead s f.a))
  afterStream s (leadHart s) (f.strm.toNat)
  let t := commit s x.2.2
  ok (advance (if x.1.opened then t else writeNat t x.2.1 8 ({ x.1 with opened := true, stale := false } : Handle).low))

/-- SHADOW (R331). -/
def execShadow (f : FmtE) (s : State) : Result := perform (.shadow f) s (shadow f)

/-- A command in flight writes the hidden side of the handle whose entry lies at `pa`. -/
def writesHandle (s : State) (pa : Nat) (e : EngineRec) : Bool :=
  (e.kind == .cpy || e.kind == .tiermv) && inHandle e.opA &&
  (match handleEntry s (engineCtx s e) { rd := true, device := true } ((e.opA.toNat >>> 32) % 2 ^ 20) e.opA with
   | .ok h => h.2.place == .phys pa
   | .error _ => false)

/-- PUBLISH: the commands that write the hidden side are waited for, then the sides swap in one atomic step (R99, R128). -/
def publish (f : FmtE) (s : State) : M State := do
  let num := xRead s f.a
  let x ← lift (handleWrite s num)
  need (x.1.opened && !x.1.stale) Cause.publish num
  if s.cores.any fun k => k.2.engines.any (writesHandle s x.2.1) then .error (.wait s true) else .ok ()
  afterAll s (leadHart s)
  ok (advance (writeNat (commit s x.2.2) x.2.1 8
    ({ x.1 with opened := false, side := !x.1.side, pubs := (x.1.pubs + 1) % 256 } : Handle).low))

/-- PUBLISH (R331). -/
def execPublish (f : FmtE) (s : State) : Result := perform (.publish f) s (publish f)

/-- PUBLISH_SWAP: the hart's waiting PUBLISH of the handle takes effect. -/
def publishSwap (s : State) (id : Nat) (handle : Word) : State :=
  if (hartOf s id).run = .running ∧ (hartOf s id).parked then
    match standsAt s id with
    | some (.publish f) =>
      if xRead { s with cur := .hart id } f.a = handle then
        match publish f { s with cur := .hart id } with
        | .ok t => modHart t id fun h => { h with parked := false }
        | .error _ => s
      else s
    | _ => s
  else s

/-- PUBLISH_SWAP (R99). -/
def execPublishSwap (hart : Nat) (handle : Word) (s : State) : Result := event (decide (hart < 256)) (publishSwap s hart handle)

/-- TOKWAIT: the token's count is zero; a follow-on's failure on it is reported (R322, R452). -/
def tokwait (f : FmtE) (s : State) : M State := do
  let t := f.d.num.toNat
  killFirst s
  if (coreOf s (curCore s)).tokens.get 0 t = 0 then .ok () else .error (.wait s true)
  followReport s fun w => w.token == t
  ok (advance s)

/-- TOKWAIT (R322). -/
def execTokwait (f : FmtE) (s : State) : Result := perform (.tokwait f) s (tokwait f)

end Sys2Proof.Machine
end

