-- ==== Sys2Proof/Machine/Lease.lean ====
section
/-! DEFINITION. Leases of octets: grant, end, the end under a running row step, and the refresh debt that goes with them
(R81-R84, R227, R241, R485, R486). -/
namespace Sys2Proof.Machine

/-- The device refreshes a SAG until its debt is paid: six rows for each count (R241). -/
def Sag.paid (g : Sag) : Sag := { g with debt := 0, due := false, nextRow := (g.nextRow + 6 * g.debt) % 768 }

/-- The row side as a grant and a lease end leave it: registers CLOSED with no row held, latches, LUT latch, sf and inbox empty, rtype at
its reset value, poison gone; SUSPECT stays (R82, R83, R151, R227, R474, R478, R485). -/
def Bank.leaseReset (b : Bank) (rc : Nat) : Bank :=
  { b.closeAt rc with
    o := [], q := [], check := [], lut := 0, lutPoison := 0, sf := 0, sfPoison := 0, rtype := 0xA, inbox := none, sending := [], arrived := [],
    laneInstr := 0, laneLeft := 0, laneFree := Nat.min b.laneFree rc, shrx := 0,
    sags := (b.closeAt rc).sags.mapAll {} fun _ g => { g.paid with forced := false } }

/-- Rows on their way to a bank reach an inbox that the end of its lease empties: for their senders they are delivered (R83, R256). [DEDUCED, log 37] -/
def unsend (s : State) (g b : Nat) : State :=
  ((bankOf s g b).sending ++ (bankOf s g b).arrived).foldl (fun t r => modBank t (perOfHart r.sender) (bankOfHart r.sender) fun k =>
    { k with shrx := if 1 < k.shrx then k.shrx - 1 else k.shrx }) s

/-- All eight banks of a Pergola. -/
def leaseReset (s : State) (g : Nat) : State :=
  (List.range 8).foldl (fun t b => modBank (finishWrites (unsend t g b) g b) g b fun k => k.leaseReset (perOf s g).rc) s

/-- LEASE_GRANT (R82): the row side is cleared with flags and sticky flags, every debt is paid, and REMAIN starts. -/
def grantLease (s : State) (g : Nat) (c : BitVec 16) (d : Nat) (dual : Bool) : State :=
  let s1 := modHarts (leaseReset s g) ((List.range 8).map (bankId g)) fun h => { h with flags := 0, nflags := 0 }
  modPer s1 g fun p => { p with lessee := c, dual := dual, remain := d }

/-- LEASE_END (R83): open rows precharged without write-back, the row side cleared, debt handed back to the device. -/
def endLease (s : State) (g : Nat) : State :=
  modPer (leaseReset s g) g fun p => { p with lessee := 0, dual := false, remain := 0, watchdog := none }

/-- Why a lease ends (R486): its code in INFO. -/
inductive LeaseEnd where
  | watchdog
  | remain
  | setaside
  deriving DecidableEq, Repr

def LeaseEnd.code (r : LeaseEnd) : Nat :=
  match r with
  | .watchdog => 0
  | .remain => 1
  | .setaside => 2

/-- INFO of a lease end's record: octet and reason (R486). -/
def leaseInfo (g : Nat) (r : LeaseEnd) : Word := BitVec.ofNat 64 (g + r.code * 2 ^ 16)

/-- A row step of the lessee stands on the Pergola: started and not ended. -/
def rowStepHere (s : State) (g : Nat) : Option StepInfo :=
  match (perOf s g).step with
  | some i => if (perOf s g).phase = .landing then none else some i
  | none => none

/-- The record of a step that a lease end has ended: KIND 10, ENDED 1, WATCHDOG (R438, R486). [DEDUCED, log 34] -/
def endedHeader (s : State) (g : Nat) (i : StepInfo) (r : LeaseEnd) : Header :=
  { stopHeader i none none with
    info := leaseInfo g r, fpc := 0, seq := (haltOf s i.context).seq, origin := BitVec.ofNat 16 (bankId g (leaderBank s g)),
    cause := Cause.watchdog, engine := 0, kind := 2, ended := true }

/-- LEASE_END_UNDER_STEP (R485, R486): the step is ended, its octet leaves compute mode, and the lessee halts with WATCHDOG. [DEDUCED, log 34] -/
def endUnderStep (s : State) (g : Nat) (i : StepInfo) (r : LeaseEnd) : State :=
  let lead := BitVec.ofNat 16 (bankId g (leaderBank s g))
  let live := ((List.range 8).filter fun b => (hartOf s (bankId g b)).live).length
  let s1 := assertHalt s i.context lead Cause.watchdog 0 false
  let frame := perFrame s1 i.context g i.prio
  let s2 := if deviceArea s1 frame 0x1000 then saveRow s1 g i (endedHeader s1 g i r) frame
            else badFrame s1 i.context (bankId g 0) (.pergola g)
  let s3 := modHarts (endLease s2 g) ((List.range 8).map (bankId g)) fun h => h.drop .exited
  let s4 := modPer s3 g fun p => { p with step := none, fault := none }
  let s5 := leaveStep (addEnded s4 (entryCtx s4 i.context) i.launch 1) i live
  logError s5 0x0A (BitVec.ofNat 64 (rowCoord g 0 0)) i.context lead Cause.watchdog 0

/-- The end of a lease for any reason, with or without a row step of the lessee on the octet (R485). [DEDUCED, log 34] -/
def leaseOver (s : State) (g : Nat) (r : LeaseEnd) : State :=
  match rowStepHere s g with
  | some i => endUnderStep s g i r
  | none =>
    let s1 := endLease s g
    if r = .watchdog then logError s1 0x09 (BitVec.ofNat 64 (rowCoord g 0 0)) (perOf s g).lessee 0xFFFF 0 0 else s1

/-- The counts of a lease stand still while its lessee halts or is halted (R485). -/
def leaseCounts (s : State) (g : Nat) : Bool := leased s g && ctxRunning s (perOf s g).lessee

/-- LEASE_REMAIN_EXPIRY: REMAIN has reached zero (R83, R485). -/
def remainExpiry (s : State) (g : Nat) : State :=
  if leaseCounts s g && (perOf s g).remain = 0 then leaseOver s g .remain else s

/-- LEASE_REMAIN_EXPIRY (R485). -/
def execLeaseRemainExpiry (pergola : Nat) (s : State) : Result := event (decide (pergola < 1152)) (remainExpiry s pergola)

/-- WATCHDOG_EXPIRY: the lease watchdog has reached zero (R485). -/
def watchdogExpiry (s : State) (g : Nat) : State :=
  if leaseCounts s g && (perOf s g).watchdog = some 0 then leaseOver s g .watchdog else s

/-- WATCHDOG_EXPIRY (R485). -/
def execWatchdogExpiry (pergola : Nat) (s : State) : Result := event (decide (pergola < 1152)) (watchdogExpiry s pergola)

end Sys2Proof.Machine
end

