-- ==== Sys2Proof/Machine/VecMem.lean ====
section
/-! DEFINITION. Major 0x63: vector loads and stores unit by unit, and the replay queue (R89, R121-R124, R317-R320, R430-R434, R465). -/
namespace Sys2Proof.Machine

/-! ## One unit -/

/-- Bytes of a unit by its SIZE code (R430). -/
def sizeBytes (c : BitVec 2) : Nat := if c = 3 then 3 else 2 ^ c.toNat

def sizeCode (n : Nat) : BitVec 2 := if n = 1 then 0 else if n = 2 then 1 else if n = 4 then 2 else 3

/-- The bits of a byte that a 4-bit unit's active elements cover. -/
def nibbleMask (half : BitVec 2) : Nat := (if half.getLsbD 0 then 0x0F else 0) + (if half.getLsbD 1 then 0xF0 else 0)

/-- A loaded unit's bytes in its register (R319, R320): a scale entry fills 32 bits, its top byte zero. -/
def loadUnit (r : VReg) (e : ReplayEntry) (v : Nat) : VReg :=
  let u := e.unit.toNat
  if e.size = 3 then BitVec.ofNat 8192 (setBits r.toNat (32 * u) 32 v)
  else
    let n := sizeBytes e.size
    let old := bits r.toNat (8 * n * u) (8 * n)
    let m := if e.half = 3 then 2 ^ (8 * n) - 1 else nibbleMask e.half
    BitVec.ofNat 8192 (setBits r.toNat (8 * n * u) (8 * n) ((old &&& (2 ^ (8 * n) - 1 - m)) ||| (v &&& m)))

def putUnit (s : State) (core : Nat) (e : ReplayEntry) (v : Nat) : State :=
  modCore s core fun k => { k with v := k.v.set 0 e.reg.toNat (loadUnit (k.v.get 0 e.reg.toNat) e v) }

/-- What becomes of a unit: performed; failed in its checks; failed as it was performed; or waiting for a peer. -/
inductive UnitOut where
  | done (s : State)
  | bad (code : BitVec 8)
  | late (code : BitVec 8) (s : State)
  | wait (s : State)
  deriving DecidableEq, Repr

/-- What the reads of a load unit bring. -/
inductive UnitRead where
  | bytes (l : List Byte) (s : State)
  | late (code : BitVec 8) (s : State)
  | wait (s : State)
  deriving DecidableEq, Repr

/-- The bytes of a load unit, piece by piece; `k` counts the values from peers that came before (R402, R476). -/
def unitBytes (id : Nat) (e : ReplayEntry) : List (Place × Nat) → Nat → Word → List Byte → State → UnitRead
  | [], _, _, got, s => .bytes got s
  | (p, n) :: rest, k, va, got, s =>
    match p with
    | .peer l a =>
      (match peerValue s id k (packetOf s id e.strm.toNat .read l a n va [] true) with
       | .error (.wait t _) => .wait t
       | .error _ => .wait s
       | .ok (.value v poison, t) =>
         if poison then .late Cause.ue t else unitBytes id e rest (k + 1) (va + BitVec.ofNat 64 n) (got ++ leBytes n v.toNat) t
       | .ok (.refused c, t) => .late c t)
    | _ => match placePoison s p n with
      | some _ => .late Cause.ue s
      | none => let r := progRead s p n; unitBytes id e rest k (va + BitVec.ofNat 64 n) (got ++ r.1) r.2

/-- The rights that a unit's access needs. -/
def ReplayEntry.req (e : ReplayEntry) : Req :=
  { rd := !e.st, wr := e.st, handle := if e.st then .refused else .published, align := if e.size = 3 then 1 else sizeBytes e.size }

/-- A unit checked by itself and performed (R319, R402, R476); `k` counts the values from peers that came before. One that raises a cause sets
no A and D, and one that does not reads with them set (R72). A 4-bit store unit with one active element reads its byte first (R122). -/
def runUnit (s : State) (id k : Nat) (e : ReplayEntry) (va : Word) : UnitOut :=
  let n := sizeBytes e.size
  match resolveRange s (hartCtx s id) e.req va n with
  | .error x => .bad x.1
  | .ok m =>
    let s1 := commitAll s m.commits
    if e.st then
      match m.pieces with
      | [(.peer l a, _)] =>
        .done (sendPacket s1 { packetOf s1 id e.strm.toNat .write l a n va (leBytes n e.data.toNat) false with half := e.half })
      | _ =>
        if e.half ≠ 3 && (rangePoison s m 0 n).isSome then .late Cause.ue s
        else
          let old := leNat (readRange s1 m 0 n)
          let mask := if e.half = 3 then 2 ^ (8 * n) - 1 else nibbleMask e.half
          .done (progWriteRange s1 m (leBytes n ((old &&& (2 ^ (8 * n) - 1 - mask)) ||| (e.data.toNat &&& mask))))
    else match unitBytes id e m.pieces k va [] s with
      | .bytes _ _ => match unitBytes id e m.pieces k va [] s1 with
        | .bytes l t => .done (putUnit t (coreOfHart id) e (leNat l))
        | .late c t => .late c t
        | .wait t => .wait t
      | .late c t => .late c t
      | .wait t => .wait t

/-! ## The replay queue (R430-R434) -/

def Hart.enqueue (h : Hart) (e : ReplayEntry) : Hart := { h with replay := h.replay ++ [e] }

/-- A load destination with a live entry, or a unit waiting for room, stays empty (R430, R431). -/
def liveLoad (h : Hart) (reg : BitVec 5) : Bool := (h.replay ++ h.roomWait).any fun e => !e.st && e.reg == reg

/-- The register of a removed load entry is full when no other entry keeps it empty. -/
def fillRegister (s : State) (id : Nat) (e : ReplayEntry) : State :=
  if e.st || liveLoad (hartOf s id) e.reg then s
  else modCore s (coreOfHart id) fun k => { k with vempty := k.vempty &&& ~~~(BitVec.ofNat 32 (2 ^ e.reg.toNat)) }

/-- RCOUNT := 0: every entry is dropped; registers keep what they held and are full (R434). -/
def discardReplay (s : State) (id : Nat) : State :=
  let es := (hartOf s id).replay
  es.foldl (fun t e => fillRegister t id e) (modHart s id fun h => { h with replay := [] })

/-- RCOUNT_DISCARD (R423, R434). -/
def execRcountDiscard (hart : Nat) (s : State) : Result := event ((kindOfId hart).isSome) (discardReplay s hart)

/-- What a retry of the queue comes to. -/
inductive Retry where
  | done (s : State)
  | failed (s : State) (e : ReplayEntry)
  | wait (s : State)
  deriving DecidableEq, Repr

/-- RFT's retry: each live entry oldest first; the first failure stops it, its entry staying with the new cause (R434). [DEDUCED, log 31] -/
def retryReplay (s : State) (id : Nat) : Nat → Retry
  | 0 => .done s
  | fuel + 1 => match (hartOf s id).replay with
    | [] => .done s
    | e :: rest => match runUnit s id 0 e (e.va.setWidth 64) with
      | .done t =>
        let t1 := modHart (dropReplies t id) id fun h => { h with replay := rest }
        retryReplay (fillRegister t1 id e) id fuel
      | .wait t => .wait t
      | .bad c => .failed (modHart s id fun h => { h with replay := { e with cause := c } :: rest }) { e with cause := c }
      | .late c t =>
        .failed (modHart (dropReplies t id) id fun h => { h with replay := { e with cause := c } :: rest }) { e with cause := c }

/-- REPLAY_UNIT_ROOM: a unit that waited for room is performed again; if it fails again it enters the queue (R430). [DEDUCED, log 31] -/
def unitRoom (s : State) (id : Nat) : State :=
  let h := hartOf s id
  match h.roomWait with
  | [] => s
  | e :: rest =>
    if h.ih || 64 ≤ h.replay.length then s
    else
      let leave (t : State) : State := modHart (dropReplies t id) id fun h => { h with roomWait := rest }
      match runUnit s id 0 e (e.va.setWidth 64) with
      | .done t => fillRegister (leave t) id e
      | .wait t => t
      | .bad c => modHart (leave s) id fun h => h.enqueue { e with cause := c }
      | .late c t => modHart (leave t) id fun h => h.enqueue { e with cause := c }

/-- REPLAY_UNIT_ROOM (R430). -/
def execReplayUnitRoom (hart : Nat) (s : State) : Result := event (decide (hart < 256)) (unitRoom s hart)

/-! ## An instruction's units (R121, R317, R318) -/

/-- The element format code in force, the element width, and a unit's bytes. -/
def vmCode (s : State) (f : FmtR) : Nat := (effOf (f.mod.extractLsb' 4 4).toNat (vCore s).vtype).code
def vmSize (c : Nat) : Nat := if codeWidth c = 4 then 1 else codeWidth c / 8

/-- Units of `vl` elements, within the register. -/
def vmUnits (c vl : Nat) : Nat := Nat.min (1024 / vmSize c) (if codeWidth c = 4 then (vl + 1) / 2 else vl)

/-- The mask's elements, when MOD[8] is 1. -/
def vmMask (s : State) (f : FmtR) (c : Nat) : Option (List Nat) :=
  if f.mod.getLsbD 8 then some (vRegElems s (codeWidth c) f.c.num.toNat) else none

/-- Which halves of unit `u` are active: bits 0 and 1 for the nibbles of a 4-bit unit, 3 for a whole one, 0 for none. -/
def unitHalf (c vl : Nat) (mask : Option (List Nat)) (u : Nat) : BitVec 2 :=
  let on (e : Nat) : Bool := decide (e < vl) && (match mask with
    | some m => m.getD e 0 % 2 == 1
    | none => true)
  if codeWidth c = 4 then BitVec.ofNat 2 (b2n (on (2 * u)) + 2 * b2n (on (2 * u + 1))) else if on u then 3 else 0

/-- An active unit with its address. -/
structure VUnit where
  entry : ReplayEntry
  va : Word
  deriving DecidableEq, Repr

/-- The active units from vresume up, ascending; `addr` gives a unit's address. [DEDUCED, log 31] [DESIGN CHOICE, log 66] -/
def vmList (s : State) (f : FmtR) (st : Bool) (addr : Nat → Word) : List VUnit :=
  let k := vCore s
  let c := vmCode s f
  let n := vmSize c
  let mask := vmMask s f c
  let reg := (k.v.get 0 f.d.num.toNat).toNat
  ((List.range (vmUnits c k.vl)).filter fun u => decide (k.vresume ≤ u) && unitHalf c k.vl mask u != 0).map fun u =>
    { va := addr u,
      entry := { data := if st then BitVec.ofNat 32 (bits reg (8 * n * u) (8 * n)) else 0, cause := 0, strm := f.mod.extractLsb' 0 4,
                 size := sizeCode n, st := st, reg := f.d.num.setWidth 5, unit := BitVec.ofNat 11 u, va := (addr u).setWidth 56,
                 half := unitHalf c k.vl mask u } }

/-- The units of VLDSC: packed 24-bit entries, one for each group of elements (R320). -/
def vscList (s : State) (f : FmtR) : List VUnit :=
  let k := vCore s
  let g := 2 ^ blkLog (typeBlk k.vtype)
  ((List.range ((k.vl + g - 1) / g)).filter fun u => decide (k.vresume ≤ u)).map fun u =>
    let va := xRead s f.a + BitVec.ofNat 64 (3 * u)
    { va := va,
      entry := { data := 0, cause := 0, strm := f.mod.extractLsb' 0 4, size := 3, st := false, reg := f.d.num.setWidth 5,
                 unit := BitVec.ofNat 11 u, va := va.setWidth 56 } }

/-- The index registers of VLDX and VSTX; a 4-bit format has ⌊(vl + 1) ÷ 2⌋ byte units (R318). [DEDUCED, log 31] -/
def vmGroup (s : State) (f : FmtR) : List Nat :=
  let vl := (vCore s).vl
  let n := if codeWidth (vmCode s f) = 4 then (vl + 1) / 2 else vl
  (List.range ((n + 255) / 256)).map (f.b.num.toNat + ·)

/-- The signed index of unit `u`. -/
def vmIndex (s : State) (f : FmtR) (u : Nat) : Word :=
  (BitVec.ofNat 32 (bits ((vCore s).v.get 0 (f.b.num.toNat + u / 256)).toNat (32 * (u % 256)) 32)).signExtend 64

/-! ## Chaining behind a copy (R89) -/

/-- `n` bytes of an A-store place meet `k` bytes of a copy's destination. -/
def placesMeet (p : Place) (n : Nat) (q : Place) (k : Nat) : Bool :=
  match p, q with
  | .store v o, .store v' o' => v == v' && decide (o < o' + k) && decide (o' < o + n)
  | .striped u a, .striped u' b => u == u' && decide (a < b + k) && decide (b < a + n)
  | .striped u a, .store v o => stripePav u a == v && decide (stripeOff a < o + k) && decide (o < stripeOff a + n)
  | .store v o, .striped u b =>
    let a := ((o >>> 7) <<< 10) + ((v % 8) <<< 7) + o % 128
    v / 8 == u && decide (a < b + k) && decide (b < a + n)
  | _, _ => false

/-- A copy into an A-store has not yet delivered some of these bytes. -/
def undelivered (s : State) (e : EngineRec) (p : Place) (n : Nat) : Bool :=
  let meets (off k : Nat) : Bool := match enginePlace s e (e.opA + BitVec.ofNat 64 off) true with
    | .ok q => placesMeet p n q.1 k
    | .error _ => false
  e.kind == .cpy && decide (e.opA.toNat / 2 ^ 54 = 1) &&
  (match e.tmap with
   | some t => (List.range (tmCount t.1 - e.done)).any (fun j => meets (tmPos t.1 t.2 (e.done + j)).2 (tmEsize t.1)) || e.out.any fun b => meets b.1 1
   | none => meets e.done (e.total - e.done))

/-- The load waits for a copy of its hart on its stream (R89). -/
def chained (s : State) (f : FmtR) (l : List VUnit) : Bool :=
  let id := leadHart s
  let es := (commandsOf s id).filter fun e => e.kind == .cpy && (!e.moved || !e.out.isEmpty) && e.strm == (f.mod.extractLsb' 0 4).toNat
  !es.isEmpty && l.any fun u => match resolve s (hartCtx s id) { rd := true, handle := .published } u.va with
    | .ok r => es.any fun e => undelivered s e r.1 (sizeBytes u.entry.size)
    | .error _ => false

/-! ## The order of units (R123, R124) -/

/-- The places of a unit; none where its check fails. -/
def VUnit.places (s : State) (id : Nat) (u : VUnit) : List (Place × Nat) :=
  match resolveRange s (hartCtx s id) u.entry.req u.va (sizeBytes u.entry.size) with
  | .ok m => m.pieces
  | .error _ => []

/-- Unit u belongs to lane u mod 32 (R121). -/
def VUnit.lane (u : VUnit) : Nat := u.entry.unit.toNat % 32

/-- Two places share a byte. -/
def piecesMeet (a b : Place × Nat) : Bool :=
  match a.1, b.1 with
  | .phys x, .phys y => decide (x < y + b.2) && decide (y < x + a.2)
  | .peer l x, .peer k y => l == k && decide (x < y + b.2) && decide (y < x + a.2)
  | p, q => placesMeet p a.2 q b.2

/-- Two units of distinct lanes touch a common byte. [DESIGN CHOICE, log 63] -/
def unitsMeet (a b : Nat × List (Place × Nat)) : Bool := a.1 != b.1 && a.2.any fun p => b.2.any (piecesMeet p)

/-- The `n`-th step of the lanes' progress: one of the lanes that has units left goes on with its next. [DESIGN CHOICE, log 63] -/
def laneSteps (pick : Nat → Nat) : Nat → Nat → List VUnit → List VUnit
  | 0, _, l => l
  | fuel + 1, n, l => match l[pick n % l.length]? with
    | none => l
    | some u => match l.find? fun v => v.lane == u.lane with
      | none => l
      | some v => v :: laneSteps pick fuel (n + 1) (l.erase v)

/-- The order in which the units of an instruction are performed: ascending, unless stores of distinct lanes meet, which the lanes perform in
any order that keeps each lane's own (R123, R124). [DESIGN CHOICE, log 63] -/
def unitOrder (s : State) (id : Nat) (l : List VUnit) : List VUnit × State :=
  let at' := l.map fun u => (u.lane, if u.entry.st then u.places s id else [])
  if at'.any fun a => at'.any (unitsMeet a) then
    (laneSteps (fun n => Config.laneStep (s.freeCount + n)) l.length 0 l, { s with freeCount := s.freeCount + l.length })
  else (l, s)

/-! ## Performing the units -/

/-- A run over units: the state, units that failed, the stores that left for peers by lane and link, a unit that waits, and one that met a full
queue (R465). -/
structure VRun where
  s : State
  failed : Bool := false
  sent : List (Nat × Nat) := []
  wait : Bool := false
  stop : Bool := false
  deriving DecidableEq, Repr

/-- A unit is behind it: performed, or in the replay queue. -/
def VRun.pass (r : VRun) (id : Nat) (u : VUnit) (s : State) : VRun :=
  { r with s := modHart s id fun h => { h with replies := [], vdone := u.entry.unit.toNat :: h.vdone } }

/-- A unit follows a store of its lane that is on its way to a peer: it waits unless it takes the same link (R123, R138). -/
def laneWaits (sent : List (Nat × Nat)) (u : VUnit) (l : List (Place × Nat)) : Bool :=
  sent.any fun p => p.1 == u.lane && l.any fun q => match q.1 with
    | .peer k _ => k != p.2
    | _ => true

/-- The stores of a unit that leave for peers. -/
def VUnit.sends (u : VUnit) (l : List (Place × Nat)) : List (Nat × Nat) :=
  if u.entry.st then l.filterMap fun q => match q.1 with
    | .peer k _ => some (u.lane, k)
    | _ => none
  else []

/-- One unit, in its turn; at a peer it follows what R109 and R138 put before it. -/
def runOne (id : Nat) (r : VRun) (u : VUnit) : VRun :=
  if r.stop || r.wait then r
  else
    let at' := u.places r.s id
    match at'.forM fun p => beforePeer r.s id u.entry.strm.toNat p.1 p.2 u.entry.st with
    | .error _ => { r with wait := true }
    | .ok _ =>
      if laneWaits r.sent u at' then { r with wait := true }
      else match runUnit r.s id 0 u.entry u.va with
        | .done t => { r.pass id u t with sent := u.sends at' ++ r.sent }
        | .wait t => { r with s := t, wait := true }
        | .bad c =>
          if (hartOf r.s id).replay.length < 64 then
            { r.pass id u (modHart r.s id fun h => h.enqueue { u.entry with cause := c }) with failed := true }
          else { r with stop := true }
        | .late c t =>
          let e := { u.entry with cause := c }
          if (hartOf t id).replay.length < 64 then { r.pass id u (modHart t id fun h => h.enqueue e) with failed := true }
          else { r.pass id u (modHart t id fun h => { h with roomWait := h.roomWait ++ [e] }) with failed := true }

/-- The run over an instruction's units, those that are behind it left out. -/
def runAll (s : State) (id : Nat) (l : List VUnit) : VRun :=
  let o := unitOrder s id (l.filter fun u => !(hartOf s id).vdone.contains u.entry.unit.toNat)
  o.1.foldl (runOne id) { s := o.2 }

/-- The end of a load: its register is empty until its last element is written, or while an entry keeps it so (R319, R431); hw (R286). -/
def endLoad (s : State) (id reg bytes : Nat) (whole : Bool) : State :=
  let live := liveLoad (hartOf s id) (BitVec.ofNat 5 reg)
  modCore s (coreOfHart id) fun k =>
    { k with hw := hwAfter k.hw reg bytes,
             vempty := if live || whole then k.vempty ||| BitVec.ofNat 32 (2 ^ reg) else k.vempty,
             vpend := if whole && !live then k.vpend ++ [reg] else k.vpend }

/-- The lowest unit that is not behind the instruction (R437, R465). -/
def lowestLeft (s : State) (id : Nat) (l : List VUnit) : Nat :=
  ((l.map fun u => u.entry.unit.toNat).find? fun n => !(hartOf s id).vdone.contains n).getD 0

/-- The units performed; a check failure that would make a 65th entry stops the instruction with vresume (R451, R465). [DEDUCED, log 31] -/
def runUnits (s : State) (f : FmtR) (load : Bool) (l : List VUnit) (bytes : Nat) : M State :=
  let id := leadHart s
  let reg := f.d.num.toNat
  let r := runAll s id l
  remote id (
    if r.stop then
      .error (replayStop (modCore (if load then endLoad r.s id reg bytes false else r.s) (coreOfHart id) fun k =>
        { k with vresume := lowestLeft r.s id l }) id)
    else if r.wait then .error (.wait r.s false)
    else ok (advance (endVector (if load then endLoad r.s id reg bytes true else r.s)))) s

/-- A unit's bytes meet those of a failed unit in the queue, behind which it is to be performed (R109). -/
def meetsEntry (h : Hart) (l : List VUnit) : Bool :=
  l.any fun u => h.replay.any fun e => decide (u.va.toNat < e.va.toNat + e.bytes) && decide (e.va.toNat < u.va.toNat + u.entry.bytes)

/-- The checks that vector loads and stores share, then their units. An index group read while a load entry of its own keeps a register of it
empty is a drain point, and so is a unit that overlaps an entry (R109, R432). [DEDUCED, log 81] [DESIGN CHOICE, log 66] [DEDUCED, log 74] -/
def vecMem (s : State) (f : FmtR) (load : Bool) (srcs : List Opnd) (plain : List Nat) (l : State → List VUnit) (bytes : Nat) : M State := do
  let id := leadHart s
  if plain.any fun n => liveLoad (hartOf s id) (BitVec.ofNat 5 n) then .error (replayStop s id) else .ok ()
  let mask := if f.mod.getLsbD 8 then [f.c] else []
  afterStream s id (f.mod.extractLsb' 0 4).toNat
  vGo s (srcs ++ mask) plain (if load then [f.d.num.toNat] else []) fun s =>
    if (hartOf s id).vdone.isEmpty && meetsEntry (hartOf s id) (l s) then .error (replayStop s id)
    else if load && chained s f (l s) then stall s
    else runUnits s f load (l s) bytes

/-- Bytes of the written prefix of a load (R286). -/
def vmBytes (s : State) (f : FmtR) : Nat := elemBytes (codeWidth (vmCode s f)) (vCore s).vl

def needFmt (i : Instr) (s : State) (f : FmtR) : M Unit :=
  needI i (decide (1 ≤ vmCode s f) && decide (vmCode s f ≤ 10)) Cause.reservedField

/-- VLD and VST: consecutive units. -/
def vUnitStride (i : Instr) (f : FmtR) (load : Bool) (s : State) : M State := do
  needFmt i s f
  vecMem s f load (if load then [] else [f.d]) [] (fun s => vmList s f (!load) fun u => xRead s f.a + BitVec.ofNat 64 (u * vmSize (vmCode s f)))
    (vmBytes s f)

/-- VLDS and VSTS: a signed stride in bytes. -/
def vStrided (i : Instr) (f : FmtR) (load : Bool) (s : State) : M State := do
  needFmt i s f
  vecMem s f load (if load then [] else [f.d]) [] (fun s => vmList s f (!load) fun u => xRead s f.a + BitVec.ofNat 64 u * xRead s f.b)
    (vmBytes s f)

/-- VLDX and VSTX: signed 32-bit indices (R318, R465). -/
def vIndexed (i : Instr) (f : FmtR) (load : Bool) (s : State) : M State := do
  needFmt i s f
  let g := vmGroup s f
  needI i (g.all (· < 32) && !(load && g.contains f.d.num.toNat)) Cause.reservedField
  needAllot s g
  vecMem s f load (if load then [f.b] else [f.d, f.b]) (g.filter (· != f.b.num.toNat))
    (fun s => vmList s f (!load) fun u => xRead s f.a + vmIndex s f u * BitVec.ofNat 64 (vmSize (vmCode s f))) (vmBytes s f)

/-- VLDSC (R320). -/
def vScales (i : Instr) (f : FmtR) (s : State) : M State := do
  needI i (typeBlk (vCore s).vtype != 0) Cause.reservedField
  let g := 2 ^ blkLog (typeBlk (vCore s).vtype)
  vecMem s f true [] [] (fun s => vscList s f) (4 * (((vCore s).vl + g - 1) / g))

/-- VLD (R317). -/
def execVld (f : FmtR) (s : State) : Result := perform (.vld f) s (vUnitStride (.vld f) f true)
/-- VLDS (R317). -/
def execVlds (f : FmtR) (s : State) : Result := perform (.vlds f) s (vStrided (.vlds f) f true)
/-- VLDX (R318). -/
def execVldx (f : FmtR) (s : State) : Result := perform (.vldx f) s (vIndexed (.vldx f) f true)
/-- VST (R317). -/
def execVst (f : FmtR) (s : State) : Result := perform (.vst f) s (vUnitStride (.vst f) f false)
/-- VSTS (R317). -/
def execVsts (f : FmtR) (s : State) : Result := perform (.vsts f) s (vStrided (.vsts f) f false)
/-- VSTX (R318). -/
def execVstx (f : FmtR) (s : State) : Result := perform (.vstx f) s (vIndexed (.vstx f) f false)
/-- VLDSC (R320). -/
def execVldsc (f : FmtR) (s : State) : Result := perform (.vldsc f) s (vScales (.vldsc f) f)

end Sys2Proof.Machine
end

