-- ==== Sys2Proof/Machine/System.lean ====
section
/-! DEFINITION. Major 0xB0: control registers, traps and the return from them, code loading, leases and watchdogs; the convoy header, and the
two conditions met at a fetch (R27, R74, R81-R84, R177, R185, R344-R349, R423-R426, R456). -/
namespace Sys2Proof.Machine

/-! ## Stops with an unstated TRAPINFO -/

/-- A cause whose TRAPINFO the spec does not state: a free value, in a gang one for each bank that checks (log 8, R454). [DESIGN CHOICE, log 32] -/
def freeInfo (s : State) (code : BitVec 8) : Stop :=
  if inGroup s then
    .banksAfter { s with freeCount := s.freeCount + 8 }
      ((performers s).map fun id => (bankOfHart id, code, Config.freeWord (s.freeCount + bankOfHart id)))
  else .after (freeWord s).2 code (freeWord s).1

/-! ## Control registers (R344) -/

def csrReadOnly (a : Nat) : Bool := a == 0 || a == 1 || a == 6 || a == 7

/-- A register behind system privilege. -/
def csrSystem (a : Nat) : Bool := decide (0x20 ≤ a)

/-- GOVSTAT as a hart reads it (R27). -/
def govstat (s : State) (id : Nat) : Word :=
  let c := clockOfHart s id
  let k := if id < 256 then c.clkstep else 16
  let w := if id < 0x8000 then 0 else s.nd.actwin
  BitVec.ofNat 64 (b2n c.droop + k * 2 ^ 8 + w * 2 ^ 16 + c.steps.toNat * 2 ^ 32)

/-- The value of a control register. -/
def csrValue (s : State) (id a : Nat) : Word :=
  let h := hartOf s id
  match a with
  | 0x000 => BitVec.ofNat 64 id
  | 0x001 => (clockOfHart s id).ltime
  | 0x002 => govstat s id
  | 0x003 => h.flags.setWidth 64
  | 0x004 => h.nflags.setWidth 64
  | 0x005 => (bankOf s (perOfHart id) (bankOfHart id)).rtype
  | 0x006 => h.context.setWidth 64
  | 0x007 => if h.priv then 1 else 0
  | 0x010 => h.trapvec
  | 0x011 => h.trappc
  | 0x012 => h.trapcause
  | 0x013 => h.trapinfo
  | 0x014 => h.trapscr
  | 0x020 => h.ptroot
  | 0x022 => h.catbase
  | 0x023 => h.hndbase
  | 0x024 => h.hndcount
  | 0x025 => h.spillbase
  | _ => 0

/-- REGISTER_WRITE: a register without behaviour of its own takes the value; reserved bits stay 0 (R8, R344). -/
def csrPut (s : State) (id a : Nat) (v : Word) : State :=
  match a with
  | 0x003 => modHart s id fun h => { h with flags := storedState v }
  | 0x004 => modHart s id fun h => { h with nflags := v.setWidth 6 }
  | 0x005 => modBank s (perOfHart id) (bankOfHart id) fun k => { k with rtype := v }
  | 0x010 => modHart s id fun h => { h with trapvec := v &&& ~~~3 }
  | 0x011 => modHart s id fun h => { h with trappc := v }
  | 0x012 => modHart s id fun h => h.setCause v.toNat
  | 0x013 => modHart s id fun h => { h with trapinfo := v }
  | 0x014 => modHart s id fun h => { h with trapscr := v }
  | 0x020 => modHart s id fun h => { h with ptroot := v }
  | 0x022 => modHart s id fun h => { h with catbase := v }
  | 0x023 => modHart s id fun h => { h with hndbase := v }
  | 0x024 => modHart s id fun h => { h with hndcount := v }
  | 0x025 => modHart s id fun h => { h with spillbase := v }
  | _ => s

/-- GOVSTAT_DROOP_CLEAR (R27). -/
def droopClear (s : State) (id : Nat) : State := modClockOfHart s id fun c => { c with droop := false }

/-! ## TLBINV (R74) -/

/-- An entry that covers a virtual page number. -/
def TlbEntry.covers (t : TlbEntry) (vpn : Nat) : Bool := if t.large then t.page / 32 == vpn / 32 else t.page == vpn

/-- A TLBINV value selects an entry. -/
def tlbSelects (v : Word) (t : TlbEntry) : Bool :=
  if v.getLsbD 47 then true
  else t.context == v.extractLsb' 48 16 && (v.getLsbD 46 || t.covers (v.extractLsb' 0 38).toNat)

def tlbDrop (s : State) (v : Word) : State := { s with tlb := s.tlb.filter fun t => !tlbSelects v t }

/-- An access that may use a selected entry is not yet performed: an engine command, a packet, or a code block on its way, of the named
contexts (R74, R346, R490). -/
def tlbBusy (s : State) (v : Word) : Bool :=
  let hit (c : BitVec 16) : Bool := v.getLsbD 47 || c == v.extractLsb' 48 16
  (s.cores.any fun k => k.2.engines.any fun e => hit e.info.context) || anyPending s (fun b => hit b.context) ||
  s.packets.any fun p => match p.2 with
    | some q => hit q.context
    | none => false

/-- TLBINV_VA (R74). -/
def execTlbinvVa (context : BitVec 16) (va : BitVec 38) (s : State) : Result :=
  let v : Word := context ++ 0#10 ++ va
  .next (if tlbBusy s v then s else tlbDrop s v)

/-- TLBINV_CONTEXT (R74). -/
def execTlbinvContext (context : BitVec 16) (s : State) : Result :=
  let v : Word := context ++ 1#2 ++ 0#46
  .next (if tlbBusy s v then s else tlbDrop s v)

/-- TLBINV_ALL (R74). -/
def execTlbinvAll (s : State) : Result :=
  let v : Word := 0#16 ++ 2#2 ++ 0#46
  .next (if tlbBusy s v then s else tlbDrop s v)

/-! ## CSRR and CSRW -/

/-- The class of the issuing harts. -/
def issuerKind (s : State) : HartKind := (curKind s).getD .aHart

/-- The checks of R344, of each performing hart: the address, then the privilege and the access. -/
def csrCheck (i : Instr) (a : Nat) (wr : Bool) (s : State) : M Unit := do
  needOwn s (csrKnown (issuerKind s) a) Cause.reservedField (instrWord i)
  if (csrSystem a && !(hartOf s (leadHart s)).priv) || (wr && csrReadOnly a) then .error (freeInfo s Cause.prot) else .ok ()

/-- CSRR: each performing hart reads its own register. -/
def csrr (f : FmtI) (s : State) : M State := do
  csrCheck (.csrr f) f.imm.toNat false s
  ok (advance ((performers s).foldl (fun t id => modHart t id fun h => h.dest f.d (csrValue s id f.imm.toNat)) s))

/-- What a CSRW does for one hart: GOVSTAT bit 0, RCOUNT 0 and TLBINV act, every other register takes the value. -/
def csrWrite (s : State) (id a : Nat) (v : Word) : State :=
  if a = 0x002 then (if v.getLsbD 0 then droopClear s id else s)
  else if a = 0x021 then tlbDrop s v
  else if a = 0x012 && v.extractLsb' 17 7 == 0 then discardReplay (csrPut s id a v) id
  else csrPut s id a v

/-- CSRW: each performing hart writes its own register; an illegal RTYPE changes nothing (R150). -/
def csrw (f : FmtI) (s : State) : M State := do
  let a := f.imm.toNat
  csrCheck (.csrw f) a true s
  ownFaults s fun id =>
    if a = 0x005 ∧ typeOk true ((hartOf s id).opnd f.a) = false then some (Cause.reservedField, instrWord (.csrw f)) else none
  if a = 0x021 && tlbBusy s (xRead s f.a) then .error (.wait s false)
  else ok (advance ((performers s).foldl (fun t id => csrWrite t id a ((hartOf s id).opnd f.a)) s))

/-- CSRR (R344). -/
def execCsrr (f : FmtI) (s : State) : Result := perform (.csrr f) s (csrr f)
/-- CSRW (R344). -/
def execCsrw (f : FmtI) (s : State) : Result := perform (.csrw f) s (csrw f)

/-- A register that CSRW writes with no behaviour of its own. -/
def csrPlain (k : HartKind) (a : Nat) (v : Word) : Bool :=
  csrKnown k a && !csrReadOnly a && a != 0x002 && a != 0x021 && !(a == 0x012 && v.extractLsb' 17 7 == 0) && (a != 0x005 || typeOk true v)

/-- REGISTER_WRITE (R344). -/
def execRegisterWrite (hart addr : Nat) (value : Word) (s : State) : Result :=
  match kindOfId hart with
  | some k => .next (if csrPlain k addr value then csrPut s hart addr value else s)
  | none => .fault .noSuchUnit

/-- GOVSTAT_DROOP_CLEAR (R27). -/
def execGovstatDroopClear (hart : Nat) (s : State) : Result := event ((kindOfId hart).isSome) (droopClear s hart)

/-! ## Traps and the return from them (R345, R426, R460) -/

/-- TRAP and BRK: the end step runs first, then the trap with the address that it gives (R460). -/
def softTrap (code : BitVec 8) (info : Hart → Word) (s : State) : M State :=
  if inGroup s then .error (.banksAfter (advance s) ((performers s).map fun id => (bankOfHart id, code, info (hartOf s id))))
  else .error (.after (advance s) code (info (hartOf s (leadHart s))))

/-- TRAP: SWTRAP with x[A] (R345). -/
def execTrap (f : FmtR) (s : State) : Result := perform (.trap f) s (softTrap Cause.swtrap fun h => h.opnd f.a)
/-- BRK: BREAK (R345). -/
def execBrk (f : FmtR) (s : State) : Result := perform (.brk f) s (softTrap Cause.brk fun _ => 0)

/-- Nothing that a bank's earlier instructions began is under way (R231-R233). -/
def Bank.quiet (k : Bank) (rc : Nat) : Bool :=
  decide (k.laneFree ≤ rc) && decide (k.flagsAt ≤ rc) && decide (k.nflagsAt ≤ rc) && decide (k.lutAt ≤ rc) && decide (k.sfAt ≤ rc) &&
  k.xAt.all (fun p => decide (p.2 ≤ rc)) && k.q.all (fun p => decide (p.2.doneAt ≤ rc)) &&
  k.o.all (fun p => p.2.st != .opening && p.2.st != .busy && p.2.wbEnd.isNone && decide (p.2.readEnd ≤ rc)) &&
  k.sags.all fun p => p.2.forced || decide (p.2.refEnd ≤ rc)

/-- An earlier instruction of the issuer has not completed (R426). -/
def writesPending (s : State) : Bool :=
  let k := coreOf s (curCore s)
  if leadHart s < 256 then !k.vpend.isEmpty || !k.mpend.isEmpty || k.matrix.any (fun w => !w.again && w.entry.hart == leadHart s)
  else (allHarts s).any fun id => decide (0x8000 ≤ id) && !(bankOf s (perOfHart id) (bankOfHart id)).quiet (perOf s (perOfHart id)).rc

/-- RFT: ILLEGAL outside a handler; the queue is retried, a failure going to the handler again; then PC := TRAPPC and IH := 0
(R426, R434). -/
def rft (f : FmtR) (s : State) : M State := do
  let id := leadHart s
  need (hartOf s id).ih Cause.illegal (instrWord (.rft f))
  if writesPending s then .error (.wait s false)
  else match retryReplay s id 65 with
    | .done t => ok (returnFromTrap t)
    | .wait t => .error (.wait t false)
    | .failed t e =>
      if cancelled s then .error (.trap e.cause 0)
      else
        let t1 := if e.cause = Cause.ue then logUe s t id (e.va.setWidth 64) false else t
        ok (trapHart t1 id (hartOf t id).trappc e.cause (e.va.setWidth 64) false true)

/-- RFT (R426). -/
def execRft (f : FmtR) (s : State) : Result := perform (.rft f) s (rft f)

/-! ## Code loading (R346, R347) -/

/-- The range that a hart's CFETCH names. -/
def segmentOf (f : FmtR) (h : Hart) : SegRange :=
  { source := h.opnd f.a, ovlOff := (h.opnd f.b).extractLsb' 32 32, len := (h.opnd f.b).extractLsb' 0 32 }

def segmentMap (s : State) (id : Nat) (r : SegRange) : Chk RangeMap :=
  segmentCheck s (codeCtx s id) (curOverlay s) r.source r.ovlOff.toNat r.len.toNat

/-- A CFETCH of one range by hart `id`, or by several banks of a gang, checked: its blocks become pending and its range is listed. -/
def fetchSegment (s : State) (harts : List Nat) (id : Nat) (r : SegRange) : State :=
  match segmentMap s id r with
  | .error _ => s
  | .ok m => noteSegment (segmentFetch (commitAll s m.commits) harts (hartOf s id).context (curOverlay s) r.source r.ovlOff.toNat
      r.len.toNat m) id r

/-- CFETCH: every performing hart's range is checked before any is fetched; equal ranges of a gang are one. [DEDUCED, log 33] -/
def cfetch (f : FmtR) (s : State) : M State := do
  afterSent s (leadHart s)
  ownFaults s fun id => match segmentMap s id (segmentOf f (hartOf s id)) with
    | .error e => some e
    | .ok _ => none
  let l := (performers s).foldl (fun l id =>
    let r := segmentOf f (hartOf s id)
    if l.any fun p => p.2 == r then l else l ++ [(id, r)]) []
  ok (advance (l.foldl (fun t p => fetchSegment t ((performers s).filter fun id => segmentOf f (hartOf s id) == p.2) p.1 p.2) s))

/-- CSEG's value of a block (R347). -/
def blockCode (b : BlockState) : Word :=
  match b with
  | .absent => 0
  | .pending => 1
  | .landed => 2

/-- CSEG (R347). [DEDUCED, log 33] [DEDUCED, log 53] -/
def cseg (f : FmtR) (s : State) : M State := do
  let n := curOverlay s
  ownFaults s fun id =>
    let a := (hartOf s id).opnd f.a
    if 128 * overlayBlocks n ≤ a.toNat then some (Cause.prot, a) else none
  ok (advance ((performers s).foldl (fun t id => modHart t id fun h =>
    h.dest f.d (blockCode (blockAt s n (((hartOf s id).opnd f.a).toNat / 128)).st)) s))

/-- IFENCE: waits while a CFETCH has not landed; nothing is fetched ahead (R347). -/
def ifence (s : State) : M State := if fetchPending s then .error (.wait s false) else ok (advance s)

/-- CFETCH (R346). -/
def execCfetch (f : FmtR) (s : State) : Result := perform (.cfetch f) s (cfetch f)
/-- CSEG (R347). -/
def execCseg (f : FmtR) (s : State) : Result := perform (.cseg f) s (cseg f)
/-- IFENCE (R347). -/
def execIfence (f : FmtR) (s : State) : Result := perform (.ifence f) s ifence

/-! ## Leases and watchdogs (R81-R83, R348, R349, R354) -/

/-- A context number that the device supports (R354). -/
def ctxNumber (c : BitVec 16) : Bool := decide (1 ≤ c.toNat) && decide (c.toNat < 8192)

/-- A code block of an image in the octet's row window is on its way. -/
def fetchesFrom (s : State) (g : Nat) : Bool :=
  anyPending s fun b => match b.image with
    | some pa => (match region s pa with
      | .row c => coordPer c == g
      | _ => false)
    | none => false

/-- SETASIDE's outcome on an octet (R81): grant, change or end, once the engine commands in flight and the code blocks on their way from its
rows are performed (R82, R131). -/
def setAside (g : Nat) (c : BitVec 16) (d : Nat) (dual : Bool) (s : State) : M State :=
  if !leased s g then
    (if d = 0 then ok s
     else if (s.cores.any fun k => !k.2.engines.isEmpty) || fetchesFrom s g then .error (.wait s false)
     else ok (grantLease s g c d dual))
  else if (perOf s g).lessee ≠ c then .error (freeInfo s Cause.rowlease)
  else if d = 0 then ok (leaseOver s g .setaside)
  else if (perOf s g).dual ≠ dual then .error (freeInfo s Cause.rowlease)
  else ok (modPer s g fun p => { p with remain := d })

/-- SETASIDE: RESERVED-FIELD, then PROT, then ROWLEASE (R348, R458). [DEDUCED, log 53] -/
def setaside (f : FmtR) (s : State) : M State := do
  let a := xRead s f.a
  let b := xRead s f.b
  need (a.extractLsb' 13 35 == 0 && !a.getLsbD 11 && b.extractLsb' 40 24 == 0) Cause.reservedField (instrWord (.setaside f))
  let g := (a.extractLsb' 0 11).toNat
  let c := a.extractLsb' 48 16
  if !(hartOf s (leadHart s)).priv || 1152 ≤ g || !ctxNumber c || !rowCapable s g then .error (freeInfo s Cause.prot)
  else do
    let t ← setAside g c (b.extractLsb' 0 40).toNat (a.getLsbD 12) s
    ok (advance t)

/-- ROWWD: arms or disarms an octet's watchdog (R349). [DEDUCED, log 53] -/
def rowwd (f : FmtR) (s : State) : M State := do
  let a := xRead s f.a
  let b := xRead s f.b
  need (a.extractLsb' 11 53 == 0 && b.extractLsb' 40 24 == 0) Cause.reservedField (instrWord (.rowwd f))
  let g := (a.extractLsb' 0 11).toNat
  let h := hartOf s (leadHart s)
  if 1152 ≤ g then .error (freeInfo s Cause.prot)
  else if !h.priv && !leasedTo s g h.context then .error (freeInfo s Cause.rowlease)
  else ok (advance (modPer s g fun p => { p with watchdog := if b = 0 then none else some b.toNat }))

/-- SETASIDE (R348). -/
def execSetaside (f : FmtR) (s : State) : Result := perform (.setaside f) s (setaside f)
/-- ROWWD (R349). -/
def execRowwd (f : FmtR) (s : State) : Result := perform (.rowwd f) s (rowwd f)

/-! ## No operation, the convoy header, and what a fetch may meet -/

/-- NOP (R345). -/
def execNop (f : FmtR) (s : State) : Result := perform (.nop f) s fun s => ok (advance s)

/-- A convoy header executes as a no-op of 32 bits (R177). [DESIGN CHOICE, log 77] -/
def execConvoyHeader (f : FmtC) (s : State) : Result := perform (.convoyHeader f) s fun s => ok (advanceBy 4 s)

/-- ILLEGAL_ENCODING: ILLEGAL with the 64 bits read (R185, R456). -/
def execIllegalEncoding (word : Word) (s : State) : Result :=
  event ((curKind s).isSome) (finish s none false (.error (.trap Cause.illegal word)))

/-- ABSENT_BLOCK_FETCH: SEGABSENT with the offset fetched (R346, R456). -/
def execAbsentBlockFetch (offset : Word) (s : State) : Result :=
  event ((curKind s).isSome) (finish s none false (.error (.trap Cause.segabsent offset)))

end Sys2Proof.Machine
end

