-- ==== Sys2Proof/Machine/Rows.lean ====
section
/-! DEFINITION. Row registers: their states and timing, what every row instruction shares, and major 0x40 (R227-R243, R471-R484, R487). -/
namespace Sys2Proof.Machine

/-! ## Registers and rows of a bank -/

def Bank.reg (k : Bank) (n : Nat) : RowReg := k.o.get {} n
def Bank.modReg (k : Bank) (n : Nat) (f : RowReg → RowReg) : Bank := { k with o := k.o.modify {} n f }
def Bank.sag (k : Bank) (n : Nat) : Sag := k.sags.get {} n
def Bank.modSag (k : Bank) (n : Nat) (f : Sag → Sag) : Bank := { k with sags := k.sags.modify {} n f }
def regOf (s : State) (g b n : Nat) : RowReg := (bankOf s g b).reg n
def modReg (s : State) (g b n : Nat) (f : RowReg → RowReg) : State := modBank s g b fun k => k.modReg n f
def modSag (s : State) (g b n : Nat) (f : Sag → Sag) : State := modBank s g b fun k => k.modSag n f
/-- The Pergola's clock in row cycles (R20). -/
def rcOf (s : State) (g : Nat) : Nat := (perOf s g).rc


/-- TRAPINFO of ROWSAG, ROWCLOSED and ROWOPEN (R425, R455). -/
def rowInfo (n : Nat) (r : RowReg) : Word := BitVec.ofNat 64 (n + 8 * r.row.toNat)
/-- TRAPINFO of RESCUED (R484). -/
def rescuedInfo (n : Nat) (r : RowReg) : Word := BitVec.ofNat 64 (n + 8 * r.row.toNat + 8192 * b2n r.rsaved)
/-- TRAPINFO of UE on a row (R475). -/
def ueInfo (coord seg : Nat) : Word := BitVec.ofNat 64 (coord + seg * 2 ^ 32)

/-- A segment mask from its bits. -/
def maskOf (l : List Nat) : BitVec 128 := l.foldl (fun m k => m ||| BitVec.ofNat 128 (2 ^ k)) 0

/-- The lowest bit of a mask of segments. -/
def lowSeg (m : BitVec 128) : Nat := ((List.range 128).find? fun k => m.getLsbD k).getD 0

/-- The poisoned segments of a row's cells (R473, R480). [DESIGN CHOICE, log 38] -/
def cellPoison (s : State) (coord : Nat) : BitVec 128 :=
  let base := rowAddr coord / 64
  BitVec.ofNat 128 ((s.poison.inSpan base 128).foldl (fun m p => if p.2 then m + 2 ^ (p.1 - base) else m) 0)

/-- A row's cells as a register holds them. -/
def readCells (s : State) (coord : Nat) : Row := BitVec.ofNat 65536 (readNat s (rowAddr coord) 8192)


/-! ## Errors found by an ACT (R472, R474, R478-R480) -/

/-- An entry of the error log about a row of a bank. -/
def logRow (s : State) (g b : Nat) (kind : BitVec 8) (r : Nat) (segs : BitVec 128) (count : Nat) : State :=
  logError s kind (ueInfo (rowCoord g b r) (lowSeg segs)) (perOf s g).lessee (BitVec.ofNat 16 (bankId g b)) 0 count

def countOnes (m : BitVec 128) : Nat := ((List.range 128).filter fun k => m.getLsbD k).length

/-- CORRECTED: the bank counts corrected codewords, with an entry at every 256th (R472). [DESIGN CHOICE, log 25] -/
def countCorrected (s : State) (g b r n : Nat) : State :=
  let old := (bankOf s g b).corrected
  let s1 := modBank s g b fun k => { k with corrected := old + n }
  if old / 256 = (old + n) / 256 then s1 else logRow s1 g b 0x01 r 0 ((old + n) / 256 * 256)

/-- A new SUSPECT; another row that it held is logged unresolved (R478). -/
def newSuspect (s : State) (g b r : Nat) (segs : BitVec 128) : State :=
  let k := bankOf s g b
  let s1 := match k.suspectRow with
    | some old => if old.toNat = r then s else logRow s g b 0x0E old.toNat k.suspectMask 0
    | none => s
  modBank (logRow s1 g b 0x02 r segs 0) g b fun k => { k with suspectRow := some (BitVec.ofNat 13 r), suspectMask := segs }

def clearSuspect (s : State) (g b : Nat) : State := modBank s g b fun k => { k with suspectRow := none, suspectMask := 0 }

/-- What an ACT of row `r` finds uncorrectable: the verdict on the SUSPECT row, or a new SUSPECT. Answers whether the row is lasting. [DESIGN CHOICE, log 25] -/
def judgeRow (s : State) (g b r : Nat) (found : BitVec 128) : State × Bool :=
  let k := bankOf s g b
  if k.suspectRow = some (BitVec.ofNat 13 r) then
    if found &&& k.suspectMask = 0 then
      let s1 := logRow (clearSuspect s g b) g b 0x04 r k.suspectMask 0
      (if found = 0 then s1 else newSuspect s1 g b r found, false)
    else (clearSuspect s g b, true)
  else (if found = 0 then s else newSuspect s g b r found, false)

/-- Segments found uncorrectable hold unspecified bytes (R473). [DESIGN CHOICE, log 25] -/
def lostSegments (s : State) (found : BitVec 128) (row : Row) : Row × State :=
  if found = 0 then (row, s)
  else
    let v := freeBytes s 8192
    let old := leBytes 8192 row.toNat
    (BitVec.ofNat 65536 (leNat ((List.range 128).map fun k =>
      ((if found.getLsbD k then v.1 else old).drop (64 * k)).take 64).flatten), v.2)

/-- The activation of row `r` into register `n` at `at'`: cells and poison are read, the register opens (R231, R474). -/
def activate (s : State) (g b n r at' : Nat) : State :=
  let c := rowCoord g b r
  let found := (s.upsets.get [] c).headD 0
  let soft := (s.softs.get [] c).headD 0
  let s1 := { s with upsets := s.upsets.modify [] c List.tail, softs := s.softs.modify [] c List.tail }
  let s2 := if soft = 0 then s1 else countCorrected s1 g b r (countOnes soft)
  let j := judgeRow s2 g b r found
  let lost := lostSegments j.1 found (readCells s c)
  modReg lost.2 g b n fun q =>
    { q with st := .opening, row := BitVec.ofNat 10 (r / 8), dirty := false, restored := false, rsaved := false, data := lost.1,
             poison := found ||| cellPoison s c, actAt := at', busyDirty := false, readEnd := 0, wbEnd := none, freeAt := 0, lasting := j.2,
             check := [] }

/-- The retirement of a lasting row at the tRAS of its ACT: a spare takes its coordinate and the register's contents, or none is free and
the octet is listed for retirement (R479, R480). [DEDUCED, log 47] -/
def retireRow (s : State) (g b n : Nat) : State :=
  let q := regOf s g b n
  let r := 8 * q.row.toNat + n
  let c := rowCoord g b r
  let left := (bankOf s g b).sag n |>.spares
  let s1 := modReg s g b n fun q => { q with lasting := false }
  if left = 0 then
    logRow { s1 with toRetire := s1.toRetire ||| BitVec.ofNat 1152 (2 ^ g) } g b 0x06 r q.poison 0
  else
    let s2 := writeCells { s1 with remapped := s1.remapped.set false c true, upsets := s1.upsets.set [] c [], softs := s1.softs.set [] c [] }
      c q.data q.poison
    logRow (modSag s2 g b n fun t => { t with spares := left - 1 }) g b 0x05 r q.poison (left - 1)

/-! ## The activation arbiter of a layer (R232, R25) -/

/-- The rc in which a layer's arbiter counts: that of the Pergola of its octet 0. -/
def arbiterRc (s : State) (g : Nat) : Nat := rcOf s (layerOfPer g * 8)

/-- `n` more activations are within the window's limit, and no other bank of the layer was activated in this rc. -/
def arbiterFree (s : State) (g b n : Nat) : Bool :=
  let l := layerOf s (layerOfPer g)
  let now := arbiterRc s g
  decide ((l.acts.filter fun t => decide (now < t + 48)).length + n ≤ s.nd.actwin) &&
  (match l.acts with
   | [] => true
   | t :: _ => decide (t < now) || l.lastBank == some (8 * g + b))

/-- An activation `later` rc from now entered with the arbiter, and tRRDB of its bank. -/
def noteAct (s : State) (g b later : Nat) : State :=
  let now := arbiterRc s g
  modBank (modLayer s (layerOfPer g) fun l =>
      { l with acts := (now + later) :: l.acts.filter fun t => decide (now < t + 48), lastBank := some (8 * g + b) }) g b
    fun k => { k with lastAct := some (rcOf s g + later) }

/-- The bank's own rules for an activation of SAG `n`: tRP, REF and tRRDB (R232). -/
def actReady (s : State) (g b n : Nat) : Bool :=
  let k := bankOf s g b
  let now := rcOf s g
  !(k.sag n).forced && decide ((k.sag n).preEnd ≤ now) && decide ((k.sag n).refEnd ≤ now) &&
  (match k.lastAct with
   | none => true
   | some t => decide (t + 4 ≤ now))

/-! ## Delivery of RESCUED (R483, R484) -/

/-- A RESCUED register opens again `later` rc from now: from the rescue row, DIRTY, or from its own row. -/
def reopen (s : State) (g b n later : Nat) : State :=
  let q := regOf s g b n
  let at' := rcOf s g + later
  let t := noteAct s g b later
  if q.rsaved then
    let c := rowCoord g b (6136 + n)
    modReg t g b n fun q =>
      { q with st := .opening, dirty := true, restored := false, rsaved := false, data := readCells s c, poison := cellPoison s c, actAt := at',
               busyDirty := false, readEnd := 0, wbEnd := none, freeAt := 0, check := [] }
  else activate t g b n (8 * q.row.toNat + n) at'

/-- The registers open again one per rc, in the order of their banks. -/
def reopenAll (s : State) (g : Nat) (l : List (Nat × Nat)) : State :=
  ((List.range l.length).zip l).foldl (fun t p => reopen t g p.2.1 p.2.2 p.1) s

/-! ## What a row instruction names (R230, R454, R458) -/

/-- The registers that an instruction names in one bank, in the order in which they are checked: (bank, register) of OA, then OB, OD and
MASKO of the bank itself. -/
structure RowUse where
  oa : Option (Nat × Nat) := none
  ob : Option Nat := none
  od : Option Nat := none
  mo : Option Nat := none
  /-- OD is read as well as written, or is not written; MASKO is read, is written (XM) -/
  odRead : Bool := false
  odWrite : Bool := true
  moRead : Bool := false
  moWrite : Bool := false
  deriving DecidableEq, Repr

def RowUse.named (u : RowUse) (b : Nat) : List (Nat × Nat) :=
  u.oa.toList ++ (u.ob.toList ++ u.od.toList ++ u.mo.toList).map fun n => (b, n)

def RowUse.reads (u : RowUse) (b : Nat) : List (Nat × Nat) :=
  u.oa.toList ++ (u.ob.toList ++ (if u.odRead then u.od.toList else []) ++ (if u.moRead then u.mo.toList else [])).map fun n => (b, n)

def RowUse.writes (u : RowUse) : List Nat := (if u.odWrite then u.od.toList else []) ++ (if u.moWrite then u.mo.toList else [])

/-- A fault of one bank. -/
abbrev RowFault := Option (BitVec 8 × Word)

/-- The first of two checks that fails. -/
def orFault (a b : RowFault) : RowFault :=
  match a with
  | some e => some e
  | none => b

/-- A check that never fails. -/
def noFault (_ : Nat) : RowFault := none

def faultIf (c : Bool) (code : BitVec 8) (info : Word) : RowFault := if c then some (code, info) else none

/-- A named register that is RESCUED, and whose forced refresh is over (R482, R483). -/
def rescuedOf (s : State) (g : Nat) (l : List (Nat × Nat)) : Option (Nat × Nat) :=
  l.find? fun p => (regOf s g p.1 p.2).st == .rescued && !((bankOf s g p.1).sag p.2).forced

def rescuedFault (s : State) (g : Nat) (l : List (Nat × Nat)) : RowFault :=
  (rescuedOf s g l).map fun p => (Cause.rescued, rescuedInfo p.2 (regOf s g p.1 p.2))

/-- ROWCLOSED of the first named register that is CLOSED (R231). -/
def closedFault (s : State) (g : Nat) (l : List (Nat × Nat)) : RowFault :=
  (l.find? fun p => (regOf s g p.1 p.2).st == .closed).map fun p => (Cause.rowclosed, rowInfo p.2 (regOf s g p.1 p.2))

/-- No forced refresh of a named SAG is under way (R482 step 1). -/
def unforced (s : State) (g : Nat) (l : List (Nat × Nat)) : Bool := l.all fun p => !((bankOf s g p.1).sag p.2).forced

/-! ## The frame of every row instruction -/

/-- The banks that perform. -/
def rowBanks (s : State) : List Nat := (performers s).map bankOfHart

/-- DUPMISMATCH is logged for the pair (R488). [DEDUCED, log 40] -/
def logMismatch (s : State) (own : List (Nat × BitVec 8 × Word)) : State :=
  ((own.filter fun p => p.2.1 == Cause.dupmismatch && decide (p.1 < 4))).foldl (fun t p =>
    logError t 0x0C p.2.2 (perOf t (curPer t)).lessee (BitVec.ofNat 16 (bankId (curPer t) p.1)) Cause.dupmismatch 0) s

/-- A trap of the issuer would be contained: a handler stands ready. -/
def trapContained (s : State) : Bool := (hartOf s (leadHart s)).trapvec != 0 && !(hartOf s (leadHart s)).ih

/-- The trap of a row instruction: each bank reports its own fault, and the RESCUED registers reported open again (R454, R484). The opening
obeys the arbiter, so the trap waits for it; without a handler they stay RESCUED. [DEDUCED, log 36] -/
def rowTrap (s : State) (named : Nat → List (Nat × Nat)) (own : List (Nat × BitVec 8 × Word)) : Stop :=
  let g := curPer s
  let open' := if !trapContained s then [] else ((own.filter fun p => p.2.1 == Cause.rescued).filterMap fun p => rescuedOf s g (named p.1)).foldl
    (fun l p => if l.contains p then l else l ++ [p]) []
  if open'.all (fun p => actReady s g p.1 p.2) && (open'.isEmpty || arbiterFree s g (open'.headD (0, 0)).1 open'.length) then
    .banksAfter (refdueSaid (logMismatch (reopenAll s g open') own) own) own
  else .wait s false

/-- What the banks report before a row instruction: RESCUED of a named register, then REFDUE, then the instruction's own checks, each in the
banks that perform it, REFDUE in all of them (R458, R481). [DEDUCED, log 21] -/
def rowOwn (s : State) (named : Nat → List (Nat × Nat)) (check : Nat → RowFault) : List (Nat × BitVec 8 × Word) :=
  withRefdue s (fun b => if (rowBanks s).contains b then rescuedFault s (curPer s) (named b) else none) check

/-- A check of the performing banks only. -/
def performing (s : State) (check : Nat → RowFault) (b : Nat) : RowFault := if (rowBanks s).contains b then check b else none

/-- A row instruction: it waits while a forced refresh of a named SAG runs (R482); then every performing bank checks before any performs; then
it waits until every bank's interlocks permit it, checks the contents that the waits have settled (R475, R488), and the banks perform it (R41,
R236, R453). [DEDUCED, log 36] -/
def rowInstr (named : Nat → List (Nat × Nat)) (check : Nat → RowFault) (ready : Nat → Bool) (content : Nat → RowFault) (run : State → M State)
    (s : State) : M State :=
  let g := curPer s
  let own := rowOwn s named (performing s check)
  let late := rowOwn s named (performing s content)
  if !(rowBanks s).all (fun b => unforced s g (named b)) then .error (.wait s false)
  else if !own.isEmpty then .error (rowTrap s named own)
  else if !(rowBanks s).all ready then .error (.wait s false)
  else if !late.isEmpty then .error (rowTrap s named late)
  else run s

/-! ## Lane work (R231, R233) -/

/-- The interlocks of a lane instruction in one bank. [DEDUCED, log 36] -/
def laneReady (s : State) (g b : Nat) (u : RowUse) : Bool :=
  let now := rcOf s g
  decide ((bankOf s g b).laneFree ≤ now) &&
  (u.reads b).all (fun p => (regOf s g p.1 p.2).st == .opened) &&
  u.writes.all fun n =>
    let r := regOf s g b n
    r.st == .opened && r.restored && r.wbEnd.isNone && decide (r.readEnd ≤ now)

/-- The marks of a lane instruction that takes `time` rc from now on: its sources are read, its destinations BUSY (R231, R233). `t` holds
the destinations' new contents, `s` the old. -/
def laneMark (s t : State) (i : Instr) (g b time : Nat) (u : RowUse) : State :=
  let now := rcOf s g
  let t1 := (u.reads b).foldl (fun t p => modReg t g p.1 p.2 fun r => { r with readEnd := Nat.max r.readEnd (now + time) }) t
  modBank t1 g b fun k =>
    { u.writes.foldl (fun k n => k.modReg n fun r =>
        { r with st := .busy, busyEnd := now + time + 6,
                 busyDirty := decide (r.data ≠ (regOf s g b n).data) }) k with
      laneFree := now + time, laneInstr := instrWord i, laneFrom := now, laneReads := ((u.reads b).filter fun p => p.1 == b).map (·.2),
      laneWrites := u.writes, nflagsAt := now + time + 6, nflagsWas := (hartOf s (bankId g b)).nflags,
      flagsWas := (hartOf s (bankId g b)).flags }

/-- The flags that a lane instruction raises, by the element groups that enter in its rc: `l` gives those of its elements in order (R437). -/
def noteGroups (t : State) (g b time : Nat) (l : List Flg) : State :=
  let n := (l.length + time - 1) / time
  modBank t g b fun k => { k with laneFlags := (List.range time).map fun j => ((l.drop (n * j)).take n).foldl (· ||| ·) 0 }

/-- A lane instruction: `field` are its checks before those of the register states, `late` those of contents, `more` what it waits for besides,
`time` its rc, `run` its effect in a bank, from the state before it. -/
def laneInstrIf (more : Nat → Bool) (i : Instr) (use : Nat → RowUse) (field late : Nat → RowFault) (time : Nat → Nat)
    (run : State → State → Nat → State) (s : State) : M State :=
  let g := curPer s
  rowInstr (fun b => (use b).named b)
    (fun b => orFault (field b) (closedFault s g ((use b).named b)))
    (fun b => laneReady s g b (use b) && more b) late
    (fun s => ok (advance ((rowBanks s).foldl (fun t b =>
      laneMark s (run s (modBank t g b fun k => { k with laneFlags := [] }) b) i g b (time b) (use b)) s))) s

/-- A lane instruction that waits for nothing besides. -/
def laneInstr (i : Instr) (use : Nat → RowUse) (field late : Nat → RowFault) (time : Nat → Nat) (run : State → State → Nat → State)
    (s : State) : M State := laneInstrIf (fun _ => true) i use field late time run s

/-! ## DUAL pairs: what a register holds for both (R487, R488) -/

/-- Segment `k` of a row. -/
def segOf (r : Row) (k : Nat) : Nat := elemNat 512 k r.toNat

/-- How segment `k` of register `n` is settled in the pair of bank `b`: the segment's bits, and whether it had to be; `none` where all three
results differ (R488). The check lanes' result is the second bank's but where `check` holds another. [DEDUCED, log 40] -/
def settleSeg (p q : RowReg) (k : Nat) : Option (Nat × Bool) :=
  let a := segOf p.data k
  let c := segOf q.data k
  let third := ((q.check.lookup k).map (·.toNat)).getD c
  if p.poison.getLsbD k && q.poison.getLsbD k then some (c, false)
  else if p.poison.getLsbD k then some (c, true)
  else if q.poison.getLsbD k then some (a, true)
  else if a = c then some (a, false)
  else if third = a then some (a, true)
  else if third = c then some (c, true)
  else none

/-- The registers of a pair hold the same. -/
def pairAgrees (p q : RowReg) : Bool := p.data == q.data && p.poison == q.poison

/-- All three results of some segment differ (R488). [DEDUCED, log 40] -/
def pairMismatch (s : State) (g b n : Nat) : RowFault :=
  let p := regOf s g (b % 4) n
  let q := regOf s g (b % 4 + 4) n
  faultIf ((perOf s g).dual && !pairAgrees p q && (List.range 128).any fun k => (settleSeg p q k).isNone) Cause.dupmismatch
    (BitVec.ofNat 64 (regCoord g b n (regOf s g b n)))

/-- Before WB, WBPRE, ROUT and SHRX both registers of a pair take the settled contents; a register that this changes is DIRTY, since its cells
take them too (R488). [DEDUCED, log 40] -/
def settlePair (s : State) (g b n : Nat) : State :=
  let p := regOf s g (b % 4) n
  let q := regOf s g (b % 4 + 4) n
  if !(perOf s g).dual || pairAgrees p q then s
  else
    let l := (List.range 128).map fun k => (settleSeg p q k).getD (segOf q.data k, false)
    let data := BitVec.ofNat 65536 (packElems 512 (l.map (·.1)))
    let put (t : State) (c : Nat) : State := modReg t g c n fun r =>
      { r with data := data, poison := p.poison &&& q.poison, check := [], dirty := r.dirty || r.data != data || r.poison != p.poison &&& q.poison }
    let segs := maskOf ((List.range 128).filter fun k => ((l.getD k (0, false)).2))
    logRow (put (put s (b % 4)) (b % 4 + 4)) g (b % 4) 0x0B (8 * p.row.toNat + n) segs 0

/-- The segments of register `n` that count as poisoned: in a pair, those poisoned in both banks (R475, R488). -/
def settledPoison (s : State) (g b n : Nat) : BitVec 128 :=
  if (perOf s g).dual then (regOf s g (b % 4) n).poison &&& (regOf s g (b % 4 + 4) n).poison else (regOf s g b n).poison

/-- UE of a register that may not leave poisoned (R475). [DESIGN CHOICE, log 38] -/
def poisonFault (s : State) (g b n : Nat) : RowFault :=
  let m := settledPoison s g b n
  faultIf (m != 0) Cause.ue (ueInfo (regCoord g b n (regOf s g b n)) (lowSeg m))

/-- What keeps a register from leaving: its poison, then the pair's third result (R475, R488). -/
def leaveFault (s : State) (g b n : Nat) : RowFault := orFault (poisonFault s g b n) (pairMismatch s g b n)

/-- The banks of a gang or pair that act for themselves: under a DUAL lease the pair acts once (R488). -/
def onceBanks (s : State) : List Nat := if (perOf s (curPer s)).dual then (rowBanks s).filter (· < 4) else rowBanks s

/-! ## ACT (R231, R232, R239) -/

/-- The row that ACT names in a bank. -/
def actRow (s : State) (g b : Nat) (f : FmtW) : Word := (hartOf s (bankId g b)).opnd f.sa

/-- The checks of R239, then ROWOPEN. -/
def actCheck (s : State) (g : Nat) (f : FmtW) (b : Nat) : RowFault :=
  let v := actRow s g b f
  let own := rowCoord g b 0 / 2 ^ 13
  let field := (v.extractLsb' 13 14).toNat
  let r := (v.extractLsb' 0 13).toNat
  let n := f.od.toNat
  let q := regOf s g b n
  let info := BitVec.ofNat 64 (n + 8 * (r / 8) + 2 ^ 13 * (r % 8))
  orFault (faultIf (v.extractLsb' 27 37 != 0 || (field != 0 && field != own)) Cause.rowlease v)
    (orFault (faultIf (decide (6144 ≤ r)) Cause.rowlease (BitVec.ofNat 64 (8192 * own + r)))
      (orFault (faultIf (r % 8 != n) Cause.rowsag info)
        (orFault (faultIf (decide (6136 ≤ r)) Cause.prot (BitVec.ofNat 64 (rowCoord g b r)))
          (faultIf (q.st != .closed && q.st != .rescued && !(match q.wbEnd with
            | some (_, c) => c
            | none => false)) Cause.rowopen info))))

/-- The banks that ACT activates together: one, or a DUAL pair (R41, R487). -/
def actGroup (s : State) (g b : Nat) : List Nat := if (perOf s g).dual then [b % 4, b % 4 + 4] else [b]

/-- The banks of an ACT, in the order of their activations. -/
def actOrder (s : State) : List Nat := onceBanks s

/-- ACT's activation in one bank or pair. -/
def actOne (f : FmtW) (g b : Nat) (s : State) : State :=
  (actGroup s g b).foldl (fun t c => activate (noteAct t g c 0) g c f.od.toNat ((actRow s g c f).extractLsb' 0 13).toNat (rcOf s g)) s

/-- The next activation of an ACT, in ascending bank order, one per rc, the first once every enabled bank permits it; with the last the gang
goes on (R41). A bank whose register WBPRE is about to close waits for it. -/
def act (f : FmtW) (s : State) : M State :=
  let g := curPer s
  let done := (perOf s g).actDone
  let named (b : Nat) : List (Nat × Nat) := [(b, f.od.toNat)]
  let ready (c : Nat) : Bool := actReady s g c f.od.toNat && (regOf s g c f.od.toNat).st == .closed
  let go (s : State) : M State :=
    match (actOrder s)[done]? with
    | none => ok (advance (modPer s g fun p => { p with actDone := 0 }))
    | some b =>
      if (actGroup s g b).all ready && arbiterFree s g b (actGroup s g b).length then
        let t := actOne f g b s
        if done + 1 < (actOrder s).length then ok (modPer t g fun p => { p with actDone := done + 1 })
        else ok (advance (modPer t g fun p => { p with actDone := 0 }))
      else .error (.wait s false)
  if done = 0 then rowInstr named (actCheck s g f) ready noFault go s else go s

/-- ACT (R239). -/
def execAct (f : FmtW) (s : State) : Result := perform (.act f) s (act f)

/-! ## PRE, WB, WBPRE (R231, R240) -/

/-- The register becomes CLOSED, its contents discarded; tRP starts (R231). -/
def closeReg (s : State) (g b n : Nat) : State :=
  modBank s g b fun k => (k.modReg n RowReg.closed).modSag n fun t => t.closedAt (rcOf s g)

/-- PRE's interlocks: a CLOSED register needs none. -/
def preReady (s : State) (g b n : Nat) : Bool :=
  let r := regOf s g b n
  r.st == .closed || (r.st == .opened && r.restored && r.wbEnd.isNone && decide (r.readEnd ≤ rcOf s g))

def pre (f : FmtW) (s : State) : M State :=
  let g := curPer s
  let n := f.od.toNat
  rowInstr (fun b => [(b, n)]) noFault (fun b => preReady s g b n) noFault
    (fun s => ok (advance ((rowBanks s).foldl (fun t b => if (regOf t g b n).st = .closed then t else closeReg t g b n) s))) s

/-- PRE (R231, R240). -/
def execPre (f : FmtW) (s : State) : Result := perform (.pre f) s (pre f)

/-- The interlocks of WB and WBPRE: RESTORED, no write-back running, and 1 rc since the register left BUSY (R231, R232). -/
def wbReady (s : State) (g b n : Nat) : Bool :=
  let r := regOf s g b n
  r.st == .opened && r.restored && r.wbEnd.isNone && decide (r.freeAt = 0 ∨ r.freeAt + 1 ≤ rcOf s g)

/-- WB and WBPRE: the write-back runs for tWB; WRITEBACK_END writes the cells (R231). [DEDUCED, log 36] -/
def writeBack (f : FmtW) (close : Bool) (s : State) : M State :=
  let g := curPer s
  let n := f.od.toNat
  rowInstr (fun b => [(b, n)]) (fun b => closedFault s g [(b, n)]) (fun b => wbReady s g b n) (fun b => leaveFault s g b n)
    (fun s => ok (advance ((rowBanks s).foldl (fun t b =>
      modReg (settlePair t g b n) g b n fun r => { r with wbEnd := some (rcOf s g + 12, close) }) s))) s

/-- WB (R231, R240). -/
def execWb (f : FmtW) (s : State) : Result := perform (.wb f) s (writeBack f false)
/-- WBPRE (R231, R240). -/
def execWbpre (f : FmtW) (s : State) : Result := perform (.wbpre f) s (writeBack f true)

/-! ## REF, REFQ, RCOPY (R241-R243) -/

/-- One count of debt paid by a REF. -/
def Sag.refresh (t : Sag) (now : Nat) : Sag :=
  { t with debt := t.debt - 1, due := t.due && decide (6 ≤ t.debt - 1), nextRow := (t.nextRow + 6) % 768, refEnd := now + 90 }

/-- REF: ROWOPEN with an open register, unless WBPRE is closing it (R231, R241). -/
def ref (f : FmtW) (s : State) : M State :=
  let g := curPer s
  let n := f.od.toNat
  rowInstr (fun b => [(b, n)])
    (fun b =>
      let q := regOf s g b n
      faultIf (q.st != .closed && !(match q.wbEnd with
        | some (_, c) => c
        | none => false)) Cause.rowopen (rowInfo n q))
    (fun b =>
      let t := (bankOf s g b).sag n
      (regOf s g b n).st == .closed && decide (t.preEnd ≤ rcOf s g) && decide (t.refEnd ≤ rcOf s g)) noFault
    (fun s => ok (advance ((rowBanks s).foldl (fun t b => modSag t g b n fun x => x.refresh (rcOf s g)) s))) s

/-- REF (R241). -/
def execRef (f : FmtW) (s : State) : Result := perform (.ref f) s (ref f)

/-- The eight debts of a bank (R242). -/
def debts (k : Bank) : Word := BitVec.ofNat 64 (packElems 4 ((List.range 8).map fun n => (k.sag n).debt))

/-- REFQ (R242). -/
def execRefq (f : FmtW) (s : State) : Result :=
  perform (.refq f) s fun s =>
    ok (advance ((performers s).foldl (fun t id => modHart t id fun h =>
      h.dest f.sa (debts (bankOf s (perOfHart id) (bankOfHart id)))) s))

/-- A register's new contents; the check lanes' own results stand only where nothing was written. -/
def putReg (t : State) (g b n : Nat) (data : Row) (poison : BitVec 128) : State :=
  modReg t g b n fun r => { r with data := data, poison := poison, check := r.check.filter fun e => segOf r.data e.1 == segOf data e.1 }

/-- RCOPY (R243). -/
def rcopy (f : FmtW) (s : State) : M State :=
  let g := curPer s
  laneInstr (.rcopy f) (fun b => { oa := some (b, f.oa.toNat), od := some f.od.toNat })
    (fun _ => faultIf (f.od == f.oa) Cause.reservedField (instrWord (.rcopy f))) noFault (fun _ => 64)
    (fun s t b => putReg t g b f.od.toNat (regOf s g b f.oa.toNat).data (regOf s g b f.oa.toNat).poison) s

/-- RCOPY (R243). -/
def execRcopy (f : FmtW) (s : State) : Result := perform (.rcopy f) s (rcopy f)

end Sys2Proof.Machine
end

