-- ==== Sys2Proof/Machine/RowArith.lean ====
section
/-! DEFINITION. Major 0x41: elementwise arithmetic, compare, select and conversion of rows (R234, R237, R238, R244-R247, R474, R475). -/
namespace Sys2Proof.Machine

/-! ## Formats, elements and poison -/

/-- The effective format of an instruction in a bank (R152). -/
def rowEff (s : State) (g : Nat) (f : FmtW) (b : Nat) : Eff := effOf f.type.toNat (bankOf s g b).rtype

/-- Neither grouped nor the LUT's code 11 (R140, R237). -/
def rowPlain (F : Eff) : Bool := !codeGrouped F.code F.blk && F.code != 11

/-- RESERVED-FIELD unless the condition holds. -/
def fieldFault (i : Instr) (ok : Bool) : RowFault := faultIf (!ok) Cause.reservedField (instrWord i)

/-- XM writes neither the destination nor a source that is not the mask itself (R238). -/
def maskFree (f : FmtW) (srcs : List (BitVec 3)) : Bool := !f.xm || (f.masko != f.od && !srcs.contains f.masko)

/-- The lane time of the add class and of the multiply class at a width (R234). -/
def addTime : Nat := 64
def mulTime (w : Nat) : Nat := if w = 32 then 256 else 128

/-- Which elements of `n` at width `w` lie in poisoned segments (R474). -/
def poisonList (w n : Nat) (p : BitVec 128) : List Bool :=
  if p = 0 then List.replicate n false else (List.range n).map fun e => p.getLsbD (e * w / 512)

/-- The segment bits of a destination after its written elements (`some` poisoned or not) and those left alone: the OR of the written ones,
and the old bit where some element was left (R474). -/
def segPoison (w : Nat) (old : BitVec 128) (l : List (Option Bool)) : BitVec 128 :=
  if old = 0 && l.all (· != some true) then 0
  else
    let seg (p : Option Bool → Bool) : BitVec 128 :=
      maskOf ((((List.range l.length).zip l).filter fun e => p e.2).map fun e => e.1 * w / 512)
    seg (· == some true) ||| (old &&& seg (·.isNone))

/-- The results that set flags and exception-mask elements: those of unpoisoned elements. -/
def cleanOf (r : List (Option Elem)) (pz : List Bool) : List (Option Elem) :=
  r.zipWith (fun x p => if p then none else x) pz

/-- A pass of `time` rc written to od of bank `b`, with the exception mask and NFLAGS. `w` is the destination's width. -/
def rowFinish (f : FmtW) (time w : Nat) (r : List (Option Elem)) (pz : List Bool) (s t : State) (g b : Nat) : State :=
  let n := 65536 / w
  let od := regOf s g b f.od.toNat
  let mo := regOf s g b f.masko.toNat
  let clean := cleanOf r pz
  let t1 := putReg t g b f.od.toNat (ofRowElems w (mergeElems (rowElems w od.data) r))
    (segPoison w od.poison (r.zipWith (fun x p => x.map fun _ => p) (pz ++ List.replicate (n - pz.length) false)))
  let t2 := if f.xm then putReg t1 g b f.masko.toNat (ofRowElems w (maskElems w (rowElems w mo.data) clean))
    (segPoison w mo.poison (clean.map fun x => x.map fun _ => false)) else t1
  noteGroups (modHart t2 (bankId g b) fun h => h.raise (flagsOf clean)) g b time (clean.map fun x => flagsOf [x])

/-- The mask's elements of a masked instruction. -/
def rowMask (s : State) (g b : Nat) (f : FmtW) (w : Nat) : Option (List Nat) :=
  if f.masken then some (rowElems w (regOf s g b f.masko.toNat).data) else none

/-- The poison that the mask brings to every element. -/
def maskPoison (s : State) (g b : Nat) (f : FmtW) : BitVec 128 := if f.masken then (regOf s g b f.masko.toNat).poison else 0

/-! ## Elementwise instructions (R238, R244) -/

/-- The registers of an elementwise instruction of major 0x41. -/
def elemUse (f : FmtW) (ob fused : Bool) (b : Nat) : RowUse :=
  { oa := some (b, f.oa.toNat), ob := if ob then some f.ob.toNat else none, od := some f.od.toNat,
    mo := if f.masken || f.xm then some f.masko.toNat else none, odRead := fused, moRead := f.masken, moWrite := f.xm }

/-- One elementwise instruction: its format checks, and an operation on each active element from a, b, the old d and the bank's hart. -/
def rowElementwise (i : Instr) (f : FmtW) (ob fused : Bool) (mul : Bool) (extra : Nat → Eff → RowFault)
    (op : Hart → Nat → Nat → Nat → Nat → Elem) (s : State) : M State :=
  let g := curPer s
  laneInstr i (elemUse f ob fused)
    (fun b => orFault (fieldFault i (rowPlain (rowEff s g f b) && maskFree f (if ob then [f.oa, f.ob] else [f.oa])))
      (extra b (rowEff s g f b)))
    noFault (fun b => if mul then mulTime (codeWidth (rowEff s g f b).code) else addTime)
    (fun s t b =>
      let c := (rowEff s g f b).code
      let w := codeWidth c
      let a := regOf s g b f.oa.toNat
      let o := regOf s g b f.ob.toNat
      let d := regOf s g b f.od.toNat
      let pz := a.poison ||| (if ob then o.poison else 0) ||| (if fused then d.poison else 0) ||| maskPoison s g b f
      rowFinish f (if mul then mulTime w else addTime) w
        (elemPass (op (hartOf s (bankId g b)) c) (activeList 0 (rowMax c) (rowMask s g b f w) (rowMax c)) (rowElems w a.data)
          (if ob then rowElems w o.data else rowElems w a.data) (rowElems w d.data))
        (poisonList w (rowMax c) pz) s t g b) s

def noExtra (_ : Nat) (_ : Eff) : RowFault := none
def rmW (f : FmtW) : Nat := f.rm.toNat

/-- RADD: a + b (R244). -/
def execRadd (f : FmtW) (s : State) : Result :=
  perform (.radd f) s (rowElementwise (.radd f) f true false false noExtra fun _ c a b _ => eAdd c (rmW f) f.sat a b)
/-- RSUB: a - b (R244). -/
def execRsub (f : FmtW) (s : State) : Result :=
  perform (.rsub f) s (rowElementwise (.rsub f) f true false false noExtra fun _ c a b _ => eSub c (rmW f) f.sat a b)
/-- RMUL: a * b (R244). -/
def execRmul (f : FmtW) (s : State) : Result :=
  perform (.rmul f) s (rowElementwise (.rmul f) f true false true noExtra fun _ c a b _ => eMul c (rmW f) f.sat a b)
/-- RFMA: a * b + d, one rounding (R244). -/
def execRfma (f : FmtW) (s : State) : Result :=
  perform (.rfma f) s (rowElementwise (.rfma f) f true true true noExtra fun _ c a b d => eFma c (rmW f) f.sat a b d)
/-- RMIN: minimum, floating by R158 (R244). -/
def execRmin (f : FmtW) (s : State) : Result :=
  perform (.rmin f) s (rowElementwise (.rmin f) f true false false noExtra fun _ c a b _ => eMinMax c false a b)
/-- RMAX: maximum, floating by R158 (R244). -/
def execRmax (f : FmtW) (s : State) : Result :=
  perform (.rmax f) s (rowElementwise (.rmax f) f true false false noExtra fun _ c a b _ => eMinMax c true a b)
/-- RAND: bitwise and (R244). -/
def execRand (f : FmtW) (s : State) : Result :=
  perform (.rand f) s (rowElementwise (.rand f) f true false false noExtra fun _ _ a b _ => ⟨a &&& b, 0⟩)
/-- RBOR: bitwise or (R244). -/
def execRbor (f : FmtW) (s : State) : Result :=
  perform (.rbor f) s (rowElementwise (.rbor f) f true false false noExtra fun _ _ a b _ => ⟨a ||| b, 0⟩)
/-- RXOR: bitwise exclusive-or (R244). -/
def execRxor (f : FmtW) (s : State) : Result :=
  perform (.rxor f) s (rowElementwise (.rxor f) f true false false noExtra fun _ _ a b _ => ⟨a ^^^ b, 0⟩)

/-- RSHR's checks: IMM6 below the element width, then an integer format (R244, R458). -/
def rshrCheck (f : FmtW) (_ : Nat) (F : Eff) : RowFault :=
  orFault (fieldFault (.rshr f) (decide (f.imm6.toNat < codeWidth F.code))) (faultIf (codeFloat F.code) Cause.illegal (instrWord (.rshr f)))

/-- RSHR: a / 2^IMM6 rounded under RM, on signed or unsigned values; no flag (R244). -/
def execRshr (f : FmtW) (s : State) : Result :=
  perform (.rshr f) s (rowElementwise (.rshr f) f false false false (rshrCheck f) fun _ c a _ _ =>
    ⟨intBits (codeWidth c) (roundShift (rmW f) (intVal c a) f.imm6.toNat), 0⟩)

/-- RSCL's result: s * a + b with one rounding, s from x[SA] (R244). -/
def rsclElem (f : FmtW) (h : Hart) (c a b : Nat) : Elem :=
  let x := h.opnd f.sa
  if codeFloat c then
    (fmaNum (rmW f) (f32.decode (x.extractLsb' 0 32).toNat) ((fltOf c).decode a) ((fltOf c).decode b)).round (fltOf c) (rmW f)
  else intResult c f.sat (x.toInt * intVal c a + intVal c b)

/-- RSCL (R244). -/
def execRscl (f : FmtW) (s : State) : Result :=
  perform (.rscl f) s (rowElementwise (.rscl f) f true false true noExtra fun h c a b _ => rsclElem f h c a b)

/-! ## RCMP and RSEL (R245, R246) -/

/-- The active elements of RCMP's format in a bank. -/
def rcmpActive (s : State) (g : Nat) (f : FmtW) (b : Nat) : List Bool :=
  let c := (rowEff s g f b).code
  activeList 0 (rowMax c) (rowMask s g b f (codeWidth c)) (rowMax c)

/-- Some active element of a register is poisoned. -/
def activePoison (s : State) (g : Nat) (f : FmtW) (b n : Nat) : Bool :=
  let q := regOf s g b n
  let w := codeWidth (rowEff s g f b).code
  q.poison != 0 && ((List.range (65536 / w)).zip (rcmpActive s g f b)).any fun e => e.2 && q.poison.getLsbD (e.1 * w / 512)

/-- RCMP reads no poisoned element: UE with the register's lowest poisoned segment, in the order OA, OB, MASKO (R475). [DESIGN CHOICE, log 38] -/
def rcmpPoison (s : State) (g : Nat) (f : FmtW) (b : Nat) : RowFault :=
  let at' (n : Nat) (bad : Bool) : RowFault :=
    faultIf bad Cause.ue (ueInfo (regCoord g b n (regOf s g b n)) (lowSeg (regOf s g b n).poison))
  orFault (at' f.oa.toNat (activePoison s g f b f.oa.toNat))
    (orFault (at' f.ob.toNat (activePoison s g f b f.ob.toNat)) (at' f.masko.toNat (maskPoison s g b f != 0)))

/-- RCMP: 1 or 0 in each active element, and FLAGS.STATE of the bank (R208, R245). -/
def rcmp (f : FmtW) (s : State) : M State :=
  let g := curPer s
  laneInstr (.rcmp f) (elemUse f true false)
    (fun b => fieldFault (.rcmp f) (rowPlain (rowEff s g f b) && maskFree f [f.oa, f.ob] && decide (f.imm6.toNat < 6)))
    (rcmpPoison s g f) (fun _ => addTime)
    (fun s t b =>
      let c := (rowEff s g f b).code
      let w := codeWidth c
      let r := elemPass (fun a o _ => let x := eCmp c f.imm6.toNat a o; ⟨if x.1 then 1 else 0, x.2⟩) (rcmpActive s g f b)
        (rowElems w (regOf s g b f.oa.toNat).data) (rowElems w (regOf s g b f.ob.toNat).data) (rowElems w (regOf s g b f.od.toNat).data)
      let t1 := rowFinish f addTime w r (poisonList w (rowMax c) 0) s t g b
      let fl := cmpState (r.filterMap fun x => x.map fun y => y.val == 1)
      modBank (modHart t1 (bankId g b) fun h => { h with flags := fl }) g b fun k => { k with flagsAt := rcOf s g + addTime + 6, cmpOut := fl }) s

/-- RCMP (R245). -/
def execRcmp (f : FmtW) (s : State) : Result := perform (.rcmp f) s (rcmp f)

/-- RSEL: a or b by bit 0 of MASKO, bits copied, no flag (R246). -/
def rsel (f : FmtW) (s : State) : M State :=
  let g := curPer s
  laneInstr (.rsel f)
    (fun b => { oa := some (b, f.oa.toNat), ob := some f.ob.toNat, od := some f.od.toNat, mo := some f.masko.toNat, moRead := true })
    (fun b => fieldFault (.rsel f) (rowPlain (rowEff s g f b))) noFault (fun _ => addTime)
    (fun s t b =>
      let c := (rowEff s g f b).code
      let w := codeWidth c
      let n := rowMax c
      let a := regOf s g b f.oa.toNat
      let o := regOf s g b f.ob.toNat
      let m := regOf s g b f.masko.toNat
      let r := elemPass (fun x y z => ⟨if z % 2 = 1 then x else y, 0⟩) (List.replicate n true) (rowElems w a.data) (rowElems w o.data)
        (rowElems w m.data)
      putReg t g b f.od.toNat (ofRowElems w (mergeElems (rowElems w (regOf s g b f.od.toNat).data) r)) (a.poison ||| o.poison ||| m.poison)) s

/-- RSEL (R246). -/
def execRsel (f : FmtW) (s : State) : Result := perform (.rsel f) s (rsel f)

/-! ## RCVT (R247) -/

/-- What RCVT converts, from rtype, TYPE and IMM6. -/
structure RowCvt where
  src : Nat
  dst : Nat
  blk : Nat
  part : Nat
  fn : Nat
  deriving DecidableEq, Repr

def rowCvtOf (s : State) (g : Nat) (f : FmtW) (b : Nat) : RowCvt :=
  let t := (bankOf s g b).rtype
  { src := typeFmt t, dst := f.type.toNat, blk := typeBlk t, part := (f.imm6.extractLsb' 0 3).toNat, fn := (f.imm6.extractLsb' 3 3).toNat }

def RowCvt.srcGrouped (v : RowCvt) : Bool := codeGrouped v.src v.blk
def RowCvt.dstGrouped (v : RowCvt) : Bool := v.dst == 1 || v.dst == 3 || ((v.dst == 2 || v.dst == 4) && v.blk != 0 && !v.srcGrouped)
/-- The number of elements converted. -/
def RowCvt.count (v : RowCvt) : Nat := Nat.min (rowMax v.src) (rowMax v.dst)
def RowCvt.srcAt (v : RowCvt) (i : Nat) : Nat := if rowMax v.dst < rowMax v.src then v.part * v.count + i else i
def RowCvt.dstAt (v : RowCvt) (i : Nat) : Nat := if rowMax v.dst < rowMax v.src then i else v.part * v.count + i

/-- RCVT's field rules. -/
def RowCvt.ok (v : RowCvt) : Bool :=
  v.dst != 0 && v.dst != 11 && v.src != 11 && decide (v.fn < 2) && (v.fn == 0 || (codeFloat v.src && codeFloat v.dst)) &&
  !((v.dst == 1 || v.dst == 3) && (v.blk == 0 || v.srcGrouped)) &&
  decide ((v.part + 1) * v.count ≤ Nat.max (rowMax v.src) (rowMax v.dst))

/-- Entry `k` of sf. -/
def Bank.scale (k : Bank) (n : Nat) : Nat := elemNat 24 n k.sf.toNat

/-- One converted element. -/
def RowCvt.elem (v : RowCvt) (f : FmtW) (k : Bank) (i b : Nat) : Elem :=
  if v.fn = 1 then convExp2 v.src v.dst (rmW f) b
  else convTo v.src v.dst (rmW f) f.sat v.srcGrouped v.dstGrouped b (k.scale (v.srcAt i / 2 ^ blkLog v.blk)) (k.scale (v.dstAt i / 2 ^ blkLog v.blk))

/-- A converted element that reads poison: its source, its mask element or a scale entry (R474). -/
def RowCvt.poisoned (v : RowCvt) (k : Bank) (oa mo : BitVec 128) (i : Nat) : Bool :=
  oa.getLsbD (v.srcAt i * codeWidth v.src / 512) || mo.getLsbD (v.dstAt i * codeWidth v.dst / 512) ||
  (v.srcGrouped && k.sfPoison.getLsbD (v.srcAt i / 2 ^ blkLog v.blk)) || (v.dstGrouped && k.sfPoison.getLsbD (v.dstAt i / 2 ^ blkLog v.blk))

/-- RCVT's pass over the destination's elements: a part of them is converted. -/
def rowCvtPass (v : RowCvt) (f : FmtW) (k : Bank) (src : Row) (mask : Option (List Nat)) : List (Option Elem) :=
  let lo := v.dstAt 0
  let act := activeList lo (lo + v.count) mask (rowMax v.dst)
  let els := ((rowElems (codeWidth v.src) src).drop (v.srcAt 0)).take v.count
  let all := List.replicate lo 0 ++ els ++ List.replicate (rowMax v.dst - lo - v.count) 0
  ((List.range (rowMax v.dst)).zip (act.zip all)).map fun e => if e.2.1 then some (v.elem f k (e.1 - lo) e.2.2) else none

/-- RCVT's time: that of the wider format (R234). -/
def RowCvt.time (v : RowCvt) : Nat := mulTime (Nat.max (codeWidth v.src) (codeWidth v.dst))

/-- RCVT. An LDSC before it holds the lanes for 64 rc, so that every entry of sf is there when its element enters (R233). -/
def rcvt (f : FmtW) (s : State) : M State :=
  let g := curPer s
  laneInstr (.rcvt f) (elemUse f false false)
    (fun b => fieldFault (.rcvt f) ((rowCvtOf s g f b).ok && maskFree f [f.oa])) noFault (fun b => (rowCvtOf s g f b).time)
    (fun s t b =>
      let v := rowCvtOf s g f b
      let k := bankOf s g b
      let w := codeWidth v.dst
      let a := regOf s g b f.oa.toNat
      let lo := v.dstAt 0
      let pz := (List.range (rowMax v.dst)).map fun e => v.poisoned k a.poison (maskPoison s g b f) (e - lo)
      let r := rowCvtPass v f k a.data (rowMask s g b f w)
      noteGroups (rowFinish f v.time w r pz s t g b) g b v.time ((((cleanOf r pz).drop lo).take v.count).map fun x => flagsOf [x])) s

/-- RCVT (R247). -/
def execRcvt (f : FmtW) (s : State) : Result := perform (.rcvt f) s (rcvt f)

end Sys2Proof.Machine
end

