-- ==== Sys2Proof/Machine/RowLut.lean ====
section
/-! DEFINITION. Major 0x42: the LUT latch, scale entries and accumulator latches (R248-R254, R474, R488). -/
namespace Sys2Proof.Machine

/-! ## LDLUT and LDSC (R248, R249) -/

/-- LDLUT: the whole latch from a row; a table is one segment. -/
def ldlut (f : FmtW) (s : State) : M State :=
  let g := curPer s
  laneInstr (.ldlut f) (fun b => { oa := some (b, f.oa.toNat) }) noFault noFault (fun _ => addTime)
    (fun s t b =>
      let a := regOf s g b f.oa.toNat
      modBank t g b fun k => { k with lut := a.data, lutPoison := a.poison, lutAt := rcOf s g + addTime + 6 }) s

/-- LDLUT (R248). -/
def execLdlut (f : FmtW) (s : State) : Result := perform (.ldlut f) s (ldlut f)

/-- The word of the row that sf entry `k` takes. -/
def ldscWord (a b : Word) (k : Nat) : Nat := (a.toNat + k * b.toNat) % 2048

/-- LDSC: 512 entries of 24 bits gathered from the row's words. -/
def ldsc (f : FmtW) (s : State) : M State :=
  let g := curPer s
  laneInstr (.ldsc f) (fun b => { oa := some (b, f.oa.toNat) }) noFault noFault (fun _ => addTime)
    (fun s t b =>
      let h := hartOf s (bankId g b)
      let r := regOf s g b f.oa.toNat
      let at' := (List.range 512).map (ldscWord (h.opnd f.sa) (h.opnd f.sb))
      modBank t g b fun k =>
        { k with sf := BitVec.ofNat 12288 (packElems 24 (at'.map fun w => rowElem 32 w r.data % 2 ^ 24)),
                 sfPoison := BitVec.ofNat 512 (packElems 1 (at'.map fun w => b2n (r.poison.getLsbD (w / 16)))),
                 sfAt := rcOf s g + addTime + 6 }) s

/-- LDSC (R249). -/
def execLdsc (f : FmtW) (s : State) : Result := perform (.ldsc f) s (ldsc f)

/-! ## Accumulator latches -/

def latchOf (s : State) (g b q : Nat) : QLatch := (bankOf s g b).q.get {} q
/-- The check lanes' latch of the pair of bank `b`, kept with bank b + 4, whose registers they read (R487). -/
def checkOf (s : State) (g b q : Nat) : QLatch := (bankOf s g (b % 4 + 4)).check.get {} q

/-- The sums and group partials of a latch, lane by lane. -/
def QLatch.accs (q : QLatch) : List Nat := vElems 32 q.acc
def QLatch.parts (q : QLatch) : List Nat := vElems 32 q.p
def QLatch.marks (q : QLatch) : List Bool := (List.range 256).map fun i => q.poison.getLsbD i

/-- One lane of a latch at work: its sum, its group partial, its poison bit and the flags that it has set. -/
structure LaneAcc where
  acc : Nat
  p : Nat := 0
  pz : Bool := false
  fl : Flg := 0
  deriving DecidableEq, Repr

/-- Reading poison marks the lane; a poisoned lane sets no flag (R474). -/
def LaneAcc.read (a : LaneAcc) (bad : Bool) : LaneAcc := { a with pz := a.pz || bad }
def LaneAcc.raise (a : LaneAcc) (fl : Flg) : LaneAcc := if a.pz then a else { a with fl := a.fl ||| fl }

/-- A latch from its lanes. -/
def ofLanes (l : List LaneAcc) (j : Nat) (doneAt : Nat) : QLatch :=
  { acc := ofVElems 32 (l.map (·.acc)), p := ofVElems 32 (l.map (·.p)), j := BitVec.ofNat 7 j,
    poison := BitVec.ofNat 256 (packElems 1 (l.map fun a => b2n a.pz)), doneAt := doneAt }

/-- The states that a fold goes through, the last being its result. -/
def trail {α β : Type} (f : α → β → α) : α → List β → List α
  | _, [] => []
  | a, b :: l => f a b :: trail f (f a b) l

/-- The lanes of a latch before an instruction. -/
def QLatch.lanes (q : QLatch) : List LaneAcc :=
  (q.accs.zip (q.parts.zip q.marks)).map fun x => { acc := x.1, p := x.2.1, pz := x.2.2 }

/-- A latch that a later instruction may read (R233). -/
def latchReady (s : State) (g b q : Nat) : Bool := decide ((latchOf s g b q).doneAt ≤ rcOf s g)

/-- A latch instruction in a bank: `upd` gives the latch and the flags raised by each of its steps; under a DUAL lease the check lanes do the same work on the second
bank's registers (R487). [DEDUCED, log 57] -/
def latchRun (f : FmtW) (g time : Nat) (upd : State → Nat → QLatch → QLatch × List Flg) (s t : State) (b : Nat) : State :=
  let q := f.q.toNat
  let at' := rcOf s g + time + 6
  let r := upd s b (latchOf s g b q)
  let t1 := modBank t g b fun k =>
    { k with q := k.q.set {} q { r.1 with doneAt := at' },
             check := if (perOf s g).dual && decide (4 ≤ b) then
               k.check.set {} q { (upd s b (checkOf s g b q)).1 with doneAt := 0 } else k.check }
  noteGroups (modHart t1 (bankId g b) fun h => h.raise (r.2.foldl (· ||| ·) 0)) g b time r.2

/-! ## LUTDOT (R250) -/

/-- What every step of LUTDOT shares. -/
structure LutCfg where
  fmt : Nat
  /-- log2 of the group length; `none` in the direct form -/
  group : Option Nat
  half : Nat
  row : Row
  rowPoison : BitVec 128
  bank : Bank
  deriving DecidableEq, Repr

/-- T[t][c]. -/
def Bank.table (k : Bank) (t c : Nat) : Nat := rowElem 32 (16 * t + c) k.lut

/-- The end of a group in one lane: scale and zero point, and the partial starts again (R10, R250). -/
def lutGroup (v : LutCfg) (lg jl i : Nat) (a : LaneAcc) : LaneAcc :=
  let t := 64 * v.half + jl
  let first := (t + 129 - 2 ^ lg) % 128
  let e := ((jl >>> lg) <<< 8) + i
  let ent := v.bank.scale e
  let a1 := a.read (v.bank.lutPoison.getLsbD first || v.bank.sfPoison.getLsbD e)
  let z := (mulNum (numOfInt (if v.fmt = 1 then ((ent % 256 : Nat) : Int) else 0)) (f32.decode (v.bank.table first 0))).round f32 0
  let tt := (addNum 0 (f32.decode a.p) (f32.decode z.val).negate).round f32 0
  let r := (fmaNum 0 (f16.decode (entryScale ent)) (f32.decode tt.val) (f32.decode a.acc)).round f32 0
  { a1.raise (z.fl ||| tt.fl ||| r.fl) with acc := r.val, p := 0 }

/-- One step of LUTDOT in one lane; `j` counts the steps of the group before it. -/
def lutStep (v : LutCfg) (i : Nat) (x : LaneAcc × Nat) (jl : Nat) : LaneAcc × Nat :=
  let t := 64 * v.half + jl
  let code := rowElem 4 (256 * jl + i) v.row
  let skip := code == 0 && (v.group.isSome || v.fmt == 2)
  let e := if skip then 0 else v.bank.table t code
  let a := x.1.read (v.rowPoison.getLsbD (2 * jl + i / 128) || (!skip && v.bank.lutPoison.getLsbD t))
  match v.group with
  | none => let r := add32 a.acc e; ({ a.raise r.fl with acc := r.val }, x.2)
  | some lg =>
    let r := add32 a.p e
    let a1 := { a.raise r.fl with p := r.val }
    if x.2 + 1 = 2 ^ lg then (lutGroup v lg jl i a1, 0) else (a1, (x.2 + 1) % 128)

/-- LUTDOT over the 64 steps of a row, every lane independently. -/
def lutLatch (v : LutCfg) (q : QLatch) : QLatch × List Flg :=
  let r := ((List.range 256).zip q.lanes).map fun x => trail (lutStep v x.1) (x.2, q.j.toNat) (List.range 64)
  let last := r.map fun l => l.getLastD ({ acc := 0 }, 0)
  (ofLanes (last.map (·.1)) ((last.head?.map (·.2)).getD 0) 0,
    r.foldl (fun fl l => fl.zipWith (fun a x => a ||| x.1.fl) l) (List.replicate 64 0))

/-- LUTDOT's configuration in a bank. -/
def lutCfg (s : State) (g : Nat) (f : FmtW) (b : Nat) : LutCfg :=
  let k := bankOf s g b
  let c := (rowEff s g f b).code
  let blk := typeBlk k.rtype
  { fmt := c, group := if c = 11 ∨ blk = 0 then none else some (blkLog blk), half := f.imm6.toNat % 2,
    row := (k.reg f.oa.toNat).data, rowPoison := (k.reg f.oa.toNat).poison, bank := k }

/-- LUTDOT's formats (R250). -/
def lutOk (s : State) (g : Nat) (f : FmtW) (b : Nat) : Bool :=
  let c := (rowEff s g f b).code
  (c == 1 || c == 2 || c == 11) && !(c == 1 && typeBlk (bankOf s g b).rtype == 0)

/-- LUTDOT. An LDLUT or LDSC before it holds the lanes for 64 rc, so that each table and entry is there when its step comes (R233). [DESIGN CHOICE, log 38] -/
def lutdot (f : FmtW) (s : State) : M State :=
  let g := curPer s
  laneInstrIf (fun b => latchReady s g b f.q.toNat) (.lutdot f) (fun b => { oa := some (b, f.oa.toNat) })
    (fun b => fieldFault (.lutdot f) (lutOk s g f b)) noFault (fun _ => 64) (latchRun f g 64 fun s b q => lutLatch (lutCfg s g f b) q) s

/-- LUTDOT (R250). -/
def execLutdot (f : FmtW) (s : State) : Result := perform (.lutdot f) s (lutdot f)

/-! ## RDOT and RSUM (R251, R252) -/

/-- log2 of the segment length, and the ACCUM bit. -/
def segLog (f : FmtW) : Nat := f.imm6.toNat % 16
def accum (f : FmtW) : Bool := f.imm6.getLsbD 4
def columnMode (f : FmtW) : Bool := f.imm6.getLsbD 5

/-- RDOT's and RSUM's field rules: the format's kind, the segment length, then a floating format. -/
def dotCheck (i : Instr) (f : FmtW) (most : Nat) (extra : Bool) (F : Eff) : RowFault :=
  orFault (fieldFault i (rowPlain F && decide (4 ≤ segLog f) && decide (2 ^ segLog f ≤ rowMax F.code) && decide (segLog f ≤ most) && extra))
    (faultIf (!codeFloat F.code) Cause.illegal (instrWord i))

/-- One term of a sum: a * b + acc, or a + acc, rounded once to FP32 (R251, R252). -/
def dotTerm (c rm : Nat) (a : Nat × Bool) (b : Option (Nat × Bool)) (x : LaneAcc) : LaneAcc :=
  let r := match b with
    | some y => (fmaNum rm ((fltOf c).decode a.1) ((fltOf c).decode y.1) (f32.decode x.acc)).round f32 rm
    | none => (addNum rm (f32.decode x.acc) ((fltOf c).decode a.1)).round f32 rm
  let x1 := x.read (a.2 || (match b with
    | some y => y.2
    | none => false))
  { x1.raise r.fl with acc := r.val }

/-- The terms of one latch lane, in the order in which they are added. -/
abbrev Terms := List ((Nat × Bool) × Option (Nat × Bool))

/-- A chain of terms into a lane, from its sum or from +0: the lane after each term. -/
def dotChain (c rm : Nat) (acc : Bool) (l : Terms) (x : LaneAcc) : List LaneAcc :=
  trail (fun x t => dotTerm c rm t.1 t.2 x) { x with acc := if acc then x.acc else 0 } l

/-- The latch after chains into the lanes from `base` on, one after another, and the flags by terms (R251). -/
def dotLatch (c rm : Nat) (acc : Bool) (base : Nat) (chains : List Terms) (q : QLatch) : QLatch × List Flg :=
  let r := ((List.range chains.length).zip chains).foldl (fun (p : List LaneAcc × List Flg) x =>
    let m := (base + x.1) % 256
    let old := p.1.getD m { acc := 0 }
    let l := dotChain c rm acc x.2 old
    (p.1.set m (l.getLastD old), p.2 ++ l.map (·.fl))) (q.lanes, [])
  (ofLanes r.1 q.j.toNat 0, r.2)

/-- A register's elements with their poison. -/
def marked (s : State) (g b n w : Nat) : List (Nat × Bool) :=
  let r := regOf s g b n
  (rowElems w r.data).zip (poisonList w (65536 / w) r.poison)

/-- Consecutive segments of `n` elements. -/
def segments {α : Type} (n : Nat) : Nat → List α → List (List α)
  | 0, _ => []
  | k + 1, l => l.take n :: segments n k (l.drop n)

/-- RDOT's chains: segment s of oa against the query at the head of ob. -/
def rdotChains (s : State) (g b : Nat) (f : FmtW) (w : Nat) : List Terms :=
  let query := (marked s g b f.ob.toNat w).take (2 ^ segLog f)
  (segments (2 ^ segLog f) (65536 / w / 2 ^ segLog f) (marked s g b f.oa.toNat w)).map fun l => l.zip (query.map some)

/-- RSUM's chains: rows over each segment, or columns with the weights of ob. -/
def rsumChains (s : State) (g b : Nat) (f : FmtW) (w : Nat) : List Terms :=
  let segs := segments (2 ^ segLog f) (65536 / w / 2 ^ segLog f) (marked s g b f.oa.toNat w)
  if columnMode f then
    let wts := (marked s g b f.ob.toNat w).take segs.length
    (List.range (2 ^ segLog f)).map fun k => (segs.zip wts).map fun x => (x.1.getD k (0, false), some x.2)
  else segs.map fun l => l.map fun x => (x, none)

def rdot (f : FmtW) (s : State) : M State :=
  let g := curPer s
  let w (b : Nat) : Nat := codeWidth (rowEff s g f b).code
  laneInstrIf (fun b => !accum f || latchReady s g b f.q.toNat) (.rdot f) (fun b => { oa := some (b, f.oa.toNat), ob := some f.ob.toNat })
    (fun b => dotCheck (.rdot f) f 15 true (rowEff s g f b)) noFault (fun b => mulTime (w b))
    (fun s t b => latchRun f g (mulTime (w b)) (fun s b q =>
      dotLatch (rowEff s g f b).code (rmW f) (accum f) ((hartOf s (bankId g b)).opnd f.sa).toNat (rdotChains s g b f (w b)) q) s t b) s

/-- RDOT (R251). -/
def execRdot (f : FmtW) (s : State) : Result := perform (.rdot f) s (rdot f)

def rsum (f : FmtW) (s : State) : M State :=
  let g := curPer s
  let w (b : Nat) : Nat := codeWidth (rowEff s g f b).code
  laneInstrIf (fun b => !accum f || latchReady s g b f.q.toNat) (.rsum f) (fun b => { oa := some (b, f.oa.toNat), ob := if columnMode f then some f.ob.toNat else none })
    (fun b => dotCheck (.rsum f) f (if columnMode f then 8 else 15) (columnMode f || f.ob == 0) (rowEff s g f b)) noFault (fun _ => addTime)
    (fun s t b => latchRun f g addTime (fun s b q =>
      dotLatch (rowEff s g f b).code (rmW f) (accum f) ((hartOf s (bankId g b)).opnd f.sa).toNat (rsumChains s g b f (w b)) q) s t b) s

/-- RSUM (R252). -/
def execRsum (f : FmtW) (s : State) : Result := perform (.rsum f) s (rsum f)

/-! ## QCLR and QST (R253, R488) -/

/-- QCLR: ACC and P to +0, J to 0, poison clear. -/
def qclr (f : FmtW) (s : State) : M State :=
  let g := curPer s
  laneInstr (.qclr f) (fun _ => {}) noFault noFault (fun _ => 1) (latchRun f g 1 fun _ _ _ => ({}, [])) s

/-- QCLR (R253). -/
def execQclr (f : FmtW) (s : State) : Result := perform (.qclr f) s (qclr f)

/-- An element of QST. -/
def qstElem (c rm v : Nat) : Elem := roundNum (fltOf c) rm (f32.decode v)

/-- How the pair's two results of one lane are settled (R488). -/
inductive Vote where
  | own
  | first
  | second
  | mismatch
  deriving DecidableEq, Repr

def voteLane (c rm : Nat) (a b k : Nat × Bool) : Vote :=
  let r (x : Nat × Bool) : Nat := (qstElem c rm x.1).val
  if a.2 && b.2 then .own
  else if a.2 then .second
  else if b.2 then .first
  else if r a = r b then .own
  else if !k.2 && r k = r a then .first
  else if !k.2 && r k = r b then .second
  else .mismatch

/-- The lanes of a latch with their poison. -/
def QLatch.marked (q : QLatch) : List (Nat × Bool) := q.accs.zip q.marks

/-- The votes of a pair on a latch. -/
def votes (s : State) (g b q c rm : Nat) : List Vote :=
  let x := (latchOf s g (b % 4) q).marked.zip ((latchOf s g (b % 4 + 4) q).marked.zip (checkOf s g b q).marked)
  x.map fun y => voteLane c rm y.1 y.2.1 y.2.2

/-- A bank's latch after the votes: lanes taken from the other bank replace its own. [DEDUCED, log 40] -/
def votedLatch (s : State) (g b q c rm : Nat) : QLatch :=
  if !(perOf s g).dual then latchOf s g b q
  else
    let own := latchOf s g b q
    let x := (latchOf s g (b % 4) q).marked.zip ((latchOf s g (b % 4 + 4) q).marked.zip (own.marked.zip (votes s g b q c rm)))
    let l := x.map fun y => match y.2.2.2 with
      | .first => y.1
      | .second => y.2.1
      | _ => y.2.2.1
    { own with acc := ofVElems 32 (l.map (·.1)), poison := BitVec.ofNat 256 (packElems 1 (l.map fun y => b2n y.2)) }

/-- All three results of some lane differ (R488). -/
def qstMismatch (s : State) (g : Nat) (f : FmtW) (b : Nat) : RowFault :=
  faultIf ((perOf s g).dual && (votes s g b f.q.toNat (rowEff s g f b).code (rmW f)).contains .mismatch) Cause.dupmismatch
    (BitVec.ofNat 64 (regCoord g b f.od.toNat (regOf s g b f.od.toNat)))

/-- The settled latch stands in the bank; the pair logs a correction once. -/
def settleLatch (s t : State) (g b q c rm od off : Nat) : State :=
  let v := votedLatch s g b q c rm
  let t1 := modBank t g b fun k => { k with q := k.q.set {} q v }
  let w := codeWidth c
  let fixed := ((List.range 256).zip (votes s g b q c rm)).filter fun x => x.2 != .own
  if (perOf s g).dual && decide (b < 4) && !fixed.isEmpty then
    logRow t1 g b 0x0B (8 * (regOf s g b od).row.toNat + od) (maskOf (fixed.map fun x => (off + x.1) * w / 512)) 0
  else t1

/-- The time of QST: 256 elements at the add class of TYPE (R234). -/
def qstTime (w : Nat) : Nat := if w = 32 then 8 else 4

/-- QST: the 256 sums rounded into od at offset 256 * IMM6. -/
def qst (f : FmtW) (s : State) : M State :=
  let g := curPer s
  let q := f.q.toNat
  let off := 256 * f.imm6.toNat
  let use (_ : Nat) : RowUse := { od := some f.od.toNat }
  laneInstrIf (fun b => latchReady s g b q) (.qst f) use
    (fun b => fieldFault (.qst f) (codeFloat (rowEff s g f b).code && decide (off + 256 ≤ rowMax (rowEff s g f b).code)))
    (qstMismatch s g f) (fun b => qstTime (codeWidth (rowEff s g f b).code))
    (fun s t b =>
      let c := (rowEff s g f b).code
      let w := codeWidth c
      let n := rowMax c
      let v := votedLatch s g b q c (rmW f)
      let pad {α : Type} (l : List α) (x : α) : List α := List.replicate off x ++ l ++ List.replicate (n - off - 256) x
      let els := v.accs.map fun x => some (qstElem c (rmW f) x)
      let t1 := rowFinish { f with xm := false } (qstTime w) w (pad els none) (pad v.marks false) s
        (settleLatch s t g b q c (rmW f) f.od.toNat off) g b
      noteGroups t1 g b (qstTime w) ((cleanOf els v.marks).map fun x => flagsOf [x])) s

/-- QST (R253). -/
def execQst (f : FmtW) (s : State) : Result := perform (.qst f) s (qst f)

/-! ## RTOPK (R254) -/

/-- The list of a register: its first `k` entries. -/
def rowList (k : Nat) (r : Row) : List (Nat × Nat) := pairsOf k (r.toNat % 2 ^ (64 * k))

/-- The candidates of a latch: those that are no NaN, with their indices. -/
def candidates (base : Word) (q : QLatch) : List (Nat × Nat) :=
  (((List.range 256).zip q.accs).filter fun x => !(f32.decode x.2).isNan).map fun x => (x.2, (base.toNat + x.1) % 2 ^ 32)

/-- The segments that hold `k` entries. -/
def listSegs (k : Nat) : BitVec 128 := BitVec.ofNat 128 (2 ^ ((8 * k + 63) / 64) - 1)

/-- RTOPK: the k smallest of the list and the candidates, ascending. -/
def rtopk (f : FmtW) (s : State) : M State :=
  let g := curPer s
  let q := f.q.toNat
  let k := f.imm6.toNat
  laneInstrIf (fun b => latchReady s g b q) (.rtopk f) (fun _ => { od := some f.od.toNat, odRead := true })
    (fun _ => fieldFault (.rtopk f) (decide (1 ≤ k) && decide (k ≤ 32))) noFault (fun _ => 64 + k)
    (fun s t b =>
      let r := regOf s g b f.od.toNat
      let l := latchOf s g b q
      let best := bestK k (rowList k r.data ++ candidates ((hartOf s (bankId g b)).opnd f.sa) l)
      let d := r.data.toNat
      putReg t g b f.od.toNat (BitVec.ofNat 65536 (d - d % 2 ^ (64 * k) + packPairs best))
        (if l.poison != 0 || r.poison &&& listSegs k != 0 then r.poison ||| listSegs k else r.poison)) s

/-- RTOPK (R254). -/
def execRtopk (f : FmtW) (s : State) : Result := perform (.rtopk f) s (rtopk f)

end Sys2Proof.Machine
end

