-- ==== Sys2Proof/Machine/RowMove.lean ====
section
/-! DEFINITION. Major 0x43: exchange over the Promenade, the row transfer port, and the inbox (R255-R258, R474, R475, R488). -/
namespace Sys2Proof.Machine

/-! ## SHFL (R255) -/

/-- The source bank of a receiving bank. -/
def shflSource (f : FmtW) (b : Nat) : Nat :=
  let k := (f.imm6.extractLsb' 0 3).toNat
  match (f.imm6.extractLsb' 3 3).toNat with
  | 0 => (b + 8 - k) % 8
  | 1 => b ^^^ k
  | _ => k

/-- The distinct source banks of the receivers. -/
def shflSources (s : State) (f : FmtW) : List Nat :=
  ((rowBanks s).map (shflSource f)).foldl (fun l b => if l.contains b then l else l ++ [b]) []

/-- SHFL: ILLEGAL in split mode, a reserved pattern, both after RESCUED (R458); every source is read before any od is written. [DEDUCED, log 37] -/
def shfl (f : FmtW) (s : State) : M State :=
  let g := curPer s
  let time := 8 * (shflSources s f).length
  laneInstr (.shfl f)
    (fun b => { oa := if f.imm6.toNat < 24 then some (shflSource f b, f.oa.toNat) else none, od := some f.od.toNat })
    (fun _ => orFault (faultIf (!inGang s) Cause.illegal (instrWord (.shfl f))) (fieldFault (.shfl f) (decide (f.imm6.toNat < 24))))
    noFault (fun _ => time)
    (fun s t b => let r := regOf s g (shflSource f b) f.oa.toNat; putReg t g b f.od.toNat r.data r.poison) s

/-- SHFL (R255). -/
def execShfl (f : FmtW) (s : State) : Result := perform (.shfl f) s (shfl f)

/-! ## SHRX (R256) -/

/-- The bank that SHRX's coordinate names: Pergola and bank. -/
def shrxTarget (v : Word) : Nat × Nat := (coordPer v.toNat, coordBank v.toNat)

/-- The inboxes that receive the row: one, or both of a DUAL pair (R488). -/
def shrxInboxes (s : State) (v : Word) : List (Nat × Nat) :=
  let t := shrxTarget v
  if (perOf s t.1).dual then [(t.1, t.2 % 4), (t.1, t.2 % 4 + 4)] else [t]

/-- SHRX's checks before those of the register. -/
def shrxCheck (s : State) (f : FmtW) (g b : Nat) : RowFault :=
  let v := (hartOf s (bankId g b)).opnd f.sa
  orFault (fieldFault (.shrx f) (v.extractLsb' 0 13 == 0 && v.extractLsb' 27 37 == 0))
    (faultIf (!coordOk v.toNat || stackOfPer (coordPer v.toNat) != stackOfPer g ||
      !leasedTo s (coordPer v.toNat) (hartOf s (bankId g b)).context) Cause.rowlease v)

/-- The poison of a row that would leave the pair or bank (R475). -/
def shrxPoison (s : State) (f : FmtW) (g b : Nat) : RowFault :=
  if (perOf s (shrxTarget ((hartOf s (bankId g b)).opnd f.sa)).1).dual then pairMismatch s g b f.oa.toNat else leaveFault s g b f.oa.toNat

/-- 8 rc of the Promenade, or 32 of the vertical bus (R256). [DEDUCED, log 37] -/
def shrxTime (s : State) (f : FmtW) (g b : Nat) : Nat :=
  if layerOfPer (shrxTarget ((hartOf s (bankId g b)).opnd f.sa)).1 = layerOfPer g then 8 else 32

/-- The row is on its way to its inboxes; the bank waits for its deliveries. A pair sends once. -/
def shrxSend (f : FmtW) (g : Nat) (s t : State) (b : Nat) : State :=
  let r := regOf (settlePair s g b f.oa.toNat) g b f.oa.toNat
  let boxes := if (perOf s g).dual && decide (4 ≤ b) then [] else shrxInboxes s ((hartOf s (bankId g b)).opnd f.sa)
  let t1 := boxes.foldl (fun u q => modBank u q.1 q.2 fun k =>
    { k with sending := k.sending ++ [{ data := r.data, poison := r.poison, sender := bankId g b }] }) (settlePair t g b f.oa.toNat)
  modBank t1 g b fun k => { k with shrx := 1 + boxes.length }

/-- SHRX: the checks and the transfer in one rc; then it waits until every row lies in its inbox. -/
def shrx (f : FmtW) (s : State) : M State :=
  let g := curPer s
  let bs := rowBanks s
  if bs.any fun b => (bankOf s g b).shrx != 0 then
    if bs.all fun b => decide ((bankOf s g b).shrx ≤ 1) then
      ok (advance (bs.foldl (fun t b => modBank t g b fun k => { k with shrx := 0 }) s))
    else .error (.wait s false)
  else
    let use (b : Nat) : RowUse := { oa := some (b, f.oa.toNat) }
    rowInstr (fun b => (use b).named b)
      (fun b => orFault (shrxCheck s f g b) (closedFault s g [(b, f.oa.toNat)]))
      (fun b => laneReady s g b (use b)) (fun b => shrxPoison s f g b)
      (fun s => ok (bs.foldl (fun t b => laneMark s (shrxSend f g s t b) (.shrx f) g b (shrxTime s f g b) (use b)) s)) s

/-- SHRX (R256). -/
def execShrx (f : FmtW) (s : State) : Result := perform (.shrx f) s (shrx f)

/-- The layer's vertical traffic is not stopped by a realignment (R503). -/
def busOpen (s : State) (g : Nat) : Bool := !(layerOf s (layerOfPer g)).realigning

/-- A row has arrived: its sender's bus time is over, and no realignment holds it (R256, R503). -/
def rowArrived (s : State) (g : Nat) (r : SentRow) : Bool :=
  let h := perOfHart r.sender
  decide ((bankOf s h (bankOfHart r.sender)).laneFree ≤ rcOf s h) && (layerOfPer h == layerOfPer g || (busOpen s g && busOpen s h))

/-- SHRX_DELIVERY: rows that have arrived line up, and the oldest of them enters the empty inbox; its sender has one delivery less to wait for
(R256). [DEDUCED, log 37] -/
def shrxDeliver (s : State) (g b : Nat) : State :=
  let k := bankOf s g b
  let line := k.arrived ++ k.sending.filter (rowArrived s g)
  let s1 := modBank s g b fun k => { k with arrived := line, sending := k.sending.filter fun r => !rowArrived s g r }
  match k.inbox, line with
  | none, r :: rest =>
    modBank (modBank s1 g b fun k => { k with inbox := some r, arrived := rest }) (perOfHart r.sender) (bankOfHart r.sender) fun k =>
      { k with shrx := if 1 < k.shrx then k.shrx - 1 else k.shrx }
  | _, _ => s1

def bankExists (g b : Nat) : Bool := decide (g < 1152) && decide (b < 8)

/-- SHRX_DELIVERY (R256). -/
def execShrxDelivery (pergola bank : Nat) (s : State) : Result := event (bankExists pergola bank) (shrxDeliver s pergola bank)

/-! ## RCAST and ROUT (R258, R489) -/

/-- The row transfer port's reach to 8 KiB at an address, by R457 over the range. Without a valid context entry there are no
tables. -/
def portRange (s : State) (g : Nat) (va : Word) (wr : Bool) : Chk RangeMap :=
  let c := (perOf s g).lessee
  if addrFault va.toNat then .error (Cause.xlate, va)
  else if va.toNat % 128 ≠ 0 then .error (Cause.misalign, va)
  else if va.toNat / 2 ^ 54 ≠ 0 || !(s.contexts.get {} c.toNat).v then .error (Cause.xlate, va)
  else resolveRange s (entryCtx s c) (portReq wr) va 8192

/-- The check of a range as a bank's fault. -/
def portFault (s : State) (g : Nat) (va : Word) (wr : Bool) : RowFault :=
  match portRange s g va wr with
  | .ok _ => none
  | .error e => some e

/-- The segments that take poison from the granules of a mapped range (R474). -/
def portPoison (s : State) (m : RangeMap) : BitVec 128 :=
  maskOf ((List.range 128).filter fun k => (rangePoison s m (64 * k) 64).isSome)

/-- The address of a port transfer that the lanes of a bank work on. -/
def noteVa (s : State) (g b : Nat) (va : Word) : State := modBank s g b fun k => { k with laneVa := va }

/-- RCAST: 8 KiB from the leader's address into od of every performing bank; a fault of the address is every bank's,
enabled or not, but where one has a RESCUED od or REFDUE to report first (R453, R458). -/
def rcast (f : FmtW) (s : State) : M State :=
  let g := curPer s
  let va := xRead s f.sa
  let use (_ : Nat) : RowUse := { od := some f.od.toNat }
  let named (b : Nat) : List (Nat × Nat) := (use b).named b
  match portRange s g va false with
  | .error e =>
    if (rowBanks s).all fun b => unforced s g (named b) then .error (rowTrap s named (rowOwn s named fun _ => some e)) else .error (.wait s false)
  | .ok m =>
    let got := progReadRange s m
    let pz := portPoison s m
    let row := BitVec.ofNat 65536 (leNat got.1)
    laneInstrIf (fun _ => busOpen s g) (.rcast f) use noFault noFault (fun _ => 64)
      (fun _ t b => noteVa (putReg (commitAll { t with freeCount := got.2.freeCount } m.commits) g b f.od.toNat row pz) g b va) s

/-- RCAST (R258). -/
def execRcast (f : FmtW) (s : State) : Result := perform (.rcast f) s (rcast f)

/-- ROUT: oa of each performing bank to its own address; a pair writes once. -/
def rout (f : FmtW) (s : State) : M State :=
  let g := curPer s
  let va (b : Nat) : Word := (hartOf s (bankId g b)).opnd f.sa
  laneInstrIf (fun _ => busOpen s g) (.rout f) (fun b => { oa := some (b, f.oa.toNat) }) (fun b => portFault s g (va b) true)
    (fun b => leaveFault s g b f.oa.toNat) (fun _ => 64)
    (fun s t b =>
      let t1 := noteVa (settlePair t g b f.oa.toNat) g b (va b)
      if (perOf s g).dual && decide (4 ≤ b) then t1
      else match portRange s g (va b) true with
        | .ok m => progWriteRange (commitAll t1 m.commits) m (leBytes 8192 (regOf t1 g b f.oa.toNat).data.toNat)
        | .error _ => t1) s

/-- ROUT (R258). -/
def execRout (f : FmtW) (s : State) : Result := perform (.rout f) s (rout f)

/-! ## RRED (R257) -/

/-- The row in a bank's inbox. -/
def inboxRow (s : State) (g b : Nat) : Row := ((bankOf s g b).inbox.map (·.data)).getD 0
def inboxPoison (s : State) (g b : Nat) : BitVec 128 := ((bankOf s g b).inbox.map (·.poison)).getD 0

/-- RRED: waits for a row in the inbox, then adds it to od or copies it. -/
def rred (f : FmtW) (s : State) : M State :=
  let g := curPer s
  let copies := f.imm6.getLsbD 0
  laneInstrIf (fun b => (bankOf s g b).inbox.isSome) (.rred f)
    (fun _ => { od := some f.od.toNat, odRead := !copies, mo := if f.masken || f.xm then some f.masko.toNat else none, moRead := f.masken,
                moWrite := f.xm })
    (fun b => fieldFault (.rred f) (rowPlain (rowEff s g f b) && (!f.xm || f.masko != f.od))) noFault (fun _ => addTime)
    (fun s t b =>
      let c := (rowEff s g f b).code
      let w := codeWidth c
      let n := rowMax c
      let d := regOf s g b f.od.toNat
      let x := rowElems w (inboxRow s g b)
      let r := elemPass (fun a o _ => if copies then ⟨o, 0⟩ else eAdd c (rmW f) f.sat a o) (activeList 0 n (rowMask s g b f w) n)
        (rowElems w d.data) x x
      let pz := inboxPoison s g b ||| (if copies then 0 else d.poison) ||| maskPoison s g b f
      modBank (rowFinish f addTime w r (poisonList w n pz) s t g b) g b fun k => { k with inbox := none }) s

/-- RRED (R257). -/
def execRred (f : FmtW) (s : State) : Result := perform (.rred f) s (rred f)

end Sys2Proof.Machine
end

