-- ==== Sys2Proof/Machine/Modes.lean ====
section
/-! DEFINITION. Major 0x44: gang and split mode, predicates, yielding a Pergola, the lease register, and single elements of a row
(R42-R46, R50, R84, R259-R262). -/
namespace Sys2Proof.Machine

/-! ## GANG, SPLIT and their rendezvous (R45, R259) -/

/-- The row-side step that a Pergola runs names its octet again: a switch may take another step of the context at an equal or a more urgent
priority (R50). -/
def mayYieldTo (i : StepInfo) (c : BitVec 16) (p : Nat) : Bool := c == i.context && decide (p ≤ i.prio)

/-- The switch of BYIELD, its PC already past it: the step's state goes to its frame and a waiting step takes the Pergola; with none waiting
nothing happens (R50). A frame outside R355's places is a partition fault. -/
def yieldPergola (s : State) (g : Nat) : State :=
  match (perOf s g).step with
  | none => s
  | some i =>
    let frame := perFrame s i.context g i.prio
    if cancelled { s with cur := .pergola g } || !launchesTaken s then s
    else if !deviceArea s frame 0x1000 then
      (if (selectRowFor (modPer s g fun p => { p with step := none }) g (mayYieldTo i)).isSome then badFrame s i.context (bankId g 0) (.pergola g) else s)
    else
      let record := rowRecord s g i (stopHeader i none none)
      let s1 := saveRow s g i (stopHeader i none none) frame
      match selectRowFor (modPer s1 g fun p => { p with step := none }) g (mayYieldTo i) with
      | none => s
      | some t =>
        if (perOf t g).step.isNone then modPer t g fun p => { p with step := some i }
        else
          let u : RowSuspended := { info := { i with kind := 0 }, frame := frame, saved := if (perOf t g).frame = frame then record else [] }
          modHarts (modPer t g fun p => { p with yielded := p.yielded ++ [u] }) ((List.range 8).map (bankId g)) fun h => { h with run := .idle }

/-- BYIELD in gang mode, YIELD on a bank hart: complete, then the switch (R50, R259). [DEDUCED, log 35] -/
def byieldGang (s : State) : State := yieldPergola (advance s) (curPer s)

/-- A split-mode bank stands at the rendezvous (R45). -/
def arriveGang (s : State) : M State := ok (modHarts s (allHarts s) fun h => { h with run := .atGang })

/-- GANG: nothing in gang mode; in split mode the bank waits (R45). -/
def execGang (f : FmtW) (s : State) : Result := perform (.gang f) s fun s => if inGang s then ok (advance s) else arriveGang s

/-- BYIELD (R50, R259). -/
def execByield (f : FmtW) (s : State) : Result := perform (.byield f) s fun s => if inGang s then ok (byieldGang s) else arriveGang s

/-- SPLIT in gang mode: every bank takes the address after it and a copy of the loop stack (R45). [DEDUCED, log 57] -/
def splitGang (s : State) : State :=
  let t := advance s
  let g := curPer s
  modPer (modHarts t (allHarts t) fun h => { h with pc := (perOf t g).pc, loops := (perOf t g).loops }) g
    fun p => { p with gang := false, loops := [], lastBank := 7 }

/-- SPLIT (R45). -/
def execSplit (f : FmtW) (s : State) : Result := perform (.split f) s fun s => ok (if inGang s then splitGang s else advance s)

/-- The banks that have not exited. -/
def liveBanks (s : State) (g : Nat) : List Nat := (List.range 8).filter fun b => (hartOf s (bankId g b)).live

/-- The instruction that a bank stands at yields the Pergola. -/
def standsAtYield (s : State) (g b : Nat) : Bool :=
  match standsAt s (bankId g b) with
  | some (.byield _) => true
  | some (.yield _) => true
  | _ => false

/-- GANG_RENDEZVOUS: every bank that has not exited stands at GANG; the gang goes on after the GANG of the lowest one, with its loop stack
(R45). Where that bank stands at BYIELD, the gang then yields (R259). [DEDUCED, log 35] -/
def gangMeet (s : State) (g : Nat) : State :=
  match liveBanks s g with
  | [] => s
  | b :: bs =>
    if (perOf s g).gang || (perOf s g).phase ≠ .running || !(b :: bs).all (fun c => (hartOf s (bankId g c)).run == .atGang) then s
    else
      let h := hartOf s (bankId g b)
      let s1 := modHarts s ((b :: bs).map (bankId g)) fun h => { h with run := .running, loops := [] }
      let s2 := { modPer s1 g fun p => { p with gang := true, pc := h.pc, loops := h.loops } with cur := .pergola g }
      { if standsAtYield s g b then byieldGang s2 else advance s2 with cur := s.cur }

/-- GANG_RENDEZVOUS (R45). -/
def execGangRendezvous (pergola : Nat) (s : State) : Result := event (decide (pergola < 1152)) (gangMeet s pergola)

/-! ## BMASK (R42, R260) -/

/-- The predicate bit that BMASK gives a bank. -/
def bmaskBit (f : FmtW) (h : Hart) : Bool :=
  let inv := f.imm6.getLsbD 2
  match (f.imm6.extractLsb' 4 2).toNat with
  | 0 => flagCond (f.imm6.toNat % 4) h.flags != inv
  | 1 => (h.opnd f.sa != 0) != inv
  | _ => true

/-- BMASK: every bank of a gang, or the issuing bank; in a pair the second bank's bit follows the first's (R487). [DEDUCED, log 57] -/
def bmask (f : FmtW) (s : State) : M State := do
  need (f.imm6.extractLsb' 4 2 != 3) Cause.reservedField (instrWord (.bmask f))
  let g := curPer s
  let from' (id : Nat) : Hart := hartOf s (if (perOf s g).dual then bankId g (bankOfHart id % 4) else id)
  ok (advance ((allHarts s).foldl (fun t id => modHart t id fun h => { h with pred := bmaskBit f (from' id) }) s))

/-- BMASK (R260). -/
def execBmask (f : FmtW) (s : State) : Result := perform (.bmask f) s (bmask f)

/-! ## LEASE (R261) -/

/-- LEASE: OCTLEASE of the octet as it stands. -/
def execLease (f : FmtW) (s : State) : Result :=
  perform (.lease f) s fun s =>
    ok (advance ((performers s).foldl (fun t id => modHart t id fun h => h.dest f.sa (octlease s (perOfHart id))) s))

/-! ## RGETE and RSETE (R262) -/

/-- The element that x[SB] names. -/
def elemIndex (s : State) (g : Nat) (f : FmtW) (b : Nat) : Nat :=
  ((hartOf s (bankId g b)).opnd f.sb).toNat % rowMax (rowEff s g f b).code

/-- RGETE reads no poisoned element; the trap names the register's lowest poisoned segment (R475). -/
def rgetePoison (s : State) (g : Nat) (f : FmtW) (b : Nat) : RowFault :=
  let q := regOf s g b f.oa.toNat
  let seg := elemIndex s g f b * codeWidth (rowEff s g f b).code / 512
  faultIf (q.poison.getLsbD seg) Cause.ue (ueInfo (regCoord g b f.oa.toNat q) (lowSeg q.poison))

/-- RGETE: an element to a scalar register, but of format 11 (R140, R262). [DEDUCED, log 64] -/
def rgete (f : FmtW) (s : State) : M State :=
  let g := curPer s
  laneInstr (.rgete f) (fun b => { oa := some (b, f.oa.toNat) }) (fun b => fieldFault (.rgete f) ((rowEff s g f b).code != 11))
    (rgetePoison s g f) (fun _ => 1)
    (fun s t b =>
      let c := (rowEff s g f b).code
      let v := elemToX c (rowElem (codeWidth c) (elemIndex s g f b) (regOf s g b f.oa.toNat).data)
      modBank (modHart t (bankId g b) fun h => h.dest f.sa v) g b fun k => { k with xAt := k.xAt.set 0 f.sa.num.toNat (rcOf s g + 7) }) s

/-- RGETE (R262). -/
def execRgete (f : FmtW) (s : State) : Result := perform (.rgete f) s (rgete f)

/-- RSETE: the low bits of x[SA] to an element, but of format 11 (R140); a segment written in part keeps its poison (R474). [DEDUCED, log 64] -/
def rsete (f : FmtW) (s : State) : M State :=
  let g := curPer s
  laneInstr (.rsete f) (fun _ => { od := some f.od.toNat }) (fun b => fieldFault (.rsete f) ((rowEff s g f b).code != 11)) noFault (fun _ => 1)
    (fun s t b =>
      let q := regOf s g b f.od.toNat
      let w := codeWidth (rowEff s g f b).code
      putReg t g b f.od.toNat (setRowElem w (elemIndex s g f b) q.data ((hartOf s (bankId g b)).opnd f.sa).toNat) q.poison) s

/-- RSETE (R262). -/
def execRsete (f : FmtW) (s : State) : Result := perform (.rsete f) s (rsete f)

end Sys2Proof.Machine
end

