-- ==== Sys2Proof/Machine/Remote.lean ====
section
/-! DEFINITION. What reaches the device's memory from outside: packets of peer modules, the host's CXL.mem and CXL.cache accesses, stack-port
errors, and the realignment of layers (R90, R136, R137, R398, R402, R403, R471, R473, R499, R503, R504). -/
namespace Sys2Proof.Machine

/-! ## Packets that arrive (R403, R499) -/

/-- A start that ended in service: CXL.mem is enabled, launches and commands may come (R405, R506). -/
def inService (s : State) : Bool := s.nd.started && !s.nd.safe && !s.nd.dead

/-- The refusal of an access to `n` bytes at a physical address by this module, before any effect; `atomic` ones are refused at poison. No
memory is in service before step 8 of start, or in the safe state (R506). [DEDUCED, log 55] -/
def packetRefusal (s : State) (pa n : Nat) (atomic : Bool) : Option (BitVec 8) :=
  if !inService s then some Cause.xlate else
  match region s pa with
  | .none => some Cause.xlate
  | .dev _ => some Cause.prot
  | .row c =>
    if !coordOk c || decide (6136 ≤ coordRow c) || !rowCapable s (coordPer c) then some Cause.prot
    else if leased s (coordPer c) then some Cause.rowlease
    else if atomic && (firstPoison s pa n).isSome then some Cause.ue else none
  | _ => if atomic && (firstPoison s pa n).isSome then some Cause.ue else none

/-- What goes back over the link: bytes and poison, or a refusal's cause. [DEDUCED, log 55] [DESIGN CHOICE, log 59] -/
def sendBack (s : State) (data : List Byte) (poison : Bool) (code : BitVec 8) : State :=
  { s with answer := data, answerPoison := poison, answerCode := code }

/-- REMOTE_READ: `n` bytes, with their poison (R473). [DESIGN CHOICE, log 59] -/
def remoteRead (s : State) (pa n : Nat) : State :=
  match packetRefusal s pa n false with
  | some c => sendBack s [] false c
  | none => let r := progRead s (.phys pa) n; sendBack r.2 r.1 (firstPoison s pa n).isSome 0

/-- A link of this module, and a physical address that a packet can carry. -/
def packetOk (link pa : Nat) : Bool := decide (link < 8) && decide (pa < 2 ^ 44)

/-- REMOTE_READ (R403). -/
def execRemoteRead (link pa count : Nat) (s : State) : Result := event (packetOk link pa) (remoteRead s pa count)

/-- REMOTE_WRITE and a line of REMOTE_COPY: the bytes are written. [DEDUCED, log 55] -/
def remoteWrite (s : State) (pa : Nat) (bytes : List Byte) : State :=
  match packetRefusal s pa bytes.length false with
  | some c => sendBack s [] false c
  | none => sendBack (progWrite s (.phys pa) bytes) [] false 0

/-- REMOTE_WRITE (R403). -/
def execRemoteWrite (link pa : Nat) (bytes : List Byte) (s : State) : Result := event (packetOk link pa) (remoteWrite s pa bytes)

/-- REMOTE_COPY: one 128-byte line, or a part of one (R403, R499). -/
def execRemoteCopy (link pa : Nat) (bytes : List Byte) (s : State) : Result := event (packetOk link pa) (remoteWrite s pa bytes)

/-- An atomic by the arithmetic of R312, as one access; the old value goes back if `wants`. [DEDUCED, log 55] -/
def remoteAtomic (s : State) (sub pa n b c : Nat) (wants : Bool) : State :=
  match packetRefusal s pa n true with
  | some e => sendBack s [] false e
  | none =>
    let m := progRead s (.phys pa) n
    let t := match (amoNew sub (8 * n) (leNat m.1) b c).1 with
      | some v => progWrite m.2 (.phys pa) (leBytes n v)
      | none => m.2
    sendBack t (if wants then m.1 else []) false 0

/-- The widths and operations of a remote atomic. -/
def atomicOk (sub n : Nat) : Bool := decide (sub < 10) && (n == 1 || n == 2 || n == 4 || n == 8) && (sub != 8 || n == 4)

/-- REMOTE_ATOMIC (R403). -/
def execRemoteAtomic (link sub pa size : Nat) (b c : Word) (s : State) : Result :=
  event (packetOk link pa && atomicOk sub size)
    (remoteAtomic s sub pa size (b.toNat % 2 ^ (8 * size)) (c.toNat % 2 ^ (8 * size)) true)

/-- REDUCTION_PACKET: a relaxed AMOADD or AMOFADD at device scope that only an acknowledgement answers (R402, R403). -/
def execReductionPacket (link pa size : Nat) (float : Bool) (b : Word) (s : State) : Result :=
  let sub := if float then 8 else 0
  event (packetOk link pa && atomicOk sub size) (remoteAtomic s sub pa size (b.toNat % 2 ^ (8 * size)) 0 false)

/-! ## The host (R136, R398, R473) -/

/-- The two ranges that HDM decoders show the host. -/
def hostSees (s : State) (pa n : Nat) : Bool :=
  inService s && (decide (pa + n ≤ s.intlvSize / 2 ^ 28 * 2 ^ 28) || (decide (0x40000000000 ≤ pa) && decide (pa + n ≤ 0xA0000000000)))

/-- A poisoned range: its bytes are unspecified (R473). [DESIGN CHOICE, log 8] -/
def poisonRange (s : State) (pa n : Nat) : State := spoilImages (setPoison (freeInto s pa n) pa n true) pa n

/-- HOST_MEM_WRITE: a write that carries poison poisons its granules. -/
def hostMemWrite (s : State) (pa : Nat) (bytes : List Byte) (poison : Bool) : State :=
  if !hostSees s pa bytes.length then s
  else if poison then poisonRange s pa bytes.length
  else progWrite s (.phys pa) bytes

/-- HOST_MEM_WRITE (R136). -/
def execHostMemWrite (pa : Nat) (bytes : List Byte) (poison : Bool) (s : State) : Result := .next (hostMemWrite s pa bytes poison)

/-- HOST_MEM_READ: the bytes, with the CXL.mem poison indication. [DESIGN CHOICE, log 59] -/
def hostMemRead (s : State) (pa n : Nat) : State :=
  if !hostSees s pa n then s else let r := progRead s (.phys pa) n; sendBack r.2 r.1 (firstPoison s pa n).isSome 0

/-- HOST_MEM_READ (R136). -/
def execHostMemRead (pa count : Nat) (s : State) : Result := .next (hostMemRead s pa count)

/-- A monitor on a line that leaves L2's tracking is lost (R226). -/
def dropMonitors (s : State) (line : Nat) : State :=
  { s with harts := s.harts.map fun p => (p.1, { p.2 with monitor := p.2.monitor.map fun m =>
      if m.line = line && !m.triggered then { m with lost := true } else m }) }

/-- CXL_CACHE_SNOOP: the host takes a line of the host window; its write triggers the monitors on the line, and without one they are lost
(R90, R137, R225, R226). -/
def cacheSnoop (s : State) (line : Nat) (data : List Byte) : State :=
  let pa := line / 128 * 128
  if pa < 0x200000000000 ∨ 0x400000000000 ≤ pa then s
  else if data.isEmpty then dropMonitors s pa
  else progWrite s (.phys pa) (data.take 128)

/-- CXL_CACHE_SNOOP (R90). -/
def execCxlCacheSnoop (line : Nat) (data : List Byte) (s : State) : Result := .next (cacheSnoop s line data)

/-! ## The stack port (R471) -/

/-- A stack whose port delivers the granule: interleaved memory, or a row of an octet of the stack that is not leased (R79, R80). [DEDUCED, log 56] -/
def portGranule (s : State) (stack granule : Nat) : Bool :=
  match region s (64 * granule) with
  | .stack => true
  | .row c => coordOk c && decide (coordRow c < 6136) && coordPer c / 96 == stack && rowCapable s (coordPer c) && !leased s (coordPer c)
  | _ => false

/-- STACK_PORT_REPLAY: a flit fails its CRC and is replayed; after eight replays its granule is delivered poisoned, and the port retrains. [DEDUCED, log 56] -/
def stackPortReplay (s : State) (stack granule : Nat) : State :=
  if !portGranule s stack granule then s
  else if s.stackReplays.get 0 stack < 8 then { s with stackReplays := s.stackReplays.modify 0 stack (· + 1) }
  else logError (poisonRange { s with stackReplays := s.stackReplays.set 0 stack 0 } (64 * granule) 64) 0x0D
    (BitVec.ofNat 64 (64 * granule)) 0 0xFFFF 0 0

/-- A flit of a stack port has passed (R471). -/
def stackFlitPassed (s : State) (stack : Nat) : State := { s with stackReplays := s.stackReplays.set 0 stack 0 }

/-- STACK_PORT_REPLAY (R471). -/
def execStackPortReplay (stack granule : Nat) (s : State) : Result := event (decide (stack < 12)) (stackPortReplay s stack granule)

/-! ## Realignment of a layer's bundles (R503, R504) -/

/-- A row on its way between two layers, one of which is `l`. -/
def crossing (l g : Nat) (r : SentRow) : Bool :=
  layerOfPer (perOfHart r.sender) != layerOfPer g && (layerOfPer g == l || layerOfPer (perOfHart r.sender) == l)

/-- A bank's lanes run an RCAST or ROUT. -/
def portWork (k : Bank) (rc : Nat) : Bool :=
  decide (rc < k.laneFree) && (k.laneInstr.toNat % 16384 == 0x243 || k.laneInstr.toNat % 16384 == 0x343)

/-- A transfer over layer `l` is in flight. -/
def layerBusy (s : State) (l : Nat) : Bool :=
  s.pergolas.any fun p => p.2.banks.any fun b =>
    b.2.sending.any (crossing l p.1) || (layerOfPer p.1 == l && portWork b.2 p.2.rc)

/-- LTIME of the base die of a layer's stack (R20). -/
def baseNow (s : State) (l : Nat) : Nat := (s.baseTimes.get 0 (l / 12)).toNat

/-- The realignment stops the layer's vertical traffic. -/
def realign (s : State) (l : Nat) : State :=
  modLayer s l fun y => { y with requested := false, realigning := true, realignAt := baseNow s l }

/-- REALIGNMENT_REQUEST: deferred while a transfer over the layer is in flight, but not a third time in a row. [DEDUCED, log 43] -/
def realignmentRequest (s : State) (l : Nat) : State :=
  let y := layerOf s l
  if y.requested || y.realigning then s
  else if layerBusy s l && decide (y.deferrals < 2) then modLayer s l fun y => { y with requested := true, requestAt := baseNow s l, deferrals := y.deferrals + 1 }
  else realign (modLayer s l fun y => { y with deferrals := 0 }) l

/-- REALIGNMENT_REQUEST (R503). -/
def execRealignmentRequest (layer : Nat) (s : State) : Result := event (decide (layer < 144)) (realignmentRequest s layer)

/-- A deferred realignment may run: its transfer has ended, or 40 µs of the base die's local time have passed. -/
def deferralOver (s : State) (l : Nat) : Bool :=
  (layerOf s l).requested && (!layerBusy s l || decide ((layerOf s l).requestAt + 4000 ≤ baseNow s l))

def deferralEnds (s : State) (l : Nat) : State := if deferralOver s l then realign s l else s

/-- REALIGNMENT_DEFERRAL_EXPIRY (R503). -/
def execRealignmentDeferralExpiry (layer : Nat) (s : State) : Result := event (decide (layer < 144)) (deferralEnds s layer)

/-- The interleaved octets of a layer (R78). -/
def interleavedIn (s : State) (l : Nat) : Nat :=
  ((List.range 8).filter fun k => !s.rowcap.getLsbD (8 * l + k) && !s.retired.getLsbD (8 * l + k)).length

/-- The notice of a narrowing, with the INTLVSIZE to come, and its signal to the host (R504 step 1). [DEDUCED, log 43] -/
def narrow (s : State) (l : Nat) : State :=
  let size := s.intlvSize / 2 ^ 20 - 384 * interleavedIn s l
  { s with nd := { s.nd with bundlestat := BitVec.ofNat 64 (1 + l * 2 ^ 24 + size * 2 ^ 32), msix := s.nd.msix + 1 } }

/-- A narrowing is under way (R504 steps 1 to 3). -/
def narrowing (s : State) : Bool := s.nd.bundlestat.getLsbD 0 || s.nd.restriping

/-- The oldest narrowing that waits begins, once none is under way. [DEDUCED, log 43] -/
def nextNarrowing (s : State) : State :=
  match s.nd.narrowings with
  | [] => s
  | l :: rest => if narrowing s then s else narrow { s with nd := { s.nd with narrowings := rest } } l

/-- A bundle of a layer is retired: the first one's traffic goes to the spare, a later one narrows the layer, after the narrowings that are
under way (R504). [DEDUCED, log 43] -/
def retireBundle (s : State) (l : Nat) : State :=
  let t := modLayer s l fun y => { y with bundlesRetired := y.bundlesRetired + 1 }
  if (layerOf s l).bundlesRetired = 0 then t
  else if narrowing s || !s.nd.narrowings.isEmpty then { t with nd := { t.nd with narrowings := t.nd.narrowings ++ [l] } }
  else narrow t l

/-- REALIGNMENT_END: vertical traffic continues, and a bundle that failed is retired. [DEDUCED, log 43] -/
def realignmentEnd (s : State) (l : Nat) (fails : Bool) : State :=
  if !(layerOf s l).realigning then s
  else
    let t := modLayer s l fun y => { y with realigning := false }
    if fails then retireBundle t l else t

/-- REALIGNMENT_END (R503, R504). -/
def execRealignmentEnd (layer : Nat) (bundleFails : Bool) (s : State) : Result :=
  event (decide (layer < 144)) (realignmentEnd s layer bundleFails)

end Sys2Proof.Machine
end

