-- ==== Sys2Proof/Machine/Sha3.lean ====
section
/-! DEFINITION. SHA3-256, which attestation measures with (R407). The spec names the function and does not restate it: it is FIPS 202's.
[PRESUMED, log 65] -/
namespace Sys2Proof.Machine

/-- One step of the eight-bit shift register whose lowest bits make the round constants. -/
def keccakShift (r : BitVec 8) : BitVec 8 := (r <<< 1) ^^^ (if r.msb then 0x71 else 0)

/-- The shift register after seven more steps, and the constant those steps make: the bit of step j stands at bit 2^j − 1. -/
def keccakConst (r : BitVec 8) : BitVec 8 × Word :=
  (List.range 7).foldl (fun q j => (keccakShift q.1, if q.1.getLsbD 0 then q.2 ||| BitVec.ofNat 64 (2 ^ (2 ^ j - 1)) else q.2)) (r, 0)

/-- The walk of ρ and π from one lane, lanes numbered by row and then by column: the lane moved, where it goes, and by how much it rotates,
which after t moves is the sum of 1 to t. -/
def keccakWalk : Nat → Nat → Nat → List (Nat × Nat × Nat)
  | 0, _, _ => []
  | n + 1, i, t =>
    let j := 5 * ((2 * (i % 5) + 3 * (i / 5)) % 5) + i / 5
    (i, j, t * (t + 1) / 2 % 64) :: keccakWalk n j (t + 1)

/-- The parity of a column. -/
def keccakParity (a : List Word) (x : Nat) : Word := (List.range 5).foldl (fun v y => v ^^^ a.getD (5 * y + x % 5) 0) 0

/-- θ: each lane takes the parities of the column before it and, rotated, of the one after it. -/
def keccakTheta (a : List Word) : List Word :=
  let p := (List.range 5).map fun x => keccakParity a (x + 4) ^^^ (keccakParity a (x + 1)).rotateLeft 1
  a.zipIdx.map fun (v, i) => v ^^^ p.getD (i % 5) 0

/-- ρ and π: every lane but the first moves on along the walk from lane 1, rotated. -/
def keccakMove (a : List Word) : List Word :=
  (keccakWalk 24 1 1).foldl (fun b m => b.set m.2.1 ((a.getD m.1 0).rotateLeft m.2.2)) a

/-- χ: each lane takes the two after it in its row. -/
def keccakChi (a : List Word) : List Word :=
  let row := fun i k => a.getD (5 * (i / 5) + (i + k) % 5) 0
  a.zipIdx.map fun (v, i) => v ^^^ (row i 2 &&& ~~~row i 1)

/-- A round, with ι's constant for the first lane. -/
def keccakRound (q : BitVec 8 × List Word) : BitVec 8 × List Word :=
  let (r, c) := keccakConst q.1
  (r, (keccakChi (keccakMove (keccakTheta q.2))).modifyHead (· ^^^ c))

/-- Keccak-f[1600]: 24 rounds. [PRESUMED, log 65] -/
def keccak (a : List Word) : List Word := ((List.range 24).foldl (fun q _ => keccakRound q) (1, a)).2

/-- Bytes as lanes, the first byte lowest. -/
def lanesOf : Nat → List Byte → List Word
  | 0, _ => []
  | n + 1, bs => BitVec.ofNat 64 (leNat (bs.take 8)) :: lanesOf n (bs.drop 8)

/-- The message padded to whole blocks of 136 bytes: the suffix 01, then a one, zeros, and a one in the block's last bit. -/
def sha3Pad (m : List Byte) : List Byte :=
  let q := 136 - m.length % 136
  m ++ (if q = 1 then [0x86] else 0x06 :: List.replicate (q - 2) 0 ++ [0x80])

/-- A block taken into the lanes. -/
def sha3Block (a : List Word) (block : List Byte) : List Word :=
  keccak ((lanesOf 25 block).zipWith (· ^^^ ·) a)

/-- The blocks absorbed, in order. -/
def sha3Absorb : Nat → List Byte → List Word → List Word
  | 0, _, a => a
  | n + 1, bs, a => sha3Absorb n (bs.drop 136) (sha3Block a (bs.take 136))

/-- SHA3-256: 32 bytes, the first lowest. [PRESUMED, log 65] -/
def sha3 (m : List Byte) : BitVec 256 :=
  let p := sha3Pad m
  BitVec.ofNat 256 (packElems 64 (((sha3Absorb (p.length / 136) p (List.replicate 25 0)).take 4).map (·.toNat)))

end Sys2Proof.Machine
end

