-- ==== Sys2Proof/Machine/Ndetrief.lean ====
section
/-! DEFINITION. The Ndetrief: governor, cooling and clocks, the mailbox, start, and attestation (R20, R22-R28, R399, R400, R405-R408,
R505-R508). -/
namespace Sys2Proof.Machine

def modNd (s : State) (f : Ndetrief → Ndetrief) : State := { s with nd := f s.nd }

/-! ## The governor (R23-R25, R28, R408) -/

/-- The design limit, and the fixed group's share of it, which no command sets (R23, R400). -/
def designLimit : Nat := 2900
def shareFixed : Nat := 250

/-- Cooling below its rating: flow under 2.0 L/min or the die above 95 °C; and below its floor. [DEDUCED, log 41] -/
def coolingLow (flow temp : Nat) : Bool := decide (flow < 2000) || decide (95 < temp)
def coolingFails (flow temp : Nat) : Bool := decide (flow < 1000) || decide (105 < temp)

/-- One step down or up of the compute group's k and of the row group's window (R24). -/
def clockDown (k : Nat) : Nat := if 4 < k then k - 1 else k
def clockUp (k : Nat) : Nat := if k < 16 then k + 1 else k
def windowDown (w : Nat) : Nat := if 8 < w then w - 8 else w
def windowUp (w : Nat) : Nat := if w < 32 then w + 8 else w

/-- The rules of R24 on the steps (k, window); `cut` is what poor cooling takes from the limit and the thresholds. -/
def governorSteps (d : Ndetrief) (compute row fixed cut : Nat) : Nat × Nat :=
  let total := compute + row + fixed
  if 2800 - cut < total then
    if d.shareCompute < compute || d.shareRow < row then
      (if d.shareCompute < compute then clockDown d.computeStep else d.computeStep,
       if d.shareRow < row then windowDown d.rowWindow else d.rowWindow)
    else if designLimit - cut < total then (clockDown d.computeStep, windowDown d.rowWindow)
    else (d.computeStep, d.rowWindow)
  else if total < 2700 - cut then (clockUp d.computeStep, windowUp d.rowWindow)
  else (d.computeStep, d.rowWindow)

/-- Both governed groups stand at their lowest steps. [DEDUCED, log 41] -/
def atFloor (d : Ndetrief) : Bool := d.computeStep == 4 && d.rowWindow == 8

/-- A sample of the supplies falls due, every 10 µs of the Ndetrief's local time (R23). -/
def sampleDue (s : State) : Bool := decide (s.nd.nextSample ≤ s.nd.ltime.toNat)

/-- Since when every sample has been above 2,900 W with both groups at their floor, and whether that is 1 ms (R28). [DEDUCED, log 41] -/
def overSince (d : Ndetrief) : Option Nat :=
  if atFloor d && decide (designLimit < d.supply.compute + d.supply.row + d.supply.fixed) then some (d.overSince.getD d.ltime.toNat) else none

def overLong (d : Ndetrief) : Bool :=
  match overSince d with
  | some t => decide (t + 100000 ≤ d.ltime.toNat)
  | none => false

/-- A sample: the steps decided, and the power emergency of R28 after 1 ms above 2,900 W at the floor, or of R408 at once. [DEDUCED, log 41] -/
def takeSample (s : State) : State :=
  let d := s.nd
  let next := governorSteps d d.supply.compute d.supply.row d.supply.fixed (if coolingLow d.supply.flow d.supply.temp then 1000 else 0)
  let now := d.ltime.toNat
  let t := modNd s fun d =>
    { d with computeStep := next.1, rowWindow := next.2, nextSample := now + 1000,
             decidedAt := if next = (d.computeStep, d.rowWindow) then d.decidedAt else some (d.decidedAt.getD now),
             overSince := if overLong d then some now else overSince d }
  if overLong d || coolingFails d.supply.flow d.supply.temp then powerEmergency t else t

/-- GOVERNOR_SAMPLE: what the supplies read now, and the sample if it is due. [DEDUCED, log 41] -/
def governorSample (s : State) (compute row fixed flow temp : Nat) : State :=
  let t := modNd s fun d => { d with supply := { compute := compute, row := row, fixed := fixed, flow := flow, temp := temp } }
  if sampleDue t then takeSample t else t

/-- GOVERNOR_SAMPLE (R24). -/
def execGovernorSample (compute row fixed flow temp : Nat) (s : State) : Result := .next (governorSample s compute row fixed flow temp)

/-- The steps between two values. -/
def stepsFrom (a b w : Nat) : BitVec 16 := BitVec.ofNat 16 ((Nat.max a b - Nat.min a b) / w)

/-- GOVERNOR_STEP_DELIVERY: every Pavilion's clock and every layer's window take the decided step, and STEPS counts it (R25, R27). -/
def stepDelivery (s : State) : State :=
  let s := modNd s fun d => { d with decidedAt := none }
  let t := if s.nd.actwin = s.nd.rowWindow then s else
    (List.range 1152).foldl (fun t g => modPer t g fun p => { p with clock := { p.clock with
      steps := p.clock.steps + stepsFrom s.nd.actwin s.nd.rowWindow 8 } }) (modNd s fun d => { d with actwin := d.rowWindow })
  (List.range 64).foldl (fun t p => modPav t p fun v =>
    if v.clock.clkstep = s.nd.computeStep then v
    else { v with clock := { v.clock with clkstep := s.nd.computeStep,
                                          steps := v.clock.steps + stepsFrom v.clock.clkstep s.nd.computeStep 1 } }) t

/-- GOVERNOR_STEP_DELIVERY (R25). -/
def execGovernorStepDelivery (s : State) : Result := .next (stepDelivery s)

/-- DROOP_STRETCH: the domain's DROOP is set (R22, R27). -/
def droopStretch (s : State) (u : UnitRef) : State :=
  match u with
  | .core c => modPav s (c / 2) fun v => { v with clock := { v.clock with droop := true } }
  | .pergola g => modPer s g fun p => { p with clock := { p.clock with droop := true } }

/-- DROOP_STRETCH (R22). -/
def execDroopStretch (unit : UnitRef) (s : State) : Result := event (unitExists unit) (droopStretch s unit)

/-- No tile step stands on any core or Pergola. -/
def noStep (s : State) : Bool := s.cores.all (fun k => k.2.step.isNone) && s.pergolas.all fun p => p.2.step.isNone

/-- CLOCK_GATING: with no step running for 10 ms the Pavilion clocks are gated; the next step's dispatch runs them again (R408). [DEDUCED, log 41] -/
def clockGating (s : State) : State :=
  if noStep s && decide (1000000 ≤ s.nd.idleFor) then (List.range 64).foldl (fun t p => modPav t p fun v => { v with clock := { v.clock with gated := true } }) s else s

/-- CLOCK_GATING (R408). -/
def execClockGating (s : State) : Result := .next (clockGating s)

/-! ## Local time of the Ndetrief and of the base dies (R20) -/

/-- `n` ticks pass, with what falls due (`due`) at every instant that `wait` names, which is a tick or more away. -/
def passTime (due : State → State) (wait : State → Nat → Nat) (advance : Nat → State → State) : Nat → Nat → State → State
  | 0, n, s => advance n s
  | fuel + 1, n, s =>
    let t := due s
    if n = 0 then t else passTime due wait advance fuel (n - wait t n) (advance (wait t n) t)

/-- The ticks to the next of some instants, `n` at most and 1 at least. -/
def ticksTo (now n : Nat) (marks : List Nat) : Nat := Nat.max 1 (marks.foldl (fun m t => if now < t then Nat.min m (t - now) else m) n)

/-- What falls due in the Ndetrief: the delivery of a step within 2 µs (R25), the end of a retraining that took 100 µs (R502), the sample
(R23), clock gating (R408), and the narrowing that is next (R504). [DEDUCED, log 41] [DEDUCED, log 43] -/
def ndDue (s : State) : State :=
  let now := s.nd.ltime.toNat
  let s0 := nextNarrowing s
  let s1 := if s0.nd.decidedAt.any fun t => decide (t + 200 ≤ now) then stepDelivery s0 else s0
  let s2 := (List.range 8).foldl (fun t p =>
    let q := t.nd.ports.get {} p
    if q.retraining && decide (q.retrainFrom + 10000 ≤ now) then retrainEnd t p false else t) s1
  let s3 := if sampleDue s2 then takeSample s2 else s2
  if s3.nd.idleFor = 1000000 then clockGating s3 else s3

def ndMarks (s : State) : List Nat :=
  [s.nd.nextSample] ++ (s.nd.decidedAt.map (· + 200)).toList ++
  ((s.nd.ports.filter fun p => p.2.retraining).map fun p => p.2.retrainFrom + 10000) ++
  (if s.nd.idleFor < 1000000 then [s.nd.ltime.toNat + (1000000 - s.nd.idleFor)] else [])

def ndAdvance (n : Nat) (s : State) : State :=
  modNd s fun d => { d with ltime := d.ltime + BitVec.ofNat 64 n, idleFor := if noStep s then d.idleFor + n else 0 }

/-- `n` ticks of the Ndetrief's local time. [DESIGN CHOICE, log 4] -/
def ndPasses (n : Nat) (s : State) : State :=
  passTime ndDue (fun t n => ticksTo t.nd.ltime.toNat n (ndMarks t)) ndAdvance (n / 100 + 40) n s

/-- What falls due in a stack's base die: deferrals of 40 µs and realignments of 20 µs end (R503). -/
def baseDue (k : Nat) (s : State) : State :=
  (List.range 12).foldl (fun t j =>
    let l := 12 * k + j
    let u := if (layerOf t l).requestAt + 4000 ≤ baseNow t l then deferralEnds t l else t
    if (layerOf u l).realigning && decide ((layerOf u l).realignAt + 2000 ≤ baseNow u l) then realignmentEnd u l false else u) s

def baseMarks (k : Nat) (s : State) : List Nat :=
  ((List.range 12).map fun j =>
    let y := layerOf s (12 * k + j)
    (if y.requested then [y.requestAt + 4000] else []) ++ (if y.realigning then [y.realignAt + 2000] else [])).flatten

/-- `n` ticks of a base die's local time. [DESIGN CHOICE, log 4] -/
def basePasses (k n : Nat) (s : State) : State :=
  passTime (baseDue k) (fun t n => ticksTo (t.baseTimes.get 0 k).toNat n (baseMarks k t))
    (fun n s => { s with baseTimes := s.baseTimes.modify 0 k (· + BitVec.ofNat 64 n) }) (n / 100 + 40) n s

/-! ## The mailbox (R399, R400) -/

/-- The mailbox takes commands: from step 8 of start on, and in the safe state. -/
def mailboxOpen (s : State) : Bool := (s.nd.started || s.nd.safe) && !s.nd.dead

/-- A command ends: DONE and STATUS are set, GO is cleared. -/
def endCommand (s : State) (status : BitVec 16) : State := modNd s fun d => { d with status := status, done := true, go := false }

/-- A mailbox command with its arguments, written with GO = 1 and performed; `safeToo` ones also run in the safe state. [DEDUCED, log 54] -/
def command (s : State) (cmd : BitVec 8) (a0 a1 : Word) (safeToo : Bool) (run : State → State) : State :=
  if !mailboxOpen s then s
  else
    let t := modNd s fun d => { d with cmd := cmd, arg0 := a0, arg1 := a1, done := false, go := true }
    if s.nd.safe && !safeToo then endCommand t 3 else run t

/-- The chain number of an argument. -/
def chainOf (a1 : Word) : Nat := (a1.extractLsb' 16 6).toNat

/-- REGCHAIN: status 2 for a number in use, or a context that the device does not support (R354, R357, R400). [DEDUCED, log 54] -/
def regchain (a0 a1 : Word) (s : State) : State :=
  command s 0x01 a0 a1 false fun t =>
    if (t.chains.get none (chainOf a1)).isSome || !ctxExists (a1.toNat % 65536) then endCommand t 2
    else endCommand { t with chains := t.chains.set none (chainOf a1) (some { anchor := a0, context := a1.extractLsb' 0 16 }) } 0

/-- REGCHAIN (R400). -/
def execRegchain (arg0 arg1 : Word) (s : State) : Result := .next (regchain arg0 arg1 s)

/-- DROPCHAIN: intake of the chain stops; a take is one step, so none is under way. -/
def dropchain (a1 : Word) (s : State) : State :=
  command s 0x02 s.nd.arg0 a1 false fun t => endCommand { t with chains := t.chains.set none (chainOf a1) none } 0

/-- DROPCHAIN (R400). -/
def execDropchain (arg1 : Word) (s : State) : Result := .next (dropchain arg1 s)

/-- SETSHARE: status 2 for a sum above 2,650 W, which with the fixed share is the design limit. -/
def setshare (a0 a1 : Word) (s : State) : State :=
  command s 0x03 a0 a1 false fun t =>
    if designLimit < a0.toNat + a1.toNat + shareFixed then endCommand t 2
    else endCommand (modNd t fun d => { d with shareCompute := a0.toNat, shareRow := a1.toNat }) 0

/-- SETSHARE (R400). -/
def execSetshare (arg0 arg1 : Word) (s : State) : Result := .next (setshare arg0 arg1 s)

/-- ACKHALT: launches are taken again (R28). -/
def ackhalt (s : State) : State :=
  command s 0x04 s.nd.arg0 s.nd.arg1 false fun t => endCommand (modNd t fun d => { d with emergency := false }) 0

/-- ACKHALT (R400). -/
def execAckhalt (s : State) : Result := .next (ackhalt s)

/-- READSTART: a word of the start record to MBARG1. [DEDUCED, log 54] -/
def readstart (a0 : Word) (s : State) : State :=
  command s 0x05 a0 s.nd.arg1 true fun t =>
    if a0.toNat < 20 then endCommand (modNd t fun d => { d with arg1 := d.record.get 0 a0.toNat }) 0 else endCommand t 2

/-- READSTART (R400). -/
def execReadstart (arg0 : Word) (s : State) : Result := .next (readstart arg0 s)

/-- An offset that REGWRITE and REGREAD take. -/
def regOffset (a : Word) : Bool := decide (a.toNat % 8 = 0) && decide (a.toNat < 2 ^ 32)

/-- REGWRITE: one word of device register space. -/
def regwrite (a0 a1 : Word) (s : State) : State :=
  command s 0x06 a0 a1 false fun t => if regOffset a0 then endCommand (devWrite t a0.toNat a1) 0 else endCommand t 2

/-- REGWRITE (R400). -/
def execRegwrite (arg0 arg1 : Word) (s : State) : Result := .next (regwrite arg0 arg1 s)

/-- REGREAD: the word to MBARG1. -/
def regread (a0 : Word) (s : State) : State :=
  command s 0x07 a0 s.nd.arg1 true fun t =>
    if regOffset a0 then
      let r := devRead t a0.toNat
      endCommand (modNd r.2 fun d => { d with arg1 := r.1 }) 0
    else endCommand t 2

/-- REGREAD (R400). -/
def execRegread (arg0 : Word) (s : State) : Result := .next (regread arg0 s)

/-- The mailbox by command code, its arguments written first: an unknown one ends with status 1 (R399). [DEDUCED, log 54] -/
def mailbox (cmd : BitVec 8) (a0 a1 : Word) (s0 : State) : State :=
  let s := if mailboxOpen s0 then modNd s0 fun d => { d with arg0 := a0, arg1 := a1 } else s0
  match cmd.toNat with
  | 1 => regchain a0 a1 s
  | 2 => dropchain a1 s
  | 3 => setshare a0 a1 s
  | 4 => ackhalt s
  | 5 => readstart a0 s
  | 6 => regwrite a0 a1 s
  | 7 => regread a0 s
  | _ => command s cmd a0 a1 false fun t => endCommand t 1

/-- MBCTL (R399). [DEDUCED, log 54] -/
def mbctl (d : Ndetrief) : Word := BitVec.ofNat 64 (b2n d.go + 2 * b2n d.done + d.cmd.toNat * 2 ^ 8 + d.status.toNat * 2 ^ 32)

/-- A host write to MBCTL or MBARG0 to MBARG3, ignored while GO = 1; with GO = 1 the command is the Ndetrief's next move (R399). [DEDUCED, log 54] -/
def mbWrite (off : Nat) (v : Word) (s : State) : State :=
  if !mailboxOpen s || s.nd.go then s
  else match off with
    | 0x00 => modNd s fun d => { d with cmd := v.extractLsb' 8 8, go := v.getLsbD 0, done := d.done && !v.getLsbD 0 }
    | 0x08 => modNd s fun d => { d with arg0 := v }
    | 0x10 => modNd s fun d => { d with arg1 := v }
    | 0x18 => modNd s fun d => { d with arg2 := v }
    | 0x20 => modNd s fun d => { d with arg3 := v }
    | _ => s

/-- A command that the host has started and the Ndetrief has not yet run. -/
def commandDue (s : State) : Bool := mailboxOpen s && s.nd.go

/-- A host read of a mailbox register; another offset reads as a free value (log 16). [DEDUCED, log 54] -/
def mbRead (off : Nat) (s : State) : State :=
  if !mailboxOpen s then s
  else
    let got : Word × State := match off with
      | 0x00 => (mbctl s.nd, s)
      | 0x08 => (s.nd.arg0, s)
      | 0x10 => (s.nd.arg1, s)
      | 0x18 => (s.nd.arg2, s)
      | 0x20 => (s.nd.arg3, s)
      | _ => freeWord s
    sendBack got.2 (leBytes 8 got.1.toNat) false 0

/-! ## Attestation (R407, R508) -/

/-- SPDM_REQUEST: the measurement of an index with its signature; the measurement is 0 where its step did not run. [PRESUMED, log 65] -/
def spdm (s : State) (index : Nat) : State :=
  if !mailboxOpen s || index = 0 || 5 < index then s
  else modNd { s with freeCount := s.freeCount + 1 } fun d =>
    { d with answer := d.measurements.get 0 index, signature := Config.attestSignature s.freeCount (d.measurements.get 0 index) }

/-- SPDM_REQUEST (R407). -/
def execSpdmRequest (index : Nat) (s : State) : Result := .next (spdm s index)

/-! ## Start (R405-R407, R505-R507) -/

/-- The slot from which an image runs: the one that the start begins with, else the other; none where both fail (R505, R507). [PRESUMED, log 18] -/
def imageSlot (slots : Tbl Nat) (x : StartInput) (k : Nat) : Option Nat :=
  let first := slots.get 0 k % 2
  [first, 1 - first].find? fun n => !x.badSlots.contains (k, n)

/-- Both slots of an image fail. -/
def imageLost (x : StartInput) (k : Nat) : Bool := x.badSlots.contains (k, 0) && x.badSlots.contains (k, 1)

/-- The slots with which the next start's step 2 begins: the other one after a failure (R507). [PRESUMED, log 18] -/
def nextSlots (slots : Tbl Nat) (x : StartInput) : Tbl Nat :=
  [2, 3, 4].foldl (fun t k => if x.badSlots.contains (k, slots.get 0 k % 2) then t.set 0 k (1 - slots.get 0 k % 2) else t) slots

/-- The outcome of step `k` that the start meets; step 2 has failed where an image failed in the slot that it began with, which shows the change
of slot (R505, R508). [PRESUMED, log 18] -/
def outcomeOf (slots : Tbl Nat) (x : StartInput) (k : Nat) : Nat :=
  if k = 2 then
    if [2, 3, 4].any fun i => x.badSlots.contains (i, slots.get 0 i % 2) then 3 else Nat.min 2 (bits x.outcomes.toNat 2 2)
  else bits x.outcomes.toNat (2 * (k - 1)) 2

/-- The step's failure ends the start: in no response, or in the safe state (R505). [PRESUMED, log 18] -/
def stepFatal (x : StartInput) (k : Nat) : Bool :=
  if k = 2 then imageLost x 2 || imageLost x 3
  else bits x.outcomes.toNat (2 * (k - 1)) 2 == 3 && (k == 1 || k == 3 || k == 4 || k == 5 || k == 7)

/-- The first step whose failure ends the start. -/
def fatalStep (x : StartInput) : Option Nat := [1, 2, 3, 4, 5, 6, 7, 8].find? (stepFatal x)

/-- Step `k` runs. -/
def stepRuns (x : StartInput) (k : Nat) : Bool :=
  match fatalStep x with
  | some f => decide (k ≤ f)
  | none => true

/-- Step `k` runs and does not fail. -/
def stepDone (x : StartInput) (k : Nat) : Bool := stepRuns x k && !stepFatal x k

/-- STEPS of the start record: 00 for a step that did not run (R406). -/
def stepsField (slots : Tbl Nat) (x : StartInput) : Nat :=
  ([1, 2, 3, 4, 5, 6, 7, 8].map fun k => if stepRuns x k then outcomeOf slots x k * 4 ^ (k - 1) else 0).foldl (· + ·) 0

/-- BUILD: recovery, the build of a recovery start that is not yet repaired, or what is selected (R507, R508). -/
def buildField (prev : Word) (x : StartInput) : Nat :=
  let clean := (List.range 8).all fun k => let o := bits prev.toNat (24 + 2 * k) 2; o == 1 || o == 2
  if imageLost x 2 || (bits prev.toNat 46 2 == 3 && !clean) then 3 else x.build.toNat

/-- The lane rates of a port, and the next lower and higher one (log 18). -/
def rateDown (r : Nat) : Nat :=
  if 32 < r then 32 else if 16 < r then 16 else if 8 < r then 8 else if 5 < r then 5 else 2
def rateUp (r : Nat) : Nat := if r < 5 then 5 else if r < 8 then 8 else if r < 16 then 16 else if r < 32 then 32 else 64

/-- The rate at which a port's training begins: nominal at the first start; one up after a start that it passed at its rate, one below its
previous rate otherwise (R507). -/
def beginRate (first : Bool) (p : Port) : Nat :=
  if first then 64
  else if p.rate = p.begins then (if p.rate = 64 then 64 else rateUp p.begins.toNat)
  else rateDown (if p.rate = 0 then p.begins.toNat else p.rate.toNat)

/-- The ports as this start trains them; a port that fails is down (R505, R506). [PRESUMED, log 18] -/
def startPorts (s : State) (x : StartInput) : Tbl Port :=
  (List.range 8).foldl (fun t k =>
    let b := beginRate (!s.nd.startedBefore) (s.nd.ports.get {} k)
    t.set {} k { begins := BitVec.ofNat 8 b, rate := if stepRuns x 6 then BitVec.ofNat 8 (Nat.min b (bits x.ports.toNat (8 * k) 8)) else 0 }) []

/-- The rate at which the host link trains, in the safe state too: from the nominal one down to 2.5 GT/s; 0 below it (R397, R505, R506).
[PRESUMED, log 18] -/
def hostRateOf (x : StartInput) : BitVec 8 :=
  match ([64, 32, 16, 8, 5, 2] : List Nat)[x.hostFails]? with
    | some r => BitVec.ofNat 8 r
    | none => 0

/-- The bits of a set of octets. -/
def octetCount (v : BitVec 1152) : Nat := ((List.range 1152).filter fun g => v.getLsbD g).length

/-- The start record (R406). [PRESUMED, log 18] -/
def startRecord (seq build : Nat) (slots : Tbl Nat) (x : StartInput) (ports : Tbl Port) (rowcap retired : BitVec 1152) : Tbl Word :=
  let w0 := octetCount retired + octetCount rowcap * 2 ^ 12 + stepsField slots x * 2 ^ 24 + build * 2 ^ 46 + seq * 2 ^ 48
  let w1 := packElems 8 ((List.range 8).map fun p => (ports.get {} p).rate.toNat)
  (List.range 18).foldl (fun (t : Tbl Word) k => t.set 0 (2 + k) (BitVec.ofNat 64 (rowcap.toNat >>> (64 * k))))
    (Tbl.set 0 (Tbl.set 0 [] 0 (BitVec.ofNat 64 w0)) 1 (BitVec.ofNat 64 w1))

/-- The start record as SHA3-256 measures it: its words, the first lowest (R7, R407). [PRESUMED, log 65] -/
def recordBytes (record : Tbl Word) : List Byte := ((List.range 20).map fun w => leBytes 8 (record.get 0 w).toNat).flatten

/-- What an index measures: the ROM, and the images that run; the recovery code for the Ndetrief firmware and 32 zero bytes for the
translator where both slots fail (R407, R508). [PRESUMED, log 18] -/
def imageDigest (slots : Tbl Nat) (x : StartInput) (k : Nat) : BitVec 256 :=
  if k = 1 then x.romDigest
  else match imageSlot slots x k with
    | some n => Tbl.get 0 (x.digests.get [] k) n
    | none => if k = 2 then x.recoveryDigest else 0

/-- The measurements: indices 1 to 4 at step 3, index 5 at step 8; index 2 also where the firmware fails in both slots, which ends the start
at step 2 (R407, R508). [PRESUMED, log 18] [PRESUMED, log 65] -/
def measure (slots : Tbl Nat) (x : StartInput) (record : Tbl Word) : Tbl (BitVec 256) :=
  let l := if stepDone x 3 then [1, 2, 3, 4] else if stepRuns x 2 && imageLost x 2 then [2] else []
  let m : Tbl (BitVec 256) := l.foldl (fun t k => t.set 0 k (imageDigest slots x k)) []
  if stepRuns x 8 then m.set 0 5 (sha3 (recordBytes record)) else m

/-- The SAGs of a bank keep the spares that remaps have left (R480, R507). [DESIGN CHOICE, log 44] -/
def keepSpares (b : Bank) : Bank :=
  { sags := Tbl.mapAll {} b.sags fun _ g => { spares := g.spares } }

/-- Every agent of the device, in the order of log 3. -/
def allAgents : List Agent :=
  ((List.range 128).map fun k => [Agent.hart (aHartId k), .hart (xHartId k), .unit k, .engine k]).flatten ++
  ((List.range 8).map fun w => [Agent.hart (docentId w), .docent w, .walker w]).flatten ++ (List.range 1152).map Agent.pergola

/-- Step 4's failing bundles, each handled by R504 (R505). [PRESUMED, log 18] -/
def startBundles (x : StartInput) (s : State) : State :=
  if (fatalStep x).isNone then (x.badBundles.filter fun l => decide (l < 144)).foldl retireBundle s else s

/-- A start: every unit leaves reset, and what the Ndetrief keeps stays: its time, its logs, retired octets, row remaps, the ports' rates,
the image slots and the record of the start before (R20, R405, R480, R507). [DESIGN CHOICE, log 44] -/
def startFrom (s : State) (x : StartInput) : State :=
  let seq := (s.nd.starts.toNat + 1) % 2 ^ 16
  let prev := s.nd.record
  let build := buildField (prev.get 0 0) x
  let retired := s.retired ||| s.toRetire ||| x.retired
  let rowcap := if stepDone x 7 then x.rowcap &&& ~~~retired else 0
  let ports := startPorts s x
  let record := startRecord seq build s.nd.slots x ports rowcap retired
  let safe := (fatalStep x).isSome
  startBundles x
  { pergolas := (s.pergolas.map fun p => (p.1, ({ banks := (p.2.banks.map fun b => (b.1, keepSpares b.2)).filter fun b => b.2 != {} } : Pergola))).filter
      fun p => p.2 != {},
    remapped := s.remapped, upsets := s.upsets, softs := s.softs, errLog := s.errLog, schedLog := s.schedLog,
    retired := retired, rowcap := rowcap,
    intlvSize := if stepDone x 7 then (1152 - octetCount (rowcap ||| retired)) * 384 * 2 ^ 20 else 0,
    scopeCount := s.scopeCount, freeCount := s.freeCount, inputs := s.inputs, ring := allAgents,
    nd := { started := !safe, safe := safe && fatalStep x != some 1, dead := fatalStep x == some 1 || hostRateOf x == 0,
            ltime := s.nd.ltime, nextSample := s.nd.nextSample, supply := s.nd.supply, start := x, record := record, previous := prev,
            starts := BitVec.ofNat 16 seq, startedBefore := true, slots := if stepRuns x 2 then nextSlots s.nd.slots x else s.nd.slots,
            hostRate := if fatalStep x == some 1 then 0 else hostRateOf x, measurements := measure s.nd.slots x record, ports := ports } }

/-- POWER_UP: the start steps, with what this start meets. [DESIGN CHOICE, log 10] [DESIGN CHOICE, log 44] -/
def powerUp (s : State) : State := startFrom s s.nd.start

/-- POWER_UP (R405). -/
def execPowerUp (s : State) : Result := .next (powerUp s)

end Sys2Proof.Machine
end

