-- ==== Sys2Proof/Machine/RowEvents.lean ====
section
/-! DEFINITION. What time does to a Pergola: row registers open, restore, end their writers and write-backs; refresh debt, its trap and the
forced refresh (R229-R233, R241, R449, R471, R480-R483). -/
namespace Sys2Proof.Machine

/-! ## Row registers (R231-R233) -/

/-- tRCD has passed since the ACT. -/
def opensNow (s : State) (g b n : Nat) : Bool :=
  let r := regOf s g b n
  r.st == .opening && decide (r.actAt + 18 ≤ rcOf s g)

/-- ROW_OPEN: readers may start. -/
def rowOpen (s : State) (g b n : Nat) : State := if opensNow s g b n then modReg s g b n fun r => { r with st := .opened } else s

/-- ROW_OPEN (R231). -/
def execRowOpen (pergola bank reg : Nat) (s : State) : Result := event (bankExists pergola bank && decide (reg < 8)) (rowOpen s pergola bank reg)

/-- tRAS has passed since the ACT. [DEDUCED, log 47] -/
def restoresNow (s : State) (g b n : Nat) : Bool :=
  let r := regOf s g b n
  (r.st == .opened || r.st == .busy) && !r.restored && decide (r.actAt + 48 ≤ rcOf s g)

/-- ROW_RESTORED: RESTORED := 1, and a lasting row is retired (R229, R480). [DEDUCED, log 47] -/
def rowRestored (s : State) (g b n : Nat) : State :=
  if restoresNow s g b n then
    let t := modReg s g b n fun r => { r with restored := true }
    if (regOf s g b n).lasting then retireRow t g b n else t
  else s

/-- ROW_RESTORED (R229). -/
def execRowRestored (pergola bank reg : Nat) (s : State) : Result :=
  event (bankExists pergola bank && decide (reg < 8)) (rowRestored s pergola bank reg)

/-- The last group of a writer is written. -/
def writerEnds (s : State) (g b n : Nat) : Bool :=
  let r := regOf s g b n
  r.st == .busy && decide (r.busyEnd ≤ rcOf s g)

/-- ROW_WRITER_COMPLETE: BUSY becomes OPEN, DIRTY if any byte changed (R231, R233). -/
def rowWriterComplete (s : State) (g b n : Nat) : State :=
  if writerEnds s g b n then
    modReg s g b n fun r => { r with st := .opened, dirty := r.dirty || r.busyDirty, busyDirty := false, freeAt := rcOf s g }
  else s

/-- ROW_WRITER_COMPLETE (R233). -/
def execRowWriterComplete (pergola bank reg : Nat) (s : State) : Result :=
  event (bankExists pergola bank && decide (reg < 8)) (rowWriterComplete s pergola bank reg)

/-- tWB has passed since the write-back began. -/
def writebackEnds (s : State) (g b n : Nat) : Bool :=
  match (regOf s g b n).wbEnd with
  | some (t, _) => decide (t ≤ rcOf s g)
  | none => false

/-- WRITEBACK_END: the cells equal the register, DIRTY := 0, and WBPRE closes it (R231, R240). -/
def writebackEnd (s : State) (g b n : Nat) : State :=
  if !writebackEnds s g b n then s
  else
    let r := regOf s g b n
    let t := if r.dirty then writeCells s (regCoord g b n r) r.data r.poison else s
    let u := modReg t g b n fun r => { r with dirty := false, wbEnd := none }
    match r.wbEnd with
    | some (_, true) => closeReg u g b n
    | _ => u

/-- WRITEBACK_END (R231). -/
def execWritebackEnd (pergola bank reg : Nat) (s : State) : Result :=
  event (bankExists pergola bank && decide (reg < 8)) (writebackEnd s pergola bank reg)

/-- A time mark that the Pergola's clock has reached. -/
def passed (mark now : Nat) : Bool := decide (mark ≠ 0) && decide (mark ≤ now)

/-- PRECHARGE_END: the SAG takes ACT and REF again (R232). -/
def prechargeEnd (s : State) (g b n : Nat) : State :=
  if passed ((bankOf s g b).sag n).preEnd (rcOf s g) then modSag s g b n fun t => { t with preEnd := 0 } else s

/-- PRECHARGE_END (R232). -/
def execPrechargeEnd (pergola bank sag : Nat) (s : State) : Result :=
  event (bankExists pergola bank && decide (sag < 8)) (prechargeEnd s pergola bank sag)

/-- A REF's 90 rc have passed; a forced refresh ends by its own event. -/
def refreshEnds (s : State) (g b n : Nat) : Bool :=
  passed ((bankOf s g b).sag n).refEnd (rcOf s g) && !((bankOf s g b).sag n).forced

/-- REFRESH_END: ACT and REF on the SAG may issue again (R231). -/
def refreshEnd (s : State) (g b n : Nat) : State :=
  if refreshEnds s g b n then modSag s g b n fun t => { t with refEnd := 0 } else s

/-- REFRESH_END (R231). -/
def execRefreshEnd (pergola bank sag : Nat) (s : State) : Result :=
  event (bankExists pergola bank && decide (sag < 8)) (refreshEnd s pergola bank sag)

/-- Activations of a layer have left its trailing 48 rc. -/
def windowMoves (s : State) (l : Nat) : Bool := (layerOf s l).acts.any fun t => decide (t + 48 ≤ rcOf s (8 * l))

/-- ACTIVATION_WINDOW_EXPIRY (R25, R232). -/
def activationWindowExpiry (s : State) (l : Nat) : State :=
  if windowMoves s l then modLayer s l fun y => { y with acts := y.acts.filter fun t => decide (rcOf s (8 * l) < t + 48) } else s

/-- ACTIVATION_WINDOW_EXPIRY (R232). -/
def execActivationWindowExpiry (layer : Nat) (s : State) : Result := event (decide (layer < 144)) (activationWindowExpiry s layer)

/-! ## Refresh debt (R241, R449) -/

/-- The device's own refresh of six rows rewrites the correctable codewords of an octet that is not leased, and counts them (R472). [DESIGN CHOICE, log 42] -/
def scrub (s : State) (g b n first : Nat) : State :=
  (List.range 6).foldl (fun t k =>
    let r := 8 * ((first + k) % 768) + n
    match t.softs.get [] (rowCoord g b r) with
    | [] => t
    | m :: _ => countCorrected { t with softs := t.softs.set [] (rowCoord g b r) [] } g b r (countOnes m)) s

/-- One SAG's rise: the device pays it itself in an octet that is not leased and under a RESCUED register; in a halted lessee's octet it pays
the whole debt of a CLOSED SAG. Otherwise the debt stays, and reaching 6 makes REFDUE due (R241, R449, R481, R483). [DESIGN CHOICE, log 42] -/
def debtRise (s : State) (g b n : Nat) : State :=
  let t := (bankOf s g b).sag n
  if !leased s g then modSag (scrub s g b n t.nextRow) g b n fun t => { t with nextRow := (t.nextRow + 6) % 768 }
  else if (regOf s g b n).st = .rescued && !t.forced then modSag s g b n fun t => { t with nextRow := (t.nextRow + 6) % 768 }
  else if !ctxRunning s (perOf s g).lessee && (regOf s g b n).st = .closed && !t.forced then
    modSag s g b n fun t => { t with debt := 0, due := false, nextRow := (t.nextRow + 6 * (t.debt + 1)) % 768 }
  else modSag s g b n fun t => { t with debt := Nat.min 15 (t.debt + 1), due := t.due || t.debt == 5 }

/-- REFRESH_DEBT_RISE: 250 µs of the Pergola's local time have passed. -/
def refreshDebtRise (s : State) (g : Nat) : State :=
  (List.range 8).foldl (fun t b => (List.range 8).foldl (fun u n => debtRise u g b n) t) s

/-- REFRESH_DEBT_RISE (R241). -/
def execRefreshDebtRise (pergola : Nat) (s : State) : Result := event (decide (pergola < 1152)) (refreshDebtRise s pergola)

/-- Who reports the REFDUE of bank `b`: the gang, or the bank in split mode. -/
def refdueAgent (s : State) (g b : Nat) : Agent :=
  if (perOf s g).gang then .pergola g else .bank g (if (perOf s g).dual then b % 4 else b)

/-- The bank, or its gang, has a next instruction. -/
def issues (s : State) (g b : Nat) : Bool :=
  (perOf s g).step.isSome && (perOf s g).phase == .running && ((perOf s g).gang || (hartOf s (bankId g b)).run == .running)

/-- REFDUE: raised at the next instruction of a bank with a SAG at its deadline; never while the context halts (R449, R481). -/
def refdue (s : State) (g b : Nat) : State :=
  let t := { s with cur := refdueAgent s g b }
  if refdueOf s g b && issues s g b && leaseCounts s g && (refdueBanks t).contains b then
    { finish t none false (.error (refdueStop t fun _ => none)) with cur := s.cur }
  else s

/-- REFDUE (R481). -/
def execRefdue (pergola bank : Nat) (s : State) : Result := event (bankExists pergola bank) (refdue s pergola bank)

/-! ## The forced refresh (R482) -/

/-- A SAG of a leased octet stands at a debt of 9 or more. [DESIGN CHOICE, log 42] -/
def forceDue (s : State) (g b n : Nat) : Bool :=
  leased s g && decide (9 ≤ ((bankOf s g b).sag n).debt) && !((bankOf s g b).sag n).forced && (regOf s g b n).st != .rescued

/-- The register is OPEN, RESTORED and unused: its rescue may begin. -/
def quietReg (s : State) (g b n : Nat) : Bool :=
  let r := regOf s g b n
  r.st == .opened && r.restored && r.wbEnd.isNone && decide (r.readEnd ≤ rcOf s g)

/-- Steps 2 to 5: a DIRTY register goes to the rescue row for tWB, then precharge, tRP and the REFs; the register keeps ROW and RSAVED. [DESIGN CHOICE, log 42] -/
def rescue (s : State) (g b n : Nat) : State :=
  let r := regOf s g b n
  let t := if r.dirty then writeCells s (rowCoord g b (6136 + n)) r.data r.poison else s
  let closed := rcOf s g + (if r.dirty then 12 else 0)
  modSag (modReg t g b n fun r => { r.closed with st := .rescued, rsaved := r.dirty }) g b n fun q =>
    { q with preEnd := closed + 18, refEnd := closed + 18 + 90 * q.debt }

/-- FORCED_REFRESH: it begins and is logged (step 1); once the register is unused its contents are saved, and a CLOSED SAG goes to its REFs
at once. [DESIGN CHOICE, log 42] -/
def forcedRefresh (s : State) (g b n : Nat) : State :=
  if forceDue s g b n then
    let r := regOf s g b n
    let t := logRow (modSag s g b n fun q => { q with forced := true }) g b 0x08 (8 * r.row.toNat + n) 0 0
    if r.st = .closed then modSag t g b n fun q => { q with refEnd := Nat.max (rcOf s g) (Nat.max q.preEnd q.refEnd) + 90 * q.debt }
    else if quietReg s g b n then rescue t g b n
    else t
  else if leased s g && ((bankOf s g b).sag n).forced && quietReg s g b n then rescue s g b n
  else s

/-- FORCED_REFRESH (R482). -/
def execForcedRefresh (pergola bank sag : Nat) (s : State) : Result :=
  event (bankExists pergola bank && decide (sag < 8)) (forcedRefresh s pergola bank sag)

/-- The REFs of a forced refresh are done. -/
def forcedEnds (s : State) (g b n : Nat) : Bool :=
  let t := (bankOf s g b).sag n
  t.forced && ((regOf s g b n).st == .closed || (regOf s g b n).st == .rescued) && decide (t.refEnd ≤ rcOf s g)

/-- FORCED_REFRESH_DONE: the debt is 0, and instructions may name the SAG again (R482, R483). -/
def forcedRefreshDone (s : State) (g b n : Nat) : State :=
  if forcedEnds s g b n then modSag s g b n fun t => { t.paid with forced := false, refEnd := 0 } else s

/-- FORCED_REFRESH_DONE (R482). -/
def execForcedRefreshDone (pergola bank sag : Nat) (s : State) : Result :=
  event (bankExists pergola bank && decide (sag < 8)) (forcedRefreshDone s pergola bank sag)

/-! ## What is due now -/

/-- A step that a Pergola's clock brings about, with its bank and register or SAG. -/
inductive RowEvent where
  | opens
  | restores
  | writes
  | writeback
  | precharged
  | refreshed
  | forced
  | forcedDone
  deriving DecidableEq, Repr

/-- The first step that is due for register or SAG `n` of bank `b`. -/
def dueAt (s : State) (g b n : Nat) : Option RowEvent :=
  if opensNow s g b n then some .opens
  else if writerEnds s g b n then some .writes
  else if restoresNow s g b n then some .restores
  else if writebackEnds s g b n then some .writeback
  else if forceDue s g b n || (((bankOf s g b).sag n).forced && quietReg s g b n) then some .forced
  else if forcedEnds s g b n then some .forcedDone
  else if refreshEnds s g b n then some .refreshed
  else if passed ((bankOf s g b).sag n).preEnd (rcOf s g) then some .precharged
  else none

/-- The first step that is due in a Pergola. -/
def dueRow (s : State) (g : Nat) : Option (Nat × Nat × RowEvent) :=
  (List.range 64).findSome? fun k => (dueAt s g (k / 8) (k % 8)).map fun e => (k / 8, k % 8, e)

end Sys2Proof.Machine
end

