-- ==== Sys2Proof/Machine/Stop.lean ====
section
/-! DEFINITION. UNIT_STOP: what a halt catches of a core's matrix work and engine commands, and the stop record (R435-R441). -/
namespace Sys2Proof.Machine

/-! ## UNIT_STOP of a core (R436, R437, R441) -/

/-- Positions of K that a product sums as one: a group of B, twelve of a sparse one (R163, R437). -/
def Prod.grain (p : Prod) : Nat := Nat.lcm (if p.grouped then 2 ^ blkLog p.blk else 1) (if p.sparse = 0 then 1 else 12)

/-- A stop catches a product in flight at some reduction index, MDELTA after some token, as the hardware happens to stand (R437); its slots
are full, since no writer is in flight (R288). Work whose words or outputs are partly complete runs to its end. [DESIGN CHOICE, log 62] -/
def catchWork (s : State) (k : Nat) (w : MatrixWork) : State × Option MatrixWork :=
  let pick (n : Nat) : Nat := Config.stopIndex s.freeCount % (n + 1)
  let whole := w.tiles.all (fun x => x.pending && !(slotOf s x.core w.slot).full) && w.outs.all fun r => (coreOf s k).vpend.contains r.1
  if w.again then (s, some w)
  else if !whole then (fillTiles s w, none)
  else match w.prod with
    | some p =>
      let at' := Nat.min p.k (w.entry.done + p.grain * pick ((p.k - w.entry.done) / p.grain))
      let put (t : State) (x : MatrixTile) : State := modSlot t x.core w.slot fun _ =>
        if at' = w.entry.done then { x.before with full := true }
        else { productPart s k p (p.tile s k) x.row x.col (p.accz && w.entry.done == 0)
                 (fun n => decide (w.entry.done ≤ n) && decide (n < at')) x.before (coreOf s x.core) with full := true }
      ({ w.tiles.foldl put s with freeCount := s.freeCount + 1 }, some { w with entry := { w.entry with done := at' }, again := true })
    | none =>
      let d := w.fast
      let look (l : List (Nat × VReg)) (n : Nat) : VReg := (l.lookup n).getD 0
      let put (t : State) (x : MatrixTile) : State :=
        let at' := x.before.prog.toNat + pick (d.t - x.before.prog.toNat)
        let r := deltaSlot (look (w.ins ++ w.outs)) d x.before at'
        let elems := r.2 ++ (groupIn (look w.outs) d.outputs).drop r.2.length
        let t1 := modSlot t x.core w.slot fun _ => { r.1 with full := true }
        modCore t1 k fun q => { q with
          v := (List.range w.outs.length).foldl (fun v j => v.set 0 (d.oreg + j) (ofVElems 32 ((elems.drop (256 * j)).take 256))) q.v }
      let t := w.tiles.foldl put s
      let done := ((w.tiles.head?.map fun x => (slotOf t x.core w.slot).prog.toNat).getD 0)
      ({ t with freeCount := s.freeCount + 1 }, some { w with entry := { w.entry with done := done }, again := true })

/-- The work of a step on its core caught, oldest first. -/
def catchStep (s : State) (k : Nat) (i : StepInfo) : State :=
  (coreOf s k).matrix.foldl (fun t w =>
    if !sameStep w.entry.info i then t
    else
      let r := catchWork t k w
      modCore r.1 k fun q => { q with matrix := (q.matrix.erase w) ++ r.2.toList })
    s

/-- A follow-on that waits for its copy is caught with it, and nothing of it is done (R437). [DESIGN CHOICE, log 62] -/
def catchFollows (s : State) (k : Nat) (i : StepInfo) : State :=
  ((ownEngines (coreOf s k) i).filter (·.fpend)).foldl (fun t e =>
    let w : MatrixWork := { entry := e, slot := followSlot e, again := true, follow := true,
                            tiles := (followCores e k).map fun c => { core := c, before := slotOf t c (followSlot e) } }
    addWork (fillTiles t w) k w) s

/-- The engine records of a stop: the step's commands, a copy whose follow-on was issued with that work's progress, and its matrix work
(R441). -/
def stopRecords (k : Core) (i : StepInfo) : List EngineRec :=
  let work := k.matrix.filter fun w => w.again && sameStep w.entry.info i
  ((ownEngines k i).map fun e =>
    if e.finstr = 0 || e.fpend then e
    else match work.find? fun w => w.follow && w.entry.finstr == e.finstr && w.entry.token == e.token with
      | some w => { e with done := w.entry.done }
      | none => { e with done := ((followProd e).map (·.k)).getD 0 }) ++
  ((work.filter fun w => !w.follow).map (·.entry))

/-- A mapped copy at a stop: what it has read is written, so that DONE positions are performed; where a line of a peer must still wait for an
earlier copy's, DONE falls back to the first position that the line holds back (R138, R437). [DEDUCED, log 30] -/
def settleOut (s : State) (core n : Nat) : State :=
  match engineAt s core n with
  | none => s
  | some e =>
    let units := e.out.foldl (fun l p => let u := destUnit s e p.1; if l.contains u then l else l ++ [u]) []
    modEngine (units.foldl (fun t u => flushUnit t core n u) s) core n fun x =>
      { x with out := [], done := (x.tmap.bind fun t => (List.range x.done).find? fun k =>
          let o := (tmPos t.1 t.2 k).2
          x.out.any fun p => decide (o ≤ p.1) && decide (p.1 < o + tmEsize t.1)).getD x.done }

/-- Every mapped copy of the step settled. -/
def settleCopies (s : State) (k : Nat) (i : StepInfo) : State :=
  (List.range (coreOf s k).engines.length).foldl (fun t n => match engineAt t k n with
    | some e => if sameStep e.info i then settleOut t k n else t
    | none => t) s

/-- The moves between a slot and memory that a stop catches: an MST keeps the words that it stores, since a later writer waits until it has
read them (R289, R437). [DEDUCED, log 80] -/
def caughtMoves (s : State) (k : Nat) (i : StepInfo) : List EngineRec :=
  ((ownEngines (coreOf s k) i).filter fun e => e.kind == .mld || e.kind == .mst).map fun e =>
    if e.kind = .mst then { e with snap := some (e.snap.getD (slotOf s k (bits e.instr.toNat 14 3)).words) } else e

/-- UNIT_STOP of a core, once every access is performed: its step's stop record is written, with the commands and matrix work in flight; what
the vector queue still holds is taken back (R436-R441, R450). [DESIGN CHOICE, log 6] [DEDUCED, log 24] -/
def stopCore (s : State) (c : Nat) : State :=
  match (coreOf s c).step with
  | none => s
  | some i =>
    if (coreOf s c).phase ≠ .running || (haltOf s i.context).st ≠ .halting || !accessesDone s c then s
    else
      let s0 := rewindQueue s c
      let s1 := catchFollows (catchStep (settleCopies (haltHart (haltHart s0 (aHartId c)) (xHartId c)) c i) c i) c i
      let k := coreOf s1 c
      let frame := coreFrame s i.context c i.prio
      let header := stopHeader i (some (haltOf s i.context)) k.fault
      let s2 := if deviceArea s frame 0xA000 then writeFrame s1 c i header (stopRecords k i) frame
        else badFrame s1 i.context (xHartId c) (.core c)
      let j := { i with kind := BitVec.ofNat 2 header.kind }
      modHalt (modCore s2 c fun k =>
          { k with step := some j, phase := .stopped, fault := none, engines := otherEngines k i, stores := k.stores ++ caughtMoves s1 c i,
                        frame := frame }) i.context
        fun h => { h with cstop := h.cstop + 1 }

/-- UNIT_STOP (R435). -/
def execUnitStop (unit : UnitRef) (s : State) : Result :=
  event (unitExists unit) (match unit with
    | .core c => stopCore s c
    | .pergola g => stopPergola s g)

end Sys2Proof.Machine
end

