-- ==== Sys2Proof/Machine/Task.lean ====
section
/-! DEFINITION. Major 0xA0: the end of steps, cancel scopes, barriers, YIELD and GETPG (R34, R46, R54-R64, R134, R334-R343). -/
namespace Sys2Proof.Machine

/-! ## EXIT (R54, R55, R335) -/

/-- The successors that a hart's EXIT names, in the order D, A, B, C. -/
def successors (f : FmtR) (h : Hart) : List Word := ([f.d, f.a, f.b, f.c].map h.opnd).filter (· != 0)

/-- The reads of one named block: its SCOPE field and the PARENT chain of its record; whether it lies in the subtree of `home`. -/
def successorRead (s : State) (c : AddrCtx) (home : Option Nat) (va : Word) : Chk Bool := do
  let x ← deviceRead s c (va.toNat + 16) 8 8
  match home with
  | none => .ok false
  | some pa => chainCheck s c pa 17 x.2

/-- The home scope's record, by its physical address. -/
def homeRecord (s : State) (id : Nat) : Option Nat :=
  match deviceAddr s (entryCtx s (hartOf s id).context) (hartOf s id).home.toNat false 64 with
  | .ok x => some x.1
  | .error _ => none

/-- The first failing check of a hart's EXIT: alignment of every name, then the reads, then the subtree. [DEDUCED, log 45] -/
def exitFault (s : State) (f : FmtR) (id : Nat) : RowFault :=
  let h := hartOf s id
  let c := entryCtx s h.context
  let l := successors f h
  let home := homeRecord s id
  match l.find? fun v => v.toNat % 256 != 0 with
  | some v => some (Cause.misalign, v)
  | none =>
    match l.findSome? fun v => match successorRead s c home v with
      | .error e => some e
      | .ok _ => none with
    | some e => some e
    | none => (l.find? fun v => match successorRead s c home v with
      | .ok b => !b
      | .error _ => false).map fun v => (Cause.scopefault, v)

/-- Poison in a named block that the checks did not read is a partition fault of the EXIT, which is then not performed (R477). [DEDUCED, log 45] -/
def exitPoison (f : FmtR) (id : Nat) (s : State) : M Unit :=
  let h := hartOf s id
  match (successors f h).findSome? (blockPoison s (entryCtx s h.context)) with
  | some v => .error (.part s Cause.ue 7 v)
  | none => .ok ()

/-- The reads of a hart's EXIT, of each named block's SCOPE and of its record's chain, have been performed (R55, R72). -/
def exitReads (f : FmtR) (id : Nat) (s : State) : State :=
  let c := entryCtx s (hartOf s id).context
  (successors f (hartOf s id)).foldl (fun t v => match deviceRead t c (v.toNat + 16) 8 8 with
    | .ok x => chainTouch c ((homeRecord s id).getD 0) 17 (deviceTouch t c (v.toNat + 16)) x.2
    | .error _ => t) s

/-- The decrements of a hart's EXIT. -/
def exitDecrements (f : FmtR) (id : Nat) (s : State) : State :=
  let h := hartOf s id
  (successors f h).foldl (fun t v => decrement t (entryCtx t h.context) v) (exitReads f id s)

/-- A compute step ends with its X-hart's EXIT (R34, R362). -/
def endCompute (s : State) (k : Nat) : State :=
  match (coreOf s k).step with
  | none => s
  | some i =>
    let s1 := modHarts s [aHartId k, xHartId k] fun h => h.drop .idle
    leaveStep (addEnded (modCore s1 k Core.clearStep) (entryCtx s1 i.context) i.launch 1) i 1

/-- The successors are checked first (R335). [DEDUCED, log 45] -/
def exitCheck (f : FmtR) (id : Nat) (s : State) : M Unit :=
  match exitFault s f id with
  | some e => .error (.trap e.1 e.2)
  | none => exitPoison f id s

/-- EXIT of the X-hart: waits for an idle A-hart and the step's commands; reports; then the successors and the end of the step. -/
def exitX (f : FmtR) (s : State) : M State := do
  let k := curCore s
  let id := xHartId k
  exitCheck f id s
  if (hartOf s (aHartId k)).run ≠ .idle then .error (.wait s true) else .ok ()
  match (coreOf s k).step with
  | some i => if !(stepCommands s i).isEmpty then .error (.wait s true) else .ok ()
  | none => .ok ()
  afterAll s (aHartId k)
  afterAll s id
  refusedReport s
  followReport s fun _ => true
  ok (endCompute (exitDecrements f id s) k)

/-- EXIT of the A-hart: it becomes idle once its own accesses and commands are performed (R34). -/
def exitA (f : FmtR) (s : State) : M State := do
  let k := curCore s
  let id := aHartId k
  exitCheck f id s
  if !(commandsOf s id).isEmpty then .error (.wait s true) else .ok ()
  afterAll s id
  refusedReport s
  followReport s fun _ => true
  ok (idleAHart (exitDecrements f id s) k)

/-- EXIT of a docent: decrements, no scope check, no end; its accesses are performed first, and refusals are reported; a block
that its tables do not map is no cause (R134, R359, R500). [DEDUCED, log 45] -/
def exitDocent (f : FmtR) (s : State) : M State := do
  let id := leadHart s
  let h := hartOf s id
  match (successors f h).find? fun v => v.toNat % 256 != 0 with
  | some v => .error (.trap Cause.misalign v)
  | none => do
    (match (successors f h).findSome? (blockPoison s (hartCtx s id)) with
     | some v => .error (.trap Cause.ue v)
     | none => .ok ())
    afterAll s id
    refusedReport s
    ok (advance ((successors f h).foldl (fun t v => decrement t (hartCtx t id) v) s))

/-- Every access of a bank is performed: its write-backs and its lane work's results (R134). -/
def bankSettled (s : State) (g b : Nat) : Bool :=
  (bankOf s g b).o.all fun p => p.2.wbEnd.isNone && p.2.st != .busy

/-- A row step ends for the banks `bs`; with the last bank it has ended (R46, R362). -/
def endBanks (s : State) (g : Nat) (bs : List Nat) : State :=
  match (perOf s g).step with
  | none => s
  | some i =>
    let n := (bs.filter fun b => (hartOf s (bankId g b)).live).length
    let s1 := modHarts s (bs.map (bankId g)) fun h => h.drop .exited
    let s2 := if (List.range 8).any fun b => (hartOf s1 (bankId g b)).live then s1
              else modPer (addEnded s1 (entryCtx s1 i.context) i.launch 1) g fun p => { p with step := none, gang := true }
    leaveStep s2 i n

/-- EXIT of a gang, of a bank or of a pair: each performing bank names its own successors. [DEDUCED, log 33] -/
def exitRow (f : FmtR) (s : State) : M State := do
  let g := curPer s
  let bs := (allHarts s).map bankOfHart
  ownFaults s (exitFault s f)
  (performers s).forM fun id => exitPoison f id s
  if !bs.all (bankSettled s g) || fetchOf s (64 + g) (allHarts s) then .error (.wait s false) else .ok ()
  ok (endBanks ((performers s).foldl (fun t id => exitDecrements f id t) s) g bs)

/-- EXIT; a cancelled hart spawns nothing (R58). -/
def exitStep (f : FmtR) (s : State) : M State :=
  if cancelled s then ok (killCur s)
  else match curKind s with
    | some .xHart => exitX f s
    | some .aHart => exitA f s
    | some .docent => exitDocent f s
    | _ => exitRow f s

/-- EXIT (R335). -/
def execExit (f : FmtR) (s : State) : Result := perform (.exit f) s (exitStep f)

/-! ## SCOPE, CANCEL, CWAIT (R56, R57, R336-R338, R469) -/

/-- A new scope record (R336). [DESIGN CHOICE, log 9] -/
def newRecord (parent : Word) (pr : Nat) (context : BitVec 16) (id : BitVec 32) : Nat :=
  (if recState pr = 0 then 0 else 2 + bits pr 432 16 * 2 ^ 432) + (recDepth pr + 1) * 16 + context.toNat * 2 ^ 16 + id.toNat * 2 ^ 32 +
    parent.toNat % 2 ^ 56 * 2 ^ 64

/-- SCOPE on a compute hart. [DESIGN CHOICE, log 9] -/
def openScope (f : FmtR) (s : State) : M State := do
  let id := leadHart s
  let h := hartOf s id
  let c := hartCtx s id
  let v := xRead s f.a
  afterAll s id
  if v = 0 then
    let r ← lift (deviceRead s c h.home.toNat 64 64)
    ok (advance (modHart (deviceTouch s c h.home.toNat) id fun h => { (h.dest f.d (BitVec.ofNat 64 (recId r.2))) with spawn := h.home }))
  else
    let x ← lift (deviceAddr s c v.toNat true 64)
    if (firstPoison s x.1 64).isSome then .error (.trap Cause.ue v) else .ok ()
    need (recordAt s x.1 == 0 || recState (recordAt s x.1) == 2) Cause.scopefault v
    let p ← lift (deviceRead s c h.spawn.toNat 64 64)
    need (decide (recDepth p.2 < 15)) Cause.scopefault v
    let n := Config.scopeIdBase + BitVec.ofNat 32 s.scopeCount
    let s1 := writeNat (deviceTouch (commit s x.2) c h.spawn.toNat) x.1 64 (newRecord h.spawn p.2 h.context n)
    let s2 := { setOwned s1 x.1 (if recState p.2 = 0 then .scope else .none) with scopeCount := s1.scopeCount + 1 }
    ok (advance (modHart s2 id fun h => { (h.dest f.d (n.setWidth 64)) with spawn := v }))

/-- SCOPE on a docent hart (R338). -/
def docentScope (f : FmtR) (s : State) : M State := do
  need (xRead s f.a == 0) Cause.scopefault (xRead s f.a)
  ok (advance (xWrite s f.d 0))

/-- SCOPE (R336). -/
def execScope (f : FmtR) (s : State) : Result :=
  perform (.scope f) s fun s => if curKind s = some .docent then docentScope f s else openScope f s

/-- The record that CANCEL and CWAIT name, after their checks: its physical address. -/
def namedScope (s : State) (v : Word) : M Nat := do
  let id := leadHart s
  let h := hartOf s id
  let x ← lift (deviceRead s (hartCtx s id) v.toNat 64 64)
  need (x.2 != 0 && recState x.2 != 3) Cause.scopefault v
  if curKind s = some .docent then .ok x.1
  else do
    need (recContext x.2 == h.context.toNat) Cause.scopefault v
    let home ← lift (deviceAddr s (hartCtx s id) h.home.toNat false 64)
    need (inSubtree s (entryCtx s h.context) x.1 home.1) Cause.scopefault v
    .ok x.1

/-- The reads of `namedScope` have been performed: the record, and on a compute hart its chain up to the home scope (R72). -/
def scopeReads (s : State) (v : Word) : State :=
  let id := leadHart s
  let t := deviceTouch s (hartCtx s id) v.toNat
  if curKind s = some .docent then t
  else chainTouch (entryCtx s (hartOf s id).context) ((homeRecord s id).getD 0) 17 t v.toNat

/-- CANCEL: the whole subtree is marked; one already cancelling or quiesced is left (R60, R62, R63). -/
def cancelInstr (f : FmtR) (s : State) : M State := do
  afterAll s (leadHart s)
  let pa ← namedScope s (xRead s f.a)
  ok (advance (cancelScope (scopeReads s (xRead s f.a)) (BitVec.ofNat 16 (recContext (recordAt s pa))) pa (BitVec.ofNat 16 (leadHart s))))

/-- CANCEL (R337). -/
def execCancel (f : FmtR) (s : State) : Result := perform (.cancel f) s (cancelInstr f)

/-- CWAIT: until STATE reads quiesced (R61). -/
def cwait (f : FmtR) (s : State) : M State := do
  killFirst s
  afterAll s (leadHart s)
  let pa ← namedScope s (xRead s f.a)
  let t := scopeReads s (xRead s f.a)
  if recState (recordAt s pa) = 2 then ok (advance t) else .error (.wait t true)

/-- CWAIT (R337). -/
def execCwait (f : FmtR) (s : State) : Result := perform (.cwait f) s (cwait f)

/-! ## Barriers (R339-R341) -/

/-- The object that a barrier instruction names, aligned first of all: its physical address and what it commits; poison is UE (R458). -/
def barObject (s : State) (v : Word) (wr : Bool) : M (Nat × Resolved) := do
  need (v.toNat % 64 == 0) Cause.misalign v
  let x ← lift (deviceAddr s (hartCtx s (leadHart s)) v.toNat wr 64)
  if (firstPoison s x.1 64).isSome then .error (.trap Cause.ue v) else .ok x

/-- A new barrier object. -/
def newBarrier (context : BitVec 16) (expected : Nat) : Nat := 1 + context.toNat * 2 ^ 16 + expected * 2 ^ 32

/-- BARINIT: MISALIGN, RESERVED-FIELD, the address, then PROT on a live object with arrivals; an object of another context, or poisoned, is no bar. [DEDUCED, log 83] -/
def barinit (f : FmtR) (s : State) : M State := do
  let a := xRead s f.a
  let b := xRead s f.b
  need (a.toNat % 64 == 0) Cause.misalign a
  need (b.extractLsb' 32 32 == 0) Cause.reservedField (instrWord (.barinit f))
  afterAll s (leadHart s)
  let x ← lift (deviceAddr s (hartCtx s (leadHart s)) a.toNat true 64)
  let old := readNat s x.1 64
  need (!(bits old 0 2 == 1 && barArrived old != 0)) Cause.prot a
  let s1 := commit s x.2
  ok (advance (if b = 0 then setOwned (writeNat s1 x.1 64 (setBits old 0 2 0)) x.1 .none
               else setOwned (writeNat s1 x.1 64 (newBarrier (hartOf s (leadHart s)).context b.toNat)) x.1 .barrier))

/-- BARINIT (R339). -/
def execBarinit (f : FmtR) (s : State) : Result := perform (.barinit f) s (barinit f)

/-- A membership entered or renewed; `none` for a fifth object (R340). -/
def joinBarrier (l : List Member) (m : Member) : Option (List Member) :=
  if l.any fun q => q.object == m.object then some (l.map fun q => if q.object == m.object then m else q)
  else if l.length < 4 then some (l ++ [m])
  else none

/-- BARARR: one atomic step, a release (R135, R340). -/
def bararr (f : FmtR) (s : State) : M State := do
  let id := leadHart s
  let h := hartOf s id
  let v := xRead s f.a
  afterAll s id
  let x ← barObject s v true
  let o := readNat s x.1 64
  need (bits o 0 2 == 1 && bits o 16 16 == h.context.toNat) Cause.prot v
  match joinBarrier h.members { object := v, phase := BitVec.ofNat 32 (barPhase o) } with
  | none => .error (.trap Cause.queue 5)
  | some l =>
    let s1 := writeNat (commit s x.2) x.1 64 (barRelease (setBits o 64 32 (barArrived o + 1)))
    ok (advance (modHart s1 id fun h => { (h.dest f.d (BitVec.ofNat 64 (barPhase o))) with members := l }))

/-- BARARR (R340). -/
def execBararr (f : FmtR) (s : State) : Result := perform (.bararr f) s (bararr f)

/-- BARWAIT: until PHASE differs, whatever the object's STATE and CONTEXT (R341). [DEDUCED, log 83] -/
def barwait (f : FmtR) (s : State) : M State := do
  killFirst s
  afterAll s (leadHart s)
  let x ← barObject s (xRead s f.a) false
  if barPhase (readNat s x.1 64) ≠ (xRead s f.b).toNat % 2 ^ 32 then ok (advance (commit s x.2)) else .error (.wait (commit s x.2) true)

/-- BARWAIT (R341). -/
def execBarwait (f : FmtR) (s : State) : Result := perform (.barwait f) s (barwait f)

/-! ## YIELD and GETPG (R342, R343) -/

/-- YIELD: a pre-emption point on a compute hart; on a bank hart, BYIELD. -/
def yieldStep (s : State) : M State :=
  match curKind s with
  | some .bank => if inGang s then ok (byieldGang s) else arriveGang s
  | some .docent => ok (advance s)
  | _ => ok (modHarts (advance s) (allHarts s) fun h => { h with atYield := true })

/-- YIELD (R342). -/
def execYield (f : FmtR) (s : State) : Result := perform (.yield f) s yieldStep

/-- The process-group table pointer of the hart's launch block; 0 where there is none. -/
def tablePointer (s : State) (id : Nat) : Word :=
  match stepOfHart s id with
  | none => 0
  | some i => match readBlock s (entryCtx s i.context) i.launch with
    | .ok b => BitVec.ofNat 64 (blkPgt b)
    | .error _ => 0

/-- The address of the word that GETPG reads. -/
def getpgAddr (s : State) (f : FmtR) (id : Nat) : Word :=
  tablePointer s id + BitVec.ofNat 64 (64 * (f.a.bits.toNat % 8) + 8 * (f.b.bits.toNat % 8))

/-- The row transfer port's read of a word for a bank: its place and what it commits. -/
def portWord (s : State) (f : FmtR) (id : Nat) : Chk (Place × List Resolved) :=
  let c := (perOf s (perOfHart id)).lessee
  let va := getpgAddr s f id
  if tablePointer s id = 0 then .error (Cause.xlate, va)
  else if addrFault va.toNat then .error (Cause.xlate, va)
  else if va.toNat % 8 ≠ 0 then .error (Cause.misalign, va)
  else if va.toNat / 2 ^ 54 ≠ 0 || !(s.contexts.get {} c.toNat).v then .error (Cause.xlate, va)
  else do
    let r ← resolve s (entryCtx s c) { rd := true, window := false, port := true, peer := false, align := 8 } va
    match placePoison s r.1 8 with
    | some o => .error (Cause.ue, va + BitVec.ofNat 64 o)
    | none => .ok r

/-- One bank's word. -/
def bankWord (f : FmtR) (t : State) (id : Nat) : State :=
  match portWord t f id with
  | .error _ => t
  | .ok r =>
    let v := progRead (commitAll t r.2) r.1 8
    modHart v.2 id fun h => h.dest f.d (BitVec.ofNat 64 (leNat v.1))

/-- GETPG. [DEDUCED, log 33] -/
def getpg (f : FmtR) (s : State) : M State :=
  let id := leadHart s
  if curKind s = some .bank then do
    ownFaults s fun id => match portWord s f id with
      | .error e => some e
      | .ok _ => none
    ok (advance ((performers s).foldl (bankWord f) s))
  else remote id (do
    let va := getpgAddr s f id
    need (tablePointer s id != 0) Cause.xlate va
    afterStream s id 0
    let r ← lift (resolve s (hartCtx s id) { rd := true, handle := .published, align := 8, astore := curKind s != some .xHart } va)
    let v ← readValue s r.2 id 0 0 va r.1 8
    ok (advance (xWrite v.2 f.d (BitVec.ofNat 64 v.1)))) s

/-- GETPG (R343). -/
def execGetpg (f : FmtR) (s : State) : Result := perform (.getpg f) s (getpg f)

/-! ## KILL_POINT_STOP (R58) -/

/-- The agent that issues for a hart. -/
def agentOfHart (s : State) (id : Nat) : Agent :=
  if id < 0x8000 then .hart id
  else if (perOf s (perOfHart id)).gang then .pergola (perOfHart id)
  else .bank (perOfHart id) (bankOfHart id)

/-- The hart stands at a kill point. -/
def atKillPoint (s : State) (id : Nat) : Bool :=
  let h := hartOf s id
  h.boundary || h.parked || h.run == .atJoin || h.run == .atGang ||
  (match fetched { s with cur := agentOfHart s id } with
   | .instr i => isWait i
   | _ => false)

/-- KILL_POINT_STOP: a cancelled hart at a kill point stops; in gang mode, the gang. The kill waits for a vector queue to empty (R429). -/
def killPoint (s : State) (id : Nat) : State :=
  if (hartOf s id).killReq && (hartOf s id).live && atKillPoint s id &&
      (decide (256 ≤ id) || (coreOf s (coreOfHart id)).vqueue.isEmpty || id % 2 == 0) then
    { killCur { s with cur := agentOfHart s id } with cur := s.cur }
  else s

/-- KILL_POINT_STOP (R58). -/
def execKillPointStop (hart : Nat) (s : State) : Result := event ((kindOfId hart).isSome) (killPoint s hart)

end Sys2Proof.Machine
end

