-- ==== Sys2Proof/Machine/Dispatch.lean ====
section
/-! DEFINITION. One arm per constructor of `Instr`. -/
namespace Sys2Proof.Machine
open Sys2Proof

def exec (i : Instr) (s : State) : Host.Outcome State Fault Refusal :=
  match i with
  | .add f => Sys2Proof.Machine.execAdd f s
  | .sub f => Sys2Proof.Machine.execSub f s
  | .and f => Sys2Proof.Machine.execAnd f s
  | .or f => Sys2Proof.Machine.execOr f s
  | .xor f => Sys2Proof.Machine.execXor f s
  | .andn f => Sys2Proof.Machine.execAndn f s
  | .shl f => Sys2Proof.Machine.execShl f s
  | .shr f => Sys2Proof.Machine.execShr f s
  | .sra f => Sys2Proof.Machine.execSra f s
  | .ror f => Sys2Proof.Machine.execRor f s
  | .min f => Sys2Proof.Machine.execMin f s
  | .max f => Sys2Proof.Machine.execMax f s
  | .minu f => Sys2Proof.Machine.execMinu f s
  | .maxu f => Sys2Proof.Machine.execMaxu f s
  | .slt f => Sys2Proof.Machine.execSlt f s
  | .sltu f => Sys2Proof.Machine.execSltu f s
  | .seq f => Sys2Proof.Machine.execSeq f s
  | .clz f => Sys2Proof.Machine.execClz f s
  | .ctz f => Sys2Proof.Machine.execCtz f s
  | .popc f => Sys2Proof.Machine.execPopc f s
  | .sext f => Sys2Proof.Machine.execSext f s
  | .zext f => Sys2Proof.Machine.execZext f s
  | .bfx f => Sys2Proof.Machine.execBfx f s
  | .bfi f => Sys2Proof.Machine.execBfi f s
  | .sel f => Sys2Proof.Machine.execSel f s
  | .addi f => Sys2Proof.Machine.execAddi f s
  | .andi f => Sys2Proof.Machine.execAndi f s
  | .ori f => Sys2Proof.Machine.execOri f s
  | .xori f => Sys2Proof.Machine.execXori f s
  | .shli f => Sys2Proof.Machine.execShli f s
  | .shri f => Sys2Proof.Machine.execShri f s
  | .srai f => Sys2Proof.Machine.execSrai f s
  | .slti f => Sys2Proof.Machine.execSlti f s
  | .sltui f => Sys2Proof.Machine.execSltui f s
  | .li f => Sys2Proof.Machine.execLi f s
  | .lih f => Sys2Proof.Machine.execLih f s
  | .addpc f => Sys2Proof.Machine.execAddpc f s
  | .mul f => Sys2Proof.Machine.execMul f s
  | .mulh f => Sys2Proof.Machine.execMulh f s
  | .mulhu f => Sys2Proof.Machine.execMulhu f s
  | .div f => Sys2Proof.Machine.execDiv f s
  | .divu f => Sys2Proof.Machine.execDivu f s
  | .rem f => Sys2Proof.Machine.execRem f s
  | .remu f => Sys2Proof.Machine.execRemu f s
  | .madd f => Sys2Proof.Machine.execMadd f s
  | .beq f => Sys2Proof.Machine.execBeq f s
  | .bne f => Sys2Proof.Machine.execBne f s
  | .blt f => Sys2Proof.Machine.execBlt f s
  | .bge f => Sys2Proof.Machine.execBge f s
  | .bltu f => Sys2Proof.Machine.execBltu f s
  | .bgeu f => Sys2Proof.Machine.execBgeu f s
  | .bf f => Sys2Proof.Machine.execBf f s
  | .bnf f => Sys2Proof.Machine.execBnf f s
  | .jmp f => Sys2Proof.Machine.execJmp f s
  | .jmpr f => Sys2Proof.Machine.execJmpr f s
  | .call f => Sys2Proof.Machine.execCall f s
  | .callr f => Sys2Proof.Machine.execCallr f s
  | .ret f => Sys2Proof.Machine.execRet f s
  | .jtab f => Sys2Proof.Machine.execJtab f s
  | .fjmp f => Sys2Proof.Machine.execFjmp f s
  | .fcall f => Sys2Proof.Machine.execFcall f s
  | .loop f => Sys2Proof.Machine.execLoop f s
  | .loopi f => Sys2Proof.Machine.execLoopi f s
  | .lbrk f => Sys2Proof.Machine.execLbrk f s
  | .lidx f => Sys2Proof.Machine.execLidx f s
  | .fork f => Sys2Proof.Machine.execFork f s
  | .join f => Sys2Proof.Machine.execJoin f s
  | .qpush f => Sys2Proof.Machine.execQpush f s
  | .qpop f => Sys2Proof.Machine.execQpop f s
  | .bqpush f => Sys2Proof.Machine.execBqpush f s
  | .bqbr f => Sys2Proof.Machine.execBqbr f s
  | .monitor f => Sys2Proof.Machine.execMonitor f s
  | .mwait f => Sys2Proof.Machine.execMwait f s
  | .ld f => Sys2Proof.Machine.execLd f s
  | .st f => Sys2Proof.Machine.execSt f s
  | .ldacq f => Sys2Proof.Machine.execLdacq f s
  | .strel f => Sys2Proof.Machine.execStrel f s
  | .ldnt f => Sys2Proof.Machine.execLdnt f s
  | .amoadd f => Sys2Proof.Machine.execAmoadd f s
  | .amoand f => Sys2Proof.Machine.execAmoand f s
  | .amoor f => Sys2Proof.Machine.execAmoor f s
  | .amoxor f => Sys2Proof.Machine.execAmoxor f s
  | .amomin f => Sys2Proof.Machine.execAmomin f s
  | .amomax f => Sys2Proof.Machine.execAmomax f s
  | .amoswp f => Sys2Proof.Machine.execAmoswp f s
  | .amocas f => Sys2Proof.Machine.execAmocas f s
  | .amofadd f => Sys2Proof.Machine.execAmofadd f s
  | .amoinc f => Sys2Proof.Machine.execAmoinc f s
  | .fence f => Sys2Proof.Machine.execFence f s
  | .sbar f => Sys2Proof.Machine.execSbar f s
  | .waitv f => Sys2Proof.Machine.execWaitv f s
  | .act f => Sys2Proof.Machine.execAct f s
  | .pre f => Sys2Proof.Machine.execPre f s
  | .wb f => Sys2Proof.Machine.execWb f s
  | .wbpre f => Sys2Proof.Machine.execWbpre f s
  | .ref f => Sys2Proof.Machine.execRef f s
  | .refq f => Sys2Proof.Machine.execRefq f s
  | .rcopy f => Sys2Proof.Machine.execRcopy f s
  | .radd f => Sys2Proof.Machine.execRadd f s
  | .rsub f => Sys2Proof.Machine.execRsub f s
  | .rmul f => Sys2Proof.Machine.execRmul f s
  | .rfma f => Sys2Proof.Machine.execRfma f s
  | .rmin f => Sys2Proof.Machine.execRmin f s
  | .rmax f => Sys2Proof.Machine.execRmax f s
  | .rand f => Sys2Proof.Machine.execRand f s
  | .rbor f => Sys2Proof.Machine.execRbor f s
  | .rxor f => Sys2Proof.Machine.execRxor f s
  | .rshr f => Sys2Proof.Machine.execRshr f s
  | .rcmp f => Sys2Proof.Machine.execRcmp f s
  | .rsel f => Sys2Proof.Machine.execRsel f s
  | .rcvt f => Sys2Proof.Machine.execRcvt f s
  | .rscl f => Sys2Proof.Machine.execRscl f s
  | .ldlut f => Sys2Proof.Machine.execLdlut f s
  | .lutdot f => Sys2Proof.Machine.execLutdot f s
  | .ldsc f => Sys2Proof.Machine.execLdsc f s
  | .rdot f => Sys2Proof.Machine.execRdot f s
  | .rsum f => Sys2Proof.Machine.execRsum f s
  | .qclr f => Sys2Proof.Machine.execQclr f s
  | .qst f => Sys2Proof.Machine.execQst f s
  | .rtopk f => Sys2Proof.Machine.execRtopk f s
  | .shfl f => Sys2Proof.Machine.execShfl f s
  | .shrx f => Sys2Proof.Machine.execShrx f s
  | .rcast f => Sys2Proof.Machine.execRcast f s
  | .rout f => Sys2Proof.Machine.execRout f s
  | .rred f => Sys2Proof.Machine.execRred f s
  | .gang f => Sys2Proof.Machine.execGang f s
  | .split f => Sys2Proof.Machine.execSplit f s
  | .bmask f => Sys2Proof.Machine.execBmask f s
  | .byield f => Sys2Proof.Machine.execByield f s
  | .lease f => Sys2Proof.Machine.execLease f s
  | .rgete f => Sys2Proof.Machine.execRgete f s
  | .rsete f => Sys2Proof.Machine.execRsete f s
  | .vadd f => Sys2Proof.Machine.execVadd f s
  | .vsub f => Sys2Proof.Machine.execVsub f s
  | .vmul f => Sys2Proof.Machine.execVmul f s
  | .vfma f => Sys2Proof.Machine.execVfma f s
  | .vmin f => Sys2Proof.Machine.execVmin f s
  | .vmax f => Sys2Proof.Machine.execVmax f s
  | .vand f => Sys2Proof.Machine.execVand f s
  | .vor f => Sys2Proof.Machine.execVor f s
  | .vxor f => Sys2Proof.Machine.execVxor f s
  | .vshl f => Sys2Proof.Machine.execVshl f s
  | .vshr f => Sys2Proof.Machine.execVshr f s
  | .vsra f => Sys2Proof.Machine.execVsra f s
  | .vcvt f => Sys2Proof.Machine.execVcvt f s
  | .vabs f => Sys2Proof.Machine.execVabs f s
  | .vneg f => Sys2Proof.Machine.execVneg f s
  | .vexp2 f => Sys2Proof.Machine.execVexp2 f s
  | .vrcp f => Sys2Proof.Machine.execVrcp f s
  | .vrsqrt f => Sys2Proof.Machine.execVrsqrt f s
  | .vdiv f => Sys2Proof.Machine.execVdiv f s
  | .vsqrt f => Sys2Proof.Machine.execVsqrt f s
  | .vcmp f => Sys2Proof.Machine.execVcmp f s
  | .vmerge f => Sys2Proof.Machine.execVmerge f s
  | .vpopc f => Sys2Proof.Machine.execVpopc f s
  | .vfirst f => Sys2Proof.Machine.execVfirst f s
  | .vcompress f => Sys2Proof.Machine.execVcompress f s
  | .vgather f => Sys2Proof.Machine.execVgather f s
  | .vslide f => Sys2Proof.Machine.execVslide f s
  | .vred f => Sys2Proof.Machine.execVred f s
  | .vtopk f => Sys2Proof.Machine.execVtopk f s
  | .viota f => Sys2Proof.Machine.execViota f s
  | .vbcast f => Sys2Proof.Machine.execVbcast f s
  | .vext f => Sys2Proof.Machine.execVext f s
  | .vld f => Sys2Proof.Machine.execVld f s
  | .vlds f => Sys2Proof.Machine.execVlds f s
  | .vldx f => Sys2Proof.Machine.execVldx f s
  | .vst f => Sys2Proof.Machine.execVst f s
  | .vsts f => Sys2Proof.Machine.execVsts f s
  | .vstx f => Sys2Proof.Machine.execVstx f s
  | .vldsc f => Sys2Proof.Machine.execVldsc f s
  | .vsetvl f => Sys2Proof.Machine.execVsetvl f s
  | .vsettype f => Sys2Proof.Machine.execVsettype f s
  | .vrdhw f => Sys2Proof.Machine.execVrdhw f s
  | .vallot f => Sys2Proof.Machine.execVallot f s
  | .mma f => Sys2Proof.Machine.execMma f s
  | .mmas f => Sys2Proof.Machine.execMmas f s
  | .mzero f => Sys2Proof.Machine.execMzero f s
  | .mld f => Sys2Proof.Machine.execMld f s
  | .mst f => Sys2Proof.Machine.execMst f s
  | .mpin f => Sys2Proof.Machine.execMpin f s
  | .munpin f => Sys2Proof.Machine.execMunpin f s
  | .mdelta f => Sys2Proof.Machine.execMdelta f s
  | .mread f => Sys2Proof.Machine.execMread f s
  | .mxfl f => Sys2Proof.Machine.execMxfl f s
  | .mfind f => Sys2Proof.Machine.execMfind f s
  | .cpy f => Sys2Proof.Machine.execCpy f s
  | .cpyw f => Sys2Proof.Machine.execCpyw f s
  | .tfetch f => Sys2Proof.Machine.execTfetch f s
  | .tfrel f => Sys2Proof.Machine.execTfrel f s
  | .prefb f => Sys2Proof.Machine.execPrefb f s
  | .tiermv f => Sys2Proof.Machine.execTiermv f s
  | .shadow f => Sys2Proof.Machine.execShadow f s
  | .publish f => Sys2Proof.Machine.execPublish f s
  | .tokwait f => Sys2Proof.Machine.execTokwait f s
  | .catalloc f => Sys2Proof.Machine.execCatalloc f s
  | .catmap f => Sys2Proof.Machine.execCatmap f s
  | .catshare f => Sys2Proof.Machine.execCatshare f s
  | .catfree f => Sys2Proof.Machine.execCatfree f s
  | .exit f => Sys2Proof.Machine.execExit f s
  | .scope f => Sys2Proof.Machine.execScope f s
  | .cancel f => Sys2Proof.Machine.execCancel f s
  | .cwait f => Sys2Proof.Machine.execCwait f s
  | .barinit f => Sys2Proof.Machine.execBarinit f s
  | .bararr f => Sys2Proof.Machine.execBararr f s
  | .barwait f => Sys2Proof.Machine.execBarwait f s
  | .yield f => Sys2Proof.Machine.execYield f s
  | .getpg f => Sys2Proof.Machine.execGetpg f s
  | .csrr f => Sys2Proof.Machine.execCsrr f s
  | .csrw f => Sys2Proof.Machine.execCsrw f s
  | .trap f => Sys2Proof.Machine.execTrap f s
  | .brk f => Sys2Proof.Machine.execBrk f s
  | .rft f => Sys2Proof.Machine.execRft f s
  | .cfetch f => Sys2Proof.Machine.execCfetch f s
  | .cseg f => Sys2Proof.Machine.execCseg f s
  | .ifence f => Sys2Proof.Machine.execIfence f s
  | .setaside f => Sys2Proof.Machine.execSetaside f s
  | .rowwd f => Sys2Proof.Machine.execRowwd f s
  | .nop f => Sys2Proof.Machine.execNop f s
  | .convoyHeader f => Sys2Proof.Machine.execConvoyHeader f s
  | .aHartStart core => Sys2Proof.Machine.execAHartStart core s
  | .joinRendezvous core => Sys2Proof.Machine.execJoinRendezvous core s
  | .mwaitTimeout hart => Sys2Proof.Machine.execMwaitTimeout hart s
  | .monitorLost hart => Sys2Proof.Machine.execMonitorLost hart s
  | .waitvSatisfied hart => Sys2Proof.Machine.execWaitvSatisfied hart s
  | .gangRendezvous pergola => Sys2Proof.Machine.execGangRendezvous pergola s
  | .vectorComplete core reg => Sys2Proof.Machine.execVectorComplete core reg s
  | .replayUnitRoom hart => Sys2Proof.Machine.execReplayUnitRoom hart s
  | .matrixComplete core slot => Sys2Proof.Machine.execMatrixComplete core slot s
  | .ownershipMissService core slot context => Sys2Proof.Machine.execOwnershipMissService core slot context s
  | .publishSwap hart handle => Sys2Proof.Machine.execPublishSwap hart handle s
  | .engineCommandComplete core cmd => Sys2Proof.Machine.execEngineCommandComplete core cmd s
  | .followOnIssue core cmd => Sys2Proof.Machine.execFollowOnIssue core cmd s
  | .killPointStop hart => Sys2Proof.Machine.execKillPointStop hart s
  | .overlayBlockLand overlay block => Sys2Proof.Machine.execOverlayBlockLand overlay block s
  | .tlbinvVa context va => Sys2Proof.Machine.execTlbinvVa context va s
  | .tlbinvContext context => Sys2Proof.Machine.execTlbinvContext context s
  | .tlbinvAll => Sys2Proof.Machine.execTlbinvAll s
  | .govstatDroopClear hart => Sys2Proof.Machine.execGovstatDroopClear hart s
  | .rcountDiscard hart => Sys2Proof.Machine.execRcountDiscard hart s
  | .registerWrite hart addr value => Sys2Proof.Machine.execRegisterWrite hart addr value s
  | .contextEntryInvalidate context => Sys2Proof.Machine.execContextEntryInvalidate context s
  | .lateFault core code info => Sys2Proof.Machine.execLateFault core code info s
  | .unitStop unit => Sys2Proof.Machine.execUnitStop unit s
  | .haltComplete context => Sys2Proof.Machine.execHaltComplete context s
  | .haltctlHalt context => Sys2Proof.Machine.execHaltctlHalt context s
  | .haltctlResume context => Sys2Proof.Machine.execHaltctlResume context s
  | .haltctlKill context => Sys2Proof.Machine.execHaltctlKill context s
  | .coreFreeSelect core => Sys2Proof.Machine.execCoreFreeSelect core s
  | .rowStepDispatch pergola => Sys2Proof.Machine.execRowStepDispatch pergola s
  | .stepStart unit => Sys2Proof.Machine.execStepStart unit s
  | .preemptionSave core => Sys2Proof.Machine.execPreemptionSave core s
  | .intakeTake chain => Sys2Proof.Machine.execIntakeTake chain s
  | .docctlRestart wing => Sys2Proof.Machine.execDocctlRestart wing s
  | .rowOpen pergola bank reg => Sys2Proof.Machine.execRowOpen pergola bank reg s
  | .rowRestored pergola bank reg => Sys2Proof.Machine.execRowRestored pergola bank reg s
  | .writebackEnd pergola bank reg => Sys2Proof.Machine.execWritebackEnd pergola bank reg s
  | .refreshEnd pergola bank sag => Sys2Proof.Machine.execRefreshEnd pergola bank sag s
  | .rowWriterComplete pergola bank reg => Sys2Proof.Machine.execRowWriterComplete pergola bank reg s
  | .refreshDebtRise pergola => Sys2Proof.Machine.execRefreshDebtRise pergola s
  | .refdue pergola bank => Sys2Proof.Machine.execRefdue pergola bank s
  | .forcedRefresh pergola bank sag => Sys2Proof.Machine.execForcedRefresh pergola bank sag s
  | .forcedRefreshDone pergola bank sag => Sys2Proof.Machine.execForcedRefreshDone pergola bank sag s
  | .leaseRemainExpiry pergola => Sys2Proof.Machine.execLeaseRemainExpiry pergola s
  | .watchdogExpiry pergola => Sys2Proof.Machine.execWatchdogExpiry pergola s
  | .vectorLineFetch core reg => Sys2Proof.Machine.execVectorLineFetch core reg s
  | .governorSample compute row fixed flow temp => Sys2Proof.Machine.execGovernorSample compute row fixed flow temp s
  | .governorStepDelivery => Sys2Proof.Machine.execGovernorStepDelivery s
  | .droopStretch unit => Sys2Proof.Machine.execDroopStretch unit s
  | .powerEmergency => Sys2Proof.Machine.execPowerEmergency s
  | .clockGating => Sys2Proof.Machine.execClockGating s
  | .regchain arg0 arg1 => Sys2Proof.Machine.execRegchain arg0 arg1 s
  | .dropchain arg1 => Sys2Proof.Machine.execDropchain arg1 s
  | .setshare arg0 arg1 => Sys2Proof.Machine.execSetshare arg0 arg1 s
  | .ackhalt => Sys2Proof.Machine.execAckhalt s
  | .readstart arg0 => Sys2Proof.Machine.execReadstart arg0 s
  | .regwrite arg0 arg1 => Sys2Proof.Machine.execRegwrite arg0 arg1 s
  | .regread arg0 => Sys2Proof.Machine.execRegread arg0 s
  | .hostMemWrite pa bytes poison => Sys2Proof.Machine.execHostMemWrite pa bytes poison s
  | .hostMemRead pa count => Sys2Proof.Machine.execHostMemRead pa count s
  | .spdmRequest index => Sys2Proof.Machine.execSpdmRequest index s
  | .remoteRead link pa count => Sys2Proof.Machine.execRemoteRead link pa count s
  | .remoteWrite link pa bytes => Sys2Proof.Machine.execRemoteWrite link pa bytes s
  | .remoteAtomic link sub pa size b c => Sys2Proof.Machine.execRemoteAtomic link sub pa size b c s
  | .reductionPacket link pa size float b => Sys2Proof.Machine.execReductionPacket link pa size float b s
  | .remoteCopy link pa bytes => Sys2Proof.Machine.execRemoteCopy link pa bytes s
  | .remoteAcknowledgement packet data poison => Sys2Proof.Machine.execRemoteAcknowledgement packet data poison s
  | .refusalReturn packet code => Sys2Proof.Machine.execRefusalReturn packet code s
  | .linkerrClear port => Sys2Proof.Machine.execLinkerrClear port s
  | .flitCrcReplay port => Sys2Proof.Machine.execFlitCrcReplay port s
  | .retrainEnd port passed => Sys2Proof.Machine.execRetrainEnd port passed s
  | .stackPortReplay stack granule => Sys2Proof.Machine.execStackPortReplay stack granule s
  | .realignmentRequest layer => Sys2Proof.Machine.execRealignmentRequest layer s
  | .realignmentDeferralExpiry layer => Sys2Proof.Machine.execRealignmentDeferralExpiry layer s
  | .realignmentEnd layer bundleFails => Sys2Proof.Machine.execRealignmentEnd layer bundleFails s
  | .bundlestatAck => Sys2Proof.Machine.execBundlestatAck s
  | .restripeComplete => Sys2Proof.Machine.execRestripeComplete s
  | .powerUp => Sys2Proof.Machine.execPowerUp s
  | .prechargeEnd pergola bank sag => Sys2Proof.Machine.execPrechargeEnd pergola bank sag s
  | .activationWindowExpiry layer => Sys2Proof.Machine.execActivationWindowExpiry layer s
  | .shrxDelivery pergola bank => Sys2Proof.Machine.execShrxDelivery pergola bank s
  | .copyGroupArrival core cmd => Sys2Proof.Machine.execCopyGroupArrival core cmd s
  | .illegalEncoding word => Sys2Proof.Machine.execIllegalEncoding word s
  | .absentBlockFetch offset => Sys2Proof.Machine.execAbsentBlockFetch offset s
  | .cxlCacheSnoop line data => Sys2Proof.Machine.execCxlCacheSnoop line data s

end Sys2Proof.Machine
end

