-- ==== Sys2Proof/Machine/Turn.lean ====
section
/-! DEFINITION. Which agent moves, and what it does: an input from outside first, then the agents of the ring in turn (log 3). -/
namespace Sys2Proof.Machine

/-- What a step does. -/
inductive Move where
  /-- nothing: an idle agent -/
  | none
  /-- the issuer at `s.cur` executes an instruction, or fetches a parcel outside the map, or from a block that has not landed -/
  | instr (i : Instr)
  | illegal (w : Word)
  | absent (off : Word)
  /-- a Pergola in split mode issues for one of its banks (R44) -/
  | split (g : Nat)
  /-- a Pergola's clock goes on without an issue -/
  | tick (g : Nat)
  /-- an event from outside -/
  | outside (i : Instr)
  | input (x : Input)
  /-- the Ndetrief runs the mailbox command that the host has started (R399) -/
  | command
  /-- the start steps, before anything else -/
  | powerUp
  -- steps of the device, by their own events
  | start (u : UnitRef)
  | stop (u : UnitRef)
  | halted (context : BitVec 16)
  | killed (context : BitVec 16)
  | kill (hart : Nat)
  | preempt (core : Nat)
  | join (core : Nat)
  | gangMeet (g : Nat)
  | select (core : Nat)
  | request (wing : Nat)
  | selectRow (g : Nat)
  | intake (chain : Nat)
  | land (overlay block : Nat)
  | vectorDone (core reg : Nat)
  | queueHead (core : Nat)
  | matrixDone (core slot : Nat)
  | unitRoom (hart : Nat)
  | group (core cmd : Nat)
  | follow (core cmd : Nat)
  | commandDone (core cmd : Nat)
  | row (g b n : Nat) (e : RowEvent)
  | window (layer : Nat)
  | realign (layer : Nat)
  | remain (g : Nat)
  | watchdog (g : Nat)
  | shrx (g b : Nat)
  deriving DecidableEq, Repr

/-- What the issuer at `s.cur` fetches, as a move. -/
def issueMove (s : State) : Move :=
  match fetched s with
  | .instr i => .instr i
  | .illegal w => .illegal w
  | .absent off => .absent off

/-- The issuer leaves the point where it stood: the marks of R48, R49 and R58 are taken off. -/
def leavePoint (s : State) : State :=
  if (allHarts s).any fun id => (hartOf s id).boundary || (hartOf s id).parked || (hartOf s id).atYield || (hartOf s id).fresh then
    modHarts s (allHarts s) fun h => { h with boundary := false, parked := false, atYield := false, fresh := false }
  else s

/-- The issuer's next instruction. -/
def issue (s : State) : State × Move := (leavePoint s, issueMove s)

/-- A hart that its unit does not hold back: it issues, or waits at the rendezvous of JOIN. -/
def hartIssue (s : State) (id : Nat) : State × Move :=
  match (hartOf s id).run with
  | .running => issue s
  | .atJoin => (s, .join (coreOfHart id))
  | _ => (s, .none)

/-- The turn of a compute or docent hart. A hart at a point stops there for a kill, and stands there for a pre-emption that waits for the
other hart (R58, R368). -/
def hartTurn (s : State) (id : Nat) : State × Move :=
  if 256 ≤ id then hartIssue s id
  else
    let k := coreOfHart id
    match (coreOf s k).step with
    | none => hartIssue s id
    | some i =>
      match (coreOf s k).phase with
      | .landing => (s, .start (.core k))
      | .resuming => (s, .start (.core k))
      | .stopped => (s, .none)
      | .running =>
        if (haltOf s i.context).st = .halting then (if (hartOf s id).midAccess then hartIssue s id else (s, .stop (.core k)))
        else if (hartOf s id).killReq && atKillPoint s id then (s, .kill id)
        else if (coreOf s k).preemptReq && atPoint s id then (s, .preempt k)
        else hartIssue s id

/-- The first block that is on its way into an overlay. -/
def pendingBlock (s : State) (n : Nat) : Option Nat := ((overlayAt s n).find? fun p => p.2.st == .pending).map (·.1)

/-- A bank of a Pergola with a row that has arrived, or that its inbox can take (R256). -/
def shrxDue (s : State) (g : Nat) : Option Nat :=
  (List.range 8).find? fun b =>
    let k := bankOf s g b
    k.sending.any (rowArrived s g) || (k.inbox.isNone && !k.arrived.isEmpty)

/-- A bank of a Pergola that stands cancelled at a kill point. -/
def killDue (s : State) (g : Nat) : Option Nat :=
  (List.range 8).find? fun b => (hartOf s (bankId g b)).killReq && (hartOf s (bankId g b)).live && atKillPoint s (bankId g b)

/-- A Pergola whose step, if any, runs: it stops at a kill or a rendezvous, or issues. -/
def pergolaIssue (s : State) (g : Nat) : State × Move :=
  match killDue s g with
  | some b => (s, .kill (bankId g b))
  | none =>
    if (perOf s g).gang then (if (liveBanks s g).isEmpty then (s, .tick g) else issue s)
    else if !(liveBanks s g).isEmpty && (liveBanks s g).all (fun b => (hartOf s (bankId g b)).run == .atGang) then (s, .gangMeet g)
    else (s, .split g)

/-- What the layer of an octet 0 owes. -/
def layerMove (s : State) (g : Nat) : Option Move :=
  if g % 8 = 0 then
    (if windowMoves s (g / 8) then some (.window (g / 8))
     else if (layerOf s (g / 8)).requested && !layerBusy s (g / 8) then some (.realign (g / 8)) else none)
  else none

/-- What is due in a Pergola before it issues in this rc. -/
def pergolaDue (s : State) (g : Nat) : Option Move :=
  match dueRow s g with
  | some x => some (.row g x.1 x.2.1 x.2.2)
  | none => match layerMove s g with
    | some m => some m
    | none =>
      if leaseCounts s g && (perOf s g).remain = 0 then some (.remain g)
      else if leaseCounts s g && (perOf s g).watchdog = some 0 then some (.watchdog g)
      else match shrxDue s g with
        | some b => some (.shrx g b)
        | none => (pendingBlock s (64 + g)).map fun b => .land (64 + g) b

/-- The turn of a Pergola: what is due, or an issue with which its clock advances. -/
def pergolaTurn (s : State) (g : Nat) : State × Move :=
  match pergolaDue s g with
  | some m => (s, m)
  | none =>
    match (perOf s g).step with
    | none =>
      if !(liveBanks s g).isEmpty then pergolaIssue s g
      else if selectRow s g = s then (s, .tick g) else (s, .selectRow g)
    | some i =>
      match (perOf s g).phase with
      | .stopped => (s, .tick g)
      | .running =>
        if (haltOf s i.context).st = .halting && (perOf s g).actDone = 0 then (s, .stop (.pergola g)) else pergolaIssue s g
      | _ => if stepStart s (.pergola g) = s then (s, .tick g) else (s, .start (.pergola g))

/-- A slot of a core's matrix work that is due: its last word written, or caught work to be taken up. -/
def matrixDue (s : State) (k : Nat) : Option (Nat × Nat) :=
  (coreOf s k).matrix.findSome? fun w => (w.tiles.find? fun t => t.pending && decide (matrixComplete s t.core w.slot ≠ s)).map
    fun t => (t.core, w.slot)

/-- A unit of the A-hart waits for room in its replay queue, and there is some (R430). -/
def roomDue (s : State) (k : Nat) : Bool :=
  let h := hartOf s (aHartId k)
  !h.roomWait.isEmpty && !h.ih && decide (h.replay.length < 64)

/-- The turn of a core's vector unit and matrix engine: the oldest result is complete, a waiting unit finds room, or the queue's head is
tried. -/
def unitMove (s : State) (k : Nat) : Move :=
  match (coreOf s k).vpend, (coreOf s k).mpend, matrixDue s k with
  | n :: _, _, _ => .vectorDone k n
  | [], n :: _, _ => .matrixDone k n
  | [], [], some x => .matrixDone x.1 x.2
  | [], [], none =>
    if roomDue s k && decide (unitRoom s (aHartId k) ≠ s) then .unitRoom (aHartId k)
    else if (coreOf s k).vqueue.isEmpty then .none else .queueHead k

/-- What an engine command does next, if anything. -/
def commandMove (s : State) (k n : Nat) : Option Move :=
  if groupArrival s k n ≠ s then some (.group k n)
  else if followIssue s k n ≠ s then some (.follow k n)
  else if engineComplete s k n ≠ s then some (.commandDone k n)
  else none

/-- The turn of a core's engines, and of the Pavilion's segment fetch. [DESIGN CHOICE, log 7] -/
def engineMove (s : State) (k : Nat) : Move :=
  match (if k % 2 = 0 then pendingBlock s (k / 2) else none) with
  | some b => .land (k / 2) b
  | none => ((List.range (coreOf s k).engines.length).findSome? (commandMove s k)).getD .none

/-- The turn of a walker: a free core takes work, or a busy one is asked for. -/
def walkerMove (s : State) (w : Nat) : Move :=
  match (wingCores w).find? fun k => coreFree s k && decide (selectCore s k ≠ s) with
  | some k => .select k
  | none => if walkerRequests s w = s then .none else .request w

/-- A context of the docent's share whose halt or kill is complete. -/
def haltMove (s : State) (w : Nat) : Option Move :=
  s.halts.findSome? fun h =>
    let c := BitVec.ofNat 16 h.1
    if h.1 % 8 ≠ w then none
    else if h.2.st = .halting && allStopped s c then some (.halted c)
    else if h.2.killing && decide (killDone s c ≠ s) then some (.killed c)
    else none

/-- The turn of a docent's intake: its segment fetch, halts that end, and the next block of its chains (R357, R358). -/
def docentMove (s : State) (w : Nat) : Move :=
  match pendingBlock s (1216 + w) with
  | some b => .land (1216 + w) b
  | none => match haltMove s w with
    | some m => m
    | none => (((List.range 8).map fun k => w + 8 * k).find? fun c => decide (intakeTake s c ≠ s)).elim .none .intake

/-- The move of the agent whose turn it is. [DESIGN CHOICE, log 3] -/
def agentMove (s : State) : State × Move :=
  match s.cur with
  | .hart id => hartTurn s id
  | .pergola g => pergolaTurn s g
  | .bank _ _ => (s, .none)
  | .unit k => (s, unitMove s k)
  | .engine k => (s, engineMove s k)
  | .walker w => (s, walkerMove s w)
  | .docent w => (s, docentMove s w)

/-- The device has started, or never will (R405, R505, R506). -/
def startOver (s : State) : Bool := s.nd.started || s.nd.safe || s.nd.dead

/-- An input as a move. [DESIGN CHOICE, log 4] -/
def inputMove (x : Input) : Move :=
  match x with
  | .event i => .outside i
  | x => .input x

/-- The state with the moving agent chosen, and its move. [DESIGN CHOICE, log 3] [DESIGN CHOICE, log 4] -/
def nextMove (s : State) : State × Move :=
  if !startOver s then (s, .powerUp)
  else if commandDue s then (s, .command)
  else match s.inputs with
    | x :: rest => ({ s with inputs := rest }, inputMove x)
    | [] => match s.ring with
      | [] => (s, .none)
      | a :: rest => agentMove { s with ring := rest ++ [a], cur := a, waited := false }

end Sys2Proof.Machine
end

