-- ==== Sys2Proof/Machine/Upsets.lean ====
section
/-! DEFINITION. Errors of the device's own parts that reach the model as inputs: wrong results of the lanes of a pair, errors of on-die stores,
of cells, of L2 and of the second tier, and rows that the stack port reads (R471, R477-R480, R487, R488). -/
namespace Sys2Proof.Machine

/-! ## Lanes and latches of a pair (R487, R488) -/

/-- A wrong segment in a register of one bank of a pair, or in what its check lanes hold for it. Where it is the second bank's, whose right
result the check lanes share, they keep that result (R487). [DESIGN CHOICE, log 25] -/
def laneError (s : State) (g b n seg : Nat) (v : BitVec 512) (check : Bool) : State :=
  if !(perOf s g).dual || !bankExists g b || 8 ≤ n || 128 ≤ seg || (regOf s g b n).st != .opened then s
  else if check then modReg s g (b % 4 + 4) n fun r => { r with check := (seg, v) :: r.check.filter (·.1 != seg) }
  else modReg s g b n fun r =>
    { r with data := setRowElem 512 seg r.data v.toNat,
             check := if b < 4 || (r.check.lookup seg).isSome then r.check else (seg, BitVec.ofNat 512 (segOf r.data seg)) :: r.check }

/-- A wrong lane in a latch of one bank of a pair, or of its check lanes. [DESIGN CHOICE, log 25] -/
def latchError (s : State) (g b q lane : Nat) (v : BitVec 32) (check : Bool) : State :=
  let put (l : QLatch) : QLatch := { l with acc := BitVec.ofNat 8192 (setElemNat 32 lane l.acc.toNat v.toNat) }
  if !(perOf s g).dual || !bankExists g b || 4 ≤ q || 256 ≤ lane then s
  else if check then modBank s g (b % 4 + 4) fun k => { k with check := k.check.modify {} q put }
  else modBank s g b fun k => { k with q := k.q.modify {} q put }

/-! ## On-die stores (R471, R477) -/

/-- The INFO of an error in an on-die store: the store, 1 to 6, and the byte offset in it. -/
def storeInfo (store off : Nat) : Word := BitVec.ofNat 64 (store % 256 * 2 ^ 56 + off % 2 ^ 32)

/-- An uncorrectable error of an on-die store that a unit of a running step reads: the partition fault UE. [DESIGN CHOICE, log 25] -/
def storeError (s : State) (id engine store off : Nat) : State :=
  let unit := unitOfHart id
  let runs : Option StepInfo := match unit with
    | .core c => if (coreOf s c).phase = .running then (coreOf s c).step else none
    | .pergola g => if (perOf s g).phase = .running then (perOf s g).step else none
  match runs with
  | none => s
  | some i =>
    if store = 0 || 6 < store || 7 < engine || !(decide (id < 256) || kindOfId id == some .bank) then s
    else
      let pc := if engine ≠ 0 then 0 else if id < 256 || !(perOf s (perOfHart id)).gang then (hartOf s id).pc else (perOf s (perOfHart id)).pc
      unitFault (logPoison s 0 i.context (BitVec.ofNat 16 id)) i.context unit
        { cause := Cause.ue, origin := BitVec.ofNat 16 id, engine := BitVec.ofNat 3 engine, info := storeInfo store off, fpc := pc }

/-! ## Cells, L2 and the second tier (R471-R473, R491) -/

/-- Codewords of a row that its next ACT or port read finds uncorrectable or corrects, after those that earlier ones find. [DESIGN CHOICE, log 25] -/
def cellsError (s : State) (c : Nat) (lost corrected : BitVec 128) : State :=
  if !coordOk c then s
  else { s with upsets := s.upsets.modify [] c (· ++ [lost]), softs := s.softs.modify [] c (· ++ [corrected]) }

/-- An uncorrectable error of an L2 half-line or of a module: the granule is poisoned, and it is an error outside the rows.
[DESIGN CHOICE, log 25] -/
def lineError (s : State) (n : Nat) : State :=
  if 0xA0000000000 ≤ 64 * n then s else logError (poisonRange s (64 * n) 64) 0x03 (BitVec.ofNat 64 (64 * n)) 0 0xFFFF 0 0

/-! ## Rows that the stack port reads (R471-R473, R478-R480) -/

/-- The first condition of a row's cells that lies before this read of it. -/
def takeUpset (s : State) (c : Nat) : BitVec 128 × State :=
  ((s.upsets.get [] c).headD 0, { s with upsets := s.upsets.modify [] c List.tail })

/-- The retirement of a lasting row of an octet that is not leased: to a spare, or the octet is listed (R480). [DESIGN CHOICE, log 25] -/
def retirePortRow (s : State) (c : Nat) (found : BitVec 128) : State :=
  let g := coordPer c
  let b := coordBank c
  let r := coordRow c
  let left := ((bankOf s g b).sag (r % 8)).spares
  if left = 0 then logRow { s with toRetire := s.toRetire ||| BitVec.ofNat 1152 (2 ^ g) } g b 0x06 r found 0
  else
    logRow (modSag { s with remapped := s.remapped.set false c true, upsets := s.upsets.set [] c [], softs := s.softs.set [] c [] } g b (r % 8)
      fun t => { t with spares := left - 1 }) g b 0x05 r found (left - 1)

/-- The device reads a row for its stack port. Uncorrectable codewords of a row-capable octet poison their granules; a row of an interleaved
octet is retried once, and a lasting verdict poisons the granules delivered (R473, R480). [DESIGN CHOICE, log 25] -/
def portRow (s : State) (c : Nat) (granules : List Nat) : State :=
  let g := coordPer c
  let b := coordBank c
  let r := coordRow c
  if !coordOk c || leased s g || s.retired.getLsbD g then s
  else
    let x := takeUpset s c
    if x.1 = 0 then x.2
    else if rowCapable s g then
      let j := judgeRow x.2 g b r x.1
      let t := (List.range 128).foldl (fun t k => if x.1.getLsbD k then poisonRange t (rowAddr c + 64 * k) 64 else t) j.1
      if j.2 then retirePortRow t c x.1 else t
    else
      let j := judgeRow x.2 g b r x.1
      let y := takeUpset j.1 c
      let v := if j.2 then (j.1, true) else judgeRow y.2 g b r y.1
      if v.2 then retirePortRow (granules.foldl (fun t n => if portGranule t (stackOfPer g) n then poisonRange t (64 * n) 64 else t) v.1) c x.1
      else v.1

end Sys2Proof.Machine
end

