-- ==== Sys2Proof/Machine/Moves.lean ====
section
/-! DEFINITION. What each move does: the meaning of the instruction, or of the step of the device, that it names. -/
namespace Sys2Proof.Machine

/-! ## Time (R20, R82, R241, R485) -/

/-- An RCAST or ROUT of a bank that a realignment holds: what it has left, its marks show from one rc later (R503). -/
def Bank.pausePort (b : Bank) (rc : Nat) : Bank :=
  if !portWork b rc then b
  else
    let o1 := b.laneReads.foldl (fun o n => o.modify {} n fun r => { r with readEnd := r.readEnd + 1 }) b.o
    let o2 := b.laneWrites.foldl (fun o n => o.modify {} n fun r => if r.st = .busy then { r with busyEnd := r.busyEnd + 1 } else r) o1
    { b with o := o2, laneFree := b.laneFree + 1, laneFrom := b.laneFrom + 1, nflagsAt := b.nflagsAt + 1 }

/-- One rc of a Pergola: its clock, the counts of its lease, and port transfers that pause while its layer is realigned (R503). -/
def tick (s : State) (g : Nat) : State :=
  let counts := leaseCounts s g
  let paused := !busOpen s g
  modPer s g fun p =>
    { p with rc := p.rc + 1, banks := if paused then p.banks.mapAll {} fun _ b => b.pausePort p.rc else p.banks, remain := if counts then p.remain - 1 else p.remain,
             watchdog := if counts then p.watchdog.map (· - 1) else p.watchdog }

/-- `n` rises of refresh debt. -/
def debtRises (g : Nat) : Nat → State → State
  | 0, s => s
  | n + 1, s => debtRises g n (refreshDebtRise s g)

/-- Local time passes in a unit; every 25,000 ticks of a Pergola raise its refresh debt. [DESIGN CHOICE, log 4] -/
def timePasses (x : Input) (s : State) : State :=
  match x with
  | .pavilionTime p n => modPav s p fun v => { v with clock := { v.clock with ltime := v.clock.ltime + BitVec.ofNat 64 n } }
  | .wingTime w n => modWing s w fun v => { v with clock := { v.clock with ltime := v.clock.ltime + BitVec.ofNat 64 n } }
  | .pergolaTime g n =>
    let old := (perOf s g).clock.ltime.toNat
    debtRises g ((old + n) / 25000 - old / 25000)
      (modPer s g fun v => { v with clock := { v.clock with ltime := v.clock.ltime + BitVec.ofNat 64 n } })
  | .baseTime k n => basePasses k n s
  | .ndetriefTime n => ndPasses n s
  | _ => s

/-- What an input from outside that is no event does. [DESIGN CHOICE, log 4] -/
def takeInput (x : Input) (s : State) : State :=
  match x with
  | .mailbox c a b => mailbox c a b s
  | .mbWrite off v => mbWrite off v s
  | .mbRead off => mbRead off s
  | .flitPassed port => flitPassed s port
  | .stackFlitPassed k => stackFlitPassed s k
  | .laneError g b n seg v check => laneError s g b n seg v check
  | .latchError g b q lane v check => latchError s g b q lane v check
  | .storeError id engine store off => storeError s id engine store off
  | .portRow c granules => portRow s c granules
  | .cellsError c lost corrected => cellsError s c lost corrected
  | .lineError n => lineError s n
  | x => timePasses x s

/-! ## Issue -/

/-- A function after a next state. -/
def thenDo (r : Result) (f : State → State) : Result :=
  match r with
  | .next t => .next (f t)
  | .fault e => .fault e
  | .refused e => .refused e

/-- An issue of the agent at `s.cur`: a Pergola's clock advances with it. -/
def issued (s : State) (r : Result) : Result :=
  match s.cur with
  | .pergola g => thenDo r fun t => tick t g
  | _ => r

/-- An instruction of an X-hart. A vector or matrix instruction that cannot run at once is queued, and one behind others always; a scalar one
runs ahead of the queue unless R429 bars it (R428). [DESIGN CHOICE, log 6] -/
def issueX (k : Nat) (i : Instr) (s : State) : Result :=
  let q := (coreOf s k).vqueue
  if queued i then
    if !q.isEmpty then .next (queueUp s k i)
    else thenDo (exec i s) fun t => if t.waited && !(queueUp s k i).waited then queueUp s k i else t
  else if q.isEmpty then exec i s
  else if queueBars i || behindQueue q i then .next (held s)
  else thenDo (exec i s) fun t => if t.waited then t else runAhead s t k

/-- What the issuer at `s.cur` does. A trap at a fetch waits for the vector queue, as any other. -/
def runIssue (m : Move) (s : State) : Result :=
  match m, issuingX s with
  | .instr i, some k => issueX k i s
  | .instr i, none => exec i s
  | .illegal w, x => if x.any fun k => !(coreOf s k).vqueue.isEmpty then .next (held s) else execIllegalEncoding w s
  | .absent off, x => if x.any fun k => !(coreOf s k).vqueue.isEmpty then .next (held s) else execAbsentBlockFetch off s
  | _, _ => .next s

/-- The head of the vector queue is tried: it passes, waits on, or faults late, with every scalar change since it was queued undone (R428). [DESIGN CHOICE, log 6] -/
def runHead (k : Nat) (s : State) : Result :=
  match (coreOf s k).vqueue with
  | [] => .next s
  | q :: _ =>
    let s0 := headState s k
    match exec q.instr s0 with
    | .next t =>
      if t.waited then .next s
      else if headPassed s0 t k then .next (mergeHead s s0 t k)
      else thenDo (exec q.instr { rewindQueue s k with cur := .hart (xHartId k), waited := false })
        fun t => { t with cur := s.cur, waited := s.waited }
    | r => r

/-- The vector queue is emptied as far as its head can run (R450). -/
def drainQueue (k : Nat) : Nat → State → Result
  | 0, s => .next s
  | fuel + 1, s => match runHead k s with
    | .next t => if t = s then .next s else drainQueue k fuel t
    | r => r

/-- A unit stops for a halt: a core empties its vector queue first (R450). -/
def runStop (u : UnitRef) (s : State) : Result :=
  match u with
  | .core k => match drainQueue k 16 s with
    | .next t => execUnitStop u t
    | r => r
  | .pergola _ => execUnitStop u s

/-- The banks of a Pergola in the order in which they may issue: those after the one that issued last (R44); a pair is named by its first
bank (R487). -/
def splitOrder (s : State) (g : Nat) : List Nat :=
  let n := if (perOf s g).dual then 4 else 8
  (List.range n).map fun k => ((perOf s g).lastBank + 1 + k) % n

/-- The first of these banks whose next instruction its interlocks permit issues; the others stay. -/
def splitIssue (g : Nat) : List Nat → State → Result
  | [], s => .next s
  | b :: bs, s =>
    if (hartOf s (bankId g b)).run ≠ .running then splitIssue g bs s
    else
      let t := leavePoint { s with cur := .bank g b, waited := false }
      match runIssue (issueMove t) t with
      | .next u => if u.waited then splitIssue g bs u else .next (modPer u g fun p => { p with lastBank := b })
      | r => r

/-- A Pergola in split mode issues, and its clock advances. -/
def splitTurn (g : Nat) (s : State) : Result :=
  thenDo (splitIssue g (splitOrder s g) s) fun t => tick { t with cur := .pergola g } g

/-! ## The steps of the device -/

/-- A step that a Pergola's clock brings about. -/
def runRow (g b n : Nat) (e : RowEvent) (s : State) : Result :=
  match e with
  | .opens => execRowOpen g b n s
  | .restores => execRowRestored g b n s
  | .writes => execRowWriterComplete g b n s
  | .writeback => execWritebackEnd g b n s
  | .precharged => execPrechargeEnd g b n s
  | .refreshed => execRefreshEnd g b n s
  | .forced => execForcedRefresh g b n s
  | .forcedDone => execForcedRefreshDone g b n s

/-- A move performed. -/
def runMove (m : Move) (s : State) : Result :=
  match m with
  | .none => .next s
  | .instr i => issued s (runIssue (.instr i) s)
  | .illegal w => issued s (runIssue (.illegal w) s)
  | .absent off => issued s (runIssue (.absent off) s)
  | .split g => splitTurn g s
  | .tick g => .next (tick s g)
  | .outside i => exec i s
  | .command => .next (mailbox s.nd.cmd s.nd.arg0 s.nd.arg1 s)
  | .input x => .next (takeInput x s)
  | .powerUp => execPowerUp s
  | .start u => execStepStart u s
  | .stop u => runStop u s
  | .halted c => execHaltComplete c.toNat s
  | .killed c => .next (killDone s c)
  | .kill id => execKillPointStop id s
  | .preempt k => execPreemptionSave k s
  | .join k => execJoinRendezvous k s
  | .gangMeet g => execGangRendezvous g s
  | .select k => execCoreFreeSelect k s
  | .request w => .next (walkerRequests s w)
  | .selectRow g => execRowStepDispatch g s
  | .intake c => execIntakeTake c s
  | .land n b => execOverlayBlockLand n b s
  | .queueHead k => runHead k s
  | .vectorDone k n => execVectorComplete k n s
  | .matrixDone k n => execMatrixComplete k n s
  | .unitRoom id => execReplayUnitRoom id s
  | .group k n => execCopyGroupArrival k n s
  | .follow k n => execFollowOnIssue k n s
  | .commandDone k n => execEngineCommandComplete k n s
  | .row g b n e => runRow g b n e s
  | .window l => execActivationWindowExpiry l s
  | .realign l => execRealignmentDeferralExpiry l s
  | .remain g => execLeaseRemainExpiry g s
  | .watchdog g => execWatchdogExpiry g s
  | .shrx g b => execShrxDelivery g b s

end Sys2Proof.Machine
end

