-- ==== Sys2Proof/Machine/Place.lean ====
section
/-! DEFINITION. How a program is put before a hart from outside: the load that `State.withFetchWord` stands for (log 10). -/
namespace Sys2Proof.Machine

/-- The agent of the lowest number whose hart executes an instruction (R31). -/
def agentFor (i : Instr) : Agent :=
  if hartExecutes .aHart i then .hart 0
  else if hartExecutes .xHart i then .hart 1
  else if hartExecutes .docent i then .hart 0x4000
  else .pergola 0

/-- An instruction of `nbits` bits `w`, zeros above, landed at the program counter of a running hart that executes it; nothing else moves
before it. [DESIGN CHOICE, log 10] -/
def placeWord (s : State) (nbits w : Nat) : State :=
  let v := w % 2 ^ nbits
  let a := match decodeTableWord nbits w with
    | some i => agentFor i
    | none => .hart 0
  let s1 := { s with nd := { s.nd with started := true }, inputs := [], ring := [a], cur := a }
  let s2 := modHarts s1 (allHarts s1) fun h => { h with run := .running, pred := true }
  let s3 := match a with
    | .pergola g => modPer s2 g fun p => { p with gang := true }
    | _ => s2
  placeCode s3 (curOverlay s3) (curPc s3).toNat (leBytes 16 v)

end Sys2Proof.Machine
end

