-- ==== Sys2Proof/Machine/Step.lean ====
section
/-! DEFINITION. One step of the machine, and the state in which a given instruction is the next to run. -/
namespace Sys2Proof.Machine

/-- One step: the next move, performed. -/
def step (s : State) : Host.Outcome State Fault Refusal := runMove (nextMove s).2 (nextMove s).1

/-- The state with an instruction placed where the step fetches next, on a hart that executes it (log 10). -/
def State.withFetchWord (s : State) (nbits w : Nat) : State := placeWord s nbits w

end Sys2Proof.Machine
end

