-- ==== Sys2Proof/Safety.lean ====
section
/-! DEFINITION. The terms that the claims use: when an instruction is performed, what it may leave changed, and the spec's result tables written
out in exact arithmetic. -/
namespace Sys2Proof.Machine

/-! ## When an instruction is performed -/

/-- The instruction meets none of the traps that come before its own checks (steps 1 to 4 of R187, REFDUE of R481, a drain point of R432), the
gang performs it (R42), and the results it names are there (R169, R233). -/
def admitted (i : Instr) (s : State) : Bool :=
  match curKind s with
  | none => false
  | some k => (preCheck k i s).isNone && (refdueBanks s).isEmpty && !passedOver i s && resultsReady i s

/-! ## Frames -/

/-- Two harts that differ at most in their registers, program counter, loop stack and iteration boundary. -/
def HartApart (h h' : Hart) : Prop := { h' with x := h.x, pc := h.pc, loops := h.loops, boundary := h.boundary } = h

/-- Two Pergolas that differ at most in their program counter and loop stack. -/
def PerApart (p p' : Pergola) : Prop := { p' with pc := p.pc, loops := p.loops } = p

/-- Every byte of memory reads as before. -/
def SameMemory (s t : State) : Prop := ∀ a, readByte t a = readByte s a

/-- What an instruction that writes register `d` of the harts `ids` leaves: nothing else changes but program counters, loop stacks and
iteration boundaries. -/
structure RegisterFrame (s t : State) (ids : List Nat) (d : Nat) : Prop where
  rest : { t with harts := s.harts, pergolas := s.pergolas } = s
  harts : ∀ id, HartApart (hartOf s id) (hartOf t id)
  pergolas : ∀ g, PerApart (perOf s g) (perOf t g)
  registers : ∀ id n, ¬(id ∈ ids ∧ n = d) → (hartOf t id).get n = (hartOf s id).get n
  memory : SameMemory s t

/-- What an instruction that writes no register leaves. -/
def ControlFrame (s t : State) : Prop := RegisterFrame s t [] 0

/-! ## The result tables of majors 0x01 to 0x03, in exact arithmetic (R201-R207) -/

def valAdd (a b : Word) : Word := BitVec.ofNat 64 (a.toNat + b.toNat)
def valSub (a b : Word) : Word := BitVec.ofInt 64 (a.toInt - b.toInt)
def valShl (a : Word) (n : Nat) : Word := BitVec.ofNat 64 (a.toNat * 2 ^ n)
def valShr (a : Word) (n : Nat) : Word := BitVec.ofNat 64 (a.toNat / 2 ^ n)
def valSra (a : Word) (n : Nat) : Word := BitVec.ofInt 64 (a.toInt / 2 ^ n)
def valRor (a : Word) (n : Nat) : Word := BitVec.ofNat 64 (a.toNat / 2 ^ n + a.toNat * 2 ^ (64 - n))
def val01 (p : Prop) [Decidable p] : Word := if p then 1 else 0

/-- How many of bits 0 to 63 satisfy a condition. -/
def countBits (p : Nat → Bool) : Word := BitVec.ofNat 64 ((List.range 64).filter p).length

/-- The field that BFX and BFI name (R203): position, length cut at bit 63. -/
def fieldPos (b : Word) : Nat := (b.extractLsb' 0 6).toNat
def fieldLen (b : Word) : Nat := min (b.extractLsb' 8 7).toNat (64 - fieldPos b)

/-- BFX: `e` bits of a from `pos`, sign-extended from bit e - 1 for `.sx` (R203). -/
def valBfx (sx : Bool) (a b : Word) : Word :=
  let f := a.toNat / 2 ^ fieldPos b % 2 ^ fieldLen b
  if sx = true ∧ 0 < fieldLen b ∧ 2 ^ (fieldLen b - 1) ≤ f then BitVec.ofInt 64 ((f : Int) - 2 ^ fieldLen b) else BitVec.ofNat 64 f

/-- BFI: bit k is that of the shifted a inside the field and of c outside (R203). -/
def valBfi (a b c : Word) : Word :=
  BitVec.ofNat 64 (((List.range 64).filter fun k =>
    if fieldPos b ≤ k ∧ k < fieldPos b + fieldLen b then a.getLsbD (k - fieldPos b) else c.getLsbD k).foldl (fun n k => n + 2 ^ k) 0)

/-- SEXT and ZEXT take 8, 16, 32 or 64 bits by MOD[1:0] (R202). -/
def extBits (mod : BitVec 10) : Nat :=
  match mod.toNat % 4 with
  | 0 => 8
  | 1 => 16
  | 2 => 32
  | _ => 64

/-- R206 and R207: the quotient truncated toward zero, all ones for a divisor of 0, -2^63 for -2^63 / -1. -/
def valDiv (a b : Word) : Word := if b = 0 then BitVec.ofInt 64 (-1) else BitVec.ofInt 64 (Int.tdiv a.toInt b.toInt)
def valDivu (a b : Word) : Word := if b = 0 then BitVec.ofInt 64 (-1) else BitVec.ofNat 64 (a.toNat / b.toNat)
def valRem (a b : Word) : Word := if b = 0 then a else BitVec.ofInt 64 (Int.tmod a.toInt b.toInt)
def valRemu (a b : Word) : Word := if b = 0 then a else BitVec.ofNat 64 (a.toNat % b.toNat)

/-- x[D] := of the table of R201, from the values a, b, c of x[A], x[B], x[C]; with the destination field. -/
def result01 : Instr → Option (FmtR × (Word → Word → Word → Word))
  | .add f => some (f, fun a b _ => valAdd a b)
  | .sub f => some (f, fun a b _ => valSub a b)
  | .and f => some (f, fun a b _ => a &&& b)
  | .or f => some (f, fun a b _ => a ||| b)
  | .xor f => some (f, fun a b _ => a ^^^ b)
  | .andn f => some (f, fun a b _ => a &&& ~~~b)
  | .shl f => some (f, fun a b _ => valShl a (b.toNat % 64))
  | .shr f => some (f, fun a b _ => valShr a (b.toNat % 64))
  | .sra f => some (f, fun a b _ => valSra a (b.toNat % 64))
  | .ror f => some (f, fun a b _ => valRor a (b.toNat % 64))
  | .min f => some (f, fun a b _ => if a.toInt < b.toInt then a else b)
  | .max f => some (f, fun a b _ => if b.toInt < a.toInt then a else b)
  | .minu f => some (f, fun a b _ => if a.toNat < b.toNat then a else b)
  | .maxu f => some (f, fun a b _ => if b.toNat < a.toNat then a else b)
  | .slt f => some (f, fun a b _ => val01 (a.toInt < b.toInt))
  | .sltu f => some (f, fun a b _ => val01 (a.toNat < b.toNat))
  | .seq f => some (f, fun a b _ => val01 (a = b))
  | .clz f => some (f, fun a _ _ => countBits fun k => decide (a.toNat < 2 ^ k))
  | .ctz f => some (f, fun a _ _ => countBits fun k => decide (a.toNat % 2 ^ (k + 1) = 0))
  | .popc f => some (f, fun a _ _ => countBits a.getLsbD)
  | .sext f => some (f, fun a _ _ => BitVec.ofInt 64 (BitVec.ofNat (extBits f.mod) a.toNat).toInt)
  | .zext f => some (f, fun a _ _ => BitVec.ofNat 64 (a.toNat % 2 ^ extBits f.mod))
  | .bfx f => some (f, fun a b _ => valBfx (f.mod.getLsbD 0) a b)
  | .bfi f => some (f, fun a b c => valBfi a b c)
  | .sel f => some (f, fun a b c => if c ≠ 0 then a else b)
  | _ => none

/-- x[D] := of the table of R204, from the value a of x[A] and the instruction's address; a shift is by 0 to 63. -/
def result02 : Instr → Option (FmtI × (Word → Word → Word))
  | .addi f => some (f, fun a _ => BitVec.ofInt 64 (a.toInt + f.imm.toInt))
  | .andi f => some (f, fun a _ => a &&& BitVec.ofInt 64 f.imm.toInt)
  | .ori f => some (f, fun a _ => a ||| BitVec.ofInt 64 f.imm.toInt)
  | .xori f => some (f, fun a _ => a ^^^ BitVec.ofInt 64 f.imm.toInt)
  | .shli f => if f.imm.toNat < 64 then some (f, fun a _ => valShl a f.imm.toNat) else none
  | .shri f => if f.imm.toNat < 64 then some (f, fun a _ => valShr a f.imm.toNat) else none
  | .srai f => if f.imm.toNat < 64 then some (f, fun a _ => valSra a f.imm.toNat) else none
  | .slti f => some (f, fun a _ => val01 (a.toInt < f.imm.toInt))
  | .sltui f => some (f, fun a _ => val01 (a.toNat < (BitVec.ofInt 64 f.imm.toInt).toNat))
  | .li f => some (f, fun _ _ => BitVec.ofInt 64 f.imm.toInt)
  | .lih f => some (f, fun a _ => BitVec.ofNat 64 (a.toNat * 2 ^ 30 + f.imm.toNat))
  | .addpc f => some (f, fun _ pc => BitVec.ofInt 64 (pc.toInt + f.imm.toInt))
  | _ => none

/-- SHLI, SHRI and SRAI (R204). -/
def shiftTable : Instr → Option FmtI
  | .shli f => some f
  | .shri f => some f
  | .srai f => some f
  | _ => none

/-- x[D] := of the table of R206, with the borderline cases of R207. -/
def result03 : Instr → Option (FmtR × (Word → Word → Word → Word))
  | .mul f => some (f, fun a b _ => BitVec.ofNat 64 (a.toNat * b.toNat))
  | .mulh f => some (f, fun a b _ => BitVec.ofInt 64 (a.toInt * b.toInt / 2 ^ 64))
  | .mulhu f => some (f, fun a b _ => BitVec.ofNat 64 (a.toNat * b.toNat / 2 ^ 64))
  | .div f => some (f, fun a b _ => valDiv a b)
  | .divu f => some (f, fun a b _ => valDivu a b)
  | .rem f => some (f, fun a b _ => valRem a b)
  | .remu f => some (f, fun a b _ => valRemu a b)
  | .madd f => some (f, fun a b c => BitVec.ofNat 64 (a.toNat * b.toNat + c.toNat))
  | _ => none

/-! ## Control transfers (R209-R219) -/

/-- InstrAddr + 4 * SignExtend(OFF30), from an address. -/
def parcelsFrom (base : Word) (off : BitVec 30) : Word := BitVec.ofInt 64 (base.toInt + 4 * off.toInt)

/-- The condition of BF and BNF on FLAGS.STATE, by A[1:0] (R210). -/
def stateHolds (cond : Nat) (st : BitVec 2) : Bool :=
  match cond with
  | 0 => st.toNat == 0
  | 1 => st.toNat == 1 || st.toNat == 2
  | 2 => st.toNat == 2
  | _ => st.toNat == 1

/-- The condition of a branch on x[A], x[B] and FLAGS.STATE of the leader (R209). -/
def branchTable : Instr → Option (FmtB × (Word → Word → BitVec 2 → Bool))
  | .beq f => some (f, fun a b _ => decide (a = b))
  | .bne f => some (f, fun a b _ => decide (a ≠ b))
  | .blt f => some (f, fun a b _ => decide (a.toInt < b.toInt))
  | .bge f => some (f, fun a b _ => decide (b.toInt ≤ a.toInt))
  | .bltu f => some (f, fun a b _ => decide (a.toNat < b.toNat))
  | .bgeu f => some (f, fun a b _ => decide (b.toNat ≤ a.toNat))
  | .bf f => some (f, fun _ _ st => stateHolds (f.a.bits.toNat % 4) st)
  | .bnf f => some (f, fun _ _ st => !stateHolds (f.a.bits.toNat % 4) st)
  | _ => none

/-- A jump of R211: the target, whether it comes from a register, and the link's destination. -/
structure Jump where
  target : Word
  fromReg : Bool
  link : Option Opnd
  deriving DecidableEq, Repr

def jumpTable' : Instr → State → Option Jump
  | .jmp f, s => some ⟨parcelsFrom (curPc s) f.off, false, none⟩
  | .jmpr f, s => some ⟨parcelsFrom (xRead s f.a) f.off, true, none⟩
  | .call f, s => some ⟨parcelsFrom (curPc s) f.off, false, some f.d⟩
  | .callr f, s => some ⟨parcelsFrom (xRead s f.a) f.off, true, some f.d⟩
  | .ret f, s => some ⟨xRead s f.a, true, none⟩
  | _, _ => none

/-- FJMP and FCALL (R213). -/
def fencedTable : Instr → State → Option Jump
  | .fjmp f, s => some ⟨parcelsFrom (xRead s f.a) f.off, true, none⟩
  | .fcall f, s => some ⟨parcelsFrom (xRead s f.a) f.off, true, some f.d⟩
  | _, _ => none

/-- What a jump leaves: the program counter at the target, the loop stack as it was, and the link in every hart of the issuer (R211, R214,
R218). -/
def Jumped (s t : State) (j : Jump) : Prop :=
  ctl t = { pc := j.target, loops := (ctl s).loops } ∧
  (match j.link with
   | none => ControlFrame s t
   | some d => RegisterFrame s t (allHarts s) d.num.toNat ∧
      ∀ id ∈ allHarts s, (hartOf t id).get d.num.toNat = if d.num.toNat = 0 then 0 else curPc s + 8)

/-- The place after an instruction of 64 bits that transfers no control: the end step of R217, else InstrAddr + 8. -/
def nextPlace (s : State) : Ctl := (fallThrough (ctl s) 8).1

/-- LOOP and LOOPI: END24 and the count (R215). -/
def loopTable : Instr → State → Option (BitVec 24 × Word)
  | .loop f, s => some (f.end24, xRead s f.a)
  | .loopi f, _ => some (f.end24, BitVec.ofNat 64 f.imm16.toNat)
  | _, _ => none

/-! ## Memory accesses (R310-R316) -/

/-- Two harts that differ at most in what an access may change: registers, place, an armed monitor's trigger, what came back from a peer, and
NFLAGS. -/
def HartAccessed (h h' : Hart) : Prop :=
  { h' with x := h.x, pc := h.pc, loops := h.loops, boundary := h.boundary, monitor := h.monitor, replies := h.replies,
            awaiting := h.awaiting, vdone := h.vdone, nflags := h.nflags } = h

/-- NFLAGS of every hart is as it was. -/
def SameNflags (s t : State) : Prop := ∀ id, (hartOf t id).nflags = (hartOf s id).nflags

/-- The table entries whose A and D bits the translations set (R72). -/
def tableBytes (l : List Resolved) : List Nat := l.filterMap fun r => r.entryAt.map (·.1)

/-- What an access to memory or to an A-store leaves: registers but x[d] of `ids`, cores but for vector registers whose image a store meets
(R101), and everything that is no memory, translation or place of execution. -/
structure AccessFrame (s t : State) (ids : List Nat) (d : Nat) : Prop where
  rest : { t with harts := s.harts, pergolas := s.pergolas, cores := s.cores, pavilions := s.pavilions, mem := s.mem, poison := s.poison,
                  tlb := s.tlb, freeCount := s.freeCount } = s
  harts : ∀ id, HartAccessed (hartOf s id) (hartOf t id)
  pergolas : ∀ g, PerApart (perOf s g) (perOf t g)
  cores : ∀ k, { coreOf t k with v := (coreOf s k).v } = coreOf s k
  pavilions : ∀ p, { pavOf t p with astore := (pavOf s p).astore } = pavOf s p
  registers : ∀ id n, ¬(id ∈ ids ∧ n = d) → (hartOf t id).get n = (hartOf s id).get n

/-- Every byte of memory outside `[pa, pa + n)`, and outside the table entries of the translations, reads as before. -/
def OnlyBytes (s t : State) (l : List Resolved) (pa n : Nat) : Prop :=
  ∀ a, ¬(pa ≤ a ∧ a < pa + n) → a ∉ tableBytes l → readByte t a = readByte s a

/-- Every byte of every A-store reads as before. -/
def SameStores (s t : State) : Prop := ∀ p o, (pavOf t p).astore.get 0 o = (pavOf s p).astore.get 0 o

/-- The A-store and offset of byte `j` of a place in A-stores (R87). -/
def storeByte : Place → Nat → Option (Nat × Nat)
  | .store v o, j => some (v, o + j)
  | .striped w o, j => some (stripePav w (o + j), stripeOff (o + j))
  | _, _ => none

/-- Every byte of every A-store outside the `n` bytes of a place reads as before. -/
def OnlyStore (s t : State) (p : Place) (n : Nat) : Prop :=
  ∀ q k, (∀ j < n, storeByte p j ≠ some (q, k)) → (pavOf t q).astore.get 0 k = (pavOf s q).astore.get 0 k

/-- A place in memory or in an A-store, no part of a frame or a spill area that the device has in use (R102, R307), and no poisoned
granule (R476). -/
def plainPlace (s : State) (p : Place) (n : Nat) : Bool :=
  match p with
  | .phys pa => (firstPoison s pa n).isNone && (recordsHit s pa n).isEmpty && !(framesInUse s).any fun f => overlaps pa n f.1 f.2
  | .store _ _ => true
  | .striped _ _ => true
  | _ => false

/-- What the hart sent to peers on these streams is acknowledged, and its commands on them have begun (R108, R138). -/
def acknowledgedOn (s : State) (id : Nat) (sel : Nat → Bool) : Bool := !streamBusy s id sel

/-- What the hart sent to peers is acknowledged and its CFETCHes have landed (R117, R135). -/
def landedAll (s : State) (id : Nat) : Bool := !outstanding s id (fun p => !p.wants) && !fetchOf s (overlayOfHart id) [id]

/-- As `landedAll`, and each of its commands has begun: every earlier access is performed (R107, R113). -/
def orderedAll (s : State) (id : Nat) : Bool := landedAll s id && !unbegun s id fun _ => true

/-- An access may be performed now: after its stream's earlier ones, a release after all of them (R108, R113). -/
def mayAccess (s : State) (id : Nat) (release : Bool) (strm : Nat) : Bool :=
  if release then orderedAll s id else acknowledgedOn s id (· == strm)

/-- The width in bytes and the extension of WID (R311). -/
def widthOf (wid : BitVec 4) : Nat :=
  match wid.toNat with
  | 0 => 1
  | 1 => 2
  | 2 => 4
  | 3 => 8
  | 4 => 1
  | 5 => 2
  | _ => 4
def extendTo (wid : BitVec 4) (v : Nat) : Word :=
  if wid.toNat < 4 then BitVec.ofNat 64 v else BitVec.ofInt 64 (BitVec.ofNat (8 * widthOf wid) v).toInt

/-- x[BASE] + SignExtend(OFF20), modulo 2^64 (R310). -/
def effective (s : State) (f : FmtM) : Word := BitVec.ofInt 64 ((xRead s f.base).toInt + f.off.toInt)

def loadTable : Instr → Option FmtM
  | .ld f => some f
  | .ldacq f => some f
  | .ldnt f => some f
  | _ => none

/-- ST, and STREL, a release. -/
def storeTable : Instr → Option (FmtM × Bool)
  | .st f => some (f, false)
  | .strel f => some (f, true)
  | _ => none

def loadReq (n : Nat) : Req := { rd := true, handle := .published, align := n }
def storeReq (n : Nat) : Req := { wr := true, handle := .refused, align := n }
def atomicReq (n : Nat) : Req := { rd := true, wr := true, handle := .refused, align := n }

/-- Width in bytes, order and stream of an atomic's MOD (R183). -/
def atomWidth (f : FmtR) : Nat := 2 ^ (f.mod.extractLsb' 8 2).toNat
def atomRelease (f : FmtR) : Bool := f.mod.getLsbD 7
def atomStream (f : FmtR) : Nat := (f.mod.extractLsb' 0 4).toNat

/-- The signed value of the low `w` bits. -/
def signedAt (w v : Nat) : Int := if v % 2 ^ w < 2 ^ (w - 1) then (v % 2 ^ w : Nat) else ((v % 2 ^ w : Nat) : Int) - 2 ^ w

/-- The new value of R312 from m, b, c at a width of `w` bits; `none` for no write. -/
def atomTable : Instr → Option (FmtR × (Nat → Nat → Nat → Nat → Option Nat))
  | .amoadd f => some (f, fun w m b _ => some ((m + b) % 2 ^ w))
  | .amoand f => some (f, fun _ m b _ => some (m &&& b))
  | .amoor f => some (f, fun _ m b _ => some (m ||| b))
  | .amoxor f => some (f, fun _ m b _ => some (m ^^^ b))
  | .amomin f => some (f, fun w m b _ => some (if signedAt w b < signedAt w m then b else m))
  | .amomax f => some (f, fun w m b _ => some (if signedAt w m < signedAt w b then b else m))
  | .amoswp f => some (f, fun _ _ b _ => some b)
  | .amocas f => some (f, fun _ m b c => if m = c then some b else none)
  | .amofadd f => some (f, fun _ m b _ => some ((add32 m b).val % 2 ^ 32))
  | .amoinc f => some (f, fun _ m b _ => some (if b ≤ m then 0 else m + 1))
  | _ => none

/-- The condition of WAITV on the word m and x[B] (R316). -/
def waitCond (c m b : Nat) : Bool :=
  match c with
  | 0 => decide (m = b)
  | 1 => decide (m ≠ b)
  | 2 => decide (b ≤ m)
  | _ => decide (m < b)

/-! ## Coordination of the two harts (R34-R36, R220-R226) -/

/-- The core's queues and producer. -/
def queuesEmpty (c : Core) : Bool :=
  c.dq0.isEmpty && c.dq1.isEmpty && c.dq2.isEmpty && c.dq3.isEmpty && c.bq.isEmpty && c.bqProducer.isNone

/-- Cores and everything else but harts, Pergolas and cores are as they were, memory included. -/
def CoreFrame (s t : State) (k : Nat) : Prop :=
  { t with harts := s.harts, pergolas := s.pergolas, cores := s.cores } = s ∧ ∀ j, j ≠ k → coreOf t j = coreOf s j

/-- The reason code with which an MWAIT ends now (R226). -/
def waitEnds (h : Hart) (now t : Word) : Option Word :=
  match h.monitor with
  | none => some 3
  | some m =>
    if m.lost = true then some 2
    else if m.triggered = true then some 0
    else match h.mwaitFrom with
      | none => none
      | some from' => if 0 < t.toNat ∧ t.toNat ≤ (now - from').toNat then some 1 else none

/-! ## Traps and control registers (R344, R421-R426) -/

/-- A hart in its handler (R424): the trap registers, and the program counter at TRAPVEC; everything else as it stood. -/
def trapped (h : Hart) (pc : Word) (code : BitVec 8) (info : Word) (late : Bool) : Hart :=
  { h with trappc := pc, trapinfo := info, code := code, ih := true, late := late, pc := h.trapvec }

/-- The hart can take a contained trap (R422): it has a handler and is not in it. -/
def canTrap (h : Hart) : Bool := h.trapvec != 0 && !h.ih

/-- What a control register reads (R344). -/
def controlValue (s : State) (id a : Nat) : Word :=
  let h := hartOf s id
  match a with
  | 0x000 => BitVec.ofNat 64 id
  | 0x001 => (clockOfHart s id).ltime
  | 0x002 => govstat s id
  | 0x003 => BitVec.ofNat 64 h.flags.toNat
  | 0x004 => BitVec.ofNat 64 h.nflags.toNat
  | 0x005 => (bankOf s (perOfHart id) (bankOfHart id)).rtype
  | 0x006 => BitVec.ofNat 64 h.context.toNat
  | 0x007 => if h.priv then 1 else 0
  | 0x010 => h.trapvec
  | 0x011 => h.trappc
  | 0x012 => BitVec.ofNat 64 (h.code.toNat + (if h.ih then 2 ^ 8 else 0) + (if h.late then 2 ^ 16 else 0) + 2 ^ 17 * min 64 h.replay.length)
  | 0x013 => h.trapinfo
  | 0x014 => h.trapscr
  | 0x020 => h.ptroot
  | 0x022 => h.catbase
  | 0x023 => h.hndbase
  | 0x024 => h.hndcount
  | 0x025 => h.spillbase
  | _ => 0

/-- What a written register reads afterwards; `none` for GOVSTAT, TRAPCAUSE and TLBINV, which act (R208, R166, R344). -/
def controlStored (a : Nat) (v : Word) : Option Word :=
  match a with
  | 0x003 => some (if v.toNat % 4 = 3 then 0 else BitVec.ofNat 64 (v.toNat % 4))
  | 0x004 => some (BitVec.ofNat 64 (v.toNat % 64))
  | 0x010 => some (BitVec.ofNat 64 (v.toNat / 4 * 4))
  | 0x002 => none
  | 0x012 => none
  | 0x021 => none
  | _ => some v

/-! ## Records, objects and steps (R54-R64, R334-R343) -/

/-- Two harts that differ at most in registers, place, an armed monitor's trigger, barrier memberships and spawn scope. -/
def HartScoped (h h' : Hart) : Prop :=
  { h' with x := h.x, pc := h.pc, loops := h.loops, boundary := h.boundary, monitor := h.monitor, members := h.members, spawn := h.spawn } = h

/-- What an instruction that writes one record or object of `n` bytes at `pa` leaves: no other byte of memory but the table entries of its
translations `l`, no register but x[d] of `ids`. -/
structure RecordFrame (s t : State) (ids : List Nat) (d : Nat) (l : List Resolved) (pa n : Nat) : Prop where
  rest : { t with harts := s.harts, pergolas := s.pergolas, mem := s.mem, poison := s.poison, tlb := s.tlb, owned := s.owned,
                  scopeCount := s.scopeCount } = s
  harts : ∀ id, HartScoped (hartOf s id) (hartOf t id)
  pergolas : ∀ g, PerApart (perOf s g) (perOf t g)
  registers : ∀ id n, ¬(id ∈ ids ∧ n = d) → (hartOf t id).get n = (hartOf s id).get n
  memory : OnlyBytes s t l pa n

/-- Every scalar register of every hart is as it was. -/
def SameRegisters (s t : State) : Prop := ∀ id n, (hartOf t id).get n = (hartOf s id).get n

/-- The instruction stays at its place (a blocking wait or a stall), its registers and all memory as they were. -/
def StaysHere (i : Instr) (s : State) : Prop :=
  ∃ t, exec i s = .next t ∧ ctl t = ctl s ∧ t.waited = true ∧ SameRegisters s t ∧ SameMemory s t

/-- A contained trap that names the instruction itself, logged where it is a UE (R424, R491). -/
def TrapsHere (i : Instr) (s : State) (code : BitVec 8) (info : Word) : Prop :=
  exec i s = .next (logged s (some i) (.trap code info) (takeTrap s (curPc s) code info false false))

/-- The scope record that the device finds at an address of a context, if any, is not poisoned (R473). -/
def scopeSound (s : State) (c : BitVec 16) (va : Word) : Bool :=
  match deviceAddr s (entryCtx s c) va.toNat false 64 with
  | .ok x => !recordLost s x.1
  | .error _ => true

/-- CANCEL and CWAIT may name this record: a live one, by a docent any, by a hart of a context one of its own that lies within its home scope's
subtree (R62, R336). -/
def namesRecord (s : State) (va : Word) (pa r : Nat) : Prop :=
  let id := leadHart s
  deviceRead s (hartCtx s id) va.toNat 64 64 = .ok (pa, r) ∧ r ≠ 0 ∧ recState r ≠ 3 ∧
  (curKind s ≠ some .docent → recContext r = (hartOf s id).context.toNat ∧
    ∃ h, deviceAddr s (hartCtx s id) (hartOf s id).home.toNat false 64 = .ok h ∧
      inSubtree s (entryCtx s (hartOf s id).context) pa h.1 = true)

/-- No frame header and no spill record of the context's area lies on the 64 bytes at `q` (R307, R355). -/
def lineClear (s : State) (c : BitVec 16) (q : Nat) : Prop :=
  (∀ k, overlaps q 64 ((coreOf s k).frame + 0x8000) 64 = false ∧ overlaps q 64 (perOf s k).frame 64 = false) ∧
  ∀ n, n < 1024 → overlaps q 64 (spillAddr (s.contexts.get {} c.toNat).spillbase 0 0 + 0x10080 * n) 1 = false

/-- No step, command or matrix work of a context stands at any unit. -/
def holdsNothing (s : State) (c : BitVec 16) : Bool :=
  (s.cores.all fun k => (k.2.step.toList ++ k.2.suspended.map (·.info) ++ k.2.engines.map (·.info) ++ k.2.matrix.map (·.entry.info)).all
    fun i => i.context != c) &&
  s.pergolas.all fun p => (p.2.step.toList ++ p.2.yielded.map (·.info)).all fun i => i.context != c

/-- One decrement of the block at `v` in `s` has led to `t` (R54, R351, R352): DEPS is one less; at zero a block that passes the checks and has
steps reads STATE 01 and stands in the queue of its PRIO on every Wing of WINGS. -/
def Decremented (s t : State) (c : AddrCtx) (v : Word) : Prop :=
  ∀ b, readBlock s c v = .ok b → blkState b = 0 → blkDead b = false → 0 < blkDeps b → deadOnArrival s c b = false →
    (1 < blkDeps b → readNat t (b.pa + 8) 4 = blkDeps b - 1 ∧ ∀ a, ¬(b.pa + 8 ≤ a ∧ a < b.pa + 12) → readByte t a = readByte s a) ∧
    (∀ b1, blkDeps b = 1 → readBlock (putDeps s b 0) c v = .ok b1 → b1.pa = b.pa → stepCount b1 ≠ 0 →
      rejectReason (putDeps s b 0) c (blockContext s c b) b1 = none →
      readNat t (b.pa + 8) 4 = 0 ∧ (readByte t (b.pa + 5)).toNat / 64 = 1 ∧
        ∀ w, w < 8 → (blkWings b1).testBit w = true → { context := blockContext s c b, va := v } ∈ (wingOf t w).queue (blkPrio b1))

/-- As `Decremented`, for the one block that a hart's EXIT names, after the reads of R55. -/
def ExitDecrements (f : FmtR) (s u : State) (id : Nat) : Prop :=
  ∀ v, successors f (hartOf s id) = [v] → Decremented (exitReads f id s) u (entryCtx s (hartOf s id).context) v

/-- What the device keeps of a Catalogue. -/
def catHeld (s : State) (d : CatDesc) : Catalogue := s.catalogues.get {} d.pa

/-- FREE and MAPPED of the descriptor agree with what the Catalogue holds (R93). -/
def CatCounts (t : State) (d : CatDesc) : Prop :=
  readNat t (d.pa + 4) 4 = (catHeld t d).names.length % 2 ^ 32 ∧ readNat t (d.pa + 8) 4 = ((catHeld t d).free d).length % 2 ^ 32

/-- A store of `n` bytes at `b` meets no frame that holds a saved step and no spill area (R102). -/
def landsPlain (s : State) (b n : Nat) : Prop := (∀ u ∈ savedFrames s, overlaps b n u.1 u.2.2 = false) ∧ recordsHit s b n = []

/-- Byte `j` of a slot's words. -/
def slotByte (s : State) (c n j : Nat) : Byte := (slotOf s c n).words.extractLsb' (8 * j) 8

/-- Src of R328, `none` where InRange does not hold. -/
def sourceOf (m : Nat) (i0 i1 i2 i3 : Int) : Option Word :=
  if 0 ≤ i0 ∧ i0 < tmSize m 0 ∧ 0 ≤ i1 ∧ i1 < tmSize m 1 ∧ 0 ≤ i2 ∧ i2 < tmSize m 2 ∧ 0 ≤ i3 ∧ i3 < tmSize m 3 then
    some (BitVec.ofInt 64 (tmBase m + i0 * tmEsize m + i1 * tmStride m 1 + i2 * tmStride m 2 + i3 * tmStride m 3))
  else none

/-- What position `k` of a mapped command reads (R328): an element in plain memory, or zero bits with the padded mark; `none` where the element
lies elsewhere. -/
def elementOf (s : State) (e : EngineRec) (m : Nat × List Nat) (k : Nat) : Option (List Byte × Bool) :=
  match (tmPos m.1 m.2 k).1 with
  | none => some (List.replicate (tmEsize m.1) 0, true)
  | some va => match resolveRange s (engineCtx s e) (e.reads true 1) va (tmEsize m.1) with
    | .ok r => (match r.pieces with
      | [(.phys a, n)] => if n = tmEsize m.1 ∧ plainPlace s (.phys (a / 8 * 8)) 16 = true then some (readBytes s a n, false) else none
      | _ => none)
    | .error _ => none

/-- How many source bytes the next chunk of a linear command reads: whole source words, up to the end of the place they lie in (R120). -/
def chunkSource (e : EngineRec) : Nat :=
  min (min (e.total - e.done) (chunkLen e + (8 - (e.srcBase.toNat + e.done + chunkLen e) % 8) % 8))
    (pieceLeft (e.srcBase + BitVec.ofNat 64 e.done))

/-- A member's barrier after one arrival or departure (R340): ARRIVED and PHASE; every other bit of the object as it was. -/
def Arrived (o o' arrivals : Nat) : Prop :=
  o' % 2 ^ 64 = o % 2 ^ 64 ∧ o' / 2 ^ 128 = o / 2 ^ 128 ∧
  barArrived o' = (if barExpected o ≤ arrivals then 0 else arrivals) ∧
  barPhase o' = (if barExpected o ≤ arrivals then (barPhase o + 1) % 2 ^ 32 else barPhase o)

/-! ## Engine commands (R321-R330) -/

/-- A command in flight: in a state `u` there is one more on its token and at the end of the core's list, with what the hart named at issue; no
register has changed; and `also`. The instruction answers `u` with the command's first line performed (R108, R125). -/
def CommandIssued (i : Instr) (s : State) (token : Nat) (ops : List Word) (len : Word) (also : State → EngineRec → Prop) : Prop :=
  let c := curCore s
  let n := (coreOf s c).engines.length
  ∃ u e, exec i s = .next (groupArrival u c n) ∧ ctl u = (fallThrough (ctl s) len).1 ∧
    (coreOf u c).tokens.get 0 token = (coreOf s c).tokens.get 0 token + 1 ∧ (coreOf u c).engines.length = n + 1 ∧
    (coreOf u c).engines[n]? = some e ∧ e.instr = instrWord i ∧ e.ops = ops ∧ e.token = token ∧ e.hart = leadHart s ∧ e.done = 0 ∧ e.buffer = [] ∧
    SameRegisters s u ∧ also u e

/-- A command may issue: its stream's packets are acknowledged, its token counts fewer than 255, fewer than eight are in flight (R108, R321,
R441). -/
def engineReady (s : State) (strm token : Nat) : Bool :=
  acknowledgedOn s (leadHart s) (· == strm) && decide ((coreOf s (curCore s)).tokens.get 0 token < 255) &&
    decide (inFlight (coreOf s (curCore s)) < 8)

/-- The engine of the issuing hart resolves addresses so, at issue. -/
def issueCtx (s : State) (i : Instr) (ops : List Word) (token : Nat) (engine : BitVec 3) : AddrCtx := engineCtx s (newEngine s i ops token engine)

/-! ## Row instructions (R227-R262) -/

/-- Every performing bank has the registers that the instruction names open, its interlocks of R231 met and its lanes free, and no forced
refresh of their SAGs is under way (R482). -/
def rowReady (s : State) (use : Nat → RowUse) : Bool :=
  (rowBanks s).all fun b => laneReady s (curPer s) b (use b) && unforced s (curPer s) ((use b).named b) &&
    ((use b).named b).all fun p => (regOf s (curPer s) p.1 p.2).st == .opened

/-- What lane work leaves that writes the row registers `written` of the performing banks: no scalar register, no byte of memory, no other row
register, no other Pergola; flags only of the performing harts. -/
structure LaneFrame (s t : State) (written : List Nat) : Prop where
  rest : { t with harts := s.harts, pergolas := s.pergolas } = s
  harts : ∀ id, { hartOf t id with pc := (hartOf s id).pc, loops := (hartOf s id).loops, boundary := (hartOf s id).boundary,
                                   flags := (hartOf s id).flags, nflags := (hartOf s id).nflags } = hartOf s id
  flags : ∀ id, id ∉ performers s → (hartOf t id).flags = (hartOf s id).flags ∧ (hartOf t id).nflags = (hartOf s id).nflags
  pergolas : ∀ j, j ≠ curPer s → perOf t j = perOf s j
  pergola : { perOf t (curPer s) with pc := (perOf s (curPer s)).pc, loops := (perOf s (curPer s)).loops,
                                      banks := (perOf s (curPer s)).banks } = perOf s (curPer s)
  rows : ∀ b n, ¬(b ∈ rowBanks s ∧ n ∈ written) →
    (regOf t (curPer s) b n).data = (regOf s (curPer s) b n).data ∧ (regOf t (curPer s) b n).poison = (regOf s (curPer s) b n).poison ∧
    (regOf t (curPer s) b n).st = (regOf s (curPer s) b n).st ∧ (regOf t (curPer s) b n).row = (regOf s (curPer s) b n).row

/-- The accumulator latches, tables and scales of every bank of the issuing Pergola are as they were. -/
def SameLatches (s t : State) : Prop :=
  ∀ b, (bankOf t (curPer s) b).q = (bankOf s (curPer s) b).q ∧ (bankOf t (curPer s) b).lut = (bankOf s (curPer s) b).lut ∧
    (bankOf t (curPer s) b).sf = (bankOf s (curPer s) b).sf

/-- Element `e` of a register takes part: no mask, or bit 0 of the mask's element is 1 (R168). -/
def takesPart (s : State) (g b : Nat) (f : FmtW) (w e : Nat) : Bool :=
  !f.masken || rowElem w e (regOf s g b f.masko.toNat).data % 2 == 1

/-- The elements and flags that R244 gives, from the bank's hart, the format's code and the elements a, b and the old d; whether ob is read, and
whether od is. -/
def rowTable : Instr → Option (FmtW × Bool × Bool × (Hart → Nat → Nat → Nat → Nat → Elem))
  | .radd f => some (f, true, false, fun _ c a b _ => eAdd c f.rm.toNat f.sat a b)
  | .rsub f => some (f, true, false, fun _ c a b _ => eSub c f.rm.toNat f.sat a b)
  | .rmul f => some (f, true, false, fun _ c a b _ => eMul c f.rm.toNat f.sat a b)
  | .rfma f => some (f, true, true, fun _ c a b d => eFma c f.rm.toNat f.sat a b d)
  | .rmin f => some (f, true, false, fun _ c a b _ => eMinMax c false a b)
  | .rmax f => some (f, true, false, fun _ c a b _ => eMinMax c true a b)
  | .rand f => some (f, true, false, fun _ _ a b _ => ⟨a &&& b, 0⟩)
  | .rbor f => some (f, true, false, fun _ _ a b _ => ⟨a ||| b, 0⟩)
  | .rxor f => some (f, true, false, fun _ _ a b _ => ⟨a ^^^ b, 0⟩)
  | .rshr f => some (f, false, false, fun _ c a _ _ => 
      ⟨intBits (codeWidth c) (roundShift f.rm.toNat (intVal c a) f.imm6.toNat), 0⟩)
  | .rscl f => some (f, true, false, fun h c a b _ => rsclElem f h c a b)
  | _ => none

/-- NFLAGS after a pass over `n` elements: what it held and the flags of the elements that `on` names (R166, R168). -/
def flagsAfter (old : Flg) (n : Nat) (on : Nat → Bool) (fl : Nat → Flg) : Flg := ((List.range n).filter on).foldl (fun x e => x ||| fl e) old

/-- The exception-mask element of a width, from the flags of its element: bits NV, DZ, OF, UF, NX, SAT of NFLAGS (R170). -/
def maskElement (w : Nat) (fl : Flg) : Nat :=
  let bit (k : Nat) : Nat := if fl.getLsbD k then 1 else 0
  (if fl.getLsbD 0 || fl.getLsbD 1 || fl.getLsbD 2 || fl.getLsbD 3 || fl.getLsbD 5 then 1 else 0) + 2 * bit 0 + 4 * bit 1 +
    (if w = 4 then 8 * bit 5 else 8 * bit 2 + 16 * bit 3 + 32 * bit 5)

/-- The segments that poison of the registers read marks (R474). -/
def usedPoison (s : State) (g b : Nat) (f : FmtW) (ob fused : Bool) : BitVec 128 :=
  (regOf s g b f.oa.toNat).poison ||| (if ob then (regOf s g b f.ob.toNat).poison else 0) |||
    (if fused then (regOf s g b f.od.toNat).poison else 0) ||| (if f.masken then (regOf s g b f.masko.toNat).poison else 0)

/-- MASKO after an instruction with XM: the mask elements of those that `on` names, the others as they were (R170). -/
def MaskWritten (s t : State) (g b : Nat) (f : FmtW) (w n : Nat) (on : Nat → Bool) (fl : Nat → Flg) : Prop :=
  ∀ e, e < n → rowElem w e (regOf t g b f.masko.toNat).data =
    if on e then maskElement w (fl e) else rowElem w e (regOf s g b f.masko.toNat).data

/-! ### Sums (R250-R252) -/

/-- RoundTo(FP32, a * b + acc, RM) and RoundTo(FP32, acc + a, RM), on bits of a format and of FP32. -/
def dotFma (c rm a b acc : Nat) : Nat := ((fmaNum rm ((fltOf c).decode a) ((fltOf c).decode b) (f32.decode acc)).round f32 rm).val
def dotAdd (c rm a acc : Nat) : Nat := ((addNum rm (f32.decode acc) ((fltOf c).decode a)).round f32 rm).val

/-- RNE32 of an exact value. -/
def rne32 (x : Exact) : Nat := (x.round f32 0).val

/-- The loop of R250's grouped form for lane `i`: ACC, P and J, from the tables T, the entries of sf and the lane's codes; G is 2^lg. -/
def lutGrouped (fmt half lg : Nat) (T : Nat → Nat → Nat) (ent code : Nat → Nat) (i : Nat) (start : Nat × Nat × Nat) : Nat × Nat × Nat :=
  (List.range 64).foldl (fun x jl =>
    let t := 64 * half + jl
    let p := (add32 x.2.1 (if code jl = 0 then 0 else T t (code jl))).val
    if x.2.2 + 1 = 2 ^ lg then
      let xg := T ((t + 129 - 2 ^ lg) % 128) 0
      let en := ent (jl / 2 ^ lg * 256 + i)
      let z := rne32 (mulNum (numOfInt (if fmt = 1 then ((en % 256 : Nat) : Int) else 0)) (f32.decode xg))
      let tt := rne32 (addNum 0 (f32.decode p) (f32.decode z).negate)
      (rne32 (fmaNum 0 (f16.decode (en / 256 % 65536)) (f32.decode tt) (f32.decode x.1)), 0, 0)
    else (x.1, p, (x.2.2 + 1) % 128)) start

/-- The tables and scales of every bank of the issuing Pergola are as they were. -/
def SameTables (s t : State) : Prop :=
  ∀ b, (bankOf t (curPer s) b).lut = (bankOf s (curPer s) b).lut ∧ (bankOf t (curPer s) b).sf = (bankOf s (curPer s) b).sf

/-- What major 0x40 leaves besides the registers and SAGs that it names: memory, scalar registers, other Pergolas and all latches; the arbiters,
the errors that an ACT finds, and the log may change. -/
structure RowFrame (s t : State) : Prop where
  rest : { t with harts := s.harts, pergolas := s.pergolas, layers := s.layers, upsets := s.upsets, softs := s.softs, errLog := s.errLog,
                  freeCount := s.freeCount } = s
  harts : ∀ id, HartApart (hartOf s id) (hartOf t id)
  registers : SameRegisters s t
  pergolas : ∀ j, j ≠ curPer s → perOf t j = perOf s j
  latches : SameLatches s t

/-- The field rules of R237, R238 and R244 in a bank. -/
def rowFieldsOk (i : Instr) (s : State) (b : Nat) (f : FmtW) (ob : Bool) : Bool :=
  let F := rowEff s (curPer s) f b
  rowPlain F && maskFree f (if ob then [f.oa, f.ob] else [f.oa]) &&
  (match i with
   | .rshr f => decide (f.imm6.toNat < codeWidth F.code) && !codeFloat F.code
   | _ => true)

/-! ## Vector instructions (R263-R287) -/

/-- What a vector instruction leaves that writes the vector registers `written` and, with `x`, a scalar register: no memory, no other hart or
core; of its own core the file, its empty marks, hw, vl and vresume; of its own hart that register, its place and its flags. -/
structure VectorFrame (s t : State) (written : List Nat) (x : Option Nat) : Prop where
  rest : { t with harts := s.harts, cores := s.cores } = s
  harts : ∀ id, id ≠ leadHart s → hartOf t id = hartOf s id
  hart : { hartOf t (leadHart s) with x := (hartOf s (leadHart s)).x, pc := (hartOf s (leadHart s)).pc,
                                      loops := (hartOf s (leadHart s)).loops, boundary := (hartOf s (leadHart s)).boundary,
                                      flags := (hartOf s (leadHart s)).flags, nflags := (hartOf s (leadHart s)).nflags } =
    hartOf s (leadHart s)
  registers : ∀ n, x ≠ some n → (hartOf t (leadHart s)).get n = (hartOf s (leadHart s)).get n
  cores : ∀ k, k ≠ curCore s → coreOf t k = coreOf s k
  core : { coreOf t (curCore s) with v := (vCore s).v, vempty := (vCore s).vempty, vpend := (vCore s).vpend, hw := (vCore s).hw,
                                     vl := (vCore s).vl, vresume := (vCore s).vresume } = vCore s
  file : ∀ n, n ∉ written → (coreOf t (curCore s)).v.get 0 n = (vCore s).v.get 0 n

/-- Element `e` at width `w` of vector register `n` of the issuing core. -/
def vAt (s : State) (w n e : Nat) : Nat := vElem w e ((coreOf s (curCore s)).v.get 0 n)

/-- Element `e` takes part: from vresume up to vl, and with a mask only where bit 0 of its element is 1 (R168, R264). -/
def vTakes (s : State) (f : FmtV) (w e : Nat) : Bool :=
  decide ((vCore s).vresume ≤ e) && decide (e < (vCore s).vl) && (!f.masken || vAt s w f.mreg.toNat e % 2 == 1)

/-- The registers named are there: no source with FE = 1 is empty, vl is not 0, and nothing named is empty (R37). -/
def vGoes (s : State) (srcs : List Opnd) (others : List Nat) : Bool :=
  (srcs.all fun o => !vEmpty (vCore s) o.num.toNat) && (vCore s).vl != 0 && (others.all fun n => !vEmpty (vCore s) n)

/-- The effective format is neither grouped nor code 11 (R266). -/
def vPlain (s : State) : Bool := !codeGrouped (vEff s).code (vEff s).blk && (vEff s).code != 11

/-- A destination after an instruction: empty until VECTOR_COMPLETE, hw counted, vl kept and vresume 0 (R37, R264, R286). -/
def VectorDone (s t : State) (d : Nat) (hw : Word) : Prop :=
  vEmpty (coreOf t (curCore s)) d = true ∧ (coreOf t (curCore s)).vpend = (vCore s).vpend ++ [d] ∧ (coreOf t (curCore s)).hw = hw ∧
    (coreOf t (curCore s)).vl = (vCore s).vl ∧ (coreOf t (curCore s)).vresume = 0

/-- The elementwise instructions of major 0x60: sources, the formats R270 and R271 admit, and the element from a, b and c. -/
def vecTable : Instr → Option (FmtV × List Opnd × (Nat → Bool) × (Nat → Nat → Nat → Nat → Elem))
  | .vadd f => some (f, [f.va, f.vb], fun _ => true, fun c a b _ => eAdd c f.rm.toNat f.sat a b)
  | .vsub f => some (f, [f.va, f.vb], fun _ => true, fun c a b _ => eSub c f.rm.toNat f.sat a b)
  | .vmul f => some (f, [f.va, f.vb], fun _ => true, fun c a b _ => eMul c f.rm.toNat f.sat a b)
  | .vfma f => some (f, [f.va, f.vb, f.vc], fun _ => true, fun c a b d => eFma c f.rm.toNat f.sat a b d)
  | .vmin f => some (f, [f.va, f.vb], fun _ => true, fun c a b _ => eMinMax c false a b)
  | .vmax f => some (f, [f.va, f.vb], fun _ => true, fun c a b _ => eMinMax c true a b)
  | .vand f => some (f, [f.va, f.vb], fun _ => true, fun _ a b _ => ⟨a &&& b, 0⟩)
  | .vor f => some (f, [f.va, f.vb], fun _ => true, fun _ a b _ => ⟨a ||| b, 0⟩)
  | .vxor f => some (f, [f.va, f.vb], fun _ => true, fun _ a b _ => ⟨a ^^^ b, 0⟩)
  | .vshl f => some (f, [f.va, f.vb], fun c => !codeFloat c, fun c a b _ => intResult c f.sat (intVal c a * 2 ^ (b % codeWidth c)))
  | .vshr f => some (f, [f.va, f.vb], fun c => !codeFloat c, fun c a b _ => ⟨a / 2 ^ (b % codeWidth c), 0⟩)
  | .vsra f => some (f, [f.va, f.vb], fun c => !codeFloat c, fun c a b _ =>
      ⟨intBits (codeWidth c) (intVal c a / 2 ^ (b % codeWidth c)), 0⟩)
  | .vabs f => some (f, [f.va], fun _ => true, fun c a _ _ => eAbs c f.sat a)
  | .vneg f => some (f, [f.va], fun _ => true, fun c a _ _ => eNeg c f.sat a)
  | .vexp2 f => some (f, [f.va], codeFloat, fun c a _ _ => exp2Num (fltOf c) f.rm.toNat ((fltOf c).decode a))
  | .vrcp f => some (f, [f.va], codeFloat, fun c a _ _ => vrcpOp (fltOf c) f.rm.toNat a)
  | .vrsqrt f => some (f, [f.va], codeFloat, fun c a _ _ => vrsqrtOp (fltOf c) f.rm.toNat a)
  | .vdiv f => some (f, [f.va, f.vb], codeFloat, fun c a b _ => vdivOp (fltOf c) f.rm.toNat a b)
  | .vsqrt f => some (f, [f.va], codeFloat, fun c a _ _ => vsqrtOp (fltOf c) f.rm.toNat a)
  | _ => none

/-- XM names a mask register that is neither the destination nor a source (R170). -/
def vMaskFree (f : FmtV) (srcs : List Opnd) : Bool :=
  !f.xm || (f.mreg.toNat != f.vd.num.toNat && !(srcs.map (·.num.toNat)).contains f.mreg.toNat)

/-- A late trap of a vector or matrix instruction that names it (R428). -/
def TrapsLate (i : Instr) (s : State) (code : BitVec 8) (info : Word) : Prop :=
  exec i s = .next (takeTrap s (curPc s) code info true false)

/-- VCVT names formats and a part that R272 admits, and registers that do not meet. -/
def vcvtOk (s : State) (f : FmtV) : Bool :=
  let F := vEff s
  let dfmt := f.vc.bits.toNat % 16
  let part := f.vc.bits.toNat / 16 % 8
  let dblk := f.vc.bits.toNat / 128 % 4
  let c := cvtMap dfmt part dblk (vlmax F.code) (vlmax dfmt)
  let srcG := codeGrouped F.code F.blk
  let dstG := codeGrouped dfmt dblk
  decide (1 ≤ dfmt ∧ dfmt ≤ 10) && decide ((part + 1) * c.n ≤ max (vlmax F.code) (vlmax dfmt)) && !((dfmt == 1 || dfmt == 3) && dblk == 0) &&
    !(srcG && dstG) && f.vd.num != f.va.num && !(dstG && (f.vd.num == f.vb.num || f.va.num == f.vb.num)) && (dstG || f.vb.bits == 0) &&
    !(decide (5 ≤ dfmt) && dblk != 0) && vMaskFree f (if dstG then [f.va, f.vb] else [f.va]) && !(srcG && decide ((vCore s).allot ≤ F.sreg))

/-- The active elements of a mask or source whose bit 0 is 1, ascending (R276, R278). -/
def vChosen (s : State) (f : FmtV) (w : Nat) : List Nat :=
  (List.range (8192 / w)).filter fun e => vTakes s f w e && vAt s w f.va.num.toNat e % 2 == 1

/-- A vector load or store: its fields, whether it loads, its sources, the other registers it reads, its units, and the bytes of the register
it writes; `none` where R317, R318, R320 or R463 bar the form. -/
def vmForm (s : State) : Instr → Option (FmtR × Bool × List Opnd × List Nat × List VUnit × Nat)
  | .vld f => if fmt f then some (f, true, [], [], vmList s f false (flat f), vmBytes s f) else none
  | .vst f => if fmt f then some (f, false, [f.d], [], vmList s f true (flat f), vmBytes s f) else none
  | .vlds f => if fmt f then some (f, true, [], [], vmList s f false (strided f), vmBytes s f) else none
  | .vsts f => if fmt f then some (f, false, [f.d], [], vmList s f true (strided f), vmBytes s f) else none
  | .vldx f => if fmt f && group f && !(vmGroup s f).contains f.d.num.toNat then
      some (f, true, [f.b], (vmGroup s f).filter (· != f.b.num.toNat), vmList s f false (indexed f), vmBytes s f) else none
  | .vstx f => if fmt f && group f then
      some (f, false, [f.d, f.b], (vmGroup s f).filter (· != f.b.num.toNat), vmList s f true (indexed f), vmBytes s f) else none
  | .vldsc f => if typeBlk (vCore s).vtype != 0 then
      some (f, true, [], [], vscList s f, 4 * (((vCore s).vl + 2 ^ blkLog (typeBlk (vCore s).vtype) - 1) / 2 ^ blkLog (typeBlk (vCore s).vtype)))
      else none
  | _ => none
where
  fmt (f : FmtR) : Bool := decide (1 ≤ vmCode s f ∧ vmCode s f ≤ 10)
  group (f : FmtR) : Bool := (vmGroup s f).all fun n => decide (n < 32 ∧ n < (vCore s).allot)
  flat (f : FmtR) (u : Nat) : Word := xRead s f.a + BitVec.ofNat 64 (u * vmSize (vmCode s f))
  strided (f : FmtR) (u : Nat) : Word := xRead s f.a + BitVec.ofNat 64 u * xRead s f.b
  indexed (f : FmtR) (u : Nat) : Word := xRead s f.a + vmIndex s f u * BitVec.ofNat 64 (vmSize (vmCode s f))

/-! ## The matrix unit (R288-R309) -/

/-- A slot that an instruction may use at once: full, its data the context's own, no caught work on it, and for a writer no store of it in
flight (R289, R290). -/
def slotReady (s : State) (c n : Nat) (writer : Bool) : Bool :=
  slotFree s c n (hartOf s (leadHart s)).context writer && ownsSlot s c n (hartOf s (leadHart s)).context

/-- Word (i, j) of a slot (R288). -/
def slotAt (s : State) (c n i j : Nat) : Nat := elemNat 32 (128 * i + j) (slotOf s c n).words.toNat

/-- What a matrix instruction leaves that writes the slots of the list and the vector registers `written`: no memory, no other slot, no other
part of any core but empty marks, hw and writes and matrix work in flight, no scalar register but x[x]. -/
structure SlotFrame (s t : State) (slots : List (Nat × Nat)) (written : List Nat) (x : Option Nat) : Prop where
  rest : { t with harts := s.harts, cores := s.cores } = s
  harts : ∀ id, { hartOf t id with x := (hartOf s id).x, pc := (hartOf s id).pc, loops := (hartOf s id).loops,
                                   boundary := (hartOf s id).boundary } = hartOf s id
  registers : ∀ id n, ¬(id = leadHart s ∧ x = some n) → (hartOf t id).get n = (hartOf s id).get n
  cores : ∀ k, { coreOf t k with v := (coreOf s k).v, vempty := (coreOf s k).vempty, vpend := (coreOf s k).vpend, hw := (coreOf s k).hw,
                                 slots := (coreOf s k).slots, mpend := (coreOf s k).mpend,
                                 matrix := (coreOf s k).matrix } = coreOf s k
  slots : ∀ k n, (k, n) ∉ slots → slotOf t k n = slotOf s k n
  files : ∀ k n, ¬(k = curCore s ∧ n ∈ written) → (coreOf t k).v.get 0 n = (coreOf s k).v.get 0 n

/-- A product of MMA or MMAS: its format, whether B is packed, and its descriptors as read. -/
def productOf : Instr → State → Option (FmtX × Prod)
  | .mma f, s => some (f, Prod.make f false (vCore s).vtype (xRead s f.da) (xRead s f.db)
      ((hartOf s (leadHart s)).get (f.db.num.toNat + 1)) (xRead s f.dk))
  | .mmas f, s => if f.spn = 0 then none else some (f, Prod.make f true (vCore s).vtype (xRead s f.da) (xRead s f.db)
      ((hartOf s (leadHart s)).get (f.db.num.toNat + 1)) (xRead s f.dk))
  | _, _ => none

/-- Element (i, j) of tile (ti, tj) of a product on core `k`, from the slot's old word (R163, R164, R295, R296, R298). -/
def productWord (s : State) (p : Prod) (src k ti tj i j old : Nat) : Elem :=
  let n := if p.staged then 128 * tj + j else j
  productElem p (fun g => scaleEntry (coreOf s k) p g j) (if p.accz then 0 else old) (aRow s src p (128 * ti + i))
    (bColumn (coreOf s k) (p.tile s src) p n)

/-! ## What a step fetches -/

/-- The landed bytes at the issuer's program counter decode to the instruction: the header from its parcel, any other from 64 bits (R171). -/
def CodeAt (s : State) (i : Instr) : Prop :=
  (∃ w n, readCode s (curOverlay s) (curPc s).toNat 8 = some w ∧
    decode (BitVec.ofNat 32 w) (BitVec.ofNat 32 (w >>> 32)) = .ok (i, n)) ∨
  (∃ lo, readCode s (curOverlay s) (curPc s).toNat 4 = some lo ∧ lo % 256 = 0xC0 ∧ i = .convoyHeader (decC (BitVec.ofNat 32 lo)))

/-- Nothing holds a compute or docent hart back: its core has no step, or one that runs and neither halts nor is to be killed or saved where
the hart stands. -/
def hartFree (s : State) (id : Nat) : Bool :=
  decide (256 ≤ id) ||
  match (coreOf s (coreOfHart id)).step with
  | none => true
  | some i => (coreOf s (coreOfHart id)).phase == .running && (haltOf s i.context).st != .halting &&
      !((hartOf s id).killReq && atKillPoint s id) && !((coreOf s (coreOfHart id)).preemptReq && atPoint s id)

/-- Nothing is due in a Pergola, some bank is live and none to be killed where it stands, and its step, if any, runs on. -/
def pergolaFree (s : State) (g : Nat) : Bool :=
  pergolaDue s g == none && killDue s g == none && !(liveBanks s g).isEmpty &&
  match (perOf s g).step with
  | none => true
  | some i => (perOf s g).phase == .running && !((haltOf s i.context).st == .halting && (perOf s g).actDone == 0)

/-- The bytes of an instruction's parcels in memory order (R7). -/
def codeBytes (i : Instr) : List Byte :=
  (encode i).flatMap fun w => [w.extractLsb' 0 8, w.extractLsb' 8 8, w.extractLsb' 16 8, w.extractLsb' 24 8]

end Sys2Proof.Machine
end

