-- ==== Sys2Proof/Certificates/Slice0/Obligations.lean ====
section
/-! DEFINITION. The statements for the provers, each a proposition about the machine with the rule of the spec that it formalises. -/

open Sys2Proof
open Sys2Proof.Machine

/-- Major 0x01: every performing hart gets the table result in x[D]; nothing else changes. For each of the 25 instructions of major 0x01,
admitted in state s: exec answers a next state t in which every performing hart (the issuing hart, or the gang's enabled banks) holds in
x[D] the result of the table of R201 on its own x[A], x[B], x[C] (zero for x0, whose write is discarded), the place is that after the
instruction, and no other register, flag, special register or byte of memory changes. -/
def Obligations.RegisterArithmeticResults : Prop :=
  ∀ (i : Instr) (f : FmtR) (v : Word → Word → Word → Word) (s : State), result01 i = some (f, v) → admitted i s = true →
    ∃ t, exec i s = .next t ∧
      (∀ id ∈ performers s, (hartOf t id).get f.d.num.toNat =
        if f.d.num.toNat = 0 then 0 else v ((hartOf s id).opnd f.a) ((hartOf s id).opnd f.b) ((hartOf s id).opnd f.c)) ∧
      RegisterFrame s t (performers s) f.d.num.toNat ∧ ctl t = nextPlace s

/-- Major 0x02: every performing hart gets the table result in x[D]; nothing else changes. For each of the 12 instructions of major 0x02
(ADDI, ANDI, ORI, XORI, SHLI, SHRI, SRAI, SLTI, SLTUI, LI, LIH, ADDPC), admitted in state s, a shift by 0 to 63: exec answers a next state
t in which every performing hart holds in x[D] the result of the table of R204 on its own x[A], the immediate and the instruction's
address (zero for x0), the place is that after the instruction, and no other register, flag, special register or byte of memory changes.
LI leaves its immediate, sign-extended. SHLI, SHRI and SRAI by 64 or more raise RESERVED-FIELD in the hart that issues alone, and in every
performing bank of a group. -/
def Obligations.ImmediateArithmeticResults : Prop :=
  (∀ (i : Instr) (f : FmtI) (v : Word → Word → Word) (s : State), result02 i = some (f, v) → admitted i s = true →
    ∃ t, exec i s = .next t ∧
      (∀ id ∈ performers s, (hartOf t id).get f.d.num.toNat =
        if f.d.num.toNat = 0 then 0 else v ((hartOf s id).opnd f.a) (curPc s)) ∧
      RegisterFrame s t (performers s) f.d.num.toNat ∧ ctl t = nextPlace s) ∧
  (∀ (f : FmtI) (s : State), admitted (.li f) s = true →
    exec (.li f) s = .next (advance (modPerformers s fun h => h.dest f.d (BitVec.ofInt 64 f.imm.toInt)))) ∧
  (∀ (i : Instr) (f : FmtI) (s : State), shiftTable i = some f → 64 ≤ f.imm.toNat → admitted i s = true → cancelled s = false →
    (inGroup s = false → exec i s = .next (takeTrap s (curPc s) Cause.reservedField (instrWord i) false false)) ∧
    (inGroup s = true → exec i s =
      .next (trapGang s (curPc s) ((performers s).map fun id => (bankOfHart id, Cause.reservedField, instrWord i)))))

/-- Major 0x03: products, quotients and remainders with the borderline cases of R207; nothing else changes. For each of the 8 instructions
of major 0x03, admitted in state s: exec answers a next state t in which every performing hart holds in x[D] the result of R206 on its own
x[A], x[B], x[C], division by zero and -2^63 / -1 included (R207: no trap), the place is that after the instruction, and no other
register, flag, special register or byte of memory changes. -/
def Obligations.MultiplyDivideResults : Prop :=
  ∀ (i : Instr) (f : FmtR) (v : Word → Word → Word → Word) (s : State), result03 i = some (f, v) → admitted i s = true →
    ∃ t, exec i s = .next t ∧
      (∀ id ∈ performers s, (hartOf t id).get f.d.num.toNat =
        if f.d.num.toNat = 0 then 0 else v ((hartOf s id).opnd f.a) ((hartOf s id).opnd f.b) ((hartOf s id).opnd f.c)) ∧
      RegisterFrame s t (performers s) f.d.num.toNat ∧ ctl t = nextPlace s

/-- Major 0x20: a branch goes to its target when its condition holds, else on; nothing else changes. For each of the 8 branches, admitted
in state s: exec answers a next state t. If the condition of R209 holds on the leader's x[A], x[B] and FLAGS.STATE, the program counter is
InstrAddr + 4 * SignExtend(OFF30) and the loop stack is as it was; otherwise the place is that after the instruction. A taken branch to
its own address or below marks an iteration boundary (R48). No register, flag or byte of memory changes. -/
def Obligations.BranchesGoWhereTheyShould : Prop :=
  ∀ (i : Instr) (f : FmtB) (c : Word → Word → BitVec 2 → Bool) (s : State), branchTable i = some (f, c) → admitted i s = true →
    ∃ t, exec i s = .next t ∧ ControlFrame s t ∧
      (if c (xRead s f.a) (xRead s f.b) (hartOf s (leadHart s)).flags then
        ctl t = { pc := parcelsFrom (curPc s) f.off, loops := (ctl s).loops } ∧
          ((parcelsFrom (curPc s) f.off).toNat ≤ (curPc s).toNat → ∀ id ∈ allHarts s, (hartOf t id).boundary = true)
       else ctl t = nextPlace s)

/-- JMP, JMPR, CALL, CALLR, RET: the target, and the link in every hart of the issuer. JMP, JMPR, CALL, CALLR and RET, admitted in state
s, a register target having bits 1:0 zero: exec answers a next state t whose program counter is the target of R211; CALL and CALLR leave
InstrAddr + 8 in x[D] of the issuing hart, or of all eight banks of a gang (R214), x[A] being read before; the loop stack, every other
register and all memory are unchanged. -/
def Obligations.JumpsAndCallsReachTheirTargets : Prop :=
  ∀ (i : Instr) (s : State) (j : Jump), jumpTable' i s = some j → admitted i s = true →
    (j.fromReg = true → j.target.toNat % 4 = 0) → ∃ t, exec i s = .next t ∧ Jumped s t j

/-- JTAB reads its table through the overlay; FJMP and FCALL go on once the issuer's fetches have landed. JTAB, admitted, with its header
and the selected entry (or DEFAULT past LENGTH) readable in the issuer's overlay: the program counter becomes T + 4 * SignExtend(d)
(R212). FJMP and FCALL, admitted, no CFETCH of the issuer's own pending, the target aligned and landed: as JMPR and CALLR (R213). Nothing
else changes. -/
def Obligations.TableAndFencedJumpsReachTheirTargets : Prop :=
  (∀ (f : FmtJ) (s : State) (hdr d : Nat), admitted (.jtab f) s = true →
    readCode s (curOverlay s) (parcelsFrom (curPc s) f.off).toNat 8 = some hdr →
    (if (xRead s f.a).toNat < hdr % 2 ^ 32 then
      readCode s (curOverlay s) (((parcelsFrom (curPc s) f.off).toNat + 8 + 4 * (xRead s f.a).toNat) % 2 ^ 64) 4 = some d
     else hdr / 2 ^ 32 = d) →
    ∃ t, exec (.jtab f) s = .next t ∧ ControlFrame s t ∧
      ctl t = { pc := BitVec.ofInt 64 ((parcelsFrom (curPc s) f.off).toInt + 4 * (BitVec.ofNat 32 d).toInt), loops := (ctl s).loops }) ∧
  (∀ (i : Instr) (s : State) (j : Jump), fencedTable i s = some j → admitted i s = true → j.target.toNat % 4 = 0 →
    fetchPending s = false → landed s (curOverlay s) j.target.toNat 4 = true →
    ∃ t, exec i s = .next t ∧ Jumped s t j)

/-- A register target with bits 1:0 not zero raises MISALIGN: no link, no jump. JMPR, CALLR, RET and, with no CFETCH of the issuer's own
pending (R213, R462), FJMP and FCALL, admitted, with a target whose bits 1:0 are not zero, on a hart that is not cancelled: exec answers
the state in which the contained trap MISALIGN with the target as TRAPINFO is taken at the instruction (R173, R211): the link is not
written. -/
def Obligations.MisalignedTargetsTrapBeforeTheLink : Prop :=
  ∀ (i : Instr) (s : State) (j : Jump), (jumpTable' i s = some j ∨ fencedTable i s = some j ∧ fetchPending s = false) → j.fromReg = true →
    admitted i s = true → j.target.toNat % 4 ≠ 0 → cancelled s = false →
    exec i s = .next (takeTrap s (curPc s) Cause.misalign j.target false false)

/-- LOOP and LOOPI push (0, count, START, END) or, with a zero count, skip the body. LOOP (count x[A] of the leader) and LOOPI (count
IMM16), admitted, not standing at the END of the top entry, with fewer than six entries live unless the count is zero: exec answers a next
state t. A zero count pushes nothing and continues at END + 8; otherwise the entry INDEX 0, REMAIN count, START InstrAddr + 8, END
InstrAddr + 4 * END24 is pushed and execution continues at START. No register and no memory changes. -/
def Obligations.LoopInstructionsPushOrSkip : Prop :=
  ∀ (i : Instr) (s : State) (e : BitVec 24) (n : Word), loopTable i s = some (e, n) → admitted i s = true →
    (∀ top ∈ (ctl s).loops.head?, top.fin ≠ curPc s) → (n ≠ 0 → (ctl s).loops.length < 6) →
    ∃ t, exec i s = .next t ∧ ControlFrame s t ∧
      ctl t =
        if n = 0 then { pc := BitVec.ofNat 64 ((curPc s).toNat + 4 * e.toNat + 8), loops := (ctl s).loops }
        else { pc := curPc s + 8,
               loops := { index := 0, remain := n, start := curPc s + 8, fin := BitVec.ofNat 64 ((curPc s).toNat + 4 * e.toNat) } ::
                 (ctl s).loops }

/-- LOOPSTACK: a seventh entry, a LOOP at the top entry's END, LBRK or LIDX past the live entries. On a hart that is not cancelled,
admitted: LOOP or LOOPI at the END of the top entry, or with a nonzero count and six entries live, LBRK on an empty stack, and LIDX at a
depth of 0 to 5 at or past the number of live entries take the trap LOOPSTACK with the number of live entries (R216, R218, R219, R425);
LIDX at a depth of 6 or more raises RESERVED-FIELD (R219). The trap is taken in the state as it was. -/
def Obligations.LoopStackFaultsLeaveTheStack : Prop :=
  (∀ (i : Instr) (s : State) (e : BitVec 24) (n : Word), loopTable i s = some (e, n) → admitted i s = true → cancelled s = false →
    ((∃ top ∈ (ctl s).loops.head?, top.fin = curPc s) ∨ (n ≠ 0 ∧ (ctl s).loops.length = 6)) →
    exec i s = .next (takeTrap s (curPc s) Cause.loopstack (BitVec.ofNat 64 (ctl s).loops.length) false false)) ∧
  (∀ (f : FmtR) (s : State), admitted (.lbrk f) s = true → cancelled s = false → (ctl s).loops = [] →
    exec (.lbrk f) s = .next (takeTrap s (curPc s) Cause.loopstack 0 false false)) ∧
  (∀ (f : FmtI) (s : State), admitted (.lidx f) s = true → cancelled s = false → (ctl s).loops.length ≤ f.imm.toNat →
    f.imm.toNat < 6 →
    exec (.lidx f) s = .next (takeTrap s (curPc s) Cause.loopstack (BitVec.ofNat 64 (ctl s).loops.length) false false)) ∧
  (∀ (f : FmtI) (s : State), admitted (.lidx f) s = true → cancelled s = false → 6 ≤ f.imm.toNat →
    exec (.lidx f) s = .next (takeTrap s (curPc s) Cause.reservedField (instrWord (.lidx f)) false false))

/-- LBRK pops when its condition holds; LIDX writes INDEX of the entry at a depth. LBRK, admitted, with a top entry: if x[A] of the leader
meets the condition of R218 (not 0, or 0 for .z) the top is popped and execution continues at its END + 8, or with the end step of a new
top that has the same END; otherwise it continues after the LBRK. LIDX, admitted, with the entry at depth IMM30 (0 to 5) live, leaves its
INDEX in x[D] of every performing hart. Nothing else changes. -/
def Obligations.LoopBreakAndIndex : Prop :=
  (∀ (f : FmtR) (s : State) (top : LoopEntry) (rest : List LoopEntry), admitted (.lbrk f) s = true → (ctl s).loops = top :: rest →
    ∃ t, exec (.lbrk f) s = .next t ∧ ControlFrame s t ∧
      (if (if f.mod.getLsbD 0 then xRead s f.a = 0 else xRead s f.a ≠ 0) then
        (match rest with
         | [] => ctl t = { pc := top.fin + 8, loops := [] }
         | u :: rest' =>
           if u.fin ≠ top.fin then ctl t = { pc := top.fin + 8, loops := rest }
           else u.remain ≠ 1 → ctl t = { pc := u.start, loops := { u with index := u.index + 1, remain := u.remain - 1 } :: rest' })
       else ctl t = nextPlace s)) ∧
  (∀ (f : FmtI) (s : State) (e : LoopEntry), admitted (.lidx f) s = true → (ctl s).loops[f.imm.toNat]? = some e →
    f.imm.toNat < 6 →
    ∃ t, exec (.lidx f) s = .next t ∧
      (∀ id ∈ performers s, (hartOf t id).get f.d.num.toNat = if f.d.num.toNat = 0 then 0 else e.index) ∧
      RegisterFrame s t (performers s) f.d.num.toNat ∧ ctl t = nextPlace s)

/-- NOP and the end step of R217: back to START, or out of one body or of two that end together. NOP, admitted, changes no register and no
memory, and answers a next state t. With no entry ending at its address the program counter is InstrAddr + 8. At the END of the top entry:
with REMAIN above 1 it is START, INDEX one more and REMAIN one less, an iteration boundary; with REMAIN 1 the entry is popped and, unless
a new top has the same END, it is END + 8; a new top with the same END and REMAIN above 1 takes its own end step (R217). -/
def Obligations.EndStepRunsAtTheEndOfABody : Prop :=
  ∀ (f : FmtR) (s : State), admitted (.nop f) s = true →
    ∃ t, exec (.nop f) s = .next t ∧ ControlFrame s t ∧
      (match (ctl s).loops with
       | [] => ctl t = { pc := curPc s + 8, loops := [] }
       | top :: rest =>
         if top.fin ≠ curPc s then ctl t = { pc := curPc s + 8, loops := top :: rest }
         else
           (top.remain ≠ 1 →
             ctl t = { pc := top.start, loops := { top with index := top.index + 1, remain := top.remain - 1 } :: rest } ∧
             ∀ id ∈ allHarts s, (hartOf t id).boundary = true) ∧
           (top.remain = 1 →
             (match rest with
              | [] => ctl t = { pc := curPc s + 8, loops := [] }
              | u :: rest' =>
                if u.fin ≠ top.fin then ctl t = { pc := curPc s + 8, loops := rest }
                else u.remain ≠ 1 → ctl t = { pc := u.start, loops := { u with index := u.index + 1, remain := u.remain - 1 } :: rest' })))

/-- FORK starts an idle A-hart at x[A] with an empty loop stack and x1-x7 of the X-hart. FORK by the X-hart of core k, admitted, with an
idle A-hart, a target whose bits 1:0 are zero, everything it sent performed, and its step's scope record not poisoned: exec answers a next
state t in which the A-hart runs at x[A] with an empty loop stack, its x1 to x7 those of the X-hart and its other registers as they were;
bq has no producer; the X-hart keeps its registers and goes on; every other core is as it was. That the queues keep their entries is the
model's choice (log 22), and so is that a poisoned record is met here (logs 57, 58). -/
def Obligations.ForkStartsTheAHart : Prop :=
  ∀ (f : FmtR) (s : State) (k : Nat), s.cur = .hart (xHartId k) → admitted (.fork f) s = true →
    (hartOf s (aHartId k)).run = .idle → (xRead s f.a).toNat % 4 = 0 → landedAll s (xHartId k) = true → (∀ i ∈ (coreOf s k).step, scopeSound s i.context i.scope = true) →
    ∃ t, exec (.fork f) s = .next t ∧
      (hartOf t (aHartId k)).pc = xRead s f.a ∧ (hartOf t (aHartId k)).loops = [] ∧ (hartOf t (aHartId k)).run = .running ∧
      (∀ n, (hartOf t (aHartId k)).get n = if 1 ≤ n ∧ n ≤ 7 then (hartOf s (xHartId k)).get n else (hartOf s (aHartId k)).get n) ∧
      (∀ id n, id ≠ aHartId k → (hartOf t id).get n = (hartOf s id).get n) ∧
      coreOf t k = { coreOf s k with bqProducer := none } ∧ (∀ j, j ≠ k → coreOf t j = coreOf s j) ∧ ctl t = nextPlace s

/-- JOIN and its rendezvous: queues emptied, the A-hart idle, the X-hart after its JOIN. JOIN, admitted on a hart that is not cancelled
and whose accesses are performed. By the X-hart, with an idle A-hart, it empties dq0-dq3 and bq, takes the producer away and goes on. By
either hart otherwise it leaves that hart standing at the rendezvous and changes nothing else. JOIN_RENDEZVOUS on a core whose X-hart
stands at JOIN and whose A-hart stands there or is idle leaves the A-hart idle, the queues empty with no producer, and the X-hart running
after its JOIN; on any other core it changes nothing, which is the model's choice (log 11). -/
def Obligations.JoinMeetsAtTheRendezvous : Prop :=
  (∀ (f : FmtR) (s : State) (k : Nat), s.cur = .hart (xHartId k) → admitted (.join f) s = true → (hartOf s (aHartId k)).run = .idle →
    cancelled s = false → landedAll s (xHartId k) = true →
    ∃ t, exec (.join f) s = .next t ∧ queuesEmpty (coreOf t k) = true ∧ ctl t = nextPlace s ∧
      (∀ id n, (hartOf t id).get n = (hartOf s id).get n) ∧ SameMemory s t) ∧
  (∀ (f : FmtR) (s : State), admitted (.join f) s = true → cancelled s = false → landedAll s (leadHart s) = true →
    (∀ k, s.cur = .hart (xHartId k) → (hartOf s (aHartId k)).run ≠ .idle) →
    exec (.join f) s = .next (modHart s (leadHart s) fun h => { h with run := .atJoin })) ∧
  (∀ (s : State) (k : Nat), k < 128 → (hartOf s (xHartId k)).run = .atJoin →
    ((hartOf s (aHartId k)).run = .atJoin ∨ (hartOf s (aHartId k)).run = .idle) →
    ∃ t, exec (.joinRendezvous k) s = .next t ∧ queuesEmpty (coreOf t k) = true ∧ (hartOf t (aHartId k)).run = .idle ∧
      (hartOf t (xHartId k)).run = .running ∧
      (hartOf t (xHartId k)).pc = (fallThrough { pc := (hartOf s (xHartId k)).pc, loops := (hartOf s (xHartId k)).loops } 8).1.pc ∧
      (∀ id n, (hartOf t id).get n = (hartOf s id).get n)) ∧
  (∀ (s : State) (k : Nat), k < 128 →
    ¬((hartOf s (xHartId k)).run = .atJoin ∧ ((hartOf s (aHartId k)).run = .atJoin ∨ (hartOf s (aHartId k)).run = .idle)) →
    exec (.joinRendezvous k) s = .next s)

/-- QPUSH appends to and QPOP takes from its data queue; full and empty ones wait, wrong ends trap. Admitted, on a hart of core k = its
number / 2. QPUSH at the sending end of a queue of fewer than 16 entries, every earlier access of the hart being performed, appends x[A];
QPOP at the receiving end takes the oldest entry into x[D]; the other queues, every other register and all memory are as they were. A push
from the receiving end and a pop from the sending end take the trap QUEUE with the queue number (R35, R222). -/
def Obligations.DataQueuesAreFirstInFirstOut : Prop :=
  (∀ (f : FmtR) (s : State) (id : Nat), s.cur = .hart id → admitted (.qpush f) s = true → sends id f.d.num.toNat = true →
    orderedAll s id = true → ((coreOf s (id / 2)).dq f.d.num.toNat).length < 16 →
    ∃ t, exec (.qpush f) s = .next t ∧ ctl t = nextPlace s ∧ CoreFrame s t (id / 2) ∧
      coreOf t (id / 2) = (coreOf s (id / 2)).setDq f.d.num.toNat ((coreOf s (id / 2)).dq f.d.num.toNat ++ [xRead s f.a]) ∧
      (∀ j n, (hartOf t j).get n = (hartOf s j).get n)) ∧
  (∀ (f : FmtR) (s : State) (id : Nat) (v : Word) (q : List Word), s.cur = .hart id → admitted (.qpop f) s = true →
    sends id f.a.num.toNat = false → (coreOf s (id / 2)).dq f.a.num.toNat = v :: q →
    ∃ t, exec (.qpop f) s = .next t ∧ ctl t = nextPlace s ∧ CoreFrame s t (id / 2) ∧
      coreOf t (id / 2) = (coreOf s (id / 2)).setDq f.a.num.toNat q ∧
      (hartOf t id).get f.d.num.toNat = (if f.d.num.toNat = 0 then 0 else v) ∧
      (∀ j n, ¬(j = id ∧ n = f.d.num.toNat) → (hartOf t j).get n = (hartOf s j).get n)) ∧
  (∀ (f : FmtR) (s : State) (id : Nat), s.cur = .hart id → admitted (.qpush f) s = true → cancelled s = false →
    sends id f.d.num.toNat = false →
    exec (.qpush f) s = .next (takeTrap s (curPc s) Cause.queue (BitVec.ofNat 64 f.d.num.toNat) false false)) ∧
  (∀ (f : FmtR) (s : State) (id : Nat), s.cur = .hart id → admitted (.qpop f) s = true → cancelled s = false →
    sends id f.a.num.toNat = true →
    exec (.qpop f) s = .next (takeTrap s (curPc s) Cause.queue (BitVec.ofNat 64 f.a.num.toNat) false false))

/-- BQPUSH appends an outcome and makes a producer; BQBR takes the oldest and branches on 1. Admitted, on a hart of core k = its number /
2. BQPUSH by the producer, or with none yet, to fewer than 32 outcomes, every earlier access of the hart being performed, appends 1 for
x[A] not 0, else 0, and makes its hart the producer. BQBR by a hart that is not the producer takes the oldest outcome; on 1 the program
counter is InstrAddr + 4 * SignExtend(MOD), on 0 the instruction ends. Registers and memory stay. BQPUSH by the non-producer and BQBR by
the producer take the trap QUEUE (R36, R223). -/
def Obligations.BranchOutcomesSteerTheOtherHart : Prop :=
  (∀ (f : FmtR) (s : State) (id : Nat), s.cur = .hart id → admitted (.bqpush f) s = true →
    (coreOf s (id / 2)).bqProducer ≠ some (decide (id % 2 = 0)) → orderedAll s id = true →
    (coreOf s (id / 2)).bq.length < 32 →
    ∃ t, exec (.bqpush f) s = .next t ∧ ctl t = nextPlace s ∧ CoreFrame s t (id / 2) ∧
      coreOf t (id / 2) = { coreOf s (id / 2) with bq := (coreOf s (id / 2)).bq ++ [decide (xRead s f.a ≠ 0)],
                                                   bqProducer := some (decide (id % 2 = 1)) } ∧
      (∀ j n, (hartOf t j).get n = (hartOf s j).get n)) ∧
  (∀ (f : FmtR) (s : State) (id : Nat) (b : Bool) (q : List Bool), s.cur = .hart id → admitted (.bqbr f) s = true →
    (coreOf s (id / 2)).bqProducer ≠ some (decide (id % 2 = 1)) → (coreOf s (id / 2)).bq = b :: q →
    ∃ t, exec (.bqbr f) s = .next t ∧ CoreFrame s t (id / 2) ∧ coreOf t (id / 2) = { coreOf s (id / 2) with bq := q } ∧
      ctl t = (if b then { pc := BitVec.ofInt 64 ((curPc s).toInt + 4 * f.mod.toInt), loops := (ctl s).loops } else nextPlace s) ∧
      (∀ j n, (hartOf t j).get n = (hartOf s j).get n)) ∧
  (∀ (f : FmtR) (s : State) (id : Nat), s.cur = .hart id → cancelled s = false →
    (admitted (.bqpush f) s = true → (coreOf s (id / 2)).bqProducer = some (decide (id % 2 = 0)) →
      exec (.bqpush f) s = .next (takeTrap s (curPc s) Cause.queue 4 false false)) ∧
    (admitted (.bqbr f) s = true → (coreOf s (id / 2)).bqProducer = some (decide (id % 2 = 1)) →
      exec (.bqbr f) s = .next (takeTrap s (curPc s) Cause.queue 4 false false)))

/-- MONITOR arms the 128-byte line; MWAIT ends with the reason code of R226 and disarms. MONITOR, admitted, with x[A] passing the address
checks of a one-byte load: the hart's monitor is armed on the 128-byte line found and not triggered; nothing else changes. MWAIT, admitted
on a hart that is not cancelled, when the monitor is triggered (0), its timeout has passed (1), the device dropped it (2) or it is not
armed (3): the code is in x[D], the monitor is disarmed and the hart goes on. The line is a multiple of 128. -/
def Obligations.MonitorsArmAndWaitsEnd : Prop :=
  (∀ (f : FmtR) (s : State) (id line : Nat), s.cur = .hart id → admitted (.monitor f) s = true →
    monitorLine s (hartCtx s id) (xRead s f.a) = .ok line →
    line % 128 = 0 ∧ ∃ t, exec (.monitor f) s = .next t ∧ ctl t = nextPlace s ∧
      (hartOf t id).monitor = some { line := line, triggered := false } ∧ { t with harts := s.harts } = s ∧
      (∀ j n, (hartOf t j).get n = (hartOf s j).get n) ∧ (∀ j, j ≠ id → hartOf t j = hartOf s j)) ∧
  (∀ (f : FmtR) (s : State) (id : Nat) (code : Word), s.cur = .hart id → admitted (.mwait f) s = true →
    cancelled s = false →
    waitEnds (hartOf s id) (clockOfHart s id).ltime (xRead s f.a) = some code →
    ∃ t, exec (.mwait f) s = .next t ∧ ctl t = nextPlace s ∧ (hartOf t id).monitor = none ∧ { t with harts := s.harts } = s ∧
      (hartOf t id).get f.d.num.toNat = (if f.d.num.toNat = 0 then 0 else code) ∧
      (∀ j n, ¬(j = id ∧ n = f.d.num.toNat) → (hartOf t j).get n = (hartOf s j).get n) ∧ (∀ j, j ≠ id → hartOf t j = hartOf s j))

/-- LD, LDACQ, LDNT: x[DATA] is the extended bytes at the effective address; only A bits change in memory. LD, LDACQ and LDNT, admitted on
a hart with no unacknowledged packet and no command still to begin on the stream, where the address of R310 resolves to memory or to an
A-store, with no poison, no frame in use and no spill area of a valid context there: exec answers a next state t. x[DATA] holds the bytes
there, zero- or sign-extended by WID (zero for x0). No other register, no A-store and no byte of memory changes, except the A bits of
table entries that the translation set (R72). -/
def Obligations.LoadsReadMemory : Prop :=
  ∀ (i : Instr) (f : FmtM) (s : State) (p : Place) (l : List Resolved), loadTable i = some f → admitted i s = true →
    acknowledgedOn s (leadHart s) (· == f.strm.toNat) = true →
    resolve s (hartCtx s (leadHart s)) (loadReq (widthOf f.wid)) (effective s f) = .ok (p, l) →
    plainPlace (commitAll s l) p (widthOf f.wid) = true →
    ∃ t, exec i s = .next t ∧ ctl t = nextPlace s ∧
      (hartOf t (leadHart s)).get f.data.num.toNat =
        (if f.data.num.toNat = 0 then 0 else extendTo f.wid (leNat (readPlace (commitAll s l) p (widthOf f.wid)))) ∧
      AccessFrame s t [leadHart s] f.data.num.toNat ∧ SameNflags s t ∧ SameStores s t ∧ OnlyBytes s t l 0 0

/-- Accesses to device registers and peers, and loads of a frame in use, complete as well. Admitted, the stream free (every earlier access
performed for a release), and at a peer no earlier access to the same bytes unacknowledged and no earlier copy with lines to send. LD,
LDACQ, LDNT whose address resolves: if the value can be read now (of a device register, of a peer that has answered, unspecified bytes of
a frame in use) x[DATA] holds it extended, the hart goes on, and no other register, NFLAGS, A-store or byte of memory changes but A bits.
ST and STREL to a device register write it; to a peer they send one write packet of the stored bytes. A relaxed AMOADD or AMOFADD into x0
at a peer sends one reduction packet and goes on; any other atomic at a peer that has answered leaves the answer in x[D]. How a peer's
answer stands in the state is the model's choice (log 14), as is what a device register reads that the spec does not list (log 16). -/
def Obligations.LoadsAndStoresElsewhereComplete : Prop :=
  (∀ (i : Instr) (f : FmtM) (s : State) (p : Place) (l : List Resolved) (v : Nat) (u : State), loadTable i = some f → admitted i s = true →
    acknowledgedOn s (leadHart s) (· == f.strm.toNat) = true →
    resolve s (hartCtx s (leadHart s)) (loadReq (widthOf f.wid)) (effective s f) = .ok (p, l) →
    beforePeer s (leadHart s) f.strm.toNat p (widthOf f.wid) false = .ok () →
    readValue s l (leadHart s) f.strm.toNat 0 (effective s f) p (widthOf f.wid) = .ok (v, u) →
    ∃ t, exec i s = .next t ∧ ctl t = nextPlace s ∧
      (hartOf t (leadHart s)).get f.data.num.toNat = (if f.data.num.toNat = 0 then 0 else extendTo f.wid v) ∧
      AccessFrame s t [leadHart s] f.data.num.toNat ∧ SameNflags s t ∧ SameStores s t ∧ OnlyBytes s t l 0 0) ∧
  (∀ (i : Instr) (f : FmtM) (release : Bool) (s : State) (p : Place) (l : List Resolved), storeTable i = some (f, release) →
    admitted i s = true → mayAccess s (leadHart s) release f.strm.toNat = true →
    resolve s (hartCtx s (leadHart s)) (storeReq (widthOf f.wid)) (effective s f) = .ok (p, l) →
    beforePeer s (leadHart s) f.strm.toNat p (widthOf f.wid) true = .ok () →
    (∀ off, p = .dev off → exec i s =
      .next (advance (devWriteSpan (commitAll s l) off (leBytes (widthOf f.wid) (xRead s f.data).toNat)))) ∧
    (∀ k a, p = .peer k a → exec i s =
      .next (advance (sendPacket (commitAll s l) (packetOf (commitAll s l) (leadHart s) f.strm.toNat .write k a (widthOf f.wid)
        (effective s f) (leBytes (widthOf f.wid) (xRead s f.data).toNat) false))))) ∧
  (∀ (i : Instr) (f : FmtR) (op : Nat → Nat → Nat → Nat → Option Nat) (s : State) (k a : Nat) (l : List Resolved),
    atomTable i = some (f, op) → admitted i s = true → (∀ g, i = .amofadd g → atomWidth f = 4) →
    mayAccess s (leadHart s) (atomRelease f) (atomStream f) = true →
    resolve s (hartCtx s (leadHart s)) (atomicReq (atomWidth f)) (xRead s f.a) = .ok (.peer k a, l) →
    beforePeer s (leadHart s) (atomStream f) (.peer k a) (atomWidth f) true = .ok () →
    (((∃ g, i = .amoadd g) ∨ ∃ g, i = .amofadd g) ∧ f.d.num = 0 ∧ f.mod.extractLsb' 6 2 = 0 →
      ∃ t, exec i s = .next t ∧ ctl t = nextPlace s ∧
        (portDown s k = false → ∃ p, t.packets.get none s.nextPacket = some p ∧ p.kind = .reduction ∧ p.link = k ∧ p.address = a)) ∧
    (∀ v, (hartOf s (leadHart s)).replies = [.value v false] →
      ¬(((∃ g, i = .amoadd g) ∨ ∃ g, i = .amofadd g) ∧ f.d.num = 0 ∧ f.mod.extractLsb' 6 2 = 0) →
      ∃ t, exec i s = .next t ∧ ctl t = nextPlace s ∧
        (hartOf t (leadHart s)).get f.d.num.toNat = if f.d.num.toNat = 0 then 0 else v))

/-- ST and STREL: the bytes at the effective address are the low bytes of x[DATA]; nothing else changes. ST and STREL (a release),
admitted on a hart that may access the stream (for STREL every earlier access is performed), where the address of R310 resolves to
physical address pa, or to an A-store: exec answers a next state t. Where no spill area of a valid context and no frame that holds a
stopped, suspended or resuming step is touched (R102), the bytes at pa are the low bytes of x[DATA], little-endian, and every byte outside
them reads as before, but for A and D bits of the table entries of the translation (R72). At an A-store its bytes are written, by R87's
mapping where it is striped, every other byte of every A-store stands, and no byte of memory changes. No register changes; nothing but
memory, vector registers whose image is written (R101) and free values is touched outside those areas. -/
def Obligations.StoresWriteOnlyTheirBytes : Prop :=
  ∀ (i : Instr) (f : FmtM) (release : Bool) (s : State) (p : Place) (l : List Resolved), storeTable i = some (f, release) →
    admitted i s = true → mayAccess s (leadHart s) release f.strm.toNat = true →
    resolve s (hartCtx s (leadHart s)) (storeReq (widthOf f.wid)) (effective s f) = .ok (p, l) →
    (∀ pa, p = .phys pa → ∃ t, exec i s = .next t ∧ ctl t = nextPlace s ∧ SameRegisters s t ∧ SameNflags s t ∧ SameStores s t ∧
      (recordsHit (commitAll s l) pa (widthOf f.wid) = [] → AccessFrame s t [] 0 ∧
        ((∀ u ∈ savedFrames (commitAll s l), overlaps pa (widthOf f.wid) u.1 u.2.2 = false) →
          OnlyBytes s t l pa (widthOf f.wid) ∧ readBytes t pa (widthOf f.wid) = leBytes (widthOf f.wid) (xRead s f.data).toNat))) ∧
    ((∃ v o, p = .store v o) ∨ (∃ w o, p = .striped w o) → ∃ t, exec i s = .next t ∧ ctl t = nextPlace s ∧
      readPlace t p (widthOf f.wid) = leBytes (widthOf f.wid) (xRead s f.data).toNat ∧ OnlyStore s t p (widthOf f.wid) ∧
      AccessFrame s t [] 0 ∧ SameNflags s t ∧ SameMemory s t)

/-- Major 0x31: x[D] is the old value, memory the new value of R312, in one step; nothing else changes. For each of the 10 atomics,
admitted on a hart that may access the stream (for a release every earlier access is performed), AMOFADD at word width, where x[A]
resolves to memory or to an A-store with no poison, no frame in use and no spill area there: exec answers a next state t. x[D] holds the
old value m zero-extended; the bytes there hold the new value of R312 from m, x[B] and x[C] at the width, or m where a failed AMOCAS
writes nothing; every other byte of memory but A and D bits of table entries, of every A-store, every other register and every flag is as
it was, except that AMOFADD ORs the flags of its fp32 sum into NFLAGS of the hart (R155). -/
def Obligations.AtomicsReadAndWriteAtOnce : Prop :=
  ∀ (i : Instr) (f : FmtR) (op : Nat → Nat → Nat → Nat → Option Nat) (s : State) (p : Place) (l : List Resolved),
    atomTable i = some (f, op) → admitted i s = true → (∀ g, i = .amofadd g → atomWidth f = 4) →
    mayAccess s (leadHart s) (atomRelease f) (atomStream f) = true →
    resolve s (hartCtx s (leadHart s)) (atomicReq (atomWidth f)) (xRead s f.a) = .ok (p, l) →
    plainPlace (commitAll s l) p (atomWidth f) = true →
    let m := leNat (readPlace (commitAll s l) p (atomWidth f))
    let w := 8 * atomWidth f
    ∃ t, exec i s = .next t ∧ ctl t = nextPlace s ∧
      (hartOf t (leadHart s)).get f.d.num.toNat = (if f.d.num.toNat = 0 then 0 else BitVec.ofNat 64 m) ∧
      leNat (readPlace t p (atomWidth f)) = (op w m ((xRead s f.b).toNat % 2 ^ w) ((xRead s f.c).toNat % 2 ^ w)).getD m ∧
      AccessFrame s t [leadHart s] f.d.num.toNat ∧
      OnlyStore s t p (atomWidth f) ∧
      (match p with
       | .phys pa => OnlyBytes s t l pa (atomWidth f)
       | _ => OnlyBytes s t l 0 0) ∧
      ((∀ g, i ≠ .amofadd g) → SameNflags s t) ∧
      ((∃ g, i = .amofadd g) → ∀ id, (hartOf t id).nflags =
        if id = leadHart s then (hartOf s id).nflags ||| (add32 m ((xRead s f.b).toNat % 2 ^ w)).fl else (hartOf s id).nflags)

/-- FENCE and SBAR end once nothing they wait for is outstanding, and change nothing but the place. FENCE, admitted, with no
unacknowledged packet and no CFETCH of the hart on its way, for kinds 10 and 11 each of its commands begun, for kind 11 with no engine
command of the hart in flight and (on an A-hart) no follow-on failure to report, and for scope system with no REFUSED bit and no packet of
the hart, a copy's source line included, without its answer (R500): exec answers the state after the instruction, otherwise unchanged.
SBAR, admitted, with no unacknowledged packet and no command still to begin on a stream of its mask: likewise. -/
def Obligations.FencesAndBarriersEnd : Prop :=
  (∀ (f : FmtR) (s : State), admitted (.fence f) s = true → landedAll s (leadHart s) = true →
    (f.mod.getLsbD 1 = true → orderedAll s (leadHart s) = true) →
    (f.mod.toNat % 4 = 3 → commandsOf s (leadHart s) = [] ∧
      (kindOfId (leadHart s) = some .aHart → (coreOf s (leadHart s / 2)).follow = [])) →
    (f.mod.toNat / 4 % 8 = 4 → (hartOf s (leadHart s)).refused = 0 ∧ outstanding s (leadHart s) (fun _ => true) = false) →
    exec (.fence f) s = .next (advance s)) ∧
  (∀ (f : FmtI) (s : State), admitted (.sbar f) s = true → acknowledgedOn s (leadHart s) (fun n => f.imm.getLsbD n) = true →
    exec (.sbar f) s = .next (advance s))

/-- WAITV writes the read that satisfies its condition to x[D]; until then it waits in place. WAITV, admitted on a hart that is not
cancelled, nothing outstanding on its stream, its address resolving to memory or an A-store with no poison, no frame in use and no spill
area of a valid context there. If the word read satisfies the condition C on x[B] at the width, exec answers a next state with the word
zero-extended in x[D] and nothing else changed but A bits. WAITV_SATISFIED on a hart that waits at such a WAITV leaves the same x[D] and
ends the wait. If the word does not satisfy it, exec leaves every register and the program counter as they were. -/
def Obligations.WaitvEndsWithTheSatisfyingRead : Prop :=
  ∀ (f : FmtR) (s : State) (p : Place) (l : List Resolved), admitted (.waitv f) s = true → cancelled s = false →
    acknowledgedOn s (leadHart s) (· == atomStream f) = true →
    resolve s (hartCtx s (leadHart s)) (loadReq (atomWidth f)) (xRead s f.a) = .ok (p, l) →
    plainPlace (commitAll s l) p (atomWidth f) = true →
    let m := leNat (readPlace (commitAll s l) p (atomWidth f))
    if waitCond (f.c.bits.toNat % 4) m ((xRead s f.b).toNat % 2 ^ (8 * atomWidth f)) = true then
      (∃ t, exec (.waitv f) s = .next t ∧ ctl t = nextPlace s ∧
        (hartOf t (leadHart s)).get f.d.num.toNat = (if f.d.num.toNat = 0 then 0 else BitVec.ofNat 64 m) ∧
        AccessFrame s t [leadHart s] f.d.num.toNat ∧ SameNflags s t ∧ SameStores s t ∧ OnlyBytes s t l 0 0) ∧
      (∀ id k, s.cur = .hart id → kindOfId id = some k → (hartOf s id).run = .running → (hartOf s id).parked = true →
        fetched s = .instr (.waitv f) →
        ∃ t, exec (.waitvSatisfied id) s = .next t ∧ (hartOf t id).parked = false ∧
          (hartOf t id).get f.d.num.toNat = if f.d.num.toNat = 0 then 0 else BitVec.ofNat 64 m)
    else ∃ t, exec (.waitv f) s = .next t ∧ ctl t = ctl s ∧ t.waited = true ∧ ∀ id n, (hartOf t id).get n = (hartOf s id).get n

/-- Delivery of a contained trap: TRAPPC, TRAPCAUSE, TRAPINFO, then PC := TRAPVEC; all else stands. A contained trap with cause, TRAPINFO
and LATE at address pc, on a compute hart or a bank that issues alone, with TRAPVEC not 0 and IH = 0: TRAPPC := pc, CODE := the cause, IH
:= 1, LATE and TRAPINFO as given, the program counter becomes TRAPVEC, and every other register and all the rest of the state, loop stack,
flags and queues included, stands (R424). -/
def Obligations.TakingATrapSavesAndEnters : Prop :=
  ∀ (s : State) (id : Nat) (k : HartKind) (pc : Word) (code : BitVec 8) (info : Word) (late : Bool), inGroup s = false → leadHart s = id →
    kindOfId id = some k → k ≠ .docent → canTrap (hartOf s id) = true →
    takeTrap s pc code info late false = modHart s id fun h => trapped h pc code info late

/-- A gang's trap enters the handler of all eight banks in one step, each with its own or the first cause. A contained trap of a gang of
Pergola g with the faults `own` by bank, the leader having TRAPVEC not 0 and IH = 0: every bank b has TRAPPC = pc, IH = 1, LATE = 0, and
its own cause and TRAPINFO if it is listed, else the first listed bank's cause and all ones; its registers and flags stand; the gang's
program counter is the leader's TRAPVEC (R454). -/
def Obligations.GangTrapsReachAllEightBanks : Prop :=
  ∀ (s : State) (g : Nat) (pc : Word) (own : List (Nat × BitVec 8 × Word)), s.cur = .pergola g →
    canTrap (hartOf s (leadHart s)) = true →
    (perOf (trapGang s pc own) g).pc = (hartOf s (leadHart s)).trapvec ∧
    (perOf (trapGang s pc own) g).loops = (perOf s g).loops ∧
    (∀ b, b < 8 → hartOf (trapGang s pc own) (bankId g b) =
      { hartOf s (bankId g b) with
          trappc := pc, ih := true, late := false,
          code := ((own.find? fun p => p.1 == b).map (·.2.1)).getD ((own.head?.map (·.2.1)).getD 0),
          trapinfo := ((own.find? fun p => p.1 == b).map (·.2.2)).getD (BitVec.allOnes 64) }) ∧
    (∀ a, readByte (trapGang s pc own) a = readByte s a)

/-- TRAPVEC 0 or IH 1 makes the trap a partition fault of the context; on a docent it stops the docent only. A contained trap on a compute
hart or a bank that issues alone, with TRAPVEC 0 or IH 1: a running context of the hart becomes halting with this hart as ORIGIN and this
cause; the hart's own registers stand, and the unit's fault record, if it holds no earlier fault, has this one with NOVEC and DOUBLE. On a
docent hart: the docent is stopped with the cause in its status, and no context's halt state changes (R422). -/
def Obligations.TrapsWithNoHandlerAreFaults : Prop :=
  (∀ (s : State) (id : Nat) (k : HartKind) (pc : Word) (code : BitVec 8) (info : Word) (late : Bool), inGroup s = false → leadHart s = id →
    kindOfId id = some k → k ≠ .docent → canTrap (hartOf s id) = false → (haltOf s (hartOf s id).context).st = .running →
    (haltOf (takeTrap s pc code info late false) (hartOf s id).context).st = .halting ∧
    (haltOf (takeTrap s pc code info late false) (hartOf s id).context).origin = BitVec.ofNat 16 id ∧
    (haltOf (takeTrap s pc code info late false) (hartOf s id).context).cause = code ∧
    (∀ j, hartOf (takeTrap s pc code info late false) j = hartOf s j) ∧
    (id < 256 → (coreOf s (id / 2)).fault = none → (coreOf (takeTrap s pc code info late false) (id / 2)).fault =
      some { cause := code, origin := BitVec.ofNat 16 id, engine := 0, info := info, fpc := pc, double := (hartOf s id).ih,
             novec := (hartOf s id).trapvec == 0 })) ∧
  (∀ (s : State) (id : Nat) (pc : Word) (code : BitVec 8) (info : Word) (late : Bool), s.cur = .hart id → kindOfId id = some .docent →
    (wingOf (takeTrap s pc code info late false) (id % 8)).docStopped = true ∧
    (wingOf (takeTrap s pc code info late false) (id % 8)).docCause = code ∧
    (hartOf (takeTrap s pc code info late false) id).run = .stopped ∧ (takeTrap s pc code info late false).halts = s.halts)

/-- HARTCLASS, RESERVED-FIELD and ALLOT trap before any effect, in the order of R187. For every instruction with an encoding but the
convoy header, on an issuer of kind k that is not cancelled, no misplaced follow-on: if k does not execute it, exec takes the trap
HARTCLASS with the instruction as TRAPINFO; else, if a field fails step 3, RESERVED-FIELD with the instruction; else, on a compute hart,
if a vector register that it names lies above the allotment, ALLOT with the lowest such number. Nothing else happens (R187). -/
def Obligations.EncodingChecksComeFirst : Prop :=
  ∀ (i : Instr) (s : State) (k : HartKind), (encodeWord i).isSome = true → isHeader i = false → curKind s = some k → cancelled s = false →
    strayFollow i = false → loneCopy i s = false →
    (hartExecutes k i = false → exec i s = .next (takeTrap s (curPc s) Cause.hartclass (instrWord i) false false)) ∧
    (hartExecutes k i = true → fieldsOk k i = false →
      exec i s = .next (takeTrap s (curPc s) Cause.reservedField (instrWord i) false false)) ∧
    (hartExecutes k i = true → fieldsOk k i = true → (k = .aHart ∨ k = .xHart) → ∀ n, allotFault (coreOf s (curCore s)).allot i = some n →
      exec i s = .next (takeTrap s (curPc s) Cause.allot (BitVec.ofNat 64 n) false false))

/-- TRAP raises SWTRAP with x[A], BRK raises BREAK; TRAPPC is the address after the end step. TRAP and BRK, admitted on a compute hart or
a bank that issues alone, not cancelled, with TRAPVEC not 0 and IH = 0: exec answers a next state t in which the hart has CODE SWTRAP and
TRAPINFO x[A] (BRK: BREAK and 0), IH 1, LATE 0, TRAPPC the address after the instruction (after the end step of R217 if it ends a body),
the program counter TRAPVEC and the loop stack of the end step; its registers and flags, every other hart and all memory are as they were.
-/
def Obligations.SoftwareTrapsEnterTheHandler : Prop :=
  ∀ (f : FmtR) (s : State) (id : Nat) (k : HartKind), inGroup s = false → leadHart s = id → kindOfId id = some k → k ≠ .docent →
    cancelled s = false → canTrap (hartOf s id) = true →
    (∀ (i : Instr) (code : BitVec 8) (info : Word),
      ((i = .trap f ∧ code = 0x18 ∧ info = (hartOf s id).opnd f.a) ∨ (i = .brk f ∧ code = 0x19 ∧ info = 0)) → admitted i s = true →
      ∃ t, exec i s = .next t ∧
        (hartOf t id).code = code ∧ (hartOf t id).trapinfo = info ∧ (hartOf t id).ih = true ∧ (hartOf t id).late = false ∧
        (hartOf t id).trappc = (nextPlace s).pc ∧ ctl t = { pc := (hartOf s id).trapvec, loops := (nextPlace s).loops } ∧
        (hartOf t id).flags = (hartOf s id).flags ∧ (hartOf t id).nflags = (hartOf s id).nflags ∧
        (∀ j n, (hartOf t j).get n = (hartOf s j).get n) ∧ (∀ j, j ≠ id → hartOf t j = hartOf s j) ∧ SameMemory s t)

/-- RFT: PC := TRAPPC and IH := 0, in a gang for all eight banks; outside a handler it is ILLEGAL. RFT, admitted, with IH = 1, nothing
left in the replay queue and every earlier instruction of the issuer complete: exec answers a next state whose program counter is TRAPPC
(the leader's, in a gang) and in which IH is 0 on every hart of the issuer; every register, the flags, the loop stack, TRAPVEC, TRAPPC and
TRAPINFO and all memory are as they were. With IH = 0, not cancelled, it takes the trap ILLEGAL with the instruction as TRAPINFO (R426,
R454). -/
def Obligations.ReturnFromTrapRestores : Prop :=
  ∀ (f : FmtR) (s : State), admitted (.rft f) s = true →
    ((hartOf s (leadHart s)).ih = true → (hartOf s (leadHart s)).replay = [] → writesPending s = false →
      ∃ t, exec (.rft f) s = .next t ∧
        ctl t = { pc := (hartOf s (leadHart s)).trappc, loops := (ctl s).loops } ∧
        (∀ id ∈ allHarts s, ∀ h', hartOf t id = h' → h'.ih = false ∧
          { h' with ih := (hartOf s id).ih, pc := (hartOf s id).pc, loops := (hartOf s id).loops } = hartOf s id) ∧
        (∀ id, id ∉ allHarts s → hartOf t id = hartOf s id) ∧ SameMemory s t) ∧
    ((hartOf s (leadHart s)).ih = false → cancelled s = false →
      exec (.rft f) s = .next (takeTrap s (curPc s) Cause.illegal (instrWord (.rft f)) false false))

/-- A parcel outside the map is ILLEGAL, an absent block SEGABSENT; a convoy header is a no-op of 32 bits. On an issuer that is not
cancelled: ILLEGAL_ENCODING takes the trap ILLEGAL with the 64 bits read and ABSENT_BLOCK_FETCH the trap SEGABSENT with the overlay
offset, at the program counter (R185, R456). A convoy header, admitted, changes nothing but the place, which moves on by 4 bytes when no
body ends there (R177). -/
def Obligations.FetchFaultsAndConvoyHeaders : Prop :=
  (∀ (w : Word) (s : State) (k : HartKind), curKind s = some k → cancelled s = false →
    exec (.illegalEncoding w) s = .next (takeTrap s (curPc s) Cause.illegal w false false) ∧
    exec (.absentBlockFetch w) s = .next (takeTrap s (curPc s) Cause.segabsent w false false)) ∧
  (∀ (f : FmtC) (s : State), admitted (.convoyHeader f) s = true →
    ∃ t, exec (.convoyHeader f) s = .next t ∧ ControlFrame s t ∧
      ((∀ top ∈ (ctl s).loops.head?, top.fin ≠ curPc s) → ctl t = { pc := curPc s + 4, loops := (ctl s).loops }))

/-- CSRR brings each performing hart its own register; unknown, privileged and absent ones trap. CSRR of a register that the issuer's
class has, with system privilege for a system register, admitted: every performing hart gets its own register's value in x[D], and nothing
else changes. On a hart issuing alone and not cancelled: an address that the class does not have takes the trap RESERVED-FIELD; a system
register without privilege, or CSRW of a read-only one, takes PROT (its TRAPINFO is not stated: a free value, log 8). -/
def Obligations.ControlRegistersRead : Prop :=
  (∀ (f : FmtI) (s : State), admitted (.csrr f) s = true → csrKnown (issuerKind s) f.imm.toNat = true →
    (0x20 ≤ f.imm.toNat → (hartOf s (leadHart s)).priv = true) →
    ∃ t, exec (.csrr f) s = .next t ∧
      (∀ id ∈ performers s, (hartOf t id).get f.d.num.toNat = if f.d.num.toNat = 0 then 0 else controlValue s id f.imm.toNat) ∧
      RegisterFrame s t (performers s) f.d.num.toNat ∧ ctl t = nextPlace s) ∧
  (∀ (i : Instr) (f : FmtI) (s : State), (i = .csrr f ∨ i = .csrw f) → admitted i s = true → cancelled s = false → inGroup s = false →
    (csrKnown (issuerKind s) f.imm.toNat = false →
      exec i s = .next (takeTrap s (curPc s) Cause.reservedField (instrWord i) false false)) ∧
    (csrKnown (issuerKind s) f.imm.toNat = true →
      ((0x20 ≤ f.imm.toNat ∧ (hartOf s (leadHart s)).priv = false) ∨ (i = .csrw f ∧ (f.imm.toNat ∈ [0, 1, 6, 7]))) →
      ∃ info u, exec i s = .next (takeTrap u (curPc s) Cause.prot info false false) ∧ { u with freeCount := s.freeCount } = s))

/-- CSRW writes each performing hart's register; GOVSTAT, TRAPCAUSE and TLBINV act as R344 says. CSRW, admitted, to a writable register of
the class, with privilege for a system one. A register without behaviour of its own reads the value written afterwards, with FLAGS 11
stored as 00 and reserved bits 0, on every performing hart (for RTYPE a legal value); other harts' registers, every scalar register and
all memory stay. GOVSTAT: bit 0 clears DROOP. TRAPCAUSE on a hart issuing alone: CODE, IH, LATE are written and RCOUNT 0 empties the
replay queue. TLBINV, with no access that may use the entries in flight: the selected translations are dropped. -/
def Obligations.ControlRegistersWrite : Prop :=
  (∀ (f : FmtI) (s : State), admitted (.csrw f) s = true → csrKnown (issuerKind s) f.imm.toNat = true → csrReadOnly f.imm.toNat = false →
    (0x20 ≤ f.imm.toNat → (hartOf s (leadHart s)).priv = true) →
    (f.imm.toNat = 5 → ∀ id ∈ performers s, typeOk true ((hartOf s id).opnd f.a) = true) →
    (f.imm.toNat = 0x21 → tlbBusy s (xRead s f.a) = false) →
    ∃ t, exec (.csrw f) s = .next t ∧ SameMemory s t ∧ (∀ id n, (hartOf t id).get n = (hartOf s id).get n) ∧ ctl t = nextPlace s ∧
      (∀ v, (controlStored f.imm.toNat 0).isSome = true → (∀ id ∈ performers s, (hartOf s id).opnd f.a = v) →
        ∀ id ∈ performers s, some (controlValue t id f.imm.toNat) = controlStored f.imm.toNat v) ∧
      (∀ id, id ∉ performers s → id ∉ allHarts s → hartOf t id = hartOf s id) ∧
      (f.imm.toNat = 2 → ∀ id ∈ performers s, ((hartOf s id).opnd f.a).getLsbD 0 = true → (clockOfHart t id).droop = false) ∧
      (f.imm.toNat = 0x21 → ∀ e ∈ t.tlb, tlbSelects (xRead s f.a) e = false) ∧
      (f.imm.toNat = 0x12 → inGroup s = false →
        (hartOf t (leadHart s)).code = (xRead s f.a).setWidth 8 ∧ (hartOf t (leadHart s)).ih = (xRead s f.a).getLsbD 8 ∧
        (hartOf t (leadHart s)).late = (xRead s f.a).getLsbD 16 ∧
        ((xRead s f.a).extractLsb' 17 7 = 0 → (hartOf t (leadHart s)).replay = [])))

/-- CFETCH makes the blocks of its range pending from its source; CSEG reads a block's state; IFENCE ends. CFETCH, admitted, no
unacknowledged packet, every performing hart naming the same range, which passes the checks of R346: every 128-byte block of the range is
pending or landed from x[A] + 128k in the hart's context, pending if it was not there from that source; other blocks stay, registers and
memory but A bits stay. CSEG, admitted, offsets within the overlay: x[D] is 0, 1 or 2 for absent, pending, landed. IFENCE, admitted, no
CFETCH of the issuer's own pending: nothing but the place changes. -/
def Obligations.CodeSegmentsAreFetched : Prop :=
  (∀ (f : FmtR) (s : State) (r : SegRange) (m : RangeMap), admitted (.cfetch f) s = true → acknowledgedOn s (leadHart s) (fun _ => true) = true →
    performers s ≠ [] → (∀ id ∈ performers s, segmentOf f (hartOf s id) = r ∧ segmentMap s id r = .ok m ∧
      (hartOf s id).context = (hartOf s (leadHart s)).context) →
    ∃ t, exec (.cfetch f) s = .next t ∧ ctl t = nextPlace s ∧ (∀ id n, (hartOf t id).get n = (hartOf s id).get n) ∧ OnlyBytes s t m.commits 0 0 ∧
      (∀ k, k < r.len.toNat / 128 →
        let b := blockAt s (curOverlay s) (r.ovlOff.toNat / 128 + k)
        let b' := blockAt t (curOverlay s) (r.ovlOff.toNat / 128 + k)
        b'.context = (hartOf s (leadHart s)).context ∧ b'.source = r.source + BitVec.ofNat 64 (128 * k) ∧ b'.st ≠ .absent ∧
          (¬(b.st ≠ .absent ∧ b.context = (hartOf s (leadHart s)).context ∧ b.source = r.source + BitVec.ofNat 64 (128 * k)) →
            b'.st = .pending)) ∧
      (∀ j, (j < r.ovlOff.toNat / 128 ∨ r.ovlOff.toNat / 128 + r.len.toNat / 128 ≤ j) →
        blockAt t (curOverlay s) j = blockAt s (curOverlay s) j)) ∧
  (∀ (f : FmtR) (s : State), admitted (.cseg f) s = true →
    (∀ id ∈ performers s, ((hartOf s id).opnd f.a).toNat < 128 * overlayBlocks (curOverlay s)) →
    ∃ t, exec (.cseg f) s = .next t ∧ RegisterFrame s t (performers s) f.d.num.toNat ∧ ctl t = nextPlace s ∧
      ∀ id ∈ performers s, (hartOf t id).get f.d.num.toNat = if f.d.num.toNat = 0 then 0 else
        match (blockAt s (curOverlay s) (((hartOf s id).opnd f.a).toNat / 128)).st with
        | .absent => 0
        | .pending => 1
        | .landed => 2) ∧
  (∀ (f : FmtR) (s : State), admitted (.ifence f) s = true → fetchPending s = false →
    exec (.ifence f) s = .next (advance s))

/-- SETASIDE grants, changes and ends the lease of an octet; ROWWD arms and disarms its watchdog. SETASIDE, admitted, its reserved bits
zero, with system privilege, on a row-capable octet g and a context number c that the device supports. Not leased, d not 0, no engine
command in flight and no code block on its way from g's rows (R82): g is leased to c for d rc with the DUAL bit, every row register closed
and row latch and flag of its banks cleared. Leased to c: d not 0 and the same DUAL bit sets REMAIN to d; d = 0 ends the lease. Not leased
and d = 0: nothing. ROWWD, admitted, reserved bits zero, octet in range, leased to the hart's context or under privilege: the watchdog is
armed with x[B][39:0] or, with 0, disarmed. The issuer's registers stay in every case. -/
def Obligations.LeasesAreGrantedChangedAndEnded : Prop :=
  (∀ (f : FmtR) (s : State) (g d : Nat) (c : BitVec 16), admitted (.setaside f) s = true → (hartOf s (leadHart s)).priv = true →
    (xRead s f.a).toNat = g + (if (xRead s f.a).getLsbD 12 then 2 ^ 12 else 0) + c.toNat * 2 ^ 48 → g < 1152 → (xRead s f.b).toNat = d →
    d < 2 ^ 40 → ctxNumber c = true → rowCapable s g = true →
    (leased s g = false → d ≠ 0 → (∀ e ∈ s.cores, e.2.engines = []) → fetchesFrom s g = false →
      ∃ t, exec (.setaside f) s = .next t ∧ ctl t = nextPlace s ∧ (perOf t g).lessee = c ∧ (perOf t g).remain = d ∧
        (perOf t g).dual = (xRead s f.a).getLsbD 12 ∧ (∀ n, (hartOf t (leadHart s)).get n = (hartOf s (leadHart s)).get n) ∧
        ∀ b, b < 8 → (bankOf t g b).o = [] ∧ (bankOf t g b).q = [] ∧ (bankOf t g b).lut = 0 ∧ (bankOf t g b).inbox = none ∧
          (hartOf t (bankId g b)).flags = 0 ∧ (hartOf t (bankId g b)).nflags = 0) ∧
    (leased s g = false → d = 0 → exec (.setaside f) s = .next (advance s)) ∧
    (leased s g = true → (perOf s g).lessee = c → d ≠ 0 → (perOf s g).dual = (xRead s f.a).getLsbD 12 →
      exec (.setaside f) s = .next (advance (modPer s g fun p => { p with remain := d }))) ∧
    (leased s g = true → (perOf s g).lessee = c → d = 0 →
      ∃ t, exec (.setaside f) s = .next t ∧ (perOf t g).lessee = 0 ∧ (perOf t g).watchdog = none ∧
        ∀ n, (hartOf t (leadHart s)).get n = (hartOf s (leadHart s)).get n)) ∧
  (∀ (f : FmtR) (s : State) (g : Nat), admitted (.rowwd f) s = true → (xRead s f.a).toNat = g → g < 1152 → (xRead s f.b).toNat < 2 ^ 40 →
    ((hartOf s (leadHart s)).priv = true ∨ (leased s g = true ∧ (perOf s g).lessee = (hartOf s (leadHart s)).context)) →
    exec (.rowwd f) s = .next (advance (modPer s g fun p =>
      { p with watchdog := if xRead s f.b = 0 then none else some (xRead s f.b).toNat })))

/-- SCOPE writes the record and the spawn scope, CANCEL cancels the subtree, CWAIT ends once quiesced. Admitted, every earlier access of
the hart performed. SCOPE of 0 on a compute hart makes the home scope the spawn scope, with its SCOPEID in x[D]. SCOPE of a record address
that is writable, unpoisoned and empty or quiesced, under a spawn scope of depth below 15: the record reads STATE live (quiesced under one
that is not live), DEPTH one more, PARENT, CONTEXT, the SCOPEID in x[D], zero counts, and is the spawn scope. On a docent SCOPE of 0
writes 0. CANCEL and CWAIT of a record that x[A] names (aligned, readable, neither empty nor 11, of the hart's context and within its home
subtree; any by a docent): CANCEL of a live one goes on, and the record and every live descendant that the device knows read STATE
cancelling or, idle, quiesced, with the hart as CANCELLER (where no spill record or frame header lies on them and no context is being
killed); of one not live it only goes on. CWAIT, not cancelled, goes on when STATE is quiesced, else stays. A record that is empty, or
reads 11, is SCOPEFAULT. No other byte changes but table bits, for CANCEL and CWAIT those of scopeReads. What a known descendant is, is
the model's choice (logs 57, 58). -/
def Obligations.ScopesOpenCancelAndWait : Prop :=
  (∀ (f : FmtR) (s : State) (pa : Nat) (l : Resolved), admitted (.scope f) s = true → curKind s ≠ some .docent → xRead s f.a = 0 →
    orderedAll s (leadHart s) = true →
    deviceAddr s (hartCtx s (leadHart s)) (hartOf s (leadHart s)).home.toNat false 64 = .ok (pa, l) → recordLost s pa = false →
    ∃ t, exec (.scope f) s = .next t ∧ ctl t = nextPlace s ∧ (hartOf t (leadHart s)).spawn = (hartOf s (leadHart s)).home ∧
      (hartOf t (leadHart s)).get f.d.num.toNat = (if f.d.num.toNat = 0 then 0 else BitVec.ofNat 64 (recId (recordAt s pa))) ∧
      RecordFrame s t [leadHart s] f.d.num.toNat [l] 0 0) ∧
  (∀ (f : FmtR) (s : State) (pa ppa pr q : Nat) (l lp : Resolved), admitted (.scope f) s = true → curKind s ≠ some .docent → xRead s f.a ≠ 0 →
    orderedAll s (leadHart s) = true →
    deviceAddr s (hartCtx s (leadHart s)) (xRead s f.a).toNat true 64 = .ok (pa, l) → firstPoison s pa 64 = none →
    (recordAt s pa = 0 ∨ recState (recordAt s pa) = 2) →
    deviceRead s (hartCtx s (leadHart s)) (hartOf s (leadHart s)).spawn.toNat 64 64 = .ok (ppa, pr) → recDepth pr < 15 →
    deviceAddr (commit s l) (hartCtx s (leadHart s)) (hartOf s (leadHart s)).spawn.toNat false 1 = .ok (q, lp) →
    ∃ t, exec (.scope f) s = .next t ∧ ctl t = nextPlace s ∧ (hartOf t (leadHart s)).spawn = xRead s f.a ∧
      recState (recordAt t pa) = (if recState pr = 0 then 0 else 2) ∧ recDepth (recordAt t pa) = recDepth pr + 1 ∧
      recParent (recordAt t pa) = (hartOf s (leadHart s)).spawn.toNat % 2 ^ 56 ∧
      recContext (recordAt t pa) = (hartOf s (leadHart s)).context.toNat ∧ bits (recordAt t pa) 120 312 = 0 ∧
      bits (recordAt t pa) 432 16 = (if recState pr = 0 then 0 else bits pr 432 16) ∧
      (hartOf t (leadHart s)).get f.d.num.toNat = (if f.d.num.toNat = 0 then 0 else BitVec.ofNat 64 (recId (recordAt t pa))) ∧
      RecordFrame s t [leadHart s] f.d.num.toNat [l, lp] pa 64) ∧
  (∀ (f : FmtR) (s : State), admitted (.scope f) s = true → curKind s = some .docent → xRead s f.a = 0 →
    exec (.scope f) s = .next (advance (xWrite s f.d 0))) ∧
  (∀ (f : FmtR) (s : State) (pa r : Nat), admitted (.cancel f) s = true → orderedAll s (leadHart s) = true →
    namesRecord s (xRead s f.a) pa r →
    let s' := scopeReads s (xRead s f.a)
    let c := BitVec.ofNat 16 (recContext r)
    (recState (recordAt s' pa) ≠ 0 → recordLost s' pa = false → exec (.cancel f) s = .next (advance s')) ∧
    (recState (recordAt s' pa) = 0 → (∀ k, (haltOf s k).killing = false) →
      ∃ t, exec (.cancel f) s = .next t ∧
        ∀ q, (q = pa ∨ q ∈ knownScopes s' c ∧ recState (recordAt s' q) = 0 ∧ inSubtree s' (entryCtx s' c) q pa = true) →
          recordLost s' q = false → lineClear s' c q →
          (recState (recordAt t q) = 1 ∨ recState (recordAt t q) = 2) ∧ bits (recordAt t q) 432 16 = leadHart s % 2 ^ 16)) ∧
  (∀ (f : FmtR) (s : State) (pa r : Nat), admitted (.cwait f) s = true → cancelled s = false → orderedAll s (leadHart s) = true →
    namesRecord s (xRead s f.a) pa r →
    (recState r = 2 → exec (.cwait f) s = .next (advance (scopeReads s (xRead s f.a)))) ∧
    (recState r ≠ 2 → ∃ t, exec (.cwait f) s = .next t ∧ ctl t = ctl s ∧ t.waited = true ∧ SameRegisters s t ∧
      t.mem = (scopeReads s (xRead s f.a)).mem)) ∧
  (∀ (i : Instr) (f : FmtR) (s : State) (pa r : Nat), (i = .cancel f ∨ i = .cwait f) → admitted i s = true → cancelled s = false →
    orderedAll s (leadHart s) = true →
    deviceRead s (hartCtx s (leadHart s)) (xRead s f.a).toNat 64 64 = .ok (pa, r) → (r = 0 ∨ recState r = 3) →
    exec i s = .next (takeTrap s (curPc s) Cause.scopefault (xRead s f.a) false false))

/-- BARINIT sets or frees an object, BARARR counts an arrival and releases, BARWAIT ends on a new PHASE. Admitted, every earlier access of
the hart performed, object address aligned, permitted and unpoisoned. BARINIT with x[B] in 1 to 2^32-1, no arrivals pending: the object
reads STATE live, the hart's CONTEXT, EXPECTED = x[B], ARRIVED 0, PHASE 0, else zero; with x[B] = 0 only STATE becomes free. BARARR of a
live object of the context, fewer than four other memberships: x[D] = PHASE, ARRIVED one more, and on meeting EXPECTED ARRIVED := 0 and
PHASE + 1; the hart is a member with that phase. BARWAIT, not cancelled, goes on when PHASE is not x[B][31:0], else stays. Nothing else
changes but table bits. That BARINIT acts on an object of another context too is the model's choice (log 83). -/
def Obligations.BarriersCountArrivals : Prop :=
  (∀ (f : FmtR) (s : State) (pa : Nat) (l : Resolved), admitted (.barinit f) s = true → orderedAll s (leadHart s) = true → (xRead s f.a).toNat % 64 = 0 →
    (xRead s f.b).toNat < 2 ^ 32 → deviceAddr s (hartCtx s (leadHart s)) (xRead s f.a).toNat true 64 = .ok (pa, l) →
    (bits (readNat s pa 64) 0 2 = 1 → barArrived (readNat s pa 64) = 0) →
    ∃ t, exec (.barinit f) s = .next t ∧ ctl t = nextPlace s ∧
      readNat t pa 64 = (if xRead s f.b = 0 then readNat s pa 64 / 4 * 4
        else 1 + (hartOf s (leadHart s)).context.toNat * 2 ^ 16 + (xRead s f.b).toNat * 2 ^ 32) ∧
      RecordFrame s t [] 0 [l] pa 64) ∧
  (∀ (f : FmtR) (s : State) (pa : Nat) (l : Resolved), admitted (.bararr f) s = true → orderedAll s (leadHart s) = true →
    barObject s (xRead s f.a) true = .ok (pa, l) → bits (readNat s pa 64) 0 2 = 1 →
    bits (readNat s pa 64) 16 16 = (hartOf s (leadHart s)).context.toNat →
    ((hartOf s (leadHart s)).members.length < 4 ∨ ∃ m ∈ (hartOf s (leadHart s)).members, m.object = xRead s f.a) →
    ∃ t, exec (.bararr f) s = .next t ∧ ctl t = nextPlace s ∧
      Arrived (readNat s pa 64) (readNat t pa 64) ((barArrived (readNat s pa 64) + 1) % 2 ^ 32) ∧
      (hartOf t (leadHart s)).get f.d.num.toNat =
        (if f.d.num.toNat = 0 then 0 else BitVec.ofNat 64 (barPhase (readNat s pa 64))) ∧
      { object := xRead s f.a, phase := BitVec.ofNat 32 (barPhase (readNat s pa 64)) } ∈ (hartOf t (leadHart s)).members ∧
      (∀ m ∈ (hartOf s (leadHart s)).members, m.object ≠ xRead s f.a → m ∈ (hartOf t (leadHart s)).members) ∧
      RecordFrame s t [leadHart s] f.d.num.toNat [l] pa 64) ∧
  (∀ (f : FmtR) (s : State) (pa : Nat) (l : Resolved), admitted (.barwait f) s = true → cancelled s = false →
    orderedAll s (leadHart s) = true → barObject s (xRead s f.a) false = .ok (pa, l) →
    (barPhase (readNat s pa 64) ≠ (xRead s f.b).toNat % 2 ^ 32 → exec (.barwait f) s = .next (advance (commit s l))) ∧
    (barPhase (readNat s pa 64) = (xRead s f.b).toNat % 2 ^ 32 → ∃ t, exec (.barwait f) s = .next t ∧ ctl t = ctl s ∧ t.waited = true ∧
      SameRegisters s t ∧ OnlyBytes s t [l] 0 0))

/-- EXIT ends the X-hart's step, idles the A-hart, ends the banks; a docent goes on after its decrements. EXIT, admitted, not cancelled,
its named blocks passing the checks of R55 and R335 and free of poison. X-hart of core k running a step, A-hart idle, no command of the
step in flight, every access of both harts performed, nothing to report: the core has no step, both harts are idle, queues and tokens
empty. A-hart, no own command in flight, its accesses performed, nothing to report: it is idle, the X-hart as it was. Banks of a row step
with settled accesses and landed CFETCHes: every issuing bank has exited, and once no bank lives the Pergola has no step. Docent, its
accesses performed, no refusal to report: the place after it. No scalar register changes in any case. A block that the EXIT alone names,
waiting, not dead and not of a scope that is cancelled, reads DEPS one less; at zero, unless it is malformed or without steps, it reads
STATE ready and stands in the queue of its PRIO on every Wing of WINGS (R54), before the step ends. The order of the checks is the model's
choice (log 45). -/
def Obligations.ExitEndsTheStep : Prop :=
  ∀ (f : FmtR) (s : State), admitted (.exit f) s = true → cancelled s = false →
    (∀ (k : Nat) (i : StepInfo), k < 128 → s.cur = .hart (xHartId k) → exitFault s f (xHartId k) = none → exitPoison f (xHartId k) s = .ok () →
      (hartOf s (aHartId k)).run = .idle → (coreOf s k).step = some i → stepCommands s i = [] →
      orderedAll s (aHartId k) = true → orderedAll s (xHartId k) = true → (hartOf s (xHartId k)).refused = 0 → (coreOf s k).follow = [] →
      ∃ t, exec (.exit f) s = .next t ∧ (coreOf t k).step = none ∧ (hartOf t (xHartId k)).run = .idle ∧
        (hartOf t (aHartId k)).run = .idle ∧ queuesEmpty (coreOf t k) = true ∧ (coreOf t k).tokens = [] ∧ SameRegisters s t ∧
        ∃ u, t = endCompute u k ∧ ExitDecrements f s u (xHartId k)) ∧
    (∀ (k : Nat), k < 128 → s.cur = .hart (aHartId k) → exitFault s f (aHartId k) = none → exitPoison f (aHartId k) s = .ok () →
      commandsOf s (aHartId k) = [] → orderedAll s (aHartId k) = true → (hartOf s (aHartId k)).refused = 0 →
      (coreOf s k).follow = [] →
      ∃ t, exec (.exit f) s = .next t ∧ (hartOf t (aHartId k)).run = .idle ∧ (hartOf t (xHartId k)).run = (hartOf s (xHartId k)).run ∧
        (coreOf t k).step = (coreOf s k).step ∧ SameRegisters s t ∧ ∃ u, t = idleAHart u k ∧ ExitDecrements f s u (aHartId k)) ∧
    (∀ (i : StepInfo), curKind s = some .bank → (perOf s (curPer s)).step = some i →
      (∀ id ∈ performers s, exitFault s f id = none ∧ exitPoison f id s = .ok ()) →
      (∀ id ∈ allHarts s, bankSettled s (curPer s) (bankOfHart id) = true) → fetchOf s (64 + curPer s) (allHarts s) = false →
      ∃ t, exec (.exit f) s = .next t ∧ (∀ id ∈ allHarts s, (hartOf t id).run = .exited) ∧ SameRegisters s t ∧
        ((∀ b, b < 8 → bankId (curPer s) b ∉ allHarts s → (hartOf s (bankId (curPer s) b)).live = false) →
          (perOf t (curPer s)).step = none) ∧
        ∀ id, performers s = [id] → ∃ u, t = endBanks u (curPer s) ((allHarts s).map bankOfHart) ∧ ExitDecrements f s u id) ∧
    (curKind s = some .docent → orderedAll s (leadHart s) = true → (hartOf s (leadHart s)).refused = 0 →
      (∀ v ∈ successors f (hartOf s (leadHart s)), v.toNat % 256 = 0 ∧ blockPoison s (hartCtx s (leadHart s)) v = none) →
      ∃ t, exec (.exit f) s = .next t ∧ ctl t = nextPlace s ∧ SameRegisters s t ∧ ∃ u, t = advance u ∧
        ∀ v, successors f (hartOf s (leadHart s)) = [v] → Decremented s u (hartCtx s (leadHart s)) v)

/-- YIELD is a pre-emption point on a compute hart and BYIELD on a bank; GETPG loads a word of the table. YIELD, admitted: a compute hart
stands after it at a pre-emption point, a docent after it, a gang does BYIELD, a split bank stands at the rendezvous. GETPG, admitted,
with a process-group table: on a compute or docent hart whose word's address resolves to memory (an X-hart reaches no A-store, R86),
stream 0 acknowledged, no poison or frame in use there, x[D] is the 8 bytes at table + 64 * axis + 8 * item and nothing else changes but A
bits; on banks whose row transfer port reads the word through a held translation, x[D] of every performing bank is that word. -/
def Obligations.YieldAndProcessGroups : Prop :=
  (∀ (f : FmtR) (s : State), admitted (.yield f) s = true →
    ((curKind s = some .aHart ∨ curKind s = some .xHart) → ∃ t, exec (.yield f) s = .next t ∧ ctl t = nextPlace s ∧
      (hartOf t (leadHart s)).atYield = true ∧ SameRegisters s t ∧ SameMemory s t ∧ { t with harts := s.harts } = s) ∧
    (curKind s = some .docent → exec (.yield f) s = .next (advance s)) ∧
    (inGang s = true → exec (.yield f) s = .next (yieldPergola (advance s) (curPer s))) ∧
    (curKind s = some .bank → inGang s = false →
      exec (.yield f) s = .next (modHarts s (allHarts s) fun h => { h with run := .atGang }))) ∧
  (∀ (f : FmtR) (s : State) (p : Place) (l : List Resolved), admitted (.getpg f) s = true → curKind s ≠ some .bank →
    tablePointer s (leadHart s) ≠ 0 → acknowledgedOn s (leadHart s) (· == 0) = true →
    resolve s (hartCtx s (leadHart s)) { loadReq 8 with astore := curKind s != some .xHart }
      (tablePointer s (leadHart s) + BitVec.ofNat 64 (64 * (f.a.bits.toNat % 8) + 8 * (f.b.bits.toNat % 8))) = .ok (p, l) →
    plainPlace (commitAll s l) p 8 = true →
    ∃ t, exec (.getpg f) s = .next t ∧ ctl t = nextPlace s ∧
      (hartOf t (leadHart s)).get f.d.num.toNat =
        (if f.d.num.toNat = 0 then 0 else BitVec.ofNat 64 (leNat (readPlace (commitAll s l) p 8))) ∧
      AccessFrame s t [leadHart s] f.d.num.toNat ∧ SameNflags s t ∧ SameStores s t ∧ OnlyBytes s t l 0 0) ∧
  (∀ (f : FmtR) (s : State) (pa : Nat) (l : List Resolved), admitted (.getpg f) s = true → curKind s = some .bank →
    (∀ id ∈ performers s, portWord s f id = .ok (.phys pa, l)) → (∀ r ∈ l, r.entryAt = none ∧ r.tlb = none) →
    plainPlace s (.phys pa) 8 = true →
    ∃ t, exec (.getpg f) s = .next t ∧ ctl t = nextPlace s ∧ SameMemory s t ∧
      (∀ id ∈ performers s, (hartOf t id).get f.d.num.toNat = if f.d.num.toNat = 0 then 0 else BitVec.ofNat 64 (readNat s pa 8)) ∧
      (∀ id n, ¬(id ∈ performers s ∧ n = f.d.num.toNat) → (hartOf t id).get n = (hartOf s id).get n))

/-- CPY, CPYW, TFETCH, PREFB, TIERMV, MLD, MST: checked at issue, then in flight with one more on the token. Admitted, not a follow-on
copy unless said, ranges permitted, destination handle open, engineReady. CPY and CPYW of x[B+1] = n linear bytes to x[A] from x[B], PREFB
of x[B] bytes, TIERMV of aligned x[B+1] bytes, TFETCH of a map whose tile name is not LOADING or still to be read: the command is in
flight with the words it named, its token counts one more, no register changes, the hart goes on, and its first line is performed at once;
for 0 bytes it only goes on. A CPY with a follow-on also makes the follow-on's slot not FULL on every core that it writes and goes on
after both words. MLD and MST of a slot that is ready: in flight, for MLD the slot is not FULL. That the first line moves at issue is the
model's choice (logs 5 and 7). -/
def Obligations.EngineCommandsIssue : Prop :=
  (∀ (f : FmtE) (s : State) (i : Instr) (a : RangeMap), (i = .cpy f ∨ i = .cpyw f) → admitted i s = true → f.foll = false → f.b.num ≠ 63 →
    let n := (hartOf s (leadHart s)).get (f.b.num.toNat + 1)
    let ops := [xRead s f.a, xRead s f.b, n]
    let c := issueCtx s i ops (f.d.num.toNat % 32) 1
    n.toNat < 2 ^ 32 → resolveRange s c { rd := true, handle := .published, peer := decide (i = .cpy f) } (xRead s f.b) n.toNat = .ok a →
    (i = .cpyw f → (xRead s f.a).toNat < 2 ^ 21 ∧ (xRead s f.a).toNat + n.toNat ≤ 2 ^ 21) →
    (i = .cpy f → (∃ d, resolveRange s c { wr := true, handle := .hidden } (xRead s f.a) n.toNat = .ok d) ∧
      (n ≠ 0 → handleOpen s c (xRead s f.a) = .ok ())) →
    engineReady s f.strm.toNat (f.d.num.toNat % 32) = true →
    (n ≠ 0 → CommandIssued i s (f.d.num.toNat % 32) ops 8 fun _ _ => True) ∧
    (n = 0 → exec i s = .next (advance s))) ∧
  (∀ (f : FmtE) (s : State) (j : Instr) (a d : RangeMap), admitted (.cpy f) s = true → f.foll = true → f.b.num ≠ 63 →
    followInstr (.cpy f) s = .ok (some j) →
    let n := (hartOf s (leadHart s)).get (f.b.num.toNat + 1)
    let ops := [xRead s f.a, xRead s f.b, n]
    let c := issueCtx s (.cpy f) ops (f.d.num.toNat % 32) 1
    let e0 := { newEngine s (.cpy f) ops (f.d.num.toNat % 32) 1 with finstr := instrWord j, fops := followOps s j, fpend := true }
    n.toNat < 2 ^ 32 → n ≠ 0 → resolveRange s c { rd := true, handle := .published } (xRead s f.b) n.toNat = .ok a →
    resolveRange s c { wr := true, handle := .hidden } (xRead s f.a) n.toNat = .ok d → handleOpen s c (xRead s f.a) = .ok () →
    engineReady s f.strm.toNat (f.d.num.toNat % 32) = true →
    (∀ c ∈ followCores e0 (curCore s), slotFree s c (followSlot e0) (hartOf s (leadHart s)).context true = true ∧
      ownsSlot s c (followSlot e0) (hartOf s (leadHart s)).context = true) →
    CommandIssued (.cpy f) s (f.d.num.toNat % 32) ops 16 fun u e =>
      e.finstr = instrWord j ∧ e.fops = followOps s j ∧ e.fpend = true ∧
        ∀ c ∈ followCores e0 (curCore s), (slotOf u c (followSlot e0)).full = false) ∧
  (∀ (f : FmtE) (s : State) (r : State × List Resolved × (Nat × List Nat)), admitted (.tfetch f) s = true → (xRead s f.a).toNat < 16 →
    mapIssue (.tfetch f) s (newEngine s (.tfetch f) [xRead s f.a, xRead s f.b, 0] (f.d.num.toNat % 32) 2) = .ok r →
    engineReady s f.strm.toNat (f.d.num.toNat % 32) = true →
    ((coreOf s (curCore s)).tiles.get {} (xRead s f.a).toNat).st ≠ .loading → tileRead (coreOf s (curCore s)) (xRead s f.a).toNat = false →
    CommandIssued (.tfetch f) s (f.d.num.toNat % 32) [xRead s f.a, xRead s f.b, 0] 8 fun t _ =>
      (coreOf t (curCore s)).tiles.get {} (xRead s f.a).toNat = { st := .loading, map := xRead s f.b, token := f.d.num.toNat % 32 }) ∧
  (∀ (f : FmtE) (s : State) (m : RangeMap), admitted (.prefb f) s = true → (xRead s f.b).toNat ≤ 2 ^ 32 →
    resolveRange s (issueCtx s (.prefb f) [xRead s f.a, xRead s f.b, 0] (f.d.num.toNat % 32) 1)
      { rd := true, handle := .published, peer := false } (xRead s f.a) (xRead s f.b).toNat = .ok m →
    engineReady s f.strm.toNat (f.d.num.toNat % 32) = true →
    (xRead s f.b ≠ 0 → CommandIssued (.prefb f) s (f.d.num.toNat % 32) [xRead s f.a, xRead s f.b, 0] 8 fun _ _ => True) ∧
    (xRead s f.b = 0 → exec (.prefb f) s = .next (advance s))) ∧
  (∀ (f : FmtE) (s : State) (a d : RangeMap), admitted (.tiermv f) s = true → f.b.num ≠ 63 →
    let n := (hartOf s (leadHart s)).get (f.b.num.toNat + 1)
    let ops := [xRead s f.a, xRead s f.b, n]
    let c := issueCtx s (.tiermv f) ops (f.d.num.toNat % 32) 1
    n.toNat % 4096 = 0 →
    resolveRange s c { wr := true, handle := .hidden, peer := false, align := 4096 } (xRead s f.a) n.toNat = .ok d →
    resolveRange s c { rd := true, handle := .published, peer := false, align := 4096 } (xRead s f.b) n.toNat = .ok a →
    tierPlaces s d (xRead s f.a) = .ok () → tierPlaces s a (xRead s f.b) = .ok () →
    (n ≠ 0 → handleOpen s c (xRead s f.a) = .ok ()) → engineReady s f.strm.toNat (f.d.num.toNat % 32) = true →
    (n ≠ 0 → CommandIssued (.tiermv f) s (f.d.num.toNat % 32) ops 8 fun _ _ => True) ∧
    (n = 0 → exec (.tiermv f) s = .next (advance s))) ∧
  (∀ (f : FmtX) (s : State) (i : Instr) (load : Bool) (m : RangeMap), i = (if load then .mld f else .mst f) → admitted i s = true →
    resolveRange s { hartCtx s (leadHart s) with pav := none }
      { rd := load, wr := !load, handle := .none, window := false, align := 128, peer := false } (xRead s f.da) 65536 = .ok m →
    acknowledgedOn s (leadHart s) (· == f.db.num.toNat % 16) = true → inFlight (coreOf s (curCore s)) < 8 →
    slotFree s (curCore s) f.slot.toNat (hartOf s (leadHart s)).context load = true →
    ownsSlot s (curCore s) f.slot.toNat (hartOf s (leadHart s)).context = true →
    let len := (coreOf s (curCore s)).engines.length
    ∃ u e, exec i s = .next (groupArrival u (curCore s) len) ∧ ctl u = nextPlace s ∧ (coreOf u (curCore s)).engines[len]? = some e ∧
      e.instr = instrWord i ∧ e.ops = [xRead s f.da, 0, 0] ∧ (coreOf u (curCore s)).tokens = (coreOf s (curCore s)).tokens ∧
      (load = true → (slotOf u (curCore s) f.slot.toNat).full = false) ∧ SameRegisters s u)

/-- A command moves its bytes line by line, completes, lowers its token; follow-ons issue; TOKWAIT, TFREL end. COPY_GROUP_ARRIVAL for a
linear command in flight whose source chunk lies in one place moves the next chunk: for CPYW into the write buffer, for MLD into the slot,
for TIERMV (and CPY of a chunk that is not the last and does not overlap the source) to the destination, the bytes found at the source,
for MST those of the slot; DONE rises by its length. For TFETCH it puts the next 128 bytes of distinct elements into the tile, with padded
marks; for a mapped copy the last element into its destination word. Positions and sources are those of R328. With every byte moved it
does nothing. ENGINE_COMMAND_COMPLETE removes a moved command: its token falls by one, a TFETCH's tile is STAGED at 0, an MLD's slot is
FULL. FOLLOW_ON_ISSUE does nothing early, makes the slots of a dead step's copy invalid, else issues the product. TOKWAIT, not cancelled,
goes on at count 0, stays at another, traps for a failed follow-on of its token. TFREL empties a tile that is not LOADING and has no
reader left, else stays. The pieces and their order are the model's choice (logs 7, 67), and so is doing nothing early (log 11). -/
def Obligations.EngineCommandsMoveAndComplete : Prop :=
  (∀ (s : State) (core cmd a len : Nat) (e : EngineRec) (l : List Resolved), core < 128 → engineAt s core cmd = some e → e.mapped = false →
    e.moved = false → engineMoves s e = true → len = chunkLen e → linePoison s e len = none → e.buffer = [] →
    enginePlace s e (e.srcBase + BitVec.ofNat 64 e.done) false = .ok (.phys a, l) → len ≤ pieceLeft (e.srcBase + BitVec.ofNat 64 e.done) →
    plainPlace s (.phys a) (chunkSource e) = true →
    let e' := { e with done := e.done + len, buffer := (readBytes s (a + len) (chunkSource e - len)).map some }
    (e.kind = .cpyw → ∃ t, exec (.copyGroupArrival core cmd) s = .next t ∧
      Tbl.getSpan 0 (coreOf t core).wbuf (e.opA.toNat + e.done) len = readBytes s a len ∧
      engineAt t core cmd = some e' ∧ SameMemory s t ∧ SameRegisters s t) ∧
    (∀ (b : Nat) (l' : List Resolved), enginePlace s e (e.opA + BitVec.ofNat 64 e.done) true = .ok (.phys b, l') →
      (e.kind = .tiermv ∨ e.kind = .cpy ∧ e.done + len < e.total ∧ ∀ k, k < len → overlapped (sourceMap s e) (.mem (.phys b)) k = false) →
      landsPlain s b len → ∃ t, exec (.copyGroupArrival core cmd) s = .next t ∧ readBytes t b len = readBytes s a len ∧
        engineAt t core cmd = some e' ∧ SameRegisters s t ∧ SameStores s t ∧ OnlyBytes s t [] b len) ∧
    (e.kind = .mld → e.done + len ≤ 65536 → ∃ t, exec (.copyGroupArrival core cmd) s = .next t ∧ engineAt t core cmd = some e' ∧
      SameMemory s t ∧ SameRegisters s t ∧
      ∀ j, j < 65536 → slotByte t core (bits e.instr.toNat 14 3) j =
        if e.done ≤ j ∧ j < e.done + len then readByte s (a + (j - e.done)) else slotByte s core (bits e.instr.toNat 14 3) j)) ∧
  (∀ (s : State) (core cmd b : Nat) (e : EngineRec) (l : List Resolved), core < 128 → engineAt s core cmd = some e → e.kind = .mst →
    e.moved = false → engineMoves s e = true → enginePlace s e (e.opA + BitVec.ofNat 64 e.done) true = .ok (.phys b, l) →
    landsPlain s b (chunkLen e) →
    ∃ t e', exec (.copyGroupArrival core cmd) s = .next t ∧ engineAt t core cmd = some e' ∧ e'.done = e.done + chunkLen e ∧
      readBytes t b (chunkLen e) =
        leBytes (chunkLen e) ((e.snap.getD (slotOf s core (bits e.instr.toNat 14 3)).words).toNat >>> (8 * e.done)) ∧
      SameRegisters s t ∧ SameStores s t ∧ OnlyBytes s t [] b (chunkLen e)) ∧
  (∀ (s : State) (core cmd : Nat) (e : EngineRec) (m : Nat × List Nat), core < 128 → engineAt s core cmd = some e → e.mapped = true →
    e.tmap = some m → e.moved = false → engineMoves s e = true → e.out = [] →
    (∀ c ∈ e.cached, ∀ a, c.1 = (Place.phys a).key → c.2 = (readBytes s a 8).map some) →
    let n := min (128 / tmEsize m.1) (tmCount m.1 - e.done)
    let off (k : Nat) := (tmPos m.1 m.2 k).2
    (e.kind = .tfetch → (∀ k, e.done ≤ k → k < e.done + n → (elementOf s e m k).isSome = true) →
      (∀ j k, e.done ≤ j → j < k → k < e.done + n → off j + tmEsize m.1 ≤ off k ∨ off k + tmEsize m.1 ≤ off j) →
      ∃ t e', exec (.copyGroupArrival core cmd) s = .next t ∧ engineAt t core cmd = some e' ∧ e'.done = e.done + n ∧ SameMemory s t ∧
        SameRegisters s t ∧ ∀ k x, e.done ≤ k → k < e.done + n → elementOf s e m k = some x →
          e'.tile.bytes.getSpan 0 (off k) (tmEsize m.1) = x.1 ∧
          e'.tile.pad.getSpan false (off k) (tmEsize m.1) = List.replicate (tmEsize m.1) x.2) ∧
    (∀ x, e.done + 1 = tmCount m.1 → elementOf s e m e.done = some x → (e.opA.toNat + off e.done) % 8 + tmEsize m.1 ≤ 8 →
      (e.kind = .cpyw → ∃ t, exec (.copyGroupArrival core cmd) s = .next t ∧ SameMemory s t ∧ SameRegisters s t ∧
        Tbl.getSpan 0 (coreOf t core).wbuf (e.opA.toNat + off e.done) (tmEsize m.1) = x.1) ∧
      (e.kind = .cpy → ∀ b, landsPlain s b (tmEsize m.1) →
        (∀ j, j < tmEsize m.1 → ∃ l, enginePlace s e (e.opA + BitVec.ofNat 64 (off e.done + j)) true = .ok (.phys (b + j), l)) →
        ∃ t, exec (.copyGroupArrival core cmd) s = .next t ∧ readBytes t b (tmEsize m.1) = x.1 ∧ SameRegisters s t ∧ SameStores s t ∧
          OnlyBytes s t [] b (tmEsize m.1)))) ∧
  (∀ (m b0 b1 b2 b3 : Nat) (idx : List Nat), b0 < tmBox m 0 → b1 < tmBox m 1 →
    let row (r c : Nat) := r * tmDpitch m + c * tmEsize m
    (tmKind m = 0 → b2 < tmBox m 2 → b3 < tmBox m 3 →
      tmPos m idx (b0 + tmBox m 0 * (b1 + tmBox m 1 * (b2 + tmBox m 2 * b3))) =
        (sourceOf m (tmOrigin m 0 + b0) (tmOrigin m 1 + b1) (tmOrigin m 2 + b2) (tmOrigin m 3 + b3),
         if tmTrans m then row b0 b1 else row (b1 + tmBox m 1 * (b2 + tmBox m 2 * b3)) b0)) ∧
    (tmKind m = 2 → tmPos m idx (b0 + tmBox m 0 * b1) =
      (sourceOf m (tmOrigin m 0 + b0) (idx.getD b1 0) (tmOrigin m 2) (tmOrigin m 3), row b1 b0)) ∧
    (∀ c w h, tmKind m = 1 → c < tmSize m 0 → w < tmFw m → h < tmFh m → tmBox m 0 = tmSize m 0 * tmFw m * tmFh m →
      let p := bits m 544 32 + b1
      tmPos m idx (c + tmSize m 0 * (w + tmFw m * h) + tmBox m 0 * b1) =
        (sourceOf m c (((p % tmOw m : Nat) : Int) * tmSw m - tmPw m + w) (((p / tmOw m : Nat) : Int) * tmSh m - tmPh m + h) (tmOrigin m 3),
         row b1 (c + tmSize m 0 * (w + tmFw m * h))))) ∧
  (∀ (s : State) (core cmd : Nat) (e : EngineRec), core < 128 → engineAt s core cmd = some e →
    (e.moved = true ∧ e.out = [] ∨ engineMoves s e = false → exec (.copyGroupArrival core cmd) s = .next s) ∧
    (e.moved = false ∨ engineMoves s e = false → exec (.engineCommandComplete core cmd) s = .next s ∧
      exec (.followOnIssue core cmd) s = .next s) ∧
    (e.moved = true → e.out = [] → e.fpend = false → e.finstr = 0 → linesOut s e = false → engineMoves s e = true → Tbl.rising s.cores = true →
      whereStep s e.info = .core core → (coreOf s core).phase ≠ .resuming → (e.kind = .tfetch ∨ e.kind = .cpy ∨ e.kind = .cpyw ∨ e.kind = .prefb ∨ e.kind = .tiermv) → engineDead s e = false →
      ∃ t, exec (.engineCommandComplete core cmd) s = .next t ∧ (coreOf t core).engines = (coreOf s core).engines.eraseIdx cmd ∧
        (coreOf t core).tokens.get 0 e.token = (coreOf s core).tokens.get 0 e.token - 1 ∧
        (∀ n, n ≠ e.token → (coreOf t core).tokens.get 0 n = (coreOf s core).tokens.get 0 n) ∧ SameRegisters s t ∧
        (e.kind = .tfetch → (coreOf s core).tokens.get 0 e.token = 1 → (coreOf t core).tiles.get {} (e.opA.toNat % 16) =
          { e.tile with st := .staged, map := e.opB, token := e.token, ready := true })) ∧
    (e.moved = true → e.out = [] → e.fpend = false → e.finstr = 0 → linesOut s e = false → engineMoves s e = true → (e.kind = .mld ∨ e.kind = .mst) →
      ∃ t, exec (.engineCommandComplete core cmd) s = .next t ∧ (coreOf t core).engines = (coreOf s core).engines.eraseIdx cmd ∧
        (coreOf t core).tokens = (coreOf s core).tokens ∧ SameRegisters s t ∧
        (e.kind = .mld → (slotOf t core (bits e.instr.toNat 14 3)).full = true)) ∧
    (e.moved = true → e.out = [] → e.fpend = true → linesOut s e = false → engineMoves s e = true → engineDead s e = true →
      ∃ t, exec (.followOnIssue core cmd) s = .next t ∧ engineAt t core cmd = some { e with fpend := false } ∧
        ∀ c ∈ followCores e core, slotOf t c (followSlot e) = (slotOf s c (followSlot e)).invalid) ∧
    (∀ (p : Prod) (r : Unit), e.moved = true → e.out = [] → e.fpend = true → linesOut s e = false → engineMoves s e = true → engineDead s e = false →
      followProd e = some p → (∀ w ∈ (coreOf s core).matrix, caughtFollow e w = false) →
      (∀ x ∈ p.targets core, ownsSlot s x.1 p.slot e.info.context = true) →
      (p.staged = true → ((coreOf s core).tiles.get {} p.bOff).st ≠ .loading) → p.check s core e.finstr = .ok r →
      let s' := modCore s core fun k => { k with matrix := k.matrix.filter fun w => !caughtFollow e w }
      exec (.followOnIssue core cmd) s =
        .next (modEngine (runProduct s' core p 0 { e with fpend := false } true) core cmd fun _ => { e with fpend := false }))) ∧
  (∀ (f : FmtE) (s : State), admitted (.tokwait f) s = true → cancelled s = false →
    ((coreOf s (curCore s)).tokens.get 0 f.d.num.toNat = 0 → (∀ w ∈ (coreOf s (curCore s)).follow, w.token ≠ f.d.num.toNat) →
      exec (.tokwait f) s = .next (advance s)) ∧
    ((coreOf s (curCore s)).tokens.get 0 f.d.num.toNat ≠ 0 → StaysHere (.tokwait f) s) ∧
    (∀ (w : FollowFail) (l : List FollowFail), (coreOf s (curCore s)).tokens.get 0 f.d.num.toNat = 0 →
      (coreOf s (curCore s)).follow = w :: l → w.token = f.d.num.toNat → w.code ≠ Cause.ue →
      exec (.tokwait f) s = .next (takeTrap (modCore s (curCore s) fun c => { c with follow := l }) (curPc s) w.code w.info false false))) ∧
  (∀ (f : FmtE) (s : State), admitted (.tfrel f) s = true → (xRead s f.a).toNat < 16 →
    let busy := ((coreOf s (curCore s)).tiles.get {} (xRead s f.a).toNat).st = .loading ∨
      tileRead (coreOf s (curCore s)) (xRead s f.a).toNat = true
    (¬busy → ∃ t, exec (.tfrel f) s = .next t ∧ ctl t = nextPlace s ∧ CoreFrame s t (curCore s) ∧ SameRegisters s t ∧
      coreOf t (curCore s) = { coreOf s (curCore s) with tiles := (coreOf s (curCore s)).tiles.set {} (xRead s f.a).toNat {} }) ∧
    (busy → cancelled s = false → StaysHere (.tfrel f) s))

/-- SHADOW opens a handle's hidden side; PUBLISH swaps the sides in one step, or raises PUBLISH. Admitted, the handle number in x[A]
naming a valid entry h at pa, readable and writable. SHADOW, its stream free: with OPEN = 0 the entry's first doubleword reads PUBS, OPEN
= 1, STALE = 0, SIDE and V as they were; with OPEN = 1 nothing of the entry changes. PUBLISH with OPEN = 1, STALE = 0, no command in
flight that writes the hidden side, every earlier access performed: SIDE inverted, OPEN = 0, PUBS + 1 modulo 256; with OPEN = 0 or STALE =
1 it raises PUBLISH with the number; with such a command in flight it stays. PUBLISH_SWAP does a waiting PUBLISH of its handle. Nothing
else changes but A and D bits. -/
def Obligations.HandlesShadowAndPublish : Prop :=
  (∀ (f : FmtE) (s : State) (h : Handle) (pa : Nat) (l : Resolved), handleWrite s (xRead s f.a) = .ok (h, pa, l) →
    (admitted (.shadow f) s = true → acknowledgedOn s (leadHart s) (· == f.strm.toNat) = true →
      ∃ t, exec (.shadow f) s = .next t ∧ ctl t = nextPlace s ∧
        (h.opened = false → readNat t pa 8 = h.pubs * 256 + 8 + (if h.side then 4 else 0) + 1 ∧ RecordFrame s t [] 0 [l] pa 8) ∧
        (h.opened = true → RecordFrame s t [] 0 [l] pa 0)) ∧
    (admitted (.publish f) s = true → h.opened = true → h.stale = false →
      (∀ c ∈ s.cores, ∀ e ∈ c.2.engines, writesHandle s pa e = false) → orderedAll s (leadHart s) = true →
      ∃ t, exec (.publish f) s = .next t ∧ ctl t = nextPlace s ∧
        readNat t pa 8 = ((h.pubs + 1) % 256) * 256 + (if h.side then 0 else 4) + 1 ∧ RecordFrame s t [] 0 [l] pa 8) ∧
    (admitted (.publish f) s = true → cancelled s = false → (h.opened = false ∨ h.stale = true) →
      exec (.publish f) s = .next (takeTrap s (curPc s) Cause.publish (xRead s f.a) false false)) ∧
    (admitted (.publish f) s = true → cancelled s = false → h.opened = true → h.stale = false →
      (∃ c ∈ s.cores, ∃ e ∈ c.2.engines, writesHandle s pa e = true) → StaysHere (.publish f) s)) ∧
  (∀ (f : FmtE) (s u : State) (id : Nat), id < 256 → s.cur = .hart id → (hartOf s id).run = .running → (hartOf s id).parked = true →
    standsAt s id = some (.publish f) → publish f s = .ok u →
    exec (.publishSwap id (xRead s f.a)) s = .next (modHart u id fun h => { h with parked := false }))

/-- CATALLOC, CATMAP, CATSHARE and CATFREE map names to blocks and keep their counts, FREE and MAPPED. Admitted, with a readable
descriptor of a Catalogue k, name below 2^60, every earlier access performed. CATALLOC of an unmapped name within 3/4 of the table and a
free block: the name has that block, its count was 0 and is 1, x[D] its location. CATMAP of a mapped name whose block needs no copy: x[D]
is the location, the Catalogue as it was; .w of a shared block of an ordinary pool: the name has a new block with count 1, the old count
is one less, and the new block's 8 KiB are those of the old (where both lie in plain memory apart from each other, the descriptor and the
tables). CATSHARE over mapped sources and unmapped targets within the counts: every target has its source's block, and each block's count
is more by the sources that name it. CATFREE: the name is unmapped, the count one less. Other names keep their blocks, other blocks their
counts; MAPPED reads the number of names and FREE that of blocks with count 0. An unmapped name of CATMAP or CATFREE raises CATALOGUE. The
form of the tables, which free block is taken, and TRAPINFO are the model's choice (log 12). -/
def Obligations.CatalogueMapsAndCounts : Prop :=
  ∀ (f : FmtE) (s : State) (d : CatDesc) (l : List Resolved), catDesc s (xRead s f.a) = .ok (d, l) → (xRead s f.a).toNat < 2 ^ 60 →
    orderedAll s (leadHart s) = true →
    let k := catOf s d
    let name := (xRead s f.a).toNat
    (∀ (b : Nat) (u : State) (loc : Word) (m : List Resolved), admitted (.catalloc f) s = true → k.find name = none →
      4 * (k.names.length + 1) ≤ 3 * 2 ^ d.mapLog → takeBlock? s d k = some (b, u) → catLocation u d (xRead s f.a) b = .ok (loc, m) →
      ∃ t, exec (.catalloc f) s = .next t ∧ ctl t = nextPlace s ∧ k.count b = 0 ∧ (catHeld t d).find name = some b ∧ (catHeld t d).count b = 1 ∧
        (∀ n, n ≠ name → (catHeld t d).find n = k.find n) ∧ (∀ c, c ≠ b → (catHeld t d).count c = k.count c) ∧
        readNat t (d.pa + 4) 4 = (k.names.length + 1) % 2 ^ 32 ∧ CatCounts t d ∧
        (hartOf t (leadHart s)).get f.d.num.toNat = (if f.d.num.toNat = 0 then 0 else loc) ∧
        (∀ id n, ¬(id = leadHart s ∧ n = f.d.num.toNat) → (hartOf t id).get n = (hartOf s id).get n)) ∧
    (∀ (b : Nat) (loc : Word) (m : List Resolved), admitted (.catmap f) s = true → k.find name = some b →
      (f.b.bits.getLsbD 0 = false ∨ k.count b ≤ 1) → catLocation s d (xRead s f.a) b = .ok (loc, m) →
      ∃ t, exec (.catmap f) s = .next t ∧ ctl t = nextPlace s ∧ t.catalogues = s.catalogues ∧
        (hartOf t (leadHart s)).get f.d.num.toNat = (if f.d.num.toNat = 0 then 0 else loc) ∧
        (∀ id n, ¬(id = leadHart s ∧ n = f.d.num.toNat) → (hartOf t id).get n = (hartOf s id).get n) ∧ OnlyBytes s t (l ++ m) 0 0) ∧
    (∀ (b new : Nat) (u : State) (q : Catalogue) (loc : Word) (m : List Resolved), admitted (.catmap f) s = true → k.find name = some b →
      f.b.bits.getLsbD 0 = true → 1 < k.count b → d.row = false → catCopy s d (xRead s f.a) k b = .ok (new, u, q) →
      catLocation u d (xRead s f.a) new = .ok (loc, m) → u.cur = s.cur → ctl u = ctl s →
      ∃ t, exec (.catmap f) s = .next t ∧ ctl t = nextPlace s ∧ (catHeld t d).find name = some new ∧ (catHeld t d).count new = 1 ∧
        (catHeld t d).count b = k.count b - 1 ∧ (∀ n, n ≠ name → (catHeld t d).find n = k.find n) ∧
        (∀ c, c ≠ b → c ≠ new → (catHeld t d).count c = k.count c) ∧ CatCounts t d ∧
        (hartOf t (leadHart s)).get f.d.num.toNat = (if f.d.num.toNat = 0 then 0 else loc) ∧
        (∀ id n, ¬(id = leadHart s ∧ n = f.d.num.toNat) → (hartOf t id).get n = (hartOf s id).get n) ∧
        (let s1 := { s with freeCount := s.freeCount + 1 }
         let c := hartCtx s (leadHart s)
         ∀ x y lx ly,
           resolveRange s1 c { rd := true, peer := false } (BitVec.ofNat 64 (d.pool + 8192 * b)) 8192 = .ok { pieces := [(.phys x, 8192)], commits := lx } →
           resolveRange s1 c { wr := true, peer := false } (BitVec.ofNat 64 (d.pool + 8192 * new)) 8192 = .ok { pieces := [(.phys y, 8192)], commits := ly } →
           plainPlace s (.phys x) 8192 = true → plainPlace s (.phys y) 8192 = true → overlaps x 8192 y 8192 = false → overlaps d.pa 64 y 8192 = false →
           (∀ z ∈ tableBytes (l ++ lx ++ ly), overlaps z 1 x 8192 = false ∧ overlaps z 1 y 8192 = false) →
           readBytes t y 8192 = readBytes s x 8192)) ∧
    (let tgt := xRead s f.b
     let n := tgt.toNat % 2 ^ 17
     admitted (.catshare f) s = true → bits tgt.toNat 17 15 = 0 → n ≠ 0 → name % 65536 + n ≤ 65536 →
     (∀ i, i < n → ∃ b, k.find (catNames (xRead s f.a) tgt i).1 = some b ∧ k.count b + n ≤ 65535) →
     (∀ i, i < n → k.find (catNames (xRead s f.a) tgt i).2 = none) →
     ∃ t, exec (.catshare f) s = .next t ∧ ctl t = nextPlace s ∧ SameRegisters s t ∧
       (∀ i, i < n → (catHeld t d).find (catNames (xRead s f.a) tgt i).2 = k.find (catNames (xRead s f.a) tgt i).1) ∧
       (∀ m, (∀ i, i < n → m ≠ (catNames (xRead s f.a) tgt i).2) → (catHeld t d).find m = k.find m) ∧
       (∀ b, (catHeld t d).count b = k.count b + ((List.range n).filter fun i => k.find (catNames (xRead s f.a) tgt i).1 == some b).length) ∧
       CatCounts t d) ∧
    (∀ (b : Nat), admitted (.catfree f) s = true → k.find name = some b →
      ∃ t, exec (.catfree f) s = .next t ∧ ctl t = nextPlace s ∧ (catHeld t d).find name = none ∧ (catHeld t d).count b = k.count b - 1 ∧
        (∀ n, n ≠ name → (catHeld t d).find n = k.find n) ∧ (∀ c, c ≠ b → (catHeld t d).count c = k.count c) ∧ CatCounts t d ∧
        SameRegisters s t) ∧
    (∀ i, (i = .catmap f ∨ i = .catfree f) → admitted i s = true → cancelled s = false → k.find name = none →
      exec i s = .next (takeTrap s (curPc s) Cause.catalogue (xRead s f.a) false false))

/-- ACT, PRE, WB, WBPRE, REF, REFQ, RCOPY: what each leaves of registers, cells and refresh debt. Admitted, no fault of R239 in a
performing bank. ACT, its next bank or pair (before the first, every bank) closed, R232 and the arbiter permitting: od of its banks is
OPENING with that row, DIRTY and RESTORED 0, holding the cells (where none is uncorrectable); the gang goes on after its last bank, else
stands. PRE of settled registers: od CLOSED, cells as they were. WB and WBPRE of an open, restored, unpoisoned register that its pair can
settle: a write-back of tWB = 12 rc begins. REF of a CLOSED SAG: debt one less, not below 0, 90 rc taken, the next six rows (the pointer
is the model's choice, log 42). REFQ: bits 4n+3:4n of x[SA] are the debt of SAG n. RCOPY: od has oa's bytes and poison and is BUSY. Every
other row register, latch, scalar register and byte of memory stands; of ACT and a DUAL write-back the layer's arbiter and the error log
may change. -/
def Obligations.RowsOpenCloseAndRefresh : Prop :=
  (∀ (f : FmtW) (s : State) (b : Nat), admitted (.act f) s = true → (actOrder s)[(perOf s (curPer s)).actDone]? = some b →
    ((perOf s (curPer s)).actDone = 0 → ∀ c ∈ rowBanks s, actCheck s (curPer s) f c = none ∧
      (regOf s (curPer s) c f.od.toNat).st = .closed ∧ actReady s (curPer s) c f.od.toNat = true) →
    (∀ c ∈ actGroup s (curPer s) b, actReady s (curPer s) c f.od.toNat = true ∧ (regOf s (curPer s) c f.od.toNat).st = .closed) →
    arbiterFree s (curPer s) b (actGroup s (curPer s) b).length = true →
    ∃ t, exec (.act f) s = .next t ∧
      (if (perOf s (curPer s)).actDone + 1 < (actOrder s).length then
        ctl t = ctl s ∧ (perOf t (curPer s)).actDone = (perOf s (curPer s)).actDone + 1
       else ctl t = nextPlace s ∧ (perOf t (curPer s)).actDone = 0) ∧
      RowFrame s t ∧ (∀ c n, ¬(c ∈ actGroup s (curPer s) b ∧ n = f.od.toNat) → regOf t (curPer s) c n = regOf s (curPer s) c n) ∧
      ∀ c ∈ actGroup s (curPer s) b,
        let r := (actRow s (curPer s) c f).toNat % 2 ^ 13
        let q := regOf t (curPer s) c f.od.toNat
        q.st = .opening ∧ q.row.toNat = r / 8 ∧ q.dirty = false ∧ q.restored = false ∧ q.actAt = rcOf s (curPer s) ∧
        ((s.upsets.get [] (rowCoord (curPer s) c r)).headD 0 = 0 →
          q.data = BitVec.ofNat 65536 (readNat s (rowAddr (rowCoord (curPer s) c r)) 8192) ∧
          q.poison = cellPoison s (rowCoord (curPer s) c r))) ∧
  (∀ (f : FmtW) (s : State), admitted (.pre f) s = true →
    (∀ b ∈ rowBanks s, preReady s (curPer s) b f.od.toNat = true ∧ ((bankOf s (curPer s) b).sag f.od.toNat).forced = false) →
    ∃ t, exec (.pre f) s = .next t ∧ ctl t = nextPlace s ∧ RowFrame s t ∧
      (∀ b ∈ rowBanks s, (regOf t (curPer s) b f.od.toNat).st = .closed) ∧
      ∀ b n, ¬(b ∈ rowBanks s ∧ n = f.od.toNat) → regOf t (curPer s) b n = regOf s (curPer s) b n) ∧
  (∀ (i : Instr) (f : FmtW) (s : State) (close : Bool), i = (if close then .wbpre f else .wb f) → admitted i s = true →
    (∀ b ∈ rowBanks s, wbReady s (curPer s) b f.od.toNat = true ∧ leaveFault s (curPer s) b f.od.toNat = none ∧
      ((bankOf s (curPer s) b).sag f.od.toNat).forced = false) →
    ∃ t, exec i s = .next t ∧ ctl t = nextPlace s ∧ RowFrame s t ∧
      (∀ b ∈ rowBanks s, (regOf t (curPer s) b f.od.toNat).wbEnd = some (rcOf s (curPer s) + 12, close) ∧
        ((perOf s (curPer s)).dual = false → (regOf t (curPer s) b f.od.toNat).data = (regOf s (curPer s) b f.od.toNat).data)) ∧
      ((perOf s (curPer s)).dual = false →
        ∀ b n, ¬(b ∈ rowBanks s ∧ n = f.od.toNat) → regOf t (curPer s) b n = regOf s (curPer s) b n)) ∧
  (∀ (f : FmtW) (s : State), admitted (.ref f) s = true →
    (∀ b ∈ rowBanks s, (regOf s (curPer s) b f.od.toNat).st = .closed ∧ ((bankOf s (curPer s) b).sag f.od.toNat).forced = false ∧
      ((bankOf s (curPer s) b).sag f.od.toNat).preEnd ≤ rcOf s (curPer s) ∧
      ((bankOf s (curPer s) b).sag f.od.toNat).refEnd ≤ rcOf s (curPer s)) →
    ∃ t, exec (.ref f) s = .next t ∧ ctl t = nextPlace s ∧ RowFrame s t ∧
      (∀ b n, regOf t (curPer s) b n = regOf s (curPer s) b n) ∧
      (∀ b n, ¬(b ∈ rowBanks s ∧ n = f.od.toNat) → (bankOf t (curPer s) b).sag n = (bankOf s (curPer s) b).sag n) ∧
      ∀ b ∈ rowBanks s,
        let x := (bankOf s (curPer s) b).sag f.od.toNat
        let y := (bankOf t (curPer s) b).sag f.od.toNat
        y.debt = x.debt - 1 ∧ y.refEnd = rcOf s (curPer s) + 90 ∧ y.nextRow = (x.nextRow + 6) % 768) ∧
  (∀ (f : FmtW) (s : State), admitted (.refq f) s = true →
    ∃ t, exec (.refq f) s = .next t ∧ ctl t = nextPlace s ∧ RegisterFrame s t (performers s) f.sa.num.toNat ∧
      ∀ id ∈ performers s, f.sa.num.toNat ≠ 0 → ((hartOf t id).get f.sa.num.toNat).toNat < 2 ^ 32 ∧
        ∀ n, n < 8 → ((hartOf t id).get f.sa.num.toNat).toNat / 16 ^ n % 16 =
          ((bankOf s (perOfHart id) (bankOfHart id)).sag n).debt % 16) ∧
  (∀ (f : FmtW) (s : State), admitted (.rcopy f) s = true → f.od ≠ f.oa →
    rowReady s (fun b => { oa := some (b, f.oa.toNat), od := some f.od.toNat }) = true →
    ∃ t, exec (.rcopy f) s = .next t ∧ ctl t = nextPlace s ∧ LaneFrame s t [f.od.toNat] ∧ SameLatches s t ∧
      ∀ b ∈ rowBanks s, (regOf t (curPer s) b f.od.toNat).data = (regOf s (curPer s) b f.oa.toNat).data ∧
        (regOf t (curPer s) b f.od.toNat).poison = (regOf s (curPer s) b f.oa.toNat).poison ∧ (regOf t (curPer s) b f.od.toNat).st = .busy)

/-- RADD to RXOR, RSHR, RSCL: every active element of od is the result of R244; a CLOSED register traps. Each of RADD, RSUB, RMUL, RFMA,
RMIN, RMAX, RAND, RBOR, RXOR, RSHR, RSCL, admitted, with its field rules met and its registers ready in every performing bank: exec
answers a next state in which every element of od that takes part is the result of R244 from the elements of oa, ob and the old od, every
other element of od is as it was, and od is BUSY; NFLAGS of the bank has in addition the flags of the unpoisoned elements that take part,
and with XM their mask elements are those of R170, the others as they were; no other row register, no scalar register, no memory, no
latch, no FLAGS.STATE and no other hart's NFLAGS changes. That the result stands in od while it is BUSY is the model's choice (log 36). On
a bank that issues alone, with oa CLOSED, nothing rescued and no forced refresh, it takes ROWCLOSED with oa and the last row. -/
def Obligations.RowArithmeticResults : Prop :=
  (∀ (i : Instr) (f : FmtW) (ob fused : Bool) (op : Hart → Nat → Nat → Nat → Nat → Elem) (s : State), rowTable i = some (f, ob, fused, op) →
    admitted i s = true → (∀ b ∈ rowBanks s, rowFieldsOk i s b f ob = true) → rowReady s (elemUse f ob fused) = true →
    ∃ t, exec i s = .next t ∧ ctl t = nextPlace s ∧ SameLatches s t ∧
      LaneFrame s t (f.od.toNat :: if f.xm then [f.masko.toNat] else []) ∧
      (∀ id, (hartOf t id).flags = (hartOf s id).flags) ∧
      ∀ b ∈ rowBanks s, (regOf t (curPer s) b f.od.toNat).st = .busy ∧
        (let c := (rowEff s (curPer s) f b).code
         let w := codeWidth c
         let old (e : Nat) := rowElem w e (regOf s (curPer s) b f.od.toNat).data
         let res (e : Nat) := op (hartOf s (bankId (curPer s) b)) c (rowElem w e (regOf s (curPer s) b f.oa.toNat).data)
           (rowElem w e (regOf s (curPer s) b (if ob then f.ob.toNat else f.oa.toNat)).data) (old e)
         let clean (e : Nat) := takesPart s (curPer s) b f w e && !(usedPoison s (curPer s) b f ob fused).getLsbD (e * w / 512)
         (∀ e, e < rowMax c → rowElem w e (regOf t (curPer s) b f.od.toNat).data =
            if takesPart s (curPer s) b f w e then (res e).val % 2 ^ w else old e) ∧
         (hartOf t (bankId (curPer s) b)).nflags =
           flagsAfter (hartOf s (bankId (curPer s) b)).nflags (rowMax c) clean (fun e => (res e).fl) ∧
         (f.xm = true → MaskWritten s t (curPer s) b f w (rowMax c) clean (fun e => (res e).fl)))) ∧
  (∀ (i : Instr) (f : FmtW) (ob fused : Bool) (op : Hart → Nat → Nat → Nat → Nat → Elem) (s : State) (g b : Nat),
    rowTable i = some (f, ob, fused, op) → admitted i s = true → s.cur = .bank g b → inGroup s = false → cancelled s = false →
    rowFieldsOk i s b f ob = true → rescuedOf s g ((elemUse f ob fused b).named b) = none →
    unforced s g ((elemUse f ob fused b).named b) = true → (regOf s g b f.oa.toNat).st = .closed →
    exec i s = .next (takeTrap s (curPc s) Cause.rowclosed
      (BitVec.ofNat 64 (f.oa.toNat + 8 * (regOf s g b f.oa.toNat).row.toNat)) false false))

/-- RCMP writes 1 or 0 and FLAGS.STATE, RSEL picks by the mask, RCVT converts a part of the elements. Admitted, field rules met, registers
ready in every performing bank. RCMP, no poisoned element read: every active element of od is 1 or 0 by the comparison IMM6, FLAGS.STATE
of the bank is none, all or some of the active comparisons. RSEL: every element of od is that of oa where bit 0 of MASKO's is 1, else that
of ob. RCVT: the elements of od that are converted and active are the converted elements of oa, every other is as it was. NFLAGS of the
bank has in addition the flags of these comparisons and (unpoisoned) conversions, and with XM their mask elements are those of R170; RSEL
sets none. Other elements, other row registers, scalar registers, latches and memory stand. That results and FLAGS.STATE stand at issue is
the model's choice (log 36). -/
def Obligations.RowComparesSelectsConverts : Prop :=
  (∀ (f : FmtW) (s : State), admitted (.rcmp f) s = true →
    (∀ b ∈ rowBanks s, rowFieldsOk (.rcmp f) s b f true = true ∧ f.imm6.toNat < 6 ∧ rcmpPoison s (curPer s) f b = none) →
    rowReady s (elemUse f true false) = true →
    ∃ t, exec (.rcmp f) s = .next t ∧ ctl t = nextPlace s ∧ SameLatches s t ∧
      LaneFrame s t (f.od.toNat :: if f.xm then [f.masko.toNat] else []) ∧
      ∀ b ∈ rowBanks s,
        let c := (rowEff s (curPer s) f b).code
        let w := codeWidth c
        let cmp := fun e => eCmp c f.imm6.toNat (rowElem w e (regOf s (curPer s) b f.oa.toNat).data)
          (rowElem w e (regOf s (curPer s) b f.ob.toNat).data)
        let holds := fun e => (cmp e).1
        let active := (List.range (rowMax c)).filter (takesPart s (curPer s) b f w)
        (hartOf t (bankId (curPer s) b)).flags = (if active.any holds = false then 0 else if active.all holds = true then 2 else 1) ∧
        (hartOf t (bankId (curPer s) b)).nflags = flagsAfter (hartOf s (bankId (curPer s) b)).nflags (rowMax c)
          (takesPart s (curPer s) b f w) (fun e => (cmp e).2) ∧
        (f.xm = true → MaskWritten s t (curPer s) b f w (rowMax c) (takesPart s (curPer s) b f w) (fun e => (cmp e).2)) ∧
        ∀ e, e < rowMax c → rowElem w e (regOf t (curPer s) b f.od.toNat).data =
          if takesPart s (curPer s) b f w e then (if holds e then 1 else 0) else rowElem w e (regOf s (curPer s) b f.od.toNat).data) ∧
  (∀ (f : FmtW) (s : State), admitted (.rsel f) s = true → (∀ b ∈ rowBanks s, rowPlain (rowEff s (curPer s) f b) = true) →
    rowReady s (fun b => { oa := some (b, f.oa.toNat), ob := some f.ob.toNat, od := some f.od.toNat, mo := some f.masko.toNat,
                           moRead := true }) = true →
    ∃ t, exec (.rsel f) s = .next t ∧ ctl t = nextPlace s ∧ SameLatches s t ∧ LaneFrame s t [f.od.toNat] ∧ SameNflags s t ∧
      (∀ id, (hartOf t id).flags = (hartOf s id).flags) ∧
      ∀ b ∈ rowBanks s, ∀ e, e < rowMax (rowEff s (curPer s) f b).code →
        let w := codeWidth (rowEff s (curPer s) f b).code
        rowElem w e (regOf t (curPer s) b f.od.toNat).data =
          rowElem w e (regOf s (curPer s) b (if rowElem w e (regOf s (curPer s) b f.masko.toNat).data % 2 = 1 then f.oa.toNat
            else f.ob.toNat)).data) ∧
  (∀ (f : FmtW) (s : State), admitted (.rcvt f) s = true →
    (∀ b ∈ rowBanks s, (rowCvtOf s (curPer s) f b).ok = true ∧ maskFree f [f.oa] = true) →
    rowReady s (elemUse f false false) = true →
    ∃ t, exec (.rcvt f) s = .next t ∧ ctl t = nextPlace s ∧ SameLatches s t ∧
      LaneFrame s t (f.od.toNat :: if f.xm then [f.masko.toNat] else []) ∧
      (∀ id, (hartOf t id).flags = (hartOf s id).flags) ∧
      ∀ b ∈ rowBanks s,
        let v := rowCvtOf s (curPer s) f b
        let w := codeWidth v.dst
        let on (e : Nat) := decide (v.dstAt 0 ≤ e) && decide (e < v.dstAt 0 + v.count) && takesPart s (curPer s) b f w e
        let res (e : Nat) := v.elem f (bankOf s (curPer s) b) (e - v.dstAt 0)
          (rowElem (codeWidth v.src) (v.srcAt (e - v.dstAt 0)) (regOf s (curPer s) b f.oa.toNat).data)
        let clean (e : Nat) := on e && !v.poisoned (bankOf s (curPer s) b) (regOf s (curPer s) b f.oa.toNat).poison
          (maskPoison s (curPer s) b f) (e - v.dstAt 0)
        (∀ e, e < rowMax v.dst → rowElem w e (regOf t (curPer s) b f.od.toNat).data =
          if on e then (res e).val % 2 ^ w else rowElem w e (regOf s (curPer s) b f.od.toNat).data) ∧
        (hartOf t (bankId (curPer s) b)).nflags =
          flagsAfter (hartOf s (bankId (curPer s) b)).nflags (rowMax v.dst) clean (fun e => (res e).fl) ∧
        (f.xm = true → MaskWritten s t (curPer s) b f w (rowMax v.dst) clean (fun e => (res e).fl)))

/-- LDLUT, LDSC, LUTDOT, RDOT, RSUM, QCLR, QST, RTOPK: the table, scales, sums and lists they leave. Admitted, field rules met, registers
ready, the latch it reads done, no DUAL lease. LDLUT: the LUT latch is the row. LDSC: entry k of sf is the low 24 bits of word (x[SA] + k
* x[SB]) mod 2048 of the row. LUTDOT: in the direct form the sum of lane i is its old sum plus the table elements of its 64 codes in
order, one FP32 rounding each; in the grouped form ACC, P and J of lane i are those of R250's loop. RDOT, RSUM: each lane (x[SA] + n) mod
256 has the chain of R251 or R252 of segment or column n, from its sum or from +0; other lanes, P and J stand. QCLR: ACC, P, J and poison
of latch q are zero. QST: element 256*IMM6 + i of od is sum i rounded to TYPE. RTOPK: the first IMM6 entries of od are the least of the
list and the candidates. Other latches, the table, the scales, registers and memory stand. That all this stands at issue is the model's
choice (log 36). -/
def Obligations.RowTablesAndAccumulators : Prop :=
  (∀ (f : FmtW) (s : State), admitted (.ldlut f) s = true → rowReady s (fun b => { oa := some (b, f.oa.toNat) }) = true →
    ∃ t, exec (.ldlut f) s = .next t ∧ ctl t = nextPlace s ∧ LaneFrame s t [] ∧
      ∀ b ∈ rowBanks s, (bankOf t (curPer s) b).lut = (regOf s (curPer s) b f.oa.toNat).data ∧
        (bankOf t (curPer s) b).sf = (bankOf s (curPer s) b).sf ∧ (bankOf t (curPer s) b).q = (bankOf s (curPer s) b).q) ∧
  (∀ (f : FmtW) (s : State), admitted (.ldsc f) s = true → rowReady s (fun b => { oa := some (b, f.oa.toNat) }) = true →
    ∃ t, exec (.ldsc f) s = .next t ∧ ctl t = nextPlace s ∧ LaneFrame s t [] ∧
      ∀ b ∈ rowBanks s, (bankOf t (curPer s) b).lut = (bankOf s (curPer s) b).lut ∧ (bankOf t (curPer s) b).q = (bankOf s (curPer s) b).q ∧
        ∀ k, k < 512 → (bankOf t (curPer s) b).scale k =
          rowElem 32 ((((hartOf s (bankId (curPer s) b)).opnd f.sa).toNat + k * ((hartOf s (bankId (curPer s) b)).opnd f.sb).toNat) % 2048)
            (regOf s (curPer s) b f.oa.toNat).data % 2 ^ 24) ∧
  (∀ (f : FmtW) (s : State), admitted (.lutdot f) s = true → (perOf s (curPer s)).dual = false →
    (∀ b ∈ rowBanks s, lutOk s (curPer s) f b = true ∧ latchReady s (curPer s) b f.q.toNat = true) →
    rowReady s (fun b => { oa := some (b, f.oa.toNat) }) = true →
    ∃ t, exec (.lutdot f) s = .next t ∧ ctl t = nextPlace s ∧ LaneFrame s t [] ∧ SameTables s t ∧
      (∀ b q, ¬(b ∈ rowBanks s ∧ q = f.q.toNat) → latchOf t (curPer s) b q = latchOf s (curPer s) b q) ∧
      ∀ b ∈ rowBanks s,
        let k := bankOf s (curPer s) b
        let fmt := (rowEff s (curPer s) f b).code
        let q := latchOf s (curPer s) b f.q.toNat
        let q' := latchOf t (curPer s) b f.q.toNat
        let code (i j : Nat) := rowElem 4 (256 * j + i) (regOf s (curPer s) b f.oa.toNat).data
        q'.doneAt = rcOf s (curPer s) + 70 ∧
        ((fmt = 11 ∨ typeBlk k.rtype = 0) → q'.p = q.p ∧ q'.j = q.j ∧ ∀ i, i < 256 → q'.accs.getD i 0 =
          (List.range 64).foldl (fun a j => (add32 a (if code i j = 0 ∧ fmt = 2 then 0
            else rowElem 32 (16 * (64 * (f.imm6.toNat % 2) + j) + code i j) k.lut)).val) (q.accs.getD i 0) % 2 ^ 32) ∧
        (¬(fmt = 11 ∨ typeBlk k.rtype = 0) → ∀ i, i < 256 →
          let r := lutGrouped fmt (f.imm6.toNat % 2) (blkLog (typeBlk k.rtype)) (fun t c => rowElem 32 (16 * t + c) k.lut)
            (fun e => elemNat 24 e k.sf.toNat) (code i) i (q.accs.getD i 0, q.parts.getD i 0, q.j.toNat)
          q'.accs.getD i 0 = r.1 % 2 ^ 32 ∧ q'.parts.getD i 0 = r.2.1 % 2 ^ 32 ∧ q'.j.toNat = r.2.2)) ∧
  (∀ (i : Instr) (f : FmtW) (s : State), (i = .rdot f ∨ i = .rsum f) → admitted i s = true → (perOf s (curPer s)).dual = false →
    (∀ b ∈ rowBanks s, (accum f = true → latchReady s (curPer s) b f.q.toNat = true) ∧ (i = .rdot f → dotCheck i f 15 true (rowEff s (curPer s) f b) = none) ∧
      (i = .rsum f → dotCheck i f (if columnMode f then 8 else 15) (columnMode f || f.ob == 0) (rowEff s (curPer s) f b) = none)) →
    rowReady s (fun b => { oa := some (b, f.oa.toNat), ob := if i = .rdot f ∨ columnMode f = true then some f.ob.toNat else none }) = true →
    ∃ t, exec i s = .next t ∧ ctl t = nextPlace s ∧ LaneFrame s t [] ∧ SameTables s t ∧
      (∀ b q, ¬(b ∈ rowBanks s ∧ q = f.q.toNat) → latchOf t (curPer s) b q = latchOf s (curPer s) b q) ∧
      ∀ b ∈ rowBanks s,
        let c := (rowEff s (curPer s) f b).code
        let L := 2 ^ (f.imm6.toNat % 16)
        let base := ((hartOf s (bankId (curPer s) b)).opnd f.sa).toNat
        let q := latchOf s (curPer s) b f.q.toNat
        let q' := latchOf t (curPer s) b f.q.toNat
        let a (e : Nat) := rowElem (codeWidth c) e (regOf s (curPer s) b f.oa.toNat).data
        let o (e : Nat) := rowElem (codeWidth c) e (regOf s (curPer s) b f.ob.toNat).data
        let start (m : Nat) := if f.imm6.getLsbD 4 then q.accs.getD m 0 else 0
        let lanes := if i = .rsum f ∧ f.imm6.getLsbD 5 = true then L else rowMax c / L
        q'.doneAt = rcOf s (curPer s) + (if i = .rdot f then mulTime (codeWidth c) else 64) + 6 ∧ q'.p = q.p ∧ q'.j = q.j ∧
        (∀ m, m < 256 → (∀ n, n < lanes → m ≠ (base + n) % 256) → q'.accs.getD m 0 = q.accs.getD m 0) ∧
        ∀ n, n < lanes → q'.accs.getD ((base + n) % 256) 0 =
          (if i = .rdot f then (List.range L).foldl (fun x k => dotFma c f.rm.toNat (a (n * L + k)) (o k) x) (start ((base + n) % 256))
           else if f.imm6.getLsbD 5 then
             (List.range (rowMax c / L)).foldl (fun x k => dotFma c f.rm.toNat (a (k * L + n)) (o k) x) (start ((base + n) % 256))
           else (List.range L).foldl (fun x k => dotAdd c f.rm.toNat (a (n * L + k)) x) (start ((base + n) % 256))) % 2 ^ 32) ∧
  (∀ (f : FmtW) (s : State), admitted (.qclr f) s = true → (∀ b ∈ rowBanks s, (bankOf s (curPer s) b).laneFree ≤ rcOf s (curPer s)) →
    ∃ t, exec (.qclr f) s = .next t ∧ ctl t = nextPlace s ∧ LaneFrame s t [] ∧ SameTables s t ∧
      (∀ b q, ¬(b ∈ rowBanks s ∧ q = f.q.toNat) → latchOf t (curPer s) b q = latchOf s (curPer s) b q) ∧
      ∀ b ∈ rowBanks s, (latchOf t (curPer s) b f.q.toNat).acc = 0 ∧ (latchOf t (curPer s) b f.q.toNat).p = 0 ∧
        (latchOf t (curPer s) b f.q.toNat).j = 0 ∧ (latchOf t (curPer s) b f.q.toNat).poison = 0) ∧
  (∀ (f : FmtW) (s : State), admitted (.qst f) s = true → (perOf s (curPer s)).dual = false →
    (∀ b ∈ rowBanks s, latchReady s (curPer s) b f.q.toNat = true ∧ codeFloat (rowEff s (curPer s) f b).code = true ∧
      256 * f.imm6.toNat + 256 ≤ rowMax (rowEff s (curPer s) f b).code) →
    rowReady s (fun _ => { od := some f.od.toNat }) = true →
    ∃ t, exec (.qst f) s = .next t ∧ ctl t = nextPlace s ∧ LaneFrame s t [f.od.toNat] ∧ SameTables s t ∧
      (∀ b q, latchOf t (curPer s) b q = latchOf s (curPer s) b q) ∧
      ∀ b ∈ rowBanks s, ∀ e, e < rowMax (rowEff s (curPer s) f b).code →
        let c := (rowEff s (curPer s) f b).code
        let w := codeWidth c
        rowElem w e (regOf t (curPer s) b f.od.toNat).data =
          if 256 * f.imm6.toNat ≤ e ∧ e < 256 * f.imm6.toNat + 256 then
            (roundNum (fltOf c) f.rm.toNat (f32.decode ((latchOf s (curPer s) b f.q.toNat).accs.getD (e - 256 * f.imm6.toNat) 0))).val % 2 ^ w
          else rowElem w e (regOf s (curPer s) b f.od.toNat).data) ∧
  (∀ (f : FmtW) (s : State), admitted (.rtopk f) s = true → 1 ≤ f.imm6.toNat → f.imm6.toNat ≤ 32 →
    (∀ b ∈ rowBanks s, latchReady s (curPer s) b f.q.toNat = true) → rowReady s (fun _ => { od := some f.od.toNat, odRead := true }) = true →
    ∃ t, exec (.rtopk f) s = .next t ∧ ctl t = nextPlace s ∧ LaneFrame s t [f.od.toNat] ∧ SameLatches s t ∧
      ∀ b ∈ rowBanks s,
        let old := (regOf s (curPer s) b f.od.toNat).data
        let new := (regOf t (curPer s) b f.od.toNat).data
        new.toNat / 2 ^ (64 * f.imm6.toNat) = old.toNat / 2 ^ (64 * f.imm6.toNat) ∧
        rowList f.imm6.toNat new = bestK f.imm6.toNat (rowList f.imm6.toNat old ++
          candidates ((hartOf s (bankId (curPer s) b)).opnd f.sa) (latchOf s (curPer s) b f.q.toNat)))

/-- SHFL, SHRX, RCAST, ROUT, RRED: where a row goes, over the Promenade and the row transfer port. Admitted, checks passed, registers
ready, bus open. SHFL in gang mode: od of each performing bank is oa of its source bank. SHRX not yet sent: each row is on its way to its
inbox, sender marked, and the bank stays; once every delivery is made it goes on. SHRX_DELIVERY: rows whose bus time is over line up, and
the oldest of the line enters an empty inbox. RCAST: od of every performing bank is the 8 KiB at the leader's address, free of poison and
of frames in use. ROUT: the 8 KiB at the bank's address, no saved image or spill area, are oa; no other byte changes but table bits. RRED
with a row in the inbox: active elements of od are that row's, or their sum with it; the inbox is empty. No scalar register changes. That
rows stand in od at issue is the model's choice (log 36), and so are the bus times and the order of SHRX's arrivals (log 37). -/
def Obligations.RowsMoveBetweenBanksAndMemory : Prop :=
  (∀ (f : FmtW) (s : State), admitted (.shfl f) s = true → inGang s = true → f.imm6.toNat < 24 →
    rowReady s (fun b => { oa := some (shflSource f b, f.oa.toNat), od := some f.od.toNat }) = true →
    ∃ t, exec (.shfl f) s = .next t ∧ ctl t = nextPlace s ∧ LaneFrame s t [f.od.toNat] ∧ SameLatches s t ∧
      ∀ b ∈ rowBanks s,
        let src := match f.imm6.toNat / 8 with
          | 0 => (b + 8 - f.imm6.toNat % 8) % 8
          | 1 => b ^^^ (f.imm6.toNat % 8)
          | _ => f.imm6.toNat % 8
        (regOf t (curPer s) b f.od.toNat).data = (regOf s (curPer s) src f.oa.toNat).data ∧
        (regOf t (curPer s) b f.od.toNat).poison = (regOf s (curPer s) src f.oa.toNat).poison) ∧
  (∀ (f : FmtW) (s : State), admitted (.shrx f) s = true →
    ((∀ b ∈ rowBanks s, (bankOf s (curPer s) b).shrx = 0 ∧ shrxCheck s f (curPer s) b = none ∧ shrxPoison s f (curPer s) b = none) →
      rowReady s (fun b => { oa := some (b, f.oa.toNat) }) = true → (perOf s (curPer s)).dual = false →
      ∃ t, exec (.shrx f) s = .next t ∧ ctl t = ctl s ∧ SameRegisters s t ∧ SameMemory s t ∧
        ∀ b ∈ rowBanks s,
          let to' := shrxInboxes s ((hartOf s (bankId (curPer s) b)).opnd f.sa)
          (bankOf t (curPer s) b).shrx = 1 + to'.length ∧
          ∀ q ∈ to', ∃ r ∈ (bankOf t q.1 q.2).sending, r.data = (regOf s (curPer s) b f.oa.toNat).data ∧ r.sender = bankId (curPer s) b) ∧
    ((∃ b ∈ rowBanks s, (bankOf s (curPer s) b).shrx ≠ 0) → (∀ b ∈ rowBanks s, (bankOf s (curPer s) b).shrx ≤ 1) →
      ∃ t, exec (.shrx f) s = .next t ∧ ctl t = nextPlace s ∧ SameRegisters s t ∧ SameMemory s t ∧
        ∀ b ∈ rowBanks s, (bankOf t (curPer s) b).shrx = 0) ∧
    ((∃ b ∈ rowBanks s, 1 < (bankOf s (curPer s) b).shrx) → cancelled s = false → StaysHere (.shrx f) s)) ∧
  (∀ (s : State) (g b : Nat), g < 1152 → b < 8 →
    let line := (bankOf s g b).arrived ++ (bankOf s g b).sending.filter (rowArrived s g)
    ∃ t, exec (.shrxDelivery g b) s = .next t ∧ SameRegisters s t ∧ SameMemory s t ∧
      (bankOf t g b).sending = (bankOf s g b).sending.filter (fun r => !rowArrived s g r) ∧
      (∀ r rest, (bankOf s g b).inbox = none → line = r :: rest → (bankOf t g b).inbox = some r ∧ (bankOf t g b).arrived = rest) ∧
      ((bankOf s g b).inbox.isSome = true ∨ line = [] → (bankOf t g b).inbox = (bankOf s g b).inbox ∧ (bankOf t g b).arrived = line)) ∧
  (∀ (f : FmtW) (s : State) (m : RangeMap), admitted (.rcast f) s = true → portRange s (curPer s) (xRead s f.sa) false = .ok m →
    (∀ p ∈ m.pieces, plainPlace s p.1 p.2 = true) → busOpen s (curPer s) = true → rowReady s (fun _ => { od := some f.od.toNat }) = true →
    ∃ t, exec (.rcast f) s = .next t ∧ ctl t = nextPlace s ∧ SameRegisters s t ∧ OnlyBytes s t m.commits 0 0 ∧
      (∀ b ∈ rowBanks s, (regOf t (curPer s) b f.od.toNat).data =
        BitVec.ofNat 65536 (leNat (m.pieces.map fun p => readPlace s p.1 p.2).flatten)) ∧
      ∀ b n, ¬(b ∈ rowBanks s ∧ n = f.od.toNat) → (regOf t (curPer s) b n).data = (regOf s (curPer s) b n).data) ∧
  (∀ (f : FmtW) (s : State), admitted (.rout f) s = true → busOpen s (curPer s) = true →
    (∀ b ∈ rowBanks s, portFault s (curPer s) ((hartOf s (bankId (curPer s) b)).opnd f.sa) true = none ∧
      leaveFault s (curPer s) b f.oa.toNat = none) →
    rowReady s (fun b => { oa := some (b, f.oa.toNat) }) = true →
    (∃ t, exec (.rout f) s = .next t ∧ ctl t = nextPlace s ∧ SameRegisters s t) ∧
    (∀ (b pa : Nat) (m : RangeMap), rowBanks s = [b] → (perOf s (curPer s)).dual = false →
      portRange s (curPer s) ((hartOf s (bankId (curPer s) b)).opnd f.sa) true = .ok m → m.pieces = [(.phys pa, 8192)] →
      landsPlain (commitAll s m.commits) pa 8192 →
      ∃ t, exec (.rout f) s = .next t ∧ OnlyBytes s t m.commits pa 8192 ∧
        readBytes t pa 8192 = leBytes 8192 (regOf s (curPer s) b f.oa.toNat).data.toNat)) ∧
  (∀ (f : FmtW) (s : State), admitted (.rred f) s = true →
    (∀ b ∈ rowBanks s, rowPlain (rowEff s (curPer s) f b) = true ∧ (f.xm = true → f.masko ≠ f.od) ∧
      (bankOf s (curPer s) b).inbox.isSome = true) →
    rowReady s (fun _ => { od := some f.od.toNat, odRead := !f.imm6.getLsbD 0,
                           mo := if f.masken || f.xm then some f.masko.toNat else none, moRead := f.masken, moWrite := f.xm }) = true →
    ∃ t, exec (.rred f) s = .next t ∧ ctl t = nextPlace s ∧ SameLatches s t ∧
      LaneFrame s t (f.od.toNat :: if f.xm then [f.masko.toNat] else []) ∧
      ∀ b ∈ rowBanks s, (bankOf t (curPer s) b).inbox = none ∧
        ∀ e, e < rowMax (rowEff s (curPer s) f b).code →
          let c := (rowEff s (curPer s) f b).code
          let w := codeWidth c
          let old := rowElem w e (regOf s (curPer s) b f.od.toNat).data
          let x := rowElem w e (inboxRow s (curPer s) b)
          rowElem w e (regOf t (curPer s) b f.od.toNat).data =
            if takesPart s (curPer s) b f w e then (if f.imm6.getLsbD 0 then x else (eAdd c f.rm.toNat f.sat old x).val % 2 ^ w) else old)

/-- GANG, SPLIT, the rendezvous, BMASK, BYIELD, LEASE, RGETE, RSETE: modes, predicates and single elements. Admitted. GANG in gang mode
goes on; in split mode the bank stands at the rendezvous. GANG_RENDEZVOUS with every live bank there: the gang goes on after the GANG of
the lowest (log 35), with its loop stack; else the event does nothing (log 11). SPLIT in gang mode: every bank has the place after it;
else it goes on. BMASK: every bank's predicate is the FLAGS condition, x[SA] not 0, or 1, inverted by IMM6[2] for the first two; source 3
is RESERVED-FIELD (IMM6[2] beside source 2: log 57). BYIELD completes, then the Pergola may switch. LEASE: x[SA] is REMAIN, the lease's
kind and the lessee. RGETE and RSETE, of no format 11 (log 64): x[SA] is element x[SB] of oa; that element of od is x[SA]. All else
stands. What names a log is the model's choice. -/
def Obligations.GangsSplitMaskAndYield : Prop :=
  (∀ (f : FmtW) (s : State), admitted (.gang f) s = true →
    (inGang s = true → exec (.gang f) s = .next (advance s)) ∧
    (inGang s = false → exec (.gang f) s = .next (modHarts s (allHarts s) fun h => { h with run := .atGang }))) ∧
  (∀ (s : State) (g b : Nat) (bs : List Nat), g < 1152 → liveBanks s g = b :: bs →
    ((perOf s g).gang = false → (perOf s g).phase = .running → (∀ c ∈ b :: bs, (hartOf s (bankId g c)).run = .atGang) →
      standsAtYield s g b = false →
      let h := hartOf s (bankId g b)
      ∃ t, exec (.gangRendezvous g) s = .next t ∧ (perOf t g).gang = true ∧
        (perOf t g).pc = (fallThrough { pc := h.pc, loops := h.loops } 8).1.pc ∧
        (perOf t g).loops = (fallThrough { pc := h.pc, loops := h.loops } 8).1.loops ∧
        (∀ c ∈ b :: bs, (hartOf t (bankId g c)).run = .running) ∧ SameRegisters s t ∧ SameMemory s t ∧ t.cur = s.cur) ∧
    (((perOf s g).gang = true ∨ ∃ c ∈ b :: bs, (hartOf s (bankId g c)).run ≠ .atGang) → exec (.gangRendezvous g) s = .next s)) ∧
  (∀ (f : FmtW) (s : State), admitted (.split f) s = true →
    (inGang s = true → ∃ t, exec (.split f) s = .next t ∧ (perOf t (curPer s)).gang = false ∧ (perOf t (curPer s)).loops = [] ∧
      (∀ b, b < 8 → (hartOf t (bankId (curPer s) b)).pc = (nextPlace s).pc ∧
        (hartOf t (bankId (curPer s) b)).loops = (nextPlace s).loops) ∧ SameRegisters s t ∧ SameMemory s t) ∧
    (inGang s = false → exec (.split f) s = .next (advance s))) ∧
  (∀ (f : FmtW) (s : State), admitted (.bmask f) s = true →
    (f.imm6.toNat / 16 ≠ 3 → ∃ t, exec (.bmask f) s = .next t ∧ ctl t = nextPlace s ∧ SameRegisters s t ∧ SameMemory s t ∧
      ∀ id ∈ allHarts s,
        let h := hartOf s (if (perOf s (curPer s)).dual then bankId (curPer s) (bankOfHart id % 4) else id)
        (hartOf t id).pred = match f.imm6.toNat / 16 with
          | 0 => stateHolds (f.imm6.toNat % 4) h.flags != f.imm6.getLsbD 2
          | 1 => (h.get f.sa.num.toNat != 0) != f.imm6.getLsbD 2
          | _ => true) ∧
    (f.imm6.toNat / 16 = 3 → cancelled s = false →
      exec (.bmask f) s = .next (takeTrap s (curPc s) Cause.reservedField (instrWord (.bmask f)) false false))) ∧
  (∀ (f : FmtW) (s : State), admitted (.byield f) s = true →
    (inGang s = true → exec (.byield f) s = .next (yieldPergola (advance s) (curPer s))) ∧
    (inGang s = true → (perOf s (curPer s)).step = none → exec (.byield f) s = .next (advance s)) ∧
    (inGang s = false → exec (.byield f) s = .next (modHarts s (allHarts s) fun h => { h with run := .atGang }))) ∧
  (∀ (f : FmtW) (s : State), admitted (.lease f) s = true →
    ∃ t, exec (.lease f) s = .next t ∧ ctl t = nextPlace s ∧ RegisterFrame s t (performers s) f.sa.num.toNat ∧
      ∀ id ∈ performers s, f.sa.num.toNat ≠ 0 →
        let p := perOf s (perOfHart id)
        ((hartOf t id).get f.sa.num.toNat).toNat =
          if rowCapable s (perOfHart id) = false then 3 * 2 ^ 46
          else if p.lessee = 0 then 0 else p.remain % 2 ^ 40 + (if p.dual then 2 else 1) * 2 ^ 46 + p.lessee.toNat * 2 ^ 48) ∧
  (∀ (f : FmtW) (s : State), admitted (.rgete f) s = true → rowReady s (fun b => { oa := some (b, f.oa.toNat) }) = true →
    (∀ b ∈ rowBanks s, (rowEff s (curPer s) f b).code ≠ 11 ∧ rgetePoison s (curPer s) f b = none) →
    ∃ t, exec (.rgete f) s = .next t ∧ ctl t = nextPlace s ∧ SameMemory s t ∧ SameLatches s t ∧
      (∀ id n, ¬(id ∈ performers s ∧ n = f.sa.num.toNat) → (hartOf t id).get n = (hartOf s id).get n) ∧
      (∀ b n, (regOf t (curPer s) b n).data = (regOf s (curPer s) b n).data) ∧
      ∀ b ∈ rowBanks s,
        let c := (rowEff s (curPer s) f b).code
        let e := ((hartOf s (bankId (curPer s) b)).get f.sb.num.toNat).toNat % rowMax c
        (hartOf t (bankId (curPer s) b)).get f.sa.num.toNat =
          if f.sa.num.toNat = 0 then 0 else elemToX c (rowElem (codeWidth c) e (regOf s (curPer s) b f.oa.toNat).data)) ∧
  (∀ (f : FmtW) (s : State), admitted (.rsete f) s = true → rowReady s (fun _ => { od := some f.od.toNat }) = true →
    (∀ b ∈ rowBanks s, (rowEff s (curPer s) f b).code ≠ 11) →
    ∃ t, exec (.rsete f) s = .next t ∧ ctl t = nextPlace s ∧ LaneFrame s t [f.od.toNat] ∧ SameLatches s t ∧
      ∀ b ∈ rowBanks s, ∀ e, e < rowMax (rowEff s (curPer s) f b).code →
        let c := (rowEff s (curPer s) f b).code
        let h := hartOf s (bankId (curPer s) b)
        rowElem (codeWidth c) e (regOf t (curPer s) b f.od.toNat).data =
          if e = (h.get f.sb.num.toNat).toNat % rowMax c then (h.get f.sa.num.toNat).toNat % 2 ^ codeWidth c
          else rowElem (codeWidth c) e (regOf s (curPer s) b f.od.toNat).data)

/-- VADD to VSQRT: every active element is the result of R270, R271 or R162; EMPTY-TRAP, ILLEGAL, waits. Each of VADD, VSUB, VMUL, VFMA,
VMIN, VMAX, VAND, VOR, VXOR, VSHL, VSHR, VSRA, VABS, VNEG, VEXP2, VRCP, VRSQRT, VDIV, VSQRT, admitted, with its format rules met. With
nothing named empty and vl not 0: exec answers a next state in which each element of vd from vresume up to vl whose mask bit is 1 is the
result for the elements of va, vb and vc, every other element is as it was, NFLAGS gains exactly the flags of those results, with XM their
exception masks stand in the mask register, vd is empty until it completes, hw and vresume as R286 and R264 say; nothing else changes.
With vl = 0 it only goes on; an empty source with FE = 1 traps late with its number; another empty register makes it stay; a format its
table entry does not admit traps ILLEGAL late. -/
def Obligations.VectorElementwiseResults : Prop :=
  ∀ (i : Instr) (f : FmtV) (srcs : List Opnd) (cls : Nat → Bool) (op : Nat → Nat → Nat → Nat → Elem) (s : State),
    vecTable i = some (f, srcs, cls, op) → admitted i s = true →
    let c := (vEff s).code
    let w := codeWidth c
    let d := f.vd.num.toNat
    let m := f.mreg.toNat
    let others := (if f.masken || f.xm then [m] else []) ++ [d]
    let e' := fun e => op c (vAt s w f.va.num.toNat e) (vAt s w f.vb.num.toNat e) (vAt s w f.vc.num.toNat e)
    let bytes := (w * (vCore s).vl + 7) / 8
    (cls c = true → vPlain s = true → vMaskFree f srcs = true →
      (vGoes s srcs others = true →
        ∃ t, exec i s = .next t ∧ ctl t = nextPlace s ∧ VectorFrame s t (if f.xm then [d, m] else [d]) none ∧
          VectorDone s t d (if f.xm then hwAfter (hwAfter (vCore s).hw d bytes) m bytes else hwAfter (vCore s).hw d bytes) ∧
          (hartOf t (leadHart s)).flags = (hartOf s (leadHart s)).flags ∧
          (∀ k, (hartOf t (leadHart s)).nflags.getLsbD k = ((hartOf s (leadHart s)).nflags.getLsbD k ||
            (List.range (vlmax c)).any fun e => vTakes s f w e && (e' e).fl.getLsbD k)) ∧
          (∀ e, e < vlmax c → vAt t w d e = if vTakes s f w e then (e' e).val % 2 ^ w else vAt s w d e) ∧
          (f.xm = true → ∀ e, e < vlmax c → vAt t w m e = if vTakes s f w e then excMask w (e' e).fl % 2 ^ w else vAt s w m e)) ∧
      ((∀ o ∈ srcs, o.fe = true → vEmpty (vCore s) o.num.toNat = false) → (vCore s).vl = 0 →
        exec i s = .next (advance (endVector s))) ∧
      (∀ o, (srcs.find? fun o => o.fe && vEmpty (vCore s) o.num.toNat) = some o → cancelled s = false →
        TrapsLate i s Cause.emptyTrap (BitVec.ofNat 64 o.num.toNat)) ∧
      ((∀ o ∈ srcs, o.fe = true → vEmpty (vCore s) o.num.toNat = false) → (vCore s).vl ≠ 0 → vGoes s srcs others = false →
        cancelled s = false → StaysHere i s)) ∧
    (cls c = false → cancelled s = false → TrapsLate i s Cause.illegal (instrWord i))

/-- VCMP, VMERGE, VPOPC, VFIRST, VCVT and VSETVL, VSETTYPE, VRDHW, VALLOT; VECTOR_COMPLETE fills a register. Admitted, field rules met,
nothing named empty, vl not 0. VCMP: active elements of vd are 1 or 0 by the comparison, FLAGS.STATE is none, all or some of them. VMERGE:
va's element where the mask's bit 0 is 1, else vb's. VPOPC, VFIRST: x[VD] is how many active elements of va have bit 0 set, or the first
such (all ones for none). VCVT: the converted and active elements of vd are va's, converted; others stand. VSETVL: vl and x[VD] are
min(x[VA], vlmax). VSETTYPE: vtype is x[VA] and vl is cut, x[VD] is the old one; a value that R150 or R151 bars traps late. VRDHW reads
hw. VALLOT 8, 16, 32: allot is that, x[VD] the old, registers released or gained are zero. VECTOR_COMPLETE: the register is full. NFLAGS
gains the flags of VCMP's comparisons and of VCVT's conversions, and with XM the mask elements of those are R170's, the others as they
were. That VECTOR_COMPLETE of a register not in flight changes nothing is the model's choice (log 11). -/
def Obligations.VectorComparesCountsConvertsConfigures : Prop :=
  (∀ (f : FmtV) (s : State), admitted (.vcmp f) s = true → vPlain s = true → f.vc.bits.toNat % 8 < 6 →
    vGoes s [f.va, f.vb] ((if f.masken then [f.mreg.toNat] else []) ++ [f.vd.num.toNat]) = true →
    let c := (vEff s).code
    let w := codeWidth c
    let cmp := fun e => eCmp c (f.vc.bits.toNat % 8) (vAt s w f.va.num.toNat e) (vAt s w f.vb.num.toNat e)
    let holds := fun e => (cmp e).1
    let active := (List.range (vlmax c)).filter (vTakes s f w)
    ∃ t, exec (.vcmp f) s = .next t ∧ ctl t = nextPlace s ∧ VectorFrame s t [f.vd.num.toNat] none ∧
      VectorDone s t f.vd.num.toNat (hwAfter (vCore s).hw f.vd.num.toNat ((w * (vCore s).vl + 7) / 8)) ∧
      (hartOf t (leadHart s)).flags = (if active.any holds = false then 0 else if active.all holds = true then 2 else 1) ∧
      (hartOf t (leadHart s)).nflags = flagsAfter (hartOf s (leadHart s)).nflags (vlmax c) (vTakes s f w) (fun e => (cmp e).2) ∧
      ∀ e, e < vlmax c → vAt t w f.vd.num.toNat e =
        if vTakes s f w e then (if holds e then 1 else 0) else vAt s w f.vd.num.toNat e) ∧
  (∀ (f : FmtV) (s : State), admitted (.vmerge f) s = true → vPlain s = true →
    vGoes s [f.va, f.vb] [f.mreg.toNat, f.vd.num.toNat] = true →
    let w := codeWidth (vEff s).code
    ∃ t, exec (.vmerge f) s = .next t ∧ ctl t = nextPlace s ∧ VectorFrame s t [f.vd.num.toNat] none ∧
      VectorDone s t f.vd.num.toNat (hwAfter (vCore s).hw f.vd.num.toNat ((w * (vCore s).vl + 7) / 8)) ∧
      ∀ e, e < 8192 / w → vAt t w f.vd.num.toNat e =
        if (vCore s).vresume ≤ e ∧ e < (vCore s).vl then
          vAt s w (if vAt s w f.mreg.toNat e % 2 = 1 then f.va.num.toNat else f.vb.num.toNat) e
        else vAt s w f.vd.num.toNat e) ∧
  (∀ (i : Instr) (f : FmtV) (s : State), (i = .vpopc f ∨ i = .vfirst f) → admitted i s = true → vPlain s = true →
    vGoes s [f.va] (if f.masken then [f.mreg.toNat] else []) = true →
    ∃ t, exec i s = .next t ∧ ctl t = nextPlace s ∧ VectorFrame s t [] (some f.vd.num.toNat) ∧ (coreOf t (curCore s)).vresume = 0 ∧
      (coreOf t (curCore s)).vempty = (vCore s).vempty ∧
      (hartOf t (leadHart s)).get f.vd.num.toNat = (if f.vd.num.toNat = 0 then 0 else
        let l := vChosen s f (codeWidth (vEff s).code)
        if i = .vpopc f then BitVec.ofNat 64 l.length else match l with
          | [] => BitVec.ofInt 64 (-1)
          | e :: _ => BitVec.ofNat 64 e)) ∧
  (∀ (f : FmtV) (s : State), admitted (.vcvt f) s = true → vcvtOk s f = true →
    let F := vEff s
    let dfmt := f.vc.bits.toNat % 16
    let part := f.vc.bits.toNat / 16 % 8
    let dblk := f.vc.bits.toNat / 128 % 4
    let c := cvtMap dfmt part dblk (vlmax F.code) (vlmax dfmt)
    let srcG := codeGrouped F.code F.blk
    let dstG := codeGrouped dfmt dblk
    let w := codeWidth dfmt
    vGoes s (if dstG then [f.va, f.vb] else [f.va])
      ((if f.masken || f.xm then [f.mreg.toNat] else []) ++ (if srcG then [F.sreg] else []) ++ [f.vd.num.toNat]) = true →
    ∃ t, exec (.vcvt f) s = .next t ∧ ctl t = nextPlace s ∧
      VectorFrame s t (f.vd.num.toNat :: if f.xm then [f.mreg.toNat] else []) none ∧ (coreOf t (curCore s)).vresume = 0 ∧
      (c.s0 < (vCore s).vl → vEmpty (coreOf t (curCore s)) f.vd.num.toNat = true) ∧
      (let k (e : Nat) := c.s0 + (e - c.d0)
       let on (e : Nat) : Bool := decide (c.d0 ≤ e) && decide (e < c.d0 + c.n) && decide ((vCore s).vresume ≤ k e) && decide (k e < (vCore s).vl) &&
         (!f.masken || vAt s w f.mreg.toNat e % 2 == 1)
       let res (e : Nat) := convTo F.code dfmt f.rm.toNat f.sat srcG dstG (vAt s (codeWidth F.code) f.va.num.toNat (k e))
         (if srcG then vAt s 32 F.sreg (k e / 2 ^ (F.blk + 4)) else 0) (if dstG then vAt s 32 f.vb.num.toNat (e / 2 ^ (dblk + 4)) else 0)
       (∀ e, e < vlmax dfmt → vAt t w f.vd.num.toNat e = if on e then (res e).val % 2 ^ w else vAt s w f.vd.num.toNat e) ∧
       (hartOf t (leadHart s)).flags = (hartOf s (leadHart s)).flags ∧
       (hartOf t (leadHart s)).nflags = flagsAfter (hartOf s (leadHart s)).nflags (vlmax dfmt) on (fun e => (res e).fl) ∧
       (f.xm = true → ∀ e, e < vlmax dfmt →
         vAt t w f.mreg.toNat e = if on e then maskElement w (res e).fl else vAt s w f.mreg.toNat e))) ∧
  (∀ (f : FmtV) (s : State), admitted (.vsetvl f) s = true →
    let n := min (xRead s f.va).toNat (vlmax (typeFmt (vCore s).vtype))
    ∃ t, exec (.vsetvl f) s = .next t ∧ ctl t = nextPlace s ∧ VectorFrame s t [] (some f.vd.num.toNat) ∧
      coreOf t (curCore s) = { vCore s with vl := n } ∧
      (hartOf t (leadHart s)).get f.vd.num.toNat = if f.vd.num.toNat = 0 then 0 else BitVec.ofNat 64 n) ∧
  (∀ (f : FmtV) (s : State), admitted (.vsettype f) s = true →
    (typeOk false (xRead s f.va) = true → ∃ t, exec (.vsettype f) s = .next t ∧ ctl t = nextPlace s ∧
      coreOf t (curCore s) = { vCore s with vtype := xRead s f.va, vl := min (vCore s).vl (vlmax (typeFmt (xRead s f.va))) } ∧
      (hartOf t (leadHart s)).get f.vd.num.toNat = if f.vd.num.toNat = 0 then 0 else (vCore s).vtype) ∧
    (typeOk false (xRead s f.va) = false → cancelled s = false →
      TrapsLate (.vsettype f) s Cause.reservedField (instrWord (.vsettype f)))) ∧
  (∀ (f : FmtV) (s : State), admitted (.vrdhw f) s = true → ∃ t, exec (.vrdhw f) s = .next t ∧ ctl t = nextPlace s ∧
    RegisterFrame s t [leadHart s] f.vd.num.toNat ∧
    (hartOf t (leadHart s)).get f.vd.num.toNat = if f.vd.num.toNat = 0 then 0 else (vCore s).hw) ∧
  (∀ (f : FmtV) (s : State) (n : Nat), admitted (.vallot f) s = true → n = (xRead s f.va).toNat → n = 8 ∨ n = 16 ∨ n = 32 →
    (∀ r, n ≤ r → r < 32 → vEmpty (vCore s) r = false) →
    ∃ t, exec (.vallot f) s = .next t ∧ ctl t = nextPlace s ∧ (coreOf t (curCore s)).allot = n ∧
      (∀ r, r < 32 → (coreOf t (curCore s)).v.get 0 r = if min (vCore s).allot n ≤ r then 0 else (vCore s).v.get 0 r) ∧
      (hartOf t (leadHart s)).get f.vd.num.toNat = if f.vd.num.toNat = 0 then 0 else BitVec.ofNat 64 (vCore s).allot) ∧
  (∀ (s : State) (c r : Nat), c < 128 → r < 32 →
    (r ∉ (coreOf s c).vpend → exec (.vectorComplete c r) s = .next s) ∧
    (r ∈ (coreOf s c).vpend → ∃ t, exec (.vectorComplete c r) s = .next t ∧ (coreOf t c).vpend = (coreOf s c).vpend.erase r ∧
      (coreOf t c).v = (coreOf s c).v ∧ ∀ n, vEmpty (coreOf t c) n =
        if n = r ∧ r ∉ (coreOf s c).vpend.erase r then false else vEmpty (coreOf s c) n))

/-- VCOMPRESS, VGATHER, VSLIDE, VRED, VTOPK, VIOTA, VBCAST, VEXT: where each element comes from. Admitted, field rules met, nothing named
empty, vl not 0. VCOMPRESS: vl is the number of active elements of va with bit 0 set, and the 16-bit elements of the group at VD are their
indices, ascending, and 0 past the last. VGATHER: an active element is va's element at the index given by the group at VB, 0 past the
register's end. VSLIDE by n = x[VB]: down, element e + n below vl, else 0; up, element e - n, or the old value below n. VRED: element 0 of
vd is the chain over the active elements from element 0 of vb. VTOPK: the first n pairs of vd are the least of va's and vb's. VIOTA: the
element's number. VBCAST: x[VA]'s low bits. VEXT: x[VD] is element x[VB] mod vlmax. Elsewhere other elements, and always other registers
and all memory stand. -/
def Obligations.VectorElementsMove : Prop :=
  (∀ (f : FmtV) (s : State), admitted (.vcompress f) s = true → vPlain s = true →
    let g := indexGroup f.vd.num.toNat (vCore s).vl
    g.all (fun n => decide (n < 32 ∧ n < (vCore s).allot) && n != f.va.num.toNat && !(f.masken && n == f.mreg.toNat)) = true →
    vGoes s [f.va] ((if f.masken then [f.mreg.toNat] else []) ++ g) = true →
    let l := vChosen s f (codeWidth (vEff s).code)
    ∃ t, exec (.vcompress f) s = .next t ∧ ctl t = nextPlace s ∧ VectorFrame s t g none ∧ (coreOf t (curCore s)).vl = l.length ∧
      (coreOf t (curCore s)).vresume = 0 ∧ (∀ n ∈ g, vEmpty (coreOf t (curCore s)) n = true) ∧
      ∀ j, j < 512 * g.length → vAt t 16 (f.vd.num.toNat + j / 512) (j % 512) = l.getD j 0) ∧
  (∀ (f : FmtV) (s : State), admitted (.vgather f) s = true → vPlain s = true →
    let g := indexGroup f.vb.num.toNat (vCore s).vl
    f.vd.num ≠ f.va.num → g.all (fun n => decide (n < 32 ∧ n < (vCore s).allot) && n != f.vd.num.toNat) = true →
    vGoes s [f.va, f.vb] ((if f.masken then [f.mreg.toNat] else []) ++ g ++ [f.vd.num.toNat]) = true →
    let w := codeWidth (vEff s).code
    ∃ t, exec (.vgather f) s = .next t ∧ ctl t = nextPlace s ∧ VectorFrame s t [f.vd.num.toNat] none ∧
      VectorDone s t f.vd.num.toNat (hwAfter (vCore s).hw f.vd.num.toNat ((w * (vCore s).vl + 7) / 8)) ∧
      ∀ e, e < 8192 / w → vAt t w f.vd.num.toNat e =
        let x := vAt s 16 (f.vb.num.toNat + e / 512) (e % 512)
        if vTakes s f w e then (if x < 8192 / w then vAt s w f.va.num.toNat x else 0) else vAt s w f.vd.num.toNat e) ∧
  (∀ (f : FmtV) (s : State), admitted (.vslide f) s = true → vPlain s = true → f.vd.num ≠ f.va.num →
    vGoes s [f.va] ((if f.masken then [f.mreg.toNat] else []) ++ [f.vd.num.toNat]) = true →
    let w := codeWidth (vEff s).code
    let n := (xRead s f.vb).toNat
    ∃ t, exec (.vslide f) s = .next t ∧ ctl t = nextPlace s ∧ VectorFrame s t [f.vd.num.toNat] none ∧
      VectorDone s t f.vd.num.toNat (hwAfter (vCore s).hw f.vd.num.toNat ((w * (vCore s).vl + 7) / 8)) ∧
      ∀ e, e < 8192 / w → vAt t w f.vd.num.toNat e =
        if vTakes s f w e = false then vAt s w f.vd.num.toNat e
        else if f.vc.bits.getLsbD 0 then (if n ≤ e then vAt s w f.va.num.toNat (e - n) else vAt s w f.vd.num.toNat e)
        else if e + n < (vCore s).vl then vAt s w f.va.num.toNat (e + n) else 0) ∧
  (∀ (f : FmtV) (s : State), admitted (.vred f) s = true → vPlain s = true → f.vc.bits.toNat % 8 < 6 →
    vGoes s [f.va, f.vb] ((if f.masken then [f.mreg.toNat] else []) ++ [f.vd.num.toNat]) = true →
    let c := (vEff s).code
    let w := codeWidth c
    let a := if f.vc.bits.getLsbD 3 then (if codeFloat c then 10 else 7) else c
    let active := (List.range (vlmax c)).filter (vTakes s f w)
    let r := active.foldl (fun (acc : Elem) e =>
      let x := redStep (f.vc.bits.toNat % 8) c a f.rm.toNat f.sat acc.val (vAt s w f.va.num.toNat e)
      ⟨x.val, acc.fl ||| x.fl⟩) ⟨vAt s (codeWidth a) f.vb.num.toNat 0, 0⟩
    ∃ t, exec (.vred f) s = .next t ∧ ctl t = nextPlace s ∧ VectorFrame s t [f.vd.num.toNat] none ∧
      VectorDone s t f.vd.num.toNat (hwAfter (vCore s).hw f.vd.num.toNat ((codeWidth a + 7) / 8)) ∧
      (hartOf t (leadHart s)).nflags = (hartOf s (leadHart s)).nflags ||| r.fl ∧
      vAt t (codeWidth a) f.vd.num.toNat 0 = r.val % 2 ^ codeWidth a ∧
      ∀ e, 0 < e → e < vlmax a → vAt t (codeWidth a) f.vd.num.toNat e = vAt s (codeWidth a) f.vd.num.toNat e) ∧
  (∀ (f : FmtV) (s : State) (n : Nat), admitted (.vtopk f) s = true → n = f.vc.bits.toNat % 64 → 1 ≤ n → n ≤ 32 →
    vGoes s [f.va, f.vb] [f.vd.num.toNat] = true →
    let lst := fun (r : State) (o : Opnd) => (List.range n).map fun e => (vAt r 32 o.num.toNat (2 * e), vAt r 32 o.num.toNat (2 * e + 1))
    ∃ t, exec (.vtopk f) s = .next t ∧ ctl t = nextPlace s ∧ VectorFrame s t [f.vd.num.toNat] none ∧
      VectorDone s t f.vd.num.toNat (hwAfter (vCore s).hw f.vd.num.toNat (8 * n)) ∧
      lst t f.vd = bestK n (lst s f.va ++ lst s f.vb) ∧
      ∀ e, n ≤ e → e < 128 → vAt t 64 f.vd.num.toNat e = vAt s 64 f.vd.num.toNat e) ∧
  (∀ (i : Instr) (f : FmtV) (s : State), (i = .viota f ∧ codeFloat (vEff s).code = false ∨ i = .vbcast f) → admitted i s = true →
    vPlain s = true → vGoes s [] ((if f.masken then [f.mreg.toNat] else []) ++ [f.vd.num.toNat]) = true →
    let w := codeWidth (vEff s).code
    ∃ t, exec i s = .next t ∧ ctl t = nextPlace s ∧ VectorFrame s t [f.vd.num.toNat] none ∧
      VectorDone s t f.vd.num.toNat (hwAfter (vCore s).hw f.vd.num.toNat ((w * (vCore s).vl + 7) / 8)) ∧
      ∀ e, e < 8192 / w → vAt t w f.vd.num.toNat e =
        if vTakes s f w e = false then vAt s w f.vd.num.toNat e
        else if i = .vbcast f then (xRead s f.va).toNat % 2 ^ w else (intResult (vEff s).code f.sat (e : Int)).val % 2 ^ w) ∧
  (∀ (f : FmtV) (s : State), admitted (.vext f) s = true → vPlain s = true → vGoes s [f.va] [] = true →
    let c := (vEff s).code
    ∃ t, exec (.vext f) s = .next t ∧ ctl t = nextPlace s ∧ VectorFrame s t [] (some f.vd.num.toNat) ∧
      (coreOf t (curCore s)).vresume = 0 ∧ (coreOf t (curCore s)).vempty = (vCore s).vempty ∧
      (hartOf t (leadHart s)).get f.vd.num.toNat =
        if f.vd.num.toNat = 0 then 0 else elemToX c (vAt s (codeWidth c) f.va.num.toNat ((xRead s f.vb).toNat % vlmax c)))

/-- VLD, VLDS, VLDX, VST, VSTS, VSTX, VLDSC: units lane by lane; a loaded unit is the bytes at its address. A load unit of memory or of an
A-store, free of poison and of images in use, puts the bytes at its address into its place of the register and changes nothing else but
table bits; a store unit of whole bytes to physical memory, no saved image or spill area, leaves its data there, no other byte changing
but table bits. VLD, VLDS, VLDX, VST, VSTS, VSTX, VLDSC, admitted, field rules met, its stream acknowledged, nothing named empty, no unit
over an entry of the replay queue, no copy of its hart still filling what a load reads: exec performs each unit not yet behind it once,
each lane's in ascending order, unit u at the address of R317 and R318; where none has to wait for a peer and none fails against a full
replay queue, the hart goes on, vresume 0 and a loaded register empty till it completes. That the units go in ascending order unless
stores of distinct lanes meet is the model's choice (log 63). -/
def Obligations.VectorMemoryUnits : Prop :=
  (∀ (s : State) (id k n pa : Nat) (e : ReplayEntry) (va : Word) (p : Place) (l : List Resolved), n = sizeBytes e.size →
    resolveRange s (hartCtx s id) { loadReq n with align := if e.size = 3 then 1 else n } va n = .ok { pieces := [(p, n)], commits := l } →
    e.st = false → plainPlace (commitAll s l) p n = true → (if e.size = 3 then 4 else n) * (e.unit.toNat + 1) ≤ 1024 →
    let v := leNat (readPlace (commitAll s l) p n)
    let old := ((coreOf s (coreOfHart id)).v.get 0 e.reg.toNat)
    ∃ t, runUnit s id k e va = .done t ∧ SameRegisters s t ∧ OnlyBytes s t l pa 0 ∧
      (∀ r, r ≠ e.reg.toNat → (coreOf t (coreOfHart id)).v.get 0 r = (coreOf s (coreOfHart id)).v.get 0 r) ∧
      let new := (coreOf t (coreOfHart id)).v.get 0 e.reg.toNat
      (e.half = 3 ∨ e.size = 3 → ∀ u, vElem (if e.size = 3 then 32 else 8 * n) u new =
        if u = e.unit.toNat then v else vElem (if e.size = 3 then 32 else 8 * n) u old) ∧
      (e.size = 0 → ∀ u h, h < 2 → vElem 4 (2 * u + h) new =
        if u = e.unit.toNat ∧ e.half.getLsbD h = true then v / 16 ^ h % 16 else vElem 4 (2 * u + h) old)) ∧
  (∀ (s : State) (id k n pa : Nat) (e : ReplayEntry) (va : Word) (l : List Resolved), n = sizeBytes e.size → e.size ≠ 3 → e.half = 3 →
    resolveRange s (hartCtx s id) (storeReq n) va n = .ok { pieces := [(.phys pa, n)], commits := l } → e.st = true →
    landsPlain (commitAll s l) pa n →
    ∃ t, runUnit s id k e va = .done t ∧ SameRegisters s t ∧ OnlyBytes s t l pa n ∧ readBytes t pa n = leBytes n e.data.toNat) ∧
  (∀ (i : Instr) (f : FmtR) (s : State) (load : Bool) (srcs : List Opnd) (others : List Nat) (units : List VUnit) (bytes : Nat),
    vmForm s i = some (f, load, srcs, others, units, bytes) → admitted i s = true →
    acknowledgedOn s (leadHart s) (· == (f.mod.extractLsb' 0 4).toNat) = true →
    (∀ n ∈ others, liveLoad (hartOf s (leadHart s)) (BitVec.ofNat 5 n) = false) →
    vGoes s (srcs ++ if f.mod.getLsbD 8 then [f.c] else []) (others ++ if load then [f.d.num.toNat] else []) = true →
    ((hartOf s (leadHart s)).vdone = [] → meetsEntry (hartOf s (leadHart s)) units = false) → (load = true → chained s f units = false) →
    let left := units.filter fun u => !(hartOf s (leadHart s)).vdone.contains u.entry.unit.toNat
    let o := unitOrder s (leadHart s) left
    let r := o.1.foldl (runOne (leadHart s)) { s := o.2 }
    let meet (u v : VUnit) := unitsMeet (u.lane, u.places s (leadHart s)) (v.lane, v.places s (leadHart s))
    o.1.Perm left ∧ (∀ n, o.1.filter (fun u => u.entry.unit.toNat % 32 == n) = left.filter (fun u => u.entry.unit.toNat % 32 == n)) ∧
    (left.all (fun u => !u.entry.st || left.all fun v => !meet u v) = true → o = (left, s)) ∧
    (r.stop = false → r.wait = false →
    exec i s = .next (dropReplies (advance (endVector (if load then endLoad r.s (leadHart s) f.d.num.toNat bytes true else r.s)))
      (leadHart s)))) ∧
  (∀ (f : FmtR) (s : State) (u : VUnit) (load : Bool),
    (u ∈ (vmList s f (!load) fun u => xRead s f.a + BitVec.ofNat 64 (u * vmSize (vmCode s f))) →
      u.va = BitVec.ofNat 64 ((xRead s f.a).toNat + u.entry.unit.toNat * vmSize (vmCode s f))) ∧
    (u ∈ vmList s f (!load) (fun u => xRead s f.a + BitVec.ofNat 64 u * xRead s f.b) →
      u.va = BitVec.ofInt 64 ((xRead s f.a).toInt + (u.entry.unit.toNat : Int) * (xRead s f.b).toInt)) ∧
    (u ∈ vmList s f (!load) (fun u => xRead s f.a + vmIndex s f u * BitVec.ofNat 64 (vmSize (vmCode s f))) →
      u.va = BitVec.ofInt 64 ((xRead s f.a).toInt + (BitVec.ofNat 32 (vAt s 32 (f.b.num.toNat + u.entry.unit.toNat / 256)
        (u.entry.unit.toNat % 256))).toInt * (vmSize (vmCode s f) : Int))) ∧
    ((vCore s).vl ≤ 2048 → u ∈ vscList s f → u.va = BitVec.ofNat 64 ((xRead s f.a).toNat + 3 * u.entry.unit.toNat)))

/-- MMA, MMAS, MZERO, MPIN, MUNPIN, MXFL, MFIND, MDELTA, MREAD; MATRIX_COMPLETE and the ownership service. Admitted, slots ready, room for
a ninth instruction in flight. MMA, MMAS, descriptors passing R458 (else they trap late; MMAS with SPN 0 too): on each core of R298 the
words of its tile's rows and columns are the chains of R163 and R164 over A and B from the old word, or 0 with ACCZ, all at issue (log 62;
with SRC 1 the tile of the issuing core, log 29); other words stand, D is 1, the slot not full. MZERO: words, sticky, PROG, GRP zero, D 1.
MPIN: P, the key and the scope of a live record of the subtree (A is set where it was read); MUNPIN clears them. MXFL: x[DA] is sticky,
cleared with DK[0]. MFIND: the slot of the key, or all ones. MDELTA from PROG on: rows of S and outputs of R305, PROG 0. MREAD: the
products of S's rows with each q. No other slot, register or memory changes. MATRIX_COMPLETE makes the slot of work in flight full, else
it does nothing (log 11); OWNERSHIP_MISS_SERVICE serves the miss of the hart that stands there. -/
def Obligations.MatrixUnitResults : Prop :=
  (∀ (i : Instr) (f : FmtX) (p : Prod) (s : State), productOf i s = some (f, p) → admitted i s = true →
    p.check s (curCore s) (instrWord i) = .ok () → (p.staged = true → ((vCore s).tiles.get {} p.bOff).st ≠ .loading) →
    inFlight (vCore s) < 8 →
    (∀ x ∈ p.targets (curCore s), slotReady s x.1 p.slot true = true) →
    ∃ t, exec i s = .next t ∧ ctl t = nextPlace s ∧ SlotFrame s t ((p.targets (curCore s)).map fun x => (x.1, p.slot)) [] none ∧
      ∀ x ∈ p.targets (curCore s),
        let new := slotOf t x.1 p.slot
        let old := slotOf s x.1 p.slot
        let word := fun a b => productWord s p (curCore s) x.1 x.2.1 x.2.2 a b (slotAt s x.1 p.slot a b)
        new.full = false ∧ new.d = true ∧ new.grp = (if p.coop then BitVec.ofNat 6 (32 + 8 * x.2.1 + x.2.2) else 0) ∧
        (∀ a b, a < 128 → b < 128 → slotAt t x.1 p.slot a b =
          if a < p.rows x.2.1 ∧ b < p.cols x.2.2 then (word a b).val % 2 ^ 32 else slotAt s x.1 p.slot a b) ∧
        ∀ k, new.sticky.getLsbD k = (old.sticky.getLsbD k ||
          (List.range (p.rows x.2.1)).any fun a => (List.range (p.cols x.2.2)).any fun b => (word a b).fl.getLsbD k)) ∧
  (∀ (i : Instr) (f : FmtX) (p : Prod) (s : State) (e : BitVec 8 × Word), productOf i s = some (f, p) → admitted i s = true →
    p.check s (curCore s) (instrWord i) = .error e → cancelled s = false → TrapsLate i s e.1 e.2) ∧
  (∀ (f : FmtX) (s : State), f.spn = 0 → admitted (.mmas f) s = true → cancelled s = false →
    TrapsLate (.mmas f) s Cause.reservedField (instrWord (.mmas f))) ∧
  (∀ (f : FmtX) (s : State), admitted (.mzero f) s = true → slotReady s (curCore s) f.slot.toNat true = true →
    ∃ t, exec (.mzero f) s = .next t ∧ ctl t = nextPlace s ∧ SlotFrame s t [(curCore s, f.slot.toNat)] [] none ∧
      slotOf t (curCore s) f.slot.toNat =
        { slotOf s (curCore s) f.slot.toNat with words := 0, sticky := 0, prog := 0, grp := 0, d := true, full := false }) ∧
  (∀ (f : FmtX) (s : State) (x : Nat × Nat), admitted (.mpin f) s = true → liveScope s (leadHart s) (xRead s f.db) = some x →
    slotReady s (curCore s) f.slot.toNat false = true → (slotOf s (curCore s) f.slot.toNat).p = false →
    findKey s (curCore s) (hartOf s (leadHart s)).context (hartOf s (leadHart s)).spillbase (xRead s f.dk) (some f.slot.toNat) = .ok none →
    ∃ t, exec (.mpin f) s = .next t ∧ ctl t = nextPlace s ∧
      SlotFrame (liveScopeReads s (leadHart s) (xRead s f.db)) t [(curCore s, f.slot.toNat)] [] none ∧
      slotOf t (curCore s) f.slot.toNat =
        { slotOf s (curCore s) f.slot.toNat with p := true, key := xRead s f.dk, scopeId := BitVec.ofNat 32 (recId x.2) }) ∧
  (∀ (f : FmtX) (s : State), admitted (.munpin f) s = true → slotReady s (curCore s) f.slot.toNat false = true →
    ((slotOf s (curCore s) f.slot.toNat).p = true → ∃ t, exec (.munpin f) s = .next t ∧ ctl t = nextPlace s ∧
      SlotFrame s t [(curCore s, f.slot.toNat)] [] none ∧
      slotOf t (curCore s) f.slot.toNat = { slotOf s (curCore s) f.slot.toNat with p := false, key := 0, scopeId := 0 }) ∧
    ((slotOf s (curCore s) f.slot.toNat).p = false → cancelled s = false →
      TrapsLate (.munpin f) s Cause.slotpin (BitVec.ofNat 64 f.slot.toNat))) ∧
  (∀ (f : FmtX) (s : State), admitted (.mxfl f) s = true → slotReady s (curCore s) f.slot.toNat false = true →
    ∃ t, exec (.mxfl f) s = .next t ∧ ctl t = nextPlace s ∧ SlotFrame s t [(curCore s, f.slot.toNat)] [] (some f.da.num.toNat) ∧
      ((hartOf t (leadHart s)).get f.da.num.toNat =
        if f.da.num.toNat = 0 then 0 else BitVec.ofNat 64 (slotOf s (curCore s) f.slot.toNat).sticky.toNat) ∧
      slotOf t (curCore s) f.slot.toNat = (if f.dk.bits.getLsbD 0 then { slotOf s (curCore s) f.slot.toNat with sticky := 0 }
        else slotOf s (curCore s) f.slot.toNat)) ∧
  (∀ (f : FmtX) (s : State) (r : Option Nat), admitted (.mfind f) s = true →
    findKey s (curCore s) (hartOf s (leadHart s)).context (hartOf s (leadHart s)).spillbase (xRead s f.dk) none = .ok r →
    ∃ t, exec (.mfind f) s = .next t ∧ ctl t = nextPlace s ∧ RegisterFrame s t [leadHart s] f.da.num.toNat ∧
      (hartOf t (leadHart s)).get f.da.num.toNat =
        if f.da.num.toNat = 0 then 0 else match r with
          | some n => BitVec.ofNat 64 n
          | none => BitVec.ofInt 64 (-1)) ∧
  (∀ (f : FmtX) (s : State) (d : Fast), admitted (.mdelta f) s = true → d = { raw := (xRead s f.dk).toNat } →
    fastCheck (.mdelta f) s f d (fastGroup d.kreg (d.t * d.dk) ++ fastGroup d.qreg (d.t * d.dk) ++ fastGroup d.vreg (d.t * d.dv) ++ [d.greg])
      (fastGroup d.oreg (d.t * d.dv)) true = .ok () →
    (∀ n ∈ fastGroup d.kreg (d.t * d.dk) ++ fastGroup d.qreg (d.t * d.dk) ++ fastGroup d.vreg (d.t * d.dv) ++ [d.greg] ++
      fastGroup d.oreg (d.t * d.dv), vEmpty (vCore s) n = false) →
    inFlight (vCore s) < 8 → slotReady s (curCore s) f.slot.toNat true = true → (slotOf s (curCore s) f.slot.toNat).p = true →
    let old := slotOf s (curCore s) f.slot.toNat
    let tok := fun (r : Nat) (n k : Nat) => (List.range n).map fun e => vAt s 32 (r + (k * n + e) / 256) ((k * n + e) % 256)
    let rows := (List.range d.dv).map fun a => (List.range d.dk).map fun b => slotAt s (curCore s) f.slot.toNat a b
    let go := (List.range (d.t - old.prog.toNat)).foldl (fun (acc : List (List Nat) × List Nat × Flg) j =>
      let k := old.prog.toNat + j
      let r := deltaToken acc.1 (tok d.kreg d.dk k) (tok d.qreg d.dk k) (tok d.vreg d.dv k) (vAt s 32 d.greg k) (vAt s 32 d.greg (16 + k)) acc.2.2
      (r.1, acc.2.1 ++ r.2.1, r.2.2)) (rows, [], old.sticky)
    ∃ t, exec (.mdelta f) s = .next t ∧ ctl t = nextPlace s ∧
      SlotFrame s t [(curCore s, f.slot.toNat)] (fastGroup d.oreg (d.t * d.dv)) none ∧
      (slotOf t (curCore s) f.slot.toNat).prog = 0 ∧ (slotOf t (curCore s) f.slot.toNat).sticky = go.2.2 ∧
      (slotOf t (curCore s) f.slot.toNat).full = false ∧
      (∀ a b, a < 128 → b < 128 → slotAt t (curCore s) f.slot.toNat a b =
        if a < d.dv ∧ b < d.dk then (go.1.getD a []).getD b 0 % 2 ^ 32 else slotAt s (curCore s) f.slot.toNat a b) ∧
      ∀ e, old.prog.toNat * d.dv ≤ e → e < d.t * d.dv →
        vAt t 32 (d.oreg + e / 256) (e % 256) = go.2.1.getD (e - old.prog.toNat * d.dv) 0 % 2 ^ 32) ∧
  (∀ (f : FmtX) (s : State) (d : Fast), admitted (.mread f) s = true → d = { raw := (xRead s f.dk).toNat } →
    fastCheck (.mread f) s f d (fastGroup d.qreg (d.t * d.dk)) (fastGroup f.da.num.toNat (d.t * d.dv))
      (d.oreg == 0 && d.greg == 0 && d.vreg == 0 && d.kreg == 0) = .ok () →
    (∀ n ∈ fastGroup d.qreg (d.t * d.dk) ++ fastGroup f.da.num.toNat (d.t * d.dv), vEmpty (vCore s) n = false) →
    slotReady s (curCore s) f.slot.toNat false = true → (slotOf s (curCore s) f.slot.toNat).p = true →
    ∃ t, exec (.mread f) s = .next t ∧ ctl t = nextPlace s ∧
      SlotFrame s t [(curCore s, f.slot.toNat)] (fastGroup f.da.num.toNat (d.t * d.dv)) none ∧
      (∀ a b, slotAt t (curCore s) f.slot.toNat a b = slotAt s (curCore s) f.slot.toNat a b) ∧
      ∀ k a, k < d.t → a < d.dv → vAt t 32 (f.da.num.toNat + (k * d.dv + a) / 256) ((k * d.dv + a) % 256) =
        ((List.range d.dk).foldl (fun acc b => (fma32 (slotAt s (curCore s) f.slot.toNat a b)
          (vAt s 32 (d.qreg + (k * d.dk + b) / 256) ((k * d.dk + b) % 256)) acc).val) 0) % 2 ^ 32) ∧
  (∀ (s : State) (c n : Nat), c < 128 → n < 8 →
    (n ∉ (coreOf s c).mpend → workAt s c n (fun _ => true) = none → exec (.matrixComplete c n) s = .next s) ∧
    (∀ x, n ∉ (coreOf s c).mpend → workAt s c n (fun w => !w.again) = some x →
      ∃ t, exec (.matrixComplete c n) s = .next t ∧ slotOf t c n = { slotOf s c n with full := true } ∧ SameRegisters s t ∧ SameMemory s t ∧
        ∀ k m, ¬(k = c ∧ m = n) → slotOf t k m = slotOf s k m) ∧
    (∀ k j w, n ∉ (coreOf s c).mpend → workAt s c n (fun w => !w.again) = none → workAt s c n (fun w => w.again) = some (k, j) →
      (coreOf s k).matrix[j]? = some w → (w.entry.fpend = true ∨ whereStep s w.entry.info ≠ .core k ∨ (coreOf s k).phase ≠ .running) →
      exec (.matrixComplete c n) s = .next s) ∧
    (n ∈ (coreOf s c).mpend → ∃ t, exec (.matrixComplete c n) s = .next t ∧ (coreOf t c).mpend = (coreOf s c).mpend.erase n ∧
      slotOf t c n = { slotOf s c n with full := decide (n ∉ (coreOf s c).mpend.erase n) || (slotOf s c n).full } ∧
      ∀ m, m ≠ n → slotOf t c m = slotOf s c m)) ∧
  (∀ (s : State) (c n : Nat) (ctx : BitVec 16), c < 128 → n < 8 →
    let h := hartOf s (xHartId c)
    let here := h.run = .running ∧ h.context = ctx ∧ slotFree s c n ctx false = true ∧ (standsAt s (xHartId c)).bind namedSlot = some n
    (¬here → exec (.ownershipMissService c n ctx) s = .next s) ∧
    (here → deviceArea s (spillAddr h.spillbase c n) 128 = true → spillLive s (spillAddr h.spillbase c n) = false →
      (slotOf s c n).v = false → firstPoison s (spillAddr h.spillbase c n) 128 = none →
      ∃ t, exec (.ownershipMissService c n ctx) s = .next t ∧ slotOf t c n = { owner := ctx, v := true } ∧ SameRegisters s t ∧ SameMemory s t))

/-- Steps of the device on harts, registers, TLBs, overlays, replay queues and row registers, and when they stutter. A_HART_START starts
the A-hart of a waiting FORK. MWAIT_TIMEOUT ends a wait with its code; MONITOR_LOST drops a monitor; KILL_POINT_STOP stops a cancelled
hart once its stores at peers are performed. OVERLAY_BLOCK_LAND lands the image's bytes, unless a frame in use lies there. The TLBINV
steps drop what they name, REGISTER_WRITE and GOVSTAT_DROOP_CLEAR write a register, CONTEXT_ENTRY_INVALIDATE clears V, RCOUNT_DISCARD
empties the replay queue, REPLAY_UNIT_ROOM retries a unit, LATE_FAULT undoes what ran ahead of the queue (log 6) and traps at its head,
VECTOR_LINE_FETCH changes nothing. Row registers open after tRCD 18, restore after tRAS 48, end writers and write-backs; marks of tRP, REF
and the window of 48 expire; debt rises; REFDUE traps; a forced refresh begins and ends. Not due, each leaves the state as it is, by the
model's choice (log 11); so are the debt and pointer of a refresh that the device makes itself and how a forced one begins (log 42). -/
def Obligations.DeviceStepsOfHartsAndRows : Prop :=
  (∀ (s : State) (k : Nat) (f : FmtR), k < 128 →
    ((hartOf s (xHartId k)).run = .running → (hartOf s (xHartId k)).parked = true → standsAt s (xHartId k) = some (.fork f) →
      ((hartOf s (xHartId k)).opnd f.a).toNat % 4 = 0 → (hartOf s (aHartId k)).run = .idle →
      ∃ t, exec (.aHartStart k) s = .next t ∧ (hartOf t (aHartId k)).run = .running ∧
        (hartOf t (aHartId k)).pc = (hartOf s (xHartId k)).opnd f.a ∧ (hartOf t (aHartId k)).loops = [] ∧
        (hartOf t (xHartId k)).parked = false ∧ ∀ n, 1 ≤ n → n ≤ 7 → (hartOf t (aHartId k)).get n = (hartOf s (xHartId k)).get n) ∧
    ((hartOf s (xHartId k)).parked = false → exec (.aHartStart k) s = .next s)) ∧
  (∀ (s : State) (id : Nat) (f : FmtR) (code : Word), hasMonitor id = true →
    ((hartOf s id).run = .running → (hartOf s id).mwaitFrom.isSome = true → standsAt s id = some (.mwait f) →
      waitEnds (hartOf s id) (clockOfHart s id).ltime ((hartOf s id).opnd f.a) = some code →
      ∃ t, exec (.mwaitTimeout id) s = .next t ∧ (hartOf t id).monitor = none ∧ (hartOf t id).mwaitFrom = none ∧ (hartOf t id).parked = false ∧
        (hartOf t id).get f.d.num.toNat = if f.d.num.toNat = 0 then 0 else code) ∧
    ((hartOf s id).mwaitFrom = none → exec (.mwaitTimeout id) s = .next s ∧
      exec (.monitorLost id) s = .next (modHart s id fun h => { h with monitor := h.monitor.map fun m => { m with lost := true } }))) ∧
  (∀ (s : State) (id : Nat) (i : StepInfo), id < 256 →
    ((hartOf s id).killReq = true → (hartOf s id).live = true → atKillPoint s id = true → stepOfHart s id = some i →
      (coreOf s (coreOfHart id)).vqueue = [] →
      outstanding s id (fun p => p.kind != .copy && !p.wants) = false →
      ∃ t, exec (.killPointStop id) s = .next t ∧ (hartOf t id).run = .idle ∧ (hartOf t id).killReq = false ∧ t.cur = s.cur) ∧
    ((hartOf s id).killReq = false → exec (.killPointStop id) s = .next s)) ∧
  (∀ (s : State) (n k pa : Nat), overlayExists n = true → k < overlayBlocks n →
    ((blockAt s n k).st = .pending → (blockAt s n k).image = some pa → firstPoison s pa 128 = none →
      ∃ t, exec (.overlayBlockLand n k) s = .next t ∧ (blockAt t n k).st = .landed ∧
        (∀ j, j ≠ k → { blockAt t n j with reissue := (blockAt s n j).reissue } = blockAt s n j) ∧
        (((framesInUse s).any fun f => overlaps pa 128 f.1 f.2) = false → recordsHit s pa 128 = [] →
          (blockAt t n k).bytes = BitVec.ofNat 1024 (readNat s pa 128))) ∧
    ((blockAt s n k).st ≠ .pending → exec (.overlayBlockLand n k) s = .next s)) ∧
  (∀ (s : State) (c : BitVec 16) (va : BitVec 38),
    (tlbBusy s (c ++ 0#10 ++ va) = false →
      exec (.tlbinvVa c va) s = .next { s with tlb := s.tlb.filter fun e => !(e.context == c && e.covers va.toNat) }) ∧
    (tlbBusy s (c ++ 1#2 ++ 0#46) = false → exec (.tlbinvContext c) s = .next { s with tlb := s.tlb.filter fun e => e.context != c }) ∧
    (tlbBusy s (0#16 ++ 2#2 ++ 0#46) = false → exec .tlbinvAll s = .next { s with tlb := [] })) ∧
  (∀ (s : State) (id a : Nat) (v w : Word) (k : HartKind), kindOfId id = some k →
    (∃ t, exec (.govstatDroopClear id) s = .next t ∧ clockOfHart t id = { clockOfHart s id with droop := false }) ∧
    (∃ t, exec (.rcountDiscard id) s = .next t ∧ (hartOf t id).replay = [] ∧ SameMemory s t ∧ SameRegisters s t ∧
      (coreOf t (coreOfHart id)).v = (coreOf s (coreOfHart id)).v) ∧
    (csrPlain k a v = true → a ≠ 0x12 → controlStored a v = some w →
      ∃ t, exec (.registerWrite id a v) s = .next t ∧ controlValue t id a = w) ∧
    (csrPlain k a v = false → exec (.registerWrite id a v) s = .next s)) ∧
  (∀ (s : State) (c : Nat), c < 8192 → ∃ t, exec (.contextEntryInvalidate c) s = .next t ∧
    ∀ d, t.contexts.get {} d = if d = c then { s.contexts.get {} c with v := false } else s.contexts.get {} d) ∧
  (∀ (s : State) (id : Nat) (e : ReplayEntry) (l : List ReplayEntry) (c : BitVec 8), id < 256 → (hartOf s id).roomWait = e :: l →
    ((hartOf s id).ih = true ∨ 64 ≤ (hartOf s id).replay.length → exec (.replayUnitRoom id) s = .next s) ∧
    ((hartOf s id).ih = false → (hartOf s id).replay.length < 64 → runUnit s id 0 e (e.va.setWidth 64) = .bad c →
      ∃ t, exec (.replayUnitRoom id) s = .next t ∧ (hartOf t id).roomWait = l ∧
        (hartOf t id).replay = (hartOf s id).replay ++ [{ e with cause := c }])) ∧
  (∀ (s : State) (k : Nat) (code : BitVec 8) (info : Word) (q : QueueEntry) (l : List QueueEntry), k < 128 →
    ((coreOf s k).vqueue = [] → exec (.lateFault k code info) s = .next s) ∧
    ((coreOf s k).vqueue = q :: l → (hartOf s (xHartId k)).live = true → (hartOf s (xHartId k)).killReq = false →
      canTrap (hartOf s (xHartId k)) = true →
      ∃ t, exec (.lateFault k code info) s = .next t ∧ (coreOf t k).vqueue = [] ∧
        (∀ n, (hartOf t (xHartId k)).get n = ((hartOf s (xHartId k)).rewind (q :: l)).get n) ∧
        (hartOf t (xHartId k)).pc = (hartOf s (xHartId k)).trapvec ∧ (hartOf t (xHartId k)).trappc = q.pc ∧
        (hartOf t (xHartId k)).code = code ∧ (hartOf t (xHartId k)).trapinfo = info ∧ (hartOf t (xHartId k)).late = true)) ∧
  (∀ (s : State) (k r : Nat), k < 128 → exec (.vectorLineFetch k r) s = .next s) ∧
  (∀ (s : State) (g b n : Nat), g < 1152 → b < 8 → n < 8 →
    let r := regOf s g b n
    let sag := (bankOf s g b).sag n
    let now := rcOf s g
    (r.st = .opening → r.actAt + 18 ≤ now → ∃ t, exec (.rowOpen g b n) s = .next t ∧ regOf t g b n = { r with st := .opened }) ∧
    (r.st ≠ .opening ∨ now < r.actAt + 18 → exec (.rowOpen g b n) s = .next s) ∧
    ((r.st = .opened ∨ r.st = .busy) → r.restored = false → r.actAt + 48 ≤ now → r.lasting = false →
      ∃ t, exec (.rowRestored g b n) s = .next t ∧ regOf t g b n = { r with restored := true }) ∧
    (r.restored = true ∨ now < r.actAt + 48 → exec (.rowRestored g b n) s = .next s) ∧
    (r.st = .busy → r.busyEnd ≤ now → ∃ t, exec (.rowWriterComplete g b n) s = .next t ∧
      regOf t g b n = { r with st := .opened, dirty := r.dirty || r.busyDirty, busyDirty := false, freeAt := now }) ∧
    (r.st ≠ .busy ∨ now < r.busyEnd → exec (.rowWriterComplete g b n) s = .next s) ∧
    (∀ m close, r.wbEnd = some (m, close) → m ≤ now → ∃ t, exec (.writebackEnd g b n) s = .next t ∧
      (r.dirty = true → readNat t (rowAddr (regCoord g b n r)) 8192 = r.data.toNat) ∧ (r.dirty = false → SameMemory s t) ∧
      (close = true → (regOf t g b n).st = .closed) ∧ (close = false → regOf t g b n = { r with dirty := false, wbEnd := none })) ∧
    (r.wbEnd = none → exec (.writebackEnd g b n) s = .next s) ∧
    (∀ m close, r.wbEnd = some (m, close) → now < m → exec (.writebackEnd g b n) s = .next s) ∧
    (0 < sag.preEnd → sag.preEnd ≤ now → ∃ t, exec (.prechargeEnd g b n) s = .next t ∧ (bankOf t g b).sag n = { sag with preEnd := 0 }) ∧
    (sag.preEnd = 0 ∨ now < sag.preEnd → exec (.prechargeEnd g b n) s = .next s) ∧
    (0 < sag.refEnd → sag.refEnd ≤ now → sag.forced = false → ∃ t, exec (.refreshEnd g b n) s = .next t ∧
      (bankOf t g b).sag n = { sag with refEnd := 0 }) ∧
    (sag.refEnd = 0 ∨ now < sag.refEnd ∨ sag.forced = true → exec (.refreshEnd g b n) s = .next s) ∧
    (∃ t, exec (.refreshDebtRise g) s = .next t ∧ (bankOf t g b).sag n =
      if leased s g = false ∨ (r.st = .rescued ∧ sag.forced = false) then { sag with nextRow := (sag.nextRow + 6) % 768 }
      else if ctxRunning s (perOf s g).lessee = false ∧ r.st = .closed ∧ sag.forced = false then
        { sag with debt := 0, due := false, nextRow := (sag.nextRow + 6 * (sag.debt + 1)) % 768 }
      else { sag with debt := min 15 (sag.debt + 1), due := sag.due || sag.debt == 5 }) ∧
    (refdueOf s g b = false → exec (.refdue g b) s = .next s) ∧
    (refdueOf s g b = true → issues s g b = true → leaseCounts s g = true → (perOf s g).gang = false → (perOf s g).dual = false →
      canTrap (hartOf s (bankId g b)) = true → (hartOf s (bankId g b)).killReq = false →
      ∃ t, exec (.refdue g b) s = .next t ∧ (hartOf t (bankId g b)).code = Cause.refdue ∧ (hartOf t (bankId g b)).trapinfo = refdueMask s g b ∧
        (hartOf t (bankId g b)).trappc = (hartOf s (bankId g b)).pc ∧ (hartOf t (bankId g b)).pc = (hartOf s (bankId g b)).trapvec ∧
        ∀ m, ((bankOf t g b).sag m).due = false) ∧
    (leased s g = true → 9 ≤ sag.debt → sag.forced = false → r.st = .closed → ∃ t, exec (.forcedRefresh g b n) s = .next t ∧
      t.errLog.length = s.errLog.length + 1 ∧
      (bankOf t g b).sag n = { sag with forced := true, refEnd := max now (max sag.preEnd sag.refEnd) + 90 * sag.debt }) ∧
    (leased s g = true → 9 ≤ sag.debt → sag.forced = false → r.st = .opened → r.restored = true → r.wbEnd = none → r.readEnd ≤ now →
      ∃ t, exec (.forcedRefresh g b n) s = .next t ∧ (regOf t g b n).st = .rescued ∧ (regOf t g b n).rsaved = r.dirty ∧
        ((bankOf t g b).sag n).forced = true ∧
        (r.dirty = true → readNat t (rowAddr (rowCoord g b (6136 + n))) 8192 = r.data.toNat)) ∧
    (leased s g = false ∨ sag.debt ≤ 8 ∧ sag.forced = false → exec (.forcedRefresh g b n) s = .next s) ∧
    (sag.forced = true → (r.st = .closed ∨ r.st = .rescued) → sag.refEnd ≤ now → ∃ t, exec (.forcedRefreshDone g b n) s = .next t ∧
      (bankOf t g b).sag n = { sag with debt := 0, due := false, nextRow := (sag.nextRow + 6 * sag.debt) % 768, forced := false, refEnd := 0 }) ∧
    (sag.forced = false ∨ now < sag.refEnd → exec (.forcedRefreshDone g b n) s = .next s)) ∧
  (∀ (s : State) (l : Nat), l < 144 → ∃ t, exec (.activationWindowExpiry l) s = .next t ∧
    (layerOf t l).acts = (layerOf s l).acts.filter (fun x => decide (rcOf s (8 * l) < x + 48)) ∧ SameMemory s t ∧ SameRegisters s t)

/-- Steps of walkers, halts and leases: what dispatch, start, save, stop, resume, kill, intake and lease ends leave. UNIT_STOP in a
halting context stops the unit's step, its accesses performed, and counts it; HALT_COMPLETE halts the context; HALTCTL_HALT, RESUME and
KILL do as R444 to R448 say: a HALT of a halting context gives its first step without a record of its own one of KIND 10 (log 78); KILL
ends the stopped steps and cancels the root scopes, CANCELLER 0xFFFF. CORE_FREE_SELECT gives a free core the next step of the first queue
head it may take, with the context entry's registers, ROW_STEP_DISPATCH gives a free Pergola the step claimed for it. STEP_START of a
landed step leaves the harts as R33 or R40 say: entry, origins in x1 to x6, arguments in x7, x8 of a bank its row coordinate, other
registers 0, no loops, no flags, vl 0. PREEMPTION_SAVE sets the step of a core aside. INTAKE_TAKE moves CURSOR to the block taken.
DOCCTL_RESTART clears DOCSTAT and restarts the docent at its entry where code has landed (log 15). LEASE_REMAIN_EXPIRY and WATCHDOG_EXPIRY
end the lease, rows closed. Where its condition does not hold, each leaves the state as it is, by the model's choice (log 11). -/
def Obligations.DeviceStepsOfTheScheduler : Prop :=
  (∀ (s : State) (k : Nat) (i : StepInfo), k < 128 →
    ((coreOf s k).step = some i → (coreOf s k).phase = .running → (haltOf s i.context).st = .halting → accessesDone s k = true →
      ∃ t, exec (.unitStop (.core k)) s = .next t ∧ (coreOf t k).phase = .stopped ∧ (haltOf t i.context).st = .halting ∧
        (haltOf t i.context).cstop = (haltOf s i.context).cstop + 1) ∧
    ((coreOf s k).step = none → exec (.unitStop (.core k)) s = .next s ∧ exec (.preemptionSave k) s = .next s)) ∧
  (∀ (s : State) (g : Nat) (i : StepInfo), g < 1152 →
    ((perOf s g).step = some i → (perOf s g).phase = .running → (haltOf s i.context).st = .halting → (perOf s g).actDone = 0 →
      ∃ t, exec (.unitStop (.pergola g)) s = .next t ∧ (perOf t g).phase = .stopped ∧
        (haltOf t i.context).rowstop = (haltOf s i.context).rowstop + 1) ∧
    ((perOf s g).step = none → exec (.unitStop (.pergola g)) s = .next s)) ∧
  (∀ (s : State) (c : Nat), 1 ≤ c → c < 8192 →
    let x := BitVec.ofNat 16 c
    let h := haltOf s x
    (h.st = .halting → allStopped s x = true → ∃ t, exec (.haltComplete c) s = .next t ∧ haltOf t x = { h with st := .halted } ∧
      SameMemory s t ∧ SameRegisters s t) ∧
    (h.st ≠ .halting → exec (.haltComplete c) s = .next s) ∧
    (∃ t, exec (.haltctlHalt c) s = .next t ∧ SameRegisters s t ∧ haltOf t x =
        (if h.st = .running then { h with st := .halting, seq := h.seq + 1, origin := 0xFFFF, cause := Cause.halted, engine := 7, pwr := false,
                                          rowstop := 0, cstop := 0 } else h) ∧
      (h.st = .running → SameMemory s t) ∧
      ∀ k i rest, h.st ≠ .running → faultlessUnits s x = .core k :: rest → (coreOf s k).step = some i →
        ((coreOf s k).phase ≠ .stopped → (coreOf s k).fault = none →
          (coreOf t k).fault = some { cause := Cause.halted, origin := 0xFFFF, engine := 7, info := 2, fpc := 0 }) ∧
        ((coreOf s k).phase = .stopped → deviceArea s ((coreOf s k).frame + 0x8000) 64 = true →
          headerKind (readNat t ((coreOf s k).frame + 0x8000) 64) = 2)) ∧
    (h.st ≠ .halted → exec (.haltctlResume c) s = .next s ∧ exec (.haltctlKill c) s = .next s) ∧
    (h.st = .halted →
      (∃ t, exec (.haltctlResume c) s = .next t ∧
        ((haltOf t x).st = .running ∨ ∃ g i, (perOf s g).step = some i ∧ (perOf s g).phase = .stopped ∧ i.context = x) ∧
        ∀ k i, (coreOf s k).step = some i → (coreOf s k).phase = .stopped → i.context = x →
          (coreOf t k).step = none ∧ ∃ u ∈ (coreOf t k).suspended, u.info = i) ∧
      (∃ t, exec (.haltctlKill c) s = .next t ∧ t.cur = s.cur ∧
        ((haltOf t x).st = .halted ∧ (haltOf t x).killing = true ∨ (haltOf t x).st = .running ∧ (haltOf t x).killing = false) ∧
        (∀ k i, k < 128 → (coreOf s k).step = some i → (coreOf s k).phase = .stopped → i.context = x → (hartOf s (xHartId k)).live = true →
          (∀ id ∈ [aHartId k, xHartId k], outstanding s id (fun p => p.kind != .copy && !p.wants) = false) →
          (coreOf t k).step = none ∧ (hartOf t (xHartId k)).live = false ∧ (hartOf t (aHartId k)).live = false) ∧
        ((∀ d, (haltOf s d).killing = false) → holdsNothing s x = true →
          ∀ q ∈ knownScopes s x, recState (recordAt s q) = 0 → recParent (recordAt s q) = 0 → lineClear s x q →
            (recState (recordAt t q) = 1 ∨ recState (recordAt t q) = 2) ∧ bits (recordAt t q) 432 16 = 0xFFFF)))) ∧
  (∀ (s : State) (k p : Nat) (r : BlockRef) (b : Block) (m : RangeMap), k < 128 →
    (coreFree s k = false ∨ launchesTaken s = false → exec (.coreFreeSelect k) s = .next s) ∧
    (coreFree s k = true → launchesTaken s = true → (∀ q, q < 4 → (wingOf s (k / 16)).grants.get 0 q < 64) → wingSuspended s (k / 16) = [] →
      poisonedHead s (wingOf s (k / 16)).queues = none → p < 4 → (∀ q, q < p → queueHead s (k / 16) k q = none) → queueHead s (k / 16) k p = some r → queued? s r = some b →
      (s.contexts.get {} r.context.toNat).v = true →
      segmentCheck (claim s r b) (entryCtx (claim s r b) r.context) (k / 2) (BitVec.ofNat 64 (blkCode b)) (blkSegoff b) (blkSeglen b) = .ok m →
      ∃ t, exec (.coreFreeSelect k) s = .next t ∧ (coreOf t k).step = some (stepInfo s b r (blkNext b)) ∧ (coreOf t k).phase = .landing ∧
        hartOf t (aHartId k) = entryHart s (stepInfo s b r (blkNext b)) ∧ hartOf t (xHartId k) = entryHart s (stepInfo s b r (blkNext b)))) ∧
  (∀ (s : State) (g w : Nat) (c : RowClaim) (b : Block) (m : RangeMap), g < 1152 →
    (perFree s g = false ∨ launchesTaken s = false → exec (.rowStepDispatch g) s = .next s) ∧
    (perFree s g = true → launchesTaken s = true →
      poisonedHead s ((List.range 8).map fun w => (wingOf s w).queues ++ (wingOf s w).rowClaims.map (·.block)).flatten = none → claimedFor s g (fun _ _ => true) = some (w, c) → queued? s c.block = some b →
      (s.contexts.get {} c.block.context.toNat).v = true → leasedTo s g c.block.context = true →
      let s1 := served (modWing s w fun v => { v with rowClaims := v.rowClaims.filter (· != c) }) g c.block
      segmentCheck s1 (entryCtx s1 c.block.context) (64 + g) (BitVec.ofNat 64 (blkCode b)) (blkSegoff b) (blkSeglen b) = .ok m →
      ∃ t, exec (.rowStepDispatch g) s = .next t ∧ (perOf t g).step = some (stepInfo s b c.block c.step) ∧ (perOf t g).phase = .landing)) ∧
  (∀ (s : State) (k : Nat) (i : StepInfo) (b : Block), k < 128 → (coreOf s k).step = some i → (coreOf s k).phase = .landing →
    readBlock s { hartCtx s (xHartId k) with pav := none } i.launch = .ok b →
    (ctxRunning s i.context = true → segmentsReady s (k / 2) i b false = true →
      ∃ t, exec (.stepStart (.core k)) s = .next t ∧ (coreOf t k).phase = .running ∧ (coreOf t k).vl = 0 ∧ (coreOf t k).vtype = 0xA ∧
        (coreOf t k).allot = allotOf (blkVallot b) ∧ (coreOf t k).hw = 0 ∧ (∀ r, (coreOf t k).v.get 0 r = 0 ∧ vEmpty (coreOf t k) r = false) ∧
        (hartOf t (xHartId k)).loops = [] ∧ (hartOf t (xHartId k)).flags = 0 ∧ (hartOf t (xHartId k)).nflags = 0 ∧
        (∀ n, 8 ≤ n → (hartOf t (xHartId k)).get n = 0) ∧ (hartOf t (xHartId k)).run = .running ∧ hartOf t (aHartId k) = hartOf s (aHartId k) ∧
        (hartOf t (xHartId k)).pc = BitVec.ofNat 64 (blkEntry b) ∧ (hartOf t (xHartId k)).get 7 = BitVec.ofNat 64 (blkArgs b) ∧
        ∀ l, l < 6 → (hartOf t (xHartId k)).get (1 + l) = BitVec.ofNat 64 ((origins b i.step).getD l 0)) ∧
    (ctxRunning s i.context = false ∧ (coreOf s k).fault = none ∨ segmentsReady s (k / 2) i b false = false → exec (.stepStart (.core k)) s = .next s)) ∧
  (∀ (s : State) (g : Nat) (i : StepInfo) (b : Block), g < 1152 → (perOf s g).step = some i → (perOf s g).phase = .landing →
    readBlock s (entryCtx s i.context) i.launch = .ok b → ctxRunning s i.context = true → leasedTo s g i.context = true →
    segmentsReady s (64 + g) i b false = true →
    ∃ t, exec (.stepStart (.pergola g)) s = .next t ∧ (perOf t g).phase = .running ∧ (perOf t g).gang = true ∧
      (perOf t g).pc = BitVec.ofNat 64 (blkEntry b) ∧ (perOf t g).loops = [] ∧ (∀ c, bankOf t g c = bankOf s g c) ∧
      ∀ c, c < 8 → (hartOf t (bankId g c)).run = .running ∧
        (hartOf t (bankId g c)).pred = true ∧ (hartOf t (bankId g c)).get 8 = BitVec.ofNat 64 (rowCoord g c 0) ∧
        (∀ l, l < 6 → (hartOf t (bankId g c)).get (1 + l) = BitVec.ofNat 64 ((origins b i.step).getD l 0)) ∧
        (hartOf t (bankId g c)).get 7 = BitVec.ofNat 64 (blkArgs b) ∧ (∀ n, 9 ≤ n → (hartOf t (bankId g c)).get n = 0) ∧
        (hartOf t (bankId g c)).flags = 0 ∧ (hartOf t (bankId g c)).nflags = 0) ∧
  (∀ (s : State) (k : Nat) (i : StepInfo), k < 128 → (coreOf s k).step = some i → (coreOf s k).phase = .running →
    ((coreOf s k).preemptReq = false → exec (.preemptionSave k) s = .next s) ∧
    ((coreOf s k).preemptReq = true → atPoint s (xHartId k) = true → atPoint s (aHartId k) = true →
      (hartOf s (xHartId k)).run ≠ .idle → accessesDone s k = true → i.killPa = none → deviceArea s (coreFrame s i.context k i.prio) 0xA000 = true →
      ∃ t u, exec (.preemptionSave k) s = .next t ∧ (coreOf t k).step = none ∧ (coreOf t k).suspended = (coreOf s k).suspended ++ [u] ∧
        u.info.launch = i.launch ∧ u.info.step = i.step ∧ u.frame = coreFrame s i.context k i.prio ∧
        (hartOf t (xHartId k)).run = .idle ∧ (hartOf t (aHartId k)).run = .idle)) ∧
  (∀ (s : State) (n : Nat) (ch : Chain) (a l : Nat × Nat), n < 64 →
    (s.chains.get none n = none → exec (.intakeTake n) s = .next s) ∧
    (s.chains.get none n = some ch → (wingOf s (n % 8)).docStopped = false → launchesTaken s = true → ctxRunning s ch.context = true →
      deviceRead s (entryCtx s ch.context) ch.anchor.toNat 64 64 = .ok a → ctxRunning s (BitVec.ofNat 16 (bits a.2 48 16)) = true →
      deviceRead s (entryCtx s ch.context) (bits a.2 128 64 + 96) 8 8 = .ok l →
      (l.2 = 0 → exec (.intakeTake n) s = .next s) ∧
      (l.2 ≠ 0 → blockPoison s (entryCtx s ch.context) (BitVec.ofNat 64 l.2) = none →
        ∃ t, exec (.intakeTake n) s = .next t ∧ readNat t (a.1 + 16) 8 = l.2))) ∧
  (∀ (s : State) (w : Nat), w < 8 →
    ((wingOf s w).docStopped = false → exec (.docctlRestart w) s = .next s) ∧
    ((wingOf s w).docStopped = true → ∃ t, exec (.docctlRestart w) s = .next t ∧
      wingOf t w = { wingOf s w with docStopped := false, docCause := 0, docChain := 0, docAddr := 0 } ∧
      (hartOf t (docentId w)).pc = Config.docentEntry w ∧
      (hartOf t (docentId w)).run = (if landed s (1216 + w) (Config.docentEntry w).toNat 4 then .running else .idle) ∧ SameMemory s t ∧ SameRegisters s t)) ∧
  (∀ (s : State) (g : Nat), g < 1152 →
    (leaseCounts s g = false → exec (.leaseRemainExpiry g) s = .next s ∧ exec (.watchdogExpiry g) s = .next s) ∧
    (leaseCounts s g = true → rowStepHere s g = none →
      ((perOf s g).remain = 0 → ∃ t, exec (.leaseRemainExpiry g) s = .next t ∧ (perOf t g).lessee = 0 ∧ (perOf t g).watchdog = none ∧
        ∀ b, b < 8 → (bankOf t g b).o = [] ∧ (bankOf t g b).q = [] ∧ (bankOf t g b).inbox = none) ∧
      ((perOf s g).watchdog = some 0 → ∃ t, exec (.watchdogExpiry g) s = .next t ∧ (perOf t g).lessee = 0 ∧ (perOf t g).remain = 0 ∧
        (t.errLog.map (·.kind)).head? = some 0x09 ∧ ∀ b, b < 8 → (bankOf t g b).o = [])))

/-- Steps of the Ndetrief, the host, peers and ports: governor, mailbox, CXL accesses, packets, realignment, start. GOVERNOR_SAMPLE, every
10 us of Ndetrief time, decides the steps of R24, GOVERNOR_STEP_DELIVERY puts them in force, DROOP_STRETCH, CLOCK_GATING after 10 ms
without a step and POWER_EMERGENCY set their bits. In service mailbox commands set DONE and STATUS and have the effects of R400. Where no
image is in use, host and peer writes leave their bytes in memory and reads answer with the bytes there, refused packets answer with their
cause; an atomic leaves the result of R312; a snoop writes the line or loses its monitors. An acknowledgement or refusal removes the
packet; LINKERR_CLEAR clears; ports replay, retrain and go down; the stack port replays and then poisons; a layer realigns or defers;
BUNDLESTAT is acknowledged and re-striped; POWER_UP starts with empty memory and the logs kept. The model's choices: an event that is not
due does nothing (log 11), when samples are taken (log 41), what a start keeps (log 44), REGCHAIN's status for a bad context (log 54), the
log entry of port poison (log 56), how the host and peers get their answers (log 59) and that SPDM answers with the bare measurement (log
65). -/
def Obligations.DeviceStepsFromOutside : Prop :=
  (∀ (s : State) (c r f flow temp : Nat), s.nd.ltime.toNat < s.nd.nextSample → ∃ t, exec (.governorSample c r f flow temp) s = .next t ∧
    t.nd = { s.nd with supply := { compute := c, row := r, fixed := f, flow := flow, temp := temp } } ∧ SameMemory s t ∧ SameRegisters s t) ∧
  (∀ (s : State) (c r f flow temp : Nat), s.nd.nextSample ≤ s.nd.ltime.toNat → 2000 ≤ flow → temp ≤ 95 →
    (c + r + f ≤ 2900 ∨ s.nd.computeStep ≠ 4 ∨ s.nd.rowWindow ≠ 8) →
    let d := s.nd
    ∃ t, exec (.governorSample c r f flow temp) s = .next t ∧ SameMemory s t ∧ SameRegisters s t ∧ t.nd.emergency = d.emergency ∧ t.nd.nextSample = d.ltime.toNat + 1000 ∧
      (2700 ≤ c + r + f → c + r + f ≤ 2800 → t.nd.computeStep = d.computeStep ∧ t.nd.rowWindow = d.rowWindow) ∧
      (c + r + f < 2700 → t.nd.computeStep = (if d.computeStep < 16 then d.computeStep + 1 else d.computeStep) ∧
        t.nd.rowWindow = if d.rowWindow < 32 then d.rowWindow + 8 else d.rowWindow) ∧
      (2800 < c + r + f → d.shareCompute < c → t.nd.computeStep = if 4 < d.computeStep then d.computeStep - 1 else d.computeStep) ∧
      (2800 < c + r + f → d.shareRow < r → t.nd.rowWindow = if 8 < d.rowWindow then d.rowWindow - 8 else d.rowWindow)) ∧
  (∀ (s : State) (c r f flow temp : Nat), s.nd.nextSample ≤ s.nd.ltime.toNat → flow < 1000 ∨ 105 < temp →
    ∃ t, exec (.governorSample c r f flow temp) s = .next t ∧ t.nd.emergency = true) ∧
  (∀ (s : State), ∃ t, exec .governorStepDelivery s = .next t ∧ t.nd.actwin = s.nd.rowWindow ∧ SameMemory s t ∧ SameRegisters s t ∧
    ∀ p, p < 64 → (pavOf t p).clock.clkstep = s.nd.computeStep) ∧
  (∀ (s : State) (k g : Nat), k < 128 → g < 1152 →
    (∃ t, exec (.droopStretch (.core k)) s = .next t ∧ (pavOf t (k / 2)).clock.droop = true ∧ SameRegisters s t) ∧
    (∃ t, exec (.droopStretch (.pergola g)) s = .next t ∧ (perOf t g).clock.droop = true ∧ SameRegisters s t)) ∧
  (∀ (s : State), ∃ t, exec .powerEmergency s = .next t ∧ t.nd.emergency = true ∧ SameMemory s t ∧ SameRegisters s t ∧
    ∀ c, ((∃ e ∈ s.contexts, e.2.v = true ∧ c = BitVec.ofNat 16 e.1) ∨ (∃ k i, (coreOf s k).step = some i ∧ i.context = c)) →
      (haltOf s c).st = .running → (haltOf t c).st = .halting ∧ (haltOf t c).pwr = true) ∧
  (∀ (s : State), (noStep s = false ∨ s.nd.idleFor < 1000000 → exec .clockGating s = .next s) ∧
    (noStep s = true → 1000000 ≤ s.nd.idleFor → ∃ t, exec .clockGating s = .next t ∧ ∀ p, p < 64 → (pavOf t p).clock.gated = true)) ∧
  (∀ (s : State) (a0 a1 : Word), (s.nd.started = false ∧ s.nd.safe = false ∨ s.nd.dead = true) →
    exec (.regchain a0 a1) s = .next s ∧ exec (.dropchain a1) s = .next s ∧ exec (.setshare a0 a1) s = .next s ∧ exec .ackhalt s = .next s ∧
    exec (.readstart a0) s = .next s ∧ exec (.regwrite a0 a1) s = .next s ∧ exec (.regread a0) s = .next s) ∧
  (∀ (s : State) (a0 a1 : Word), inService s = true →
    let n := a1.toNat / 2 ^ 16 % 64
    (∃ t, exec (.regchain a0 a1) s = .next t ∧ t.nd.done = true ∧ t.nd.go = false ∧
      (s.chains.get none n = none → 1 ≤ a1.toNat % 2 ^ 16 → a1.toNat % 2 ^ 16 < 8192 → t.nd.status = 0 ∧
        t.chains.get none n = some { anchor := a0, context := BitVec.ofNat 16 a1.toNat }) ∧
      ((s.chains.get none n).isSome = true → t.nd.status = 2 ∧ t.chains = s.chains)) ∧
    (∃ t, exec (.dropchain a1) s = .next t ∧ t.nd.done = true ∧ t.nd.status = 0 ∧ t.chains.get none n = none) ∧
    (∃ t, exec (.setshare a0 a1) s = .next t ∧ t.nd.done = true ∧
      (a0.toNat + a1.toNat ≤ 2650 → t.nd.status = 0 ∧ t.nd.shareCompute = a0.toNat ∧ t.nd.shareRow = a1.toNat) ∧
      (2650 < a0.toNat + a1.toNat → t.nd.status = 2 ∧ t.nd.shareCompute = s.nd.shareCompute ∧ t.nd.shareRow = s.nd.shareRow)) ∧
    (∃ t, exec .ackhalt s = .next t ∧ t.nd.done = true ∧ t.nd.status = 0 ∧ t.nd.emergency = false) ∧
    (∃ t, exec (.readstart a0) s = .next t ∧ t.nd.done = true ∧
      (a0.toNat < 20 → t.nd.status = 0 ∧ t.nd.arg1 = s.nd.record.get 0 a0.toNat) ∧ (20 ≤ a0.toNat → t.nd.status = 2)) ∧
    (∃ t, exec (.regwrite a0 a1) s = .next t ∧ t.nd.done = true ∧ (a0.toNat % 8 = 0 → a0.toNat < 2 ^ 32 → t.nd.status = 0) ∧
      (a0.toNat % 8 ≠ 0 → t.nd.status = 2) ∧
      ∀ c, 1 ≤ c → c < 8192 → (s.contexts.get {} c).v = false → a0.toNat = 0x300000 + 64 * c + 16 → (t.contexts.get {} c).ptroot = a1) ∧
    (∃ t, exec (.regread a0) s = .next t ∧ t.nd.done = true ∧
      ∀ v, a0.toNat % 8 = 0 → a0.toNat < 2 ^ 32 → devWord s a0.toNat = some v → t.nd.status = 0 ∧ t.nd.arg1 = v)) ∧
  (∀ (s : State) (pa : Nat) (bytes : List Byte), landsPlain s pa bytes.length →
    (hostSees s pa bytes.length = true → ∃ t, exec (.hostMemWrite pa bytes false) s = .next t ∧ readBytes t pa bytes.length = bytes ∧
      OnlyBytes s t [] pa bytes.length ∧ SameRegisters s t) ∧
    (∀ link, link < 8 → pa < 2 ^ 44 → packetRefusal s pa bytes.length false = none →
      (∃ t, exec (.remoteWrite link pa bytes) s = .next t ∧ readBytes t pa bytes.length = bytes ∧ OnlyBytes s t [] pa bytes.length ∧
        t.answer = [] ∧ t.answerCode = 0) ∧
      (∃ t, exec (.remoteCopy link pa bytes) s = .next t ∧ readBytes t pa bytes.length = bytes ∧ OnlyBytes s t [] pa bytes.length ∧
        t.answer = [] ∧ t.answerCode = 0)) ∧
    (∀ line, line / 128 * 128 = pa → 0x200000000000 ≤ pa → pa < 0x400000000000 → 0 < bytes.length → bytes.length ≤ 128 →
      ∃ t, exec (.cxlCacheSnoop line bytes) s = .next t ∧ readBytes t pa bytes.length = bytes ∧ OnlyBytes s t [] pa bytes.length)) ∧
  (∀ (s : State) (pa n : Nat) (bytes : List Byte),
    (hostSees s pa n = false → exec (.hostMemRead pa n) s = .next s) ∧
    (hostSees s pa bytes.length = true → 0 < bytes.length →
      ∃ t, exec (.hostMemWrite pa bytes true) s = .next t ∧ (firstPoison t pa bytes.length).isSome = true) ∧
    (((framesInUse s).any fun f => overlaps pa n f.1 f.2) = false → recordsHit s pa n = [] →
      (hostSees s pa n = true → ∃ t, exec (.hostMemRead pa n) s = .next t ∧ t.answer = readBytes s pa n ∧
        t.answerPoison = (firstPoison s pa n).isSome ∧ SameMemory s t ∧ SameRegisters s t) ∧
      (∀ link, link < 8 → pa < 2 ^ 44 → packetRefusal s pa n false = none → ∃ t, exec (.remoteRead link pa n) s = .next t ∧
        t.answer = readBytes s pa n ∧ t.answerPoison = (firstPoison s pa n).isSome ∧ t.answerCode = 0 ∧ SameMemory s t)) ∧
    (∀ link c, link < 8 → pa < 2 ^ 44 → packetRefusal s pa n false = some c → ∃ t, exec (.remoteRead link pa n) s = .next t ∧
      t.answer = [] ∧ t.answerCode = c ∧ SameMemory s t)) ∧
  (∀ (s : State) (link pa sub n : Nat) (b c : Word), link < 8 → pa < 2 ^ 44 → atomicOk sub n = true → packetRefusal s pa n true = none →
    ((framesInUse s).any fun f => overlaps pa n f.1 f.2) = false →
    recordsHit s pa n = [] →
    let new := fun x => (amoNew x (8 * n) (readNat s pa n) (b.toNat % 2 ^ (8 * n)) (c.toNat % 2 ^ (8 * n))).1
    (∃ t, exec (.remoteAtomic link sub pa n b c) s = .next t ∧ t.answer = readBytes s pa n ∧ t.answerCode = 0 ∧ OnlyBytes s t [] pa n ∧
      readBytes t pa n = match new sub with
        | some v => leBytes n v
        | none => readBytes s pa n) ∧
    (sub = 0 → ∃ t, exec (.reductionPacket link pa n false b) s = .next t ∧ t.answer = [] ∧ OnlyBytes s t [] pa n ∧
      readNat t pa n = (readNat s pa n + b.toNat) % 2 ^ (8 * n))) ∧
  (∀ (s : State) (line : Nat), 0x200000000000 ≤ line / 128 * 128 → line / 128 * 128 < 0x400000000000 →
    ∃ t, exec (.cxlCacheSnoop line []) s = .next t ∧ SameMemory s t ∧ ∀ id m, (hartOf s id).monitor = some m → m.line = line / 128 * 128 →
      m.triggered = false → (hartOf t id).monitor = some { m with lost := true }) ∧
  (∀ (s : State) (n : Nat), (n = 0 ∨ 5 < n → exec (.spdmRequest n) s = .next s) ∧
    (inService s = true → 1 ≤ n → n ≤ 5 → ∃ t, exec (.spdmRequest n) s = .next t ∧ t.nd.answer = s.nd.measurements.get 0 n)) ∧
  (∀ (s : State) (n : Nat) (p : Packet) (data : List Byte) (poison : Bool) (code : BitVec 8),
    (s.packets.get none n = none → exec (.remoteAcknowledgement n data poison) s = .next s ∧ exec (.refusalReturn n code) s = .next s) ∧
    (s.packets.get none n = some p →
      (∃ t, exec (.remoteAcknowledgement n data poison) s = .next t ∧ t.packets.get none n = none ∧ SameMemory s t ∧ SameRegisters s t ∧
        (p.wants = true → p.kind ≠ .copy → (hartOf s p.hart).awaiting = some n → (hartOf t p.hart).awaiting = none ∧
          (hartOf t p.hart).replies = (hartOf s p.hart).replies ++ [.value (BitVec.ofNat 64 (leNat (data.take p.size))) poison])) ∧
      (∃ t, exec (.refusalReturn n code) s = .next t ∧ t.packets.get none n = none ∧ SameMemory s t ∧ SameRegisters s t ∧
        (t.nd.ports.get {} p.link).errCount = (if (s.nd.ports.get {} p.link).errCount = 0 then 1 else (s.nd.ports.get {} p.link).errCount + 1) ∧
        ((s.nd.ports.get {} p.link).errCount = 0 → (t.nd.ports.get {} p.link).errReason = code ∧
          (t.nd.ports.get {} p.link).errAddress = BitVec.ofNat 64 p.address)))) ∧
  (∀ (s : State) (k : Nat), k < 8 →
    let q := s.nd.ports.get {} k
    (∃ t, exec (.linkerrClear k) s = .next t ∧ t.nd.ports.get {} k =
      { q with errAddress := 0, errHart := 0, errReason := 0, errKind := 0, errCount := 0 }) ∧
    (q.retraining = true → exec (.flitCrcReplay k) s = .next s) ∧
    (q.retraining = false → q.rate ≠ 0 → ∃ t, exec (.flitCrcReplay k) s = .next t ∧ t.nd.ports.get {} k =
      if q.replays < 8 then { q with replays := q.replays + 1 } else { q with replays := 0, retraining := true, retrainFrom := s.nd.ltime.toNat }) ∧
    (q.retraining = false → ∀ ok, exec (.retrainEnd k ok) s = .next s) ∧
    (q.retraining = true →
      (∃ t, exec (.retrainEnd k true) s = .next t ∧ t.nd.ports.get {} k = { q with retraining := false, failedRetrains := 0 }) ∧
      (q.failedRetrains < 2 → ∃ t, exec (.retrainEnd k false) s = .next t ∧
        t.nd.ports.get {} k = { q with failedRetrains := q.failedRetrains + 1, retrainFrom := s.nd.ltime.toNat }) ∧
      (2 ≤ q.failedRetrains → ∃ t, exec (.retrainEnd k false) s = .next t ∧ (t.nd.ports.get {} k).rate = 0 ∧
        (t.nd.ports.get {} k).retraining = false))) ∧
  (∀ (s : State) (k n : Nat), k < 12 →
    (portGranule s k n = false → exec (.stackPortReplay k n) s = .next s) ∧
    (portGranule s k n = true → s.stackReplays.get 0 k < 8 → ∃ t, exec (.stackPortReplay k n) s = .next t ∧
      t.stackReplays.get 0 k = s.stackReplays.get 0 k + 1 ∧ SameMemory s t) ∧
    (portGranule s k n = true → 8 ≤ s.stackReplays.get 0 k → ∃ t, exec (.stackPortReplay k n) s = .next t ∧
      t.stackReplays.get 0 k = 0 ∧ (firstPoison t (64 * n) 64).isSome = true ∧ (t.errLog.map (·.kind)).head? = some 0x0D)) ∧
  (∀ (s : State) (l : Nat), l < 144 →
    let y := layerOf s l
    (y.requested = true ∨ y.realigning = true → exec (.realignmentRequest l) s = .next s) ∧
    (y.requested = false → y.realigning = false →
      (layerBusy s l = true → y.deferrals < 2 → ∃ t, exec (.realignmentRequest l) s = .next t ∧
        layerOf t l = { y with requested := true, requestAt := baseNow s l, deferrals := y.deferrals + 1 }) ∧
      (layerBusy s l = false ∨ 2 ≤ y.deferrals → ∃ t, exec (.realignmentRequest l) s = .next t ∧
        layerOf t l = { y with requested := false, realigning := true, realignAt := baseNow s l, deferrals := 0 })) ∧
    (deferralOver s l = true → ∃ t, exec (.realignmentDeferralExpiry l) s = .next t ∧
      layerOf t l = { y with requested := false, realigning := true, realignAt := baseNow s l }) ∧
    (deferralOver s l = false → exec (.realignmentDeferralExpiry l) s = .next s) ∧
    (y.realigning = false → ∀ fails, exec (.realignmentEnd l fails) s = .next s) ∧
    (y.realigning = true → y.bundlesRetired = 0 → ∀ fails, ∃ t, exec (.realignmentEnd l fails) s = .next t ∧
      layerOf t l = { y with realigning := false, bundlesRetired := if fails = true then 1 else 0 })) ∧
  (∀ (s : State),
    (s.nd.bundlestat.getLsbD 0 = true → ∃ t, exec .bundlestatAck s = .next t ∧ t.nd.restriping = true ∧ t.nd.bundlestat.getLsbD 0 = false) ∧
    (s.nd.bundlestat.getLsbD 0 = false → exec .bundlestatAck s = .next s) ∧
    (s.nd.restriping = false → exec .restripeComplete s = .next s) ∧
    (s.nd.restriping = true → ∃ t, exec .restripeComplete s = .next t ∧ t.nd.restriping = false ∧ t.nd.bundlestat.getLsbD 1 = true ∧
      t.intlvSize = s.nd.bundlestat.toNat / 2 ^ 32 % 2 ^ 32 * 2 ^ 20)) ∧
  (∀ (s : State), ∃ t, exec .powerUp s = .next t ∧ t.mem = [] ∧ t.harts = [] ∧ t.cores = [] ∧ t.tlb = [] ∧ t.contexts = [] ∧
    t.errLog = s.errLog ∧ t.schedLog = s.schedLog ∧ t.nd.starts = s.nd.starts + 1 ∧ t.nd.ltime = s.nd.ltime ∧
    t.nd.previous = s.nd.record ∧ (t.nd.started = true ↔ fatalStep s.nd.start = none))

/-- A step of an issuing hart, gang or bank fetches at its program counter, decodes, and runs exec of that instruction. Once the device
has started, no mailbox command is due and no input waits, the agent at the head of the ring moves. (1) A hart that its unit does not hold
back (a docent, a core without a step, or a running step that is neither halting, cancelled at a kill point nor asked to yield at a
point): where the bytes landed at its program counter decode to i, step is exec of i in the state that has turned the ring and left its
point; on an X-hart with work in its vector queue, or whose vector instruction must wait, R428's queue stands beside it: the instruction
enters the queue, or a scalar one runs ahead with its changes kept. (2) The queue's head, in its turn, is exec of its instruction in the
state of its issue. (3) A Pergola in gang mode with nothing due and no bank to kill: step is exec of i for the gang, then one rc of its
clock. (4) In split mode, when the first bank in turn runs and its instruction does not hold it back, step is exec of i for that bank,
which becomes the last bank, then one rc. (5) A parcel outside the map, and a block that has not landed, run the two fetch faults in the
same way. (6) A waiting input is taken first: an event is exec of its step, the others act as they say; before it a mailbox command that
the host has started. That the agents move in the order of a ring (log 3), inputs first (log 4), the vector queue and what runs ahead of
it (log 6) and the mailbox command's place (log 54) are the model's choices. -/
def Obligations.StepRunsTheDecodedInstruction : Prop :=
  (∀ (s u : State) (id : Nat) (rest : List Agent), startOver s = true → commandDue s = false → s.inputs = [] → s.ring = .hart id :: rest →
    u = { s with ring := rest ++ [.hart id], cur := .hart id, waited := false } → hartFree u id = true → (hartOf u id).run = .running →
    (issuingX u = none ∨ (coreOf s (coreOfHart id)).vqueue = [] →
      (∀ i, CodeAt u i →
        (issuingX u = none ∨ queued i = false → step s = exec i (leavePoint u)) ∧
        (∀ t, exec i (leavePoint u) = .next t → t.waited = false → step s = .next t)) ∧
      (∀ w, fetched u = .illegal w → step s = execIllegalEncoding w (leavePoint u)) ∧
      (∀ a, fetched u = .absent a → step s = execAbsentBlockFetch a (leavePoint u))) ∧
    (∀ k i, issuingX u = some k → CodeAt u i → (coreOf s k).vqueue ≠ [] →
      (queued i = true → step s = .next (queueUp (leavePoint u) k i)) ∧
      (queued i = false → (queueBars i = true ∨ behindQueue (coreOf s k).vqueue i = true) → step s = .next (held (leavePoint u))) ∧
      (queued i = false → queueBars i = false → behindQueue (coreOf s k).vqueue i = false →
        ∀ t, exec i (leavePoint u) = .next t → t.waited = false → step s = .next (runAhead (leavePoint u) t k)))) ∧
  (∀ (s u t : State) (k : Nat) (rest : List Agent) (q : QueueEntry) (l : List QueueEntry), startOver s = true → commandDue s = false →
    s.inputs = [] → s.ring = .unit k :: rest → u = { s with ring := rest ++ [.unit k], cur := .unit k, waited := false } →
    unitMove u k = .queueHead k → (coreOf u k).vqueue = q :: l → exec q.instr (headState u k) = .next t →
    (t.waited = true → step s = .next u) ∧
    (t.waited = false → headPassed (headState u k) t k = true → step s = .next (mergeHead u (headState u k) t k))) ∧
  (∀ (s u : State) (g : Nat) (rest : List Agent), startOver s = true → commandDue s = false → s.inputs = [] → s.ring = .pergola g :: rest →
    u = { s with ring := rest ++ [.pergola g], cur := .pergola g, waited := false } → pergolaFree u g = true → (perOf u g).gang = true →
    (∀ i, CodeAt u i → step s = thenDo (exec i (leavePoint u)) fun t => tick t g) ∧
    (∀ w, fetched u = .illegal w → step s = thenDo (execIllegalEncoding w (leavePoint u)) fun t => tick t g) ∧
    (∀ a, fetched u = .absent a → step s = thenDo (execAbsentBlockFetch a (leavePoint u)) fun t => tick t g)) ∧
  (∀ (s u t v : State) (g b : Nat) (bs : List Nat) (rest : List Agent) (i : Instr), startOver s = true → commandDue s = false → s.inputs = [] →
    s.ring = .pergola g :: rest → u = { s with ring := rest ++ [.pergola g], cur := .pergola g, waited := false } →
    pergolaFree u g = true → (perOf u g).gang = false → splitOrder u g = b :: bs → b ∈ liveBanks u g → (hartOf u (bankId g b)).run = .running →
    t = leavePoint { u with cur := .bank g b, waited := false } → CodeAt t i → exec i t = .next v → v.waited = false →
    step s = .next (tick { modPer v g (fun p => { p with lastBank := b }) with cur := .pergola g } g)) ∧
  (∀ (s : State) (x : Input) (rest : List Input), startOver s = true → commandDue s = false → s.inputs = x :: rest →
    (∀ i, x = .event i → step s = exec i { s with inputs := rest }) ∧
    ((∀ i, x ≠ .event i) → step s = .next (takeInput x { s with inputs := rest }))) ∧
  (∀ (s : State), startOver s = true → commandDue s = true → step s = .next (mailbox s.nd.cmd s.nd.arg0 s.nd.arg1 s))

/-- Worked words of the encoding section decode to the instructions they stand for. The three words worked out under R187 (ld.d.s3 x5,
[x4+16]; radd.i8.sat o2, o0, o1; vadd v5, v4:lat, v3! and its plain form), an addition, an immediate, a branch and a convoy header written
out from the fields of R175 and R182 decode to the instructions with those fields; the all-zero and all-one parcels decode to none. -/
def Obligations.WordsDecode : Prop :=
  decodeWord 0x0001_030C_0401_4030 =
    .ok (.ld {
      off := 16, wid := 3, scope := 0, strm := 3, base := { lvl := 0, fe := false, num := 4 }, data := { lvl := 0, fe := false, num := 5 } }) ∧
  decodeWord 0x0021_0000_0010_8041 =
    .ok (.radd {
      imm6 := 0, masken := false, masko := 0, sat := true, xm := false, rm := 0, type := 4,
      sb := { lvl := 0, fe := false, num := 0 }, sa := { lvl := 0, fe := false, num := 0 }, res := false, q := 0, ob := 1, oa := 0, od := 2 }) ∧
  decodeWord 0x0000_020E_0401_4060 =
    .ok (.vadd {
      sat := false, xm := false, rm := 0, masken := false, mreg := 0,
      vc := { lvl := 0, fe := false, num := 0 }, vb := { lvl := 0, fe := true, num := 3 },
      va := { lvl := 2, fe := false, num := 4 }, vd := { lvl := 0, fe := false, num := 5 } }) ∧
  decodeWord 0x0000_000C_0401_4060 =
    .ok (.vadd {
      sat := false, xm := false, rm := 0, masken := false, mreg := 0,
      vc := { lvl := 0, fe := false, num := 0 }, vb := { lvl := 0, fe := false, num := 3 },
      va := { lvl := 0, fe := false, num := 4 }, vd := { lvl := 0, fe := false, num := 5 } }) ∧
  decodeWord (BitVec.ofNat 64 (0x01 + 0 * 2 ^ 8 + 3 * 2 ^ 14 + 1 * 2 ^ 24 + 2 * 2 ^ 34)) =
    .ok (.add {
      mod := 0, c := { lvl := 0, fe := false, num := 0 }, b := { lvl := 0, fe := false, num := 2 }, a := { lvl := 0, fe := false, num := 1 },
      d := { lvl := 0, fe := false, num := 3 } }) ∧
  decodeWord (BitVec.ofNat 64 (0x02 + 9 * 2 ^ 8 + 7 * 2 ^ 14 + 0x2FFFFFFF * 2 ^ 34)) =
    .ok (.li {
      imm := 0x2FFFFFFF, a := { lvl := 0, fe := false, num := 0 }, d := { lvl := 0, fe := false, num := 7 } }) ∧
  decodeWord (BitVec.ofNat 64 (0x20 + 3 * 2 ^ 8 + 8 * 2 ^ 14 + 9 * 2 ^ 24 + 0x3FFFFFFE * 2 ^ 34)) =
    .ok (.bge {
      off := 0x3FFFFFFE, b := { lvl := 0, fe := false, num := 9 }, a := { lvl := 0, fe := false, num := 8 } }) ∧
  decode (BitVec.ofNat 32 (0xC0 + 2 * 2 ^ 8 + 1 * 2 ^ 11 + 3 * 2 ^ 14)) 0xFFFFFFFF =
    .ok (.convoyHeader { hres := 0, unit5 := 0, unit4 := 0, unit3 := 0, unit2 := 0, unit1 := 3, unit0 := 1, n := 2 }, 4) ∧
  decodeWord 0 = .error (.illegalMajor 0) ∧ decodeWord 0xFFFF_FFFF_FFFF_FFFF = .error (.illegalMajor 0xFF)

/-- Decoding an encoded instruction gives it back, and every word that decodes is the encoding of what it decodes to. For every
instruction i with a 64-bit word w, at every value of every field: decodeWord w is i; and for every word w that decodes to i, w is the
word of i, so no bit of an encoding is dropped and no two words decode alike. A convoy header decodes from its parcel whatever parcel
follows. For every instruction with an encoding, the bytes of its parcels in memory order, with anything after them, decode to it and
leave the rest. -/
def Obligations.DecodeOfEncode : Prop :=
  (∀ (i : Instr) (w : Word), encodeWord i = some w → decodeWord w = .ok i) ∧
  (∀ (w : Word) (i : Instr), decodeWord w = .ok i → encodeWord i = some w) ∧
  (∀ (f : FmtC) (hi : BitVec 32), decode (encC f) hi = .ok (.convoyHeader f, 4)) ∧
  (∀ (i : Instr) (rest : List Byte), encode i ≠ [] → decodeBytes (codeBytes i ++ rest) = some (.ok (i, rest)))

/-- Every step keeps memory in its canonical form: addresses strictly rising, no entry at the unlisted value. For every state whose memory
lists strictly rising addresses and no byte equal to what an unlisted address reads as, if step answers a next state then that state's
memory has the same form. So equal memories are equal data, whatever instruction, device step, outside event or start the step performs.
-/
def Obligations.MemoryStaysCanonical : Prop :=
  ∀ (s t : State), Memory.wf s.mem = true → step s = .next t → Memory.wf t.mem = true

/-- Reset: nothing has run, memory lists nothing in canonical form, and the first step is the start. At State.reset memory is canonical
and lists nothing, every clock reads 0 (R20), every SAG's refresh debt is 0 (R241), every hart is idle with zero registers (the zero of a
register without a stated value is the model's choice, log 2), no context entry is valid, the error and scheduler logs are empty and the
start has not happened. The first step is the start of R405; after it the device has started, no hart runs and no context entry is valid.
-/
def Obligations.ResetState : Prop :=
  Memory.wf State.reset.mem = true ∧ State.reset.mem = [] ∧ startOver State.reset = false ∧
  (∀ id n, (hartOf State.reset id).run = .idle ∧ (hartOf State.reset id).get n = 0) ∧
  (∀ id, (clockOfHart State.reset id).ltime = 0) ∧ State.reset.nd.ltime = 0 ∧
  (∀ g b n, ((bankOf State.reset g b).sag n).debt = 0 ∧ (regOf State.reset g b n).st = .closed) ∧
  (∀ c, (State.reset.contexts.get {} c).v = false) ∧ State.reset.errLog = [] ∧ State.reset.schedLog = [] ∧
  ∃ t, step State.reset = .next t ∧ startOver t = true ∧ t.nd.started = true ∧ t.mem = [] ∧ t.ring ≠ [] ∧
    (∀ id, (hartOf t id).run = .idle) ∧ ∀ c, (t.contexts.get {} c).v = false
end

