-- ==== Sys2Proof/Laws/Table.lean ====
section
/-! SUPPORT. The laws of sparse tables: what a read gives after a write, and that every operation keeps the canonical form. -/
namespace Sys2Proof.Machine

variable {α : Type}

/-! ## Reading after writing -/

theorem Tbl.get_ins (d : α) (i : Nat) (v : α) (j : Nat) :
    ∀ t : Tbl α, (∀ p ∈ t, p.1 ≠ i) → Tbl.get d (Tbl.ins i v t) j = if j = i then v else Tbl.get d t j
  | [], _ => by simp [Tbl.ins, Tbl.get]
  | (k, w) :: t, h => by
    have hk : k ≠ i := h (k, w) (by simp)
    have ih := Tbl.get_ins d i v j t (fun p hp => h p (by simp [hp]))
    by_cases hlt : i < k
    · simp [Tbl.ins, hlt, Tbl.get]
    · simp only [Tbl.ins, hlt, if_false, Tbl.get, ih]
      by_cases hj : j = k
      · subst hj; simp [hk]
      · simp [hj]

theorem Tbl.get_del (d : α) (i j : Nat) : ∀ t : Tbl α, Tbl.get d (Tbl.del t i) j = if j = i then d else Tbl.get d t j
  | [] => by simp [Tbl.del, Tbl.get]
  | (k, w) :: t => by
    have ih := Tbl.get_del d i j t
    unfold Tbl.del at ih ⊢
    by_cases hk : k = i
    · subst hk
      rw [List.filter_cons_of_neg (by simp), ih]
      by_cases hj : j = k <;> simp [Tbl.get, hj]
    · rw [List.filter_cons_of_pos (by simpa using hk)]
      by_cases hj : j = k
      · subst hj; simp [Tbl.get, hk]
      · simp [Tbl.get, hj, ih]

theorem Tbl.del_mem {t : Tbl α} {i : Nat} {p : Nat × α} : p ∈ t.del i ↔ p ∈ t ∧ p.1 ≠ i := by
  simp [Tbl.del]

/-- A read after a write: the value at its own key, the old one elsewhere. -/
theorem Tbl.get_set [DecidableEq α] (d : α) (t : Tbl α) (i j : Nat) (v : α) :
    Tbl.get d (Tbl.set d t i v) j = if j = i then v else Tbl.get d t j := by
  unfold Tbl.set
  split
  · rename_i h; rw [Tbl.get_del]; simp [h]
  · rw [Tbl.get_ins _ _ _ _ _ (fun p hp => (Tbl.del_mem.1 hp).2), Tbl.get_del]
    by_cases hj : j = i <;> simp [hj]

@[simp] theorem Tbl.get_set_same [DecidableEq α] (d : α) (t : Tbl α) (i : Nat) (v : α) :
    Tbl.get d (Tbl.set d t i v) i = v := by simp [Tbl.get_set]

theorem Tbl.get_set_other [DecidableEq α] (d : α) (t : Tbl α) {i j : Nat} (v : α) (h : j ≠ i) :
    Tbl.get d (Tbl.set d t i v) j = Tbl.get d t j := by simp [Tbl.get_set, h]

theorem Tbl.get_modify [DecidableEq α] (d : α) (t : Tbl α) (i j : Nat) (f : α → α) :
    Tbl.get d (Tbl.modify d t i f) j = if j = i then f (Tbl.get d t i) else Tbl.get d t j := Tbl.get_set ..

@[simp] theorem Tbl.get_modify_same [DecidableEq α] (d : α) (t : Tbl α) (i : Nat) (f : α → α) :
    Tbl.get d (Tbl.modify d t i f) i = f (Tbl.get d t i) := by simp [Tbl.get_modify]

theorem Tbl.get_modify_other [DecidableEq α] (d : α) (t : Tbl α) {i j : Nat} (f : α → α) (h : j ≠ i) :
    Tbl.get d (Tbl.modify d t i f) j = Tbl.get d t j := by simp [Tbl.get_modify, h]

@[simp] theorem Tbl.get_nil (d : α) (j : Nat) : Tbl.get d ([] : Tbl α) j = d := rfl

theorem Tbl.get_append (d : α) (t u : Tbl α) (j : Nat) :
    Tbl.get d (t ++ u) j = if t.any (fun p => p.1 == j) then Tbl.get d t j else Tbl.get d u j := by
  induction t with
  | nil => simp
  | cons p t ih =>
    obtain ⟨k, v⟩ := p
    by_cases h : k = j
    · subst h; simp [Tbl.get]
    · have h' : ¬ j = k := fun e => h e.symm
      have e : (k == j) = false := by simpa using h
      simp only [List.cons_append, Tbl.get, h', if_false, ih, List.any_cons, e, Bool.false_or]

theorem Tbl.get_filter (d : α) (q : Nat → Bool) (j : Nat) :
    ∀ t : Tbl α, Tbl.get d (t.filter fun p => q p.1) j = if q j then Tbl.get d t j else d
  | [] => by simp
  | (k, v) :: t => by
    have ih := Tbl.get_filter d q j t
    by_cases hq : q k = true
    · rw [List.filter_cons_of_pos (by simpa using hq)]
      by_cases hj : j = k
      · subst hj; simp [Tbl.get, hq]
      · simp [Tbl.get, hj, ih]
    · rw [List.filter_cons_of_neg (by simpa using hq), ih]
      by_cases hj : j = k
      · subst hj; simp [hq]
      · simp [Tbl.get, hj]

/-- A key that no entry has reads as the default. -/
theorem Tbl.get_absent (d : α) (j : Nat) : ∀ t : Tbl α, t.any (fun p => p.1 == j) = false → Tbl.get d t j = d
  | [], _ => rfl
  | (k, v) :: t, h => by
    simp only [List.any_cons, Bool.or_eq_false_iff, beq_eq_false_iff_ne] at h
    have h' : ¬ j = k := fun e => h.1 e.symm
    simp [Tbl.get, h', Tbl.get_absent d j t h.2]

theorem Tbl.get_span [DecidableEq α] (d : α) (j : Nat) :
    ∀ (a : Nat) (vs : List α), Tbl.get d (Tbl.span d a vs) j = if a ≤ j ∧ j < a + vs.length then vs.getD (j - a) d else d
  | a, [] => by simp [Tbl.span]
  | a, v :: vs => by
    have ih := Tbl.get_span d j (a + 1) vs
    by_cases hv : v = d
    · simp only [Tbl.span, hv, if_true, ih, List.length_cons]
      by_cases hja : j = a
      · subst hja; simp [show ¬(j + 1 ≤ j) by omega]
      · by_cases h1 : a + 1 ≤ j ∧ j < a + 1 + vs.length
        · have e : j - a = j - (a + 1) + 1 := by omega
          have h2 : a ≤ j ∧ j < a + (vs.length + 1) := by omega
          rw [if_pos h1, if_pos h2, e]; simp
        · have h2 : ¬(a ≤ j ∧ j < a + (vs.length + 1)) := by omega
          rw [if_neg h1, if_neg h2]
    · simp only [Tbl.span, hv, if_false, Tbl.get, ih, List.length_cons]
      by_cases hja : j = a
      · subst hja; simp
      · by_cases h1 : a + 1 ≤ j ∧ j < a + 1 + vs.length
        · have e : j - a = j - (a + 1) + 1 := by omega
          have h2 : a ≤ j ∧ j < a + (vs.length + 1) := by omega
          rw [if_neg hja, if_pos h1, if_pos h2, e]; simp
        · have h2 : ¬(a ≤ j ∧ j < a + (vs.length + 1)) := by omega
          rw [if_neg hja, if_neg h1, if_neg h2]

theorem Tbl.span_keys [DecidableEq α] (d : α) : ∀ (a : Nat) (vs : List α) (p : Nat × α), p ∈ Tbl.span d a vs →
    a ≤ p.1 ∧ p.1 < a + vs.length ∧ p.2 ≠ d
  | _, [], _, h => by simp [Tbl.span] at h
  | a, v :: vs, p, h => by
    by_cases hv : v = d
    · simp only [Tbl.span, hv, if_true] at h
      have := Tbl.span_keys d (a + 1) vs p h
      simp only [List.length_cons]
      exact ⟨by omega, by omega, this.2.2⟩
    · simp only [Tbl.span, hv, if_false, List.mem_cons] at h
      rcases h with rfl | h
      · simp [hv]
      · have := Tbl.span_keys d (a + 1) vs p h
        simp only [List.length_cons]
        exact ⟨by omega, by omega, this.2.2⟩

/-- A read after a write of consecutive values: the written value inside, the old one outside. -/
theorem Tbl.get_setSpan [DecidableEq α] (d : α) (t : Tbl α) (a j : Nat) (vs : List α) :
    Tbl.get d (Tbl.setSpan d t a vs) j = if a ≤ j ∧ j < a + vs.length then vs.getD (j - a) d else Tbl.get d t j := by
  have h1 := Tbl.get_filter d (fun k => decide (k < a)) j t
  have h3 := Tbl.get_filter d (fun k => decide (a + vs.length ≤ k)) j t
  have h2 := Tbl.get_span d j a vs
  unfold Tbl.setSpan
  rw [Tbl.get_append, Tbl.get_append, h1, h2, h3]
  by_cases hin : a ≤ j ∧ j < a + vs.length
  · have n1 : (t.filter fun p => decide (p.1 < a)).any (fun p => p.1 == j) = false := by
      rw [List.any_eq_false]; intro p hp; simp only [List.mem_filter, decide_eq_true_eq] at hp
      simp only [beq_iff_eq]; omega
    rw [List.any_append, n1]
    simp only [Bool.false_or, hin, and_self, if_true]
    by_cases hs : (Tbl.span d a vs).any (fun p => p.1 == j) = true
    · simp [hs]
    · have hs' : (Tbl.span d a vs).any (fun p => p.1 == j) = false := Bool.eq_false_iff.2 hs
      have := Tbl.get_absent d j _ hs'
      rw [h2] at this; simp only [hin, and_self, if_true] at this
      rw [if_neg hs, this, if_neg (by simp; omega)]
  · have n2 : (Tbl.span d a vs).any (fun p => p.1 == j) = false := by
      rw [List.any_eq_false]; intro p hp
      have := Tbl.span_keys d a vs p hp
      simp only [beq_iff_eq]; omega
    rw [List.any_append, n2]
    simp only [Bool.or_false, hin, if_false]
    by_cases hlt : j < a
    · simp only [decide_eq_true_eq, hlt, if_true]
      have : ¬ a + vs.length ≤ j := by omega
      simp only [this, if_false]
      split
      · rfl
      · rename_i hs
        have hs' : (t.filter fun p => decide (p.1 < a)).any (fun p => p.1 == j) = false := Bool.eq_false_iff.2 hs
        have := Tbl.get_absent d j _ hs'
        rw [h1] at this; simpa [hlt] using this.symm
    · have hge : a + vs.length ≤ j := by omega
      have n1 : (t.filter fun p => decide (p.1 < a)).any (fun p => p.1 == j) = false := by
        rw [List.any_eq_false]; intro p hp; simp only [List.mem_filter, decide_eq_true_eq] at hp
        simp only [beq_iff_eq]; omega
      simp [n1, hge]

/-! ## The canonical form -/

theorem Tbl.rising_of_filter (q : Nat × α → Bool) : ∀ t : Tbl α, t.rising = true → Tbl.rising (t.filter q) = true
  | [], _ => rfl
  | (k, v) :: t, h => by
    simp only [Tbl.rising, Bool.and_eq_true, List.all_eq_true, decide_eq_true_eq] at h
    have ih := Tbl.rising_of_filter q t h.2
    by_cases hq : q (k, v) = true
    · rw [List.filter_cons_of_pos hq]
      simp only [Tbl.rising, Bool.and_eq_true, List.all_eq_true, decide_eq_true_eq]
      exact ⟨fun p hp => h.1 p ((List.mem_filter.1 hp).1), ih⟩
    · rw [List.filter_cons_of_neg hq]; exact ih

theorem Tbl.ins_mem {i : Nat} {v : α} {p : Nat × α} : ∀ {t : Tbl α}, p ∈ Tbl.ins i v t → p = (i, v) ∨ p ∈ t
  | [], h => by simpa [Tbl.ins] using h
  | (k, w) :: t, h => by
    by_cases hlt : i < k
    · simp only [Tbl.ins, hlt, if_true, List.mem_cons] at h ⊢; tauto
    · simp only [Tbl.ins, hlt, if_false, List.mem_cons] at h ⊢
      rcases h with h | h
      · tauto
      · rcases Tbl.ins_mem h with h | h <;> tauto

theorem Tbl.rising_ins (i : Nat) (v : α) : ∀ t : Tbl α, t.rising = true → (∀ p ∈ t, p.1 ≠ i) → Tbl.rising (Tbl.ins i v t) = true
  | [], _, _ => by simp [Tbl.ins, Tbl.rising]
  | (k, w) :: t, h, hne => by
    simp only [Tbl.rising, Bool.and_eq_true, List.all_eq_true, decide_eq_true_eq] at h
    have hk : k ≠ i := hne (k, w) (by simp)
    by_cases hlt : i < k
    · simp only [Tbl.ins, hlt, if_true, Tbl.rising, Bool.and_eq_true, List.all_eq_true, decide_eq_true_eq, List.mem_cons]
      refine ⟨?_, h⟩
      rintro p (rfl | hp)
      · exact hlt
      · exact Nat.lt_trans hlt (h.1 p hp)
    · simp only [Tbl.ins, hlt, if_false, Tbl.rising, Bool.and_eq_true, List.all_eq_true, decide_eq_true_eq]
      refine ⟨fun p hp => ?_, Tbl.rising_ins i v t h.2 (fun p hp => hne p (by simp [hp]))⟩
      rcases Tbl.ins_mem hp with rfl | hp
      · simp only; omega
      · exact h.1 p hp

theorem Tbl.wf_filter [DecidableEq α] (d : α) (q : Nat × α → Bool) (t : Tbl α) (h : Tbl.wf d t = true) : Tbl.wf d (t.filter q) = true := by
  simp only [Tbl.wf, Bool.and_eq_true, List.all_eq_true] at h ⊢
  exact ⟨Tbl.rising_of_filter q t h.1, fun p hp => h.2 p ((List.mem_filter.1 hp).1)⟩

/-- A write keeps the canonical form. -/
theorem Tbl.wf_set [DecidableEq α] (d : α) (t : Tbl α) (i : Nat) (v : α) (h : Tbl.wf d t = true) : Tbl.wf d (Tbl.set d t i v) = true := by
  have hdel : Tbl.wf d (t.del i) = true := Tbl.wf_filter d _ t h
  unfold Tbl.set
  split
  · exact hdel
  · rename_i hv
    simp only [Tbl.wf, Bool.and_eq_true, List.all_eq_true] at hdel ⊢
    refine ⟨Tbl.rising_ins i v _ hdel.1 fun p hp => (Tbl.del_mem.1 hp).2, fun p hp => ?_⟩
    rcases Tbl.ins_mem hp with rfl | hp
    · simpa using hv
    · exact hdel.2 p hp

theorem Tbl.rising_span [DecidableEq α] (d : α) : ∀ (a : Nat) (vs : List α), Tbl.rising (Tbl.span d a vs) = true
  | _, [] => rfl
  | a, v :: vs => by
    by_cases hv : v = d
    · simp only [Tbl.span, hv, if_true]; exact Tbl.rising_span d (a + 1) vs
    · simp only [Tbl.span, hv, if_false, Tbl.rising, Bool.and_eq_true, List.all_eq_true, decide_eq_true_eq]
      refine ⟨fun p hp => ?_, Tbl.rising_span d (a + 1) vs⟩
      have := Tbl.span_keys d (a + 1) vs p hp; omega

theorem Tbl.rising_append : ∀ t u : Tbl α, t.rising = true → u.rising = true → (∀ p ∈ t, ∀ q ∈ u, p.1 < q.1) → Tbl.rising (t ++ u) = true
  | [], u, _, hu, _ => hu
  | (k, v) :: t, u, ht, hu, h => by
    simp only [Tbl.rising, Bool.and_eq_true, List.all_eq_true, decide_eq_true_eq] at ht
    have ih := Tbl.rising_append t u ht.2 hu (fun p hp q hq => h p (by simp [hp]) q hq)
    simp only [List.cons_append, Tbl.rising, Bool.and_eq_true, List.all_eq_true, decide_eq_true_eq, List.mem_append]
    refine ⟨?_, ih⟩
    rintro p (hp | hp)
    · exact ht.1 p hp
    · exact h (k, v) (by simp) p hp

/-- A write of consecutive values keeps the canonical form. -/
theorem Tbl.wf_setSpan [DecidableEq α] (d : α) (t : Tbl α) (a : Nat) (vs : List α) (h : Tbl.wf d t = true) :
    Tbl.wf d (Tbl.setSpan d t a vs) = true := by
  have h1 := Tbl.wf_filter d (fun p => decide (p.1 < a)) t h
  have h3 := Tbl.wf_filter d (fun p => decide (a + vs.length ≤ p.1)) t h
  simp only [Tbl.wf, Bool.and_eq_true, List.all_eq_true, decide_eq_true_eq] at h1 h3 ⊢
  unfold Tbl.setSpan
  refine ⟨?_, fun p hp => ?_⟩
  · refine Tbl.rising_append _ _ (Tbl.rising_append _ _ h1.1 (Tbl.rising_span d a vs) fun p hp q hq => ?_) h3.1 fun p hp q hq => ?_
    · have := Tbl.span_keys d a vs q hq
      simp only [List.mem_filter, decide_eq_true_eq] at hp; omega
    · simp only [List.mem_filter, decide_eq_true_eq] at hq
      simp only [List.mem_append, List.mem_filter, decide_eq_true_eq] at hp
      rcases hp with hp | hp
      · omega
      · have := Tbl.span_keys d a vs p hp; omega
  · simp only [List.mem_append] at hp
    rcases hp with (hp | hp) | hp
    · exact h1.2 p hp
    · exact (Tbl.span_keys d a vs p hp).2.2
    · exact h3.2 p hp

theorem Tbl.wf_modify [DecidableEq α] (d : α) (t : Tbl α) (i : Nat) (f : α → α) (h : Tbl.wf d t = true) :
    Tbl.wf d (Tbl.modify d t i f) = true := Tbl.wf_set d t i _ h

@[simp] theorem Tbl.wf_nil [DecidableEq α] (d : α) : Tbl.wf d ([] : Tbl α) = true := rfl

end Sys2Proof.Machine
end

