-- ==== Sys2Proof/Laws/State.lean ====
section
/-! SUPPORT. One lemma per field of the state and named update: what each update leaves as it was, and what a unit reads as after it. -/
namespace Sys2Proof.Machine

section
variable (s : State) (id : Nat) (f : Hart → Hart)
@[simp] theorem modHart_mem : (modHart s id f).mem = s.mem := rfl
@[simp] theorem modHart_poison : (modHart s id f).poison = s.poison := rfl
@[simp] theorem modHart_remapped : (modHart s id f).remapped = s.remapped := rfl
@[simp] theorem modHart_upsets : (modHart s id f).upsets = s.upsets := rfl
@[simp] theorem modHart_softs : (modHart s id f).softs = s.softs := rfl
@[simp] theorem modHart_owned : (modHart s id f).owned = s.owned := rfl
@[simp] theorem modHart_tlb : (modHart s id f).tlb = s.tlb := rfl
@[simp] theorem modHart_catalogues : (modHart s id f).catalogues = s.catalogues := rfl
@[simp] theorem modHart_cores : (modHart s id f).cores = s.cores := rfl
@[simp] theorem modHart_pavilions : (modHart s id f).pavilions = s.pavilions := rfl
@[simp] theorem modHart_wings : (modHart s id f).wings = s.wings := rfl
@[simp] theorem modHart_pergolas : (modHart s id f).pergolas = s.pergolas := rfl
@[simp] theorem modHart_layers : (modHart s id f).layers = s.layers := rfl
@[simp] theorem modHart_baseTimes : (modHart s id f).baseTimes = s.baseTimes := rfl
@[simp] theorem modHart_stackReplays : (modHart s id f).stackReplays = s.stackReplays := rfl
@[simp] theorem modHart_rowcap : (modHart s id f).rowcap = s.rowcap := rfl
@[simp] theorem modHart_retired : (modHart s id f).retired = s.retired := rfl
@[simp] theorem modHart_toRetire : (modHart s id f).toRetire = s.toRetire := rfl
@[simp] theorem modHart_intlvSize : (modHart s id f).intlvSize = s.intlvSize := rfl
@[simp] theorem modHart_contexts : (modHart s id f).contexts = s.contexts := rfl
@[simp] theorem modHart_halts : (modHart s id f).halts = s.halts := rfl
@[simp] theorem modHart_chains : (modHart s id f).chains = s.chains := rfl
@[simp] theorem modHart_waiting : (modHart s id f).waiting = s.waiting := rfl
@[simp] theorem modHart_errLog : (modHart s id f).errLog = s.errLog := rfl
@[simp] theorem modHart_schedLog : (modHart s id f).schedLog = s.schedLog := rfl
@[simp] theorem modHart_packets : (modHart s id f).packets = s.packets := rfl
@[simp] theorem modHart_nextPacket : (modHart s id f).nextPacket = s.nextPacket := rfl
@[simp] theorem modHart_suspendCount : (modHart s id f).suspendCount = s.suspendCount := rfl
@[simp] theorem modHart_answer : (modHart s id f).answer = s.answer := rfl
@[simp] theorem modHart_answerPoison : (modHart s id f).answerPoison = s.answerPoison := rfl
@[simp] theorem modHart_answerCode : (modHart s id f).answerCode = s.answerCode := rfl
@[simp] theorem modHart_nd : (modHart s id f).nd = s.nd := rfl
@[simp] theorem modHart_scopeCount : (modHart s id f).scopeCount = s.scopeCount := rfl
@[simp] theorem modHart_freeCount : (modHart s id f).freeCount = s.freeCount := rfl
@[simp] theorem modHart_inputs : (modHart s id f).inputs = s.inputs := rfl
@[simp] theorem modHart_ring : (modHart s id f).ring = s.ring := rfl
@[simp] theorem modHart_cur : (modHart s id f).cur = s.cur := rfl
@[simp] theorem modHart_waited : (modHart s id f).waited = s.waited := rfl
end

section
variable (s : State) (k : Nat) (f : Core → Core)
@[simp] theorem modCore_mem : (modCore s k f).mem = s.mem := rfl
@[simp] theorem modCore_poison : (modCore s k f).poison = s.poison := rfl
@[simp] theorem modCore_remapped : (modCore s k f).remapped = s.remapped := rfl
@[simp] theorem modCore_upsets : (modCore s k f).upsets = s.upsets := rfl
@[simp] theorem modCore_softs : (modCore s k f).softs = s.softs := rfl
@[simp] theorem modCore_owned : (modCore s k f).owned = s.owned := rfl
@[simp] theorem modCore_tlb : (modCore s k f).tlb = s.tlb := rfl
@[simp] theorem modCore_catalogues : (modCore s k f).catalogues = s.catalogues := rfl
@[simp] theorem modCore_harts : (modCore s k f).harts = s.harts := rfl
@[simp] theorem modCore_pavilions : (modCore s k f).pavilions = s.pavilions := rfl
@[simp] theorem modCore_wings : (modCore s k f).wings = s.wings := rfl
@[simp] theorem modCore_pergolas : (modCore s k f).pergolas = s.pergolas := rfl
@[simp] theorem modCore_layers : (modCore s k f).layers = s.layers := rfl
@[simp] theorem modCore_baseTimes : (modCore s k f).baseTimes = s.baseTimes := rfl
@[simp] theorem modCore_stackReplays : (modCore s k f).stackReplays = s.stackReplays := rfl
@[simp] theorem modCore_rowcap : (modCore s k f).rowcap = s.rowcap := rfl
@[simp] theorem modCore_retired : (modCore s k f).retired = s.retired := rfl
@[simp] theorem modCore_toRetire : (modCore s k f).toRetire = s.toRetire := rfl
@[simp] theorem modCore_intlvSize : (modCore s k f).intlvSize = s.intlvSize := rfl
@[simp] theorem modCore_contexts : (modCore s k f).contexts = s.contexts := rfl
@[simp] theorem modCore_halts : (modCore s k f).halts = s.halts := rfl
@[simp] theorem modCore_chains : (modCore s k f).chains = s.chains := rfl
@[simp] theorem modCore_waiting : (modCore s k f).waiting = s.waiting := rfl
@[simp] theorem modCore_errLog : (modCore s k f).errLog = s.errLog := rfl
@[simp] theorem modCore_schedLog : (modCore s k f).schedLog = s.schedLog := rfl
@[simp] theorem modCore_packets : (modCore s k f).packets = s.packets := rfl
@[simp] theorem modCore_nextPacket : (modCore s k f).nextPacket = s.nextPacket := rfl
@[simp] theorem modCore_suspendCount : (modCore s k f).suspendCount = s.suspendCount := rfl
@[simp] theorem modCore_answer : (modCore s k f).answer = s.answer := rfl
@[simp] theorem modCore_answerPoison : (modCore s k f).answerPoison = s.answerPoison := rfl
@[simp] theorem modCore_answerCode : (modCore s k f).answerCode = s.answerCode := rfl
@[simp] theorem modCore_nd : (modCore s k f).nd = s.nd := rfl
@[simp] theorem modCore_scopeCount : (modCore s k f).scopeCount = s.scopeCount := rfl
@[simp] theorem modCore_freeCount : (modCore s k f).freeCount = s.freeCount := rfl
@[simp] theorem modCore_inputs : (modCore s k f).inputs = s.inputs := rfl
@[simp] theorem modCore_ring : (modCore s k f).ring = s.ring := rfl
@[simp] theorem modCore_cur : (modCore s k f).cur = s.cur := rfl
@[simp] theorem modCore_waited : (modCore s k f).waited = s.waited := rfl
end

section
variable (s : State) (p : Nat) (f : Pavilion → Pavilion)
@[simp] theorem modPav_mem : (modPav s p f).mem = s.mem := rfl
@[simp] theorem modPav_poison : (modPav s p f).poison = s.poison := rfl
@[simp] theorem modPav_remapped : (modPav s p f).remapped = s.remapped := rfl
@[simp] theorem modPav_upsets : (modPav s p f).upsets = s.upsets := rfl
@[simp] theorem modPav_softs : (modPav s p f).softs = s.softs := rfl
@[simp] theorem modPav_owned : (modPav s p f).owned = s.owned := rfl
@[simp] theorem modPav_tlb : (modPav s p f).tlb = s.tlb := rfl
@[simp] theorem modPav_catalogues : (modPav s p f).catalogues = s.catalogues := rfl
@[simp] theorem modPav_harts : (modPav s p f).harts = s.harts := rfl
@[simp] theorem modPav_cores : (modPav s p f).cores = s.cores := rfl
@[simp] theorem modPav_wings : (modPav s p f).wings = s.wings := rfl
@[simp] theorem modPav_pergolas : (modPav s p f).pergolas = s.pergolas := rfl
@[simp] theorem modPav_layers : (modPav s p f).layers = s.layers := rfl
@[simp] theorem modPav_baseTimes : (modPav s p f).baseTimes = s.baseTimes := rfl
@[simp] theorem modPav_stackReplays : (modPav s p f).stackReplays = s.stackReplays := rfl
@[simp] theorem modPav_rowcap : (modPav s p f).rowcap = s.rowcap := rfl
@[simp] theorem modPav_retired : (modPav s p f).retired = s.retired := rfl
@[simp] theorem modPav_toRetire : (modPav s p f).toRetire = s.toRetire := rfl
@[simp] theorem modPav_intlvSize : (modPav s p f).intlvSize = s.intlvSize := rfl
@[simp] theorem modPav_contexts : (modPav s p f).contexts = s.contexts := rfl
@[simp] theorem modPav_halts : (modPav s p f).halts = s.halts := rfl
@[simp] theorem modPav_chains : (modPav s p f).chains = s.chains := rfl
@[simp] theorem modPav_waiting : (modPav s p f).waiting = s.waiting := rfl
@[simp] theorem modPav_errLog : (modPav s p f).errLog = s.errLog := rfl
@[simp] theorem modPav_schedLog : (modPav s p f).schedLog = s.schedLog := rfl
@[simp] theorem modPav_packets : (modPav s p f).packets = s.packets := rfl
@[simp] theorem modPav_nextPacket : (modPav s p f).nextPacket = s.nextPacket := rfl
@[simp] theorem modPav_suspendCount : (modPav s p f).suspendCount = s.suspendCount := rfl
@[simp] theorem modPav_answer : (modPav s p f).answer = s.answer := rfl
@[simp] theorem modPav_answerPoison : (modPav s p f).answerPoison = s.answerPoison := rfl
@[simp] theorem modPav_answerCode : (modPav s p f).answerCode = s.answerCode := rfl
@[simp] theorem modPav_nd : (modPav s p f).nd = s.nd := rfl
@[simp] theorem modPav_scopeCount : (modPav s p f).scopeCount = s.scopeCount := rfl
@[simp] theorem modPav_freeCount : (modPav s p f).freeCount = s.freeCount := rfl
@[simp] theorem modPav_inputs : (modPav s p f).inputs = s.inputs := rfl
@[simp] theorem modPav_ring : (modPav s p f).ring = s.ring := rfl
@[simp] theorem modPav_cur : (modPav s p f).cur = s.cur := rfl
@[simp] theorem modPav_waited : (modPav s p f).waited = s.waited := rfl
end

section
variable (s : State) (w : Nat) (f : Wing → Wing)
@[simp] theorem modWing_mem : (modWing s w f).mem = s.mem := rfl
@[simp] theorem modWing_poison : (modWing s w f).poison = s.poison := rfl
@[simp] theorem modWing_remapped : (modWing s w f).remapped = s.remapped := rfl
@[simp] theorem modWing_upsets : (modWing s w f).upsets = s.upsets := rfl
@[simp] theorem modWing_softs : (modWing s w f).softs = s.softs := rfl
@[simp] theorem modWing_owned : (modWing s w f).owned = s.owned := rfl
@[simp] theorem modWing_tlb : (modWing s w f).tlb = s.tlb := rfl
@[simp] theorem modWing_catalogues : (modWing s w f).catalogues = s.catalogues := rfl
@[simp] theorem modWing_harts : (modWing s w f).harts = s.harts := rfl
@[simp] theorem modWing_cores : (modWing s w f).cores = s.cores := rfl
@[simp] theorem modWing_pavilions : (modWing s w f).pavilions = s.pavilions := rfl
@[simp] theorem modWing_pergolas : (modWing s w f).pergolas = s.pergolas := rfl
@[simp] theorem modWing_layers : (modWing s w f).layers = s.layers := rfl
@[simp] theorem modWing_baseTimes : (modWing s w f).baseTimes = s.baseTimes := rfl
@[simp] theorem modWing_stackReplays : (modWing s w f).stackReplays = s.stackReplays := rfl
@[simp] theorem modWing_rowcap : (modWing s w f).rowcap = s.rowcap := rfl
@[simp] theorem modWing_retired : (modWing s w f).retired = s.retired := rfl
@[simp] theorem modWing_toRetire : (modWing s w f).toRetire = s.toRetire := rfl
@[simp] theorem modWing_intlvSize : (modWing s w f).intlvSize = s.intlvSize := rfl
@[simp] theorem modWing_contexts : (modWing s w f).contexts = s.contexts := rfl
@[simp] theorem modWing_halts : (modWing s w f).halts = s.halts := rfl
@[simp] theorem modWing_chains : (modWing s w f).chains = s.chains := rfl
@[simp] theorem modWing_waiting : (modWing s w f).waiting = s.waiting := rfl
@[simp] theorem modWing_errLog : (modWing s w f).errLog = s.errLog := rfl
@[simp] theorem modWing_schedLog : (modWing s w f).schedLog = s.schedLog := rfl
@[simp] theorem modWing_packets : (modWing s w f).packets = s.packets := rfl
@[simp] theorem modWing_nextPacket : (modWing s w f).nextPacket = s.nextPacket := rfl
@[simp] theorem modWing_suspendCount : (modWing s w f).suspendCount = s.suspendCount := rfl
@[simp] theorem modWing_answer : (modWing s w f).answer = s.answer := rfl
@[simp] theorem modWing_answerPoison : (modWing s w f).answerPoison = s.answerPoison := rfl
@[simp] theorem modWing_answerCode : (modWing s w f).answerCode = s.answerCode := rfl
@[simp] theorem modWing_nd : (modWing s w f).nd = s.nd := rfl
@[simp] theorem modWing_scopeCount : (modWing s w f).scopeCount = s.scopeCount := rfl
@[simp] theorem modWing_freeCount : (modWing s w f).freeCount = s.freeCount := rfl
@[simp] theorem modWing_inputs : (modWing s w f).inputs = s.inputs := rfl
@[simp] theorem modWing_ring : (modWing s w f).ring = s.ring := rfl
@[simp] theorem modWing_cur : (modWing s w f).cur = s.cur := rfl
@[simp] theorem modWing_waited : (modWing s w f).waited = s.waited := rfl
end

section
variable (s : State) (g : Nat) (f : Pergola → Pergola)
@[simp] theorem modPer_mem : (modPer s g f).mem = s.mem := rfl
@[simp] theorem modPer_poison : (modPer s g f).poison = s.poison := rfl
@[simp] theorem modPer_remapped : (modPer s g f).remapped = s.remapped := rfl
@[simp] theorem modPer_upsets : (modPer s g f).upsets = s.upsets := rfl
@[simp] theorem modPer_softs : (modPer s g f).softs = s.softs := rfl
@[simp] theorem modPer_owned : (modPer s g f).owned = s.owned := rfl
@[simp] theorem modPer_tlb : (modPer s g f).tlb = s.tlb := rfl
@[simp] theorem modPer_catalogues : (modPer s g f).catalogues = s.catalogues := rfl
@[simp] theorem modPer_harts : (modPer s g f).harts = s.harts := rfl
@[simp] theorem modPer_cores : (modPer s g f).cores = s.cores := rfl
@[simp] theorem modPer_pavilions : (modPer s g f).pavilions = s.pavilions := rfl
@[simp] theorem modPer_wings : (modPer s g f).wings = s.wings := rfl
@[simp] theorem modPer_layers : (modPer s g f).layers = s.layers := rfl
@[simp] theorem modPer_baseTimes : (modPer s g f).baseTimes = s.baseTimes := rfl
@[simp] theorem modPer_stackReplays : (modPer s g f).stackReplays = s.stackReplays := rfl
@[simp] theorem modPer_rowcap : (modPer s g f).rowcap = s.rowcap := rfl
@[simp] theorem modPer_retired : (modPer s g f).retired = s.retired := rfl
@[simp] theorem modPer_toRetire : (modPer s g f).toRetire = s.toRetire := rfl
@[simp] theorem modPer_intlvSize : (modPer s g f).intlvSize = s.intlvSize := rfl
@[simp] theorem modPer_contexts : (modPer s g f).contexts = s.contexts := rfl
@[simp] theorem modPer_halts : (modPer s g f).halts = s.halts := rfl
@[simp] theorem modPer_chains : (modPer s g f).chains = s.chains := rfl
@[simp] theorem modPer_waiting : (modPer s g f).waiting = s.waiting := rfl
@[simp] theorem modPer_errLog : (modPer s g f).errLog = s.errLog := rfl
@[simp] theorem modPer_schedLog : (modPer s g f).schedLog = s.schedLog := rfl
@[simp] theorem modPer_packets : (modPer s g f).packets = s.packets := rfl
@[simp] theorem modPer_nextPacket : (modPer s g f).nextPacket = s.nextPacket := rfl
@[simp] theorem modPer_suspendCount : (modPer s g f).suspendCount = s.suspendCount := rfl
@[simp] theorem modPer_answer : (modPer s g f).answer = s.answer := rfl
@[simp] theorem modPer_answerPoison : (modPer s g f).answerPoison = s.answerPoison := rfl
@[simp] theorem modPer_answerCode : (modPer s g f).answerCode = s.answerCode := rfl
@[simp] theorem modPer_nd : (modPer s g f).nd = s.nd := rfl
@[simp] theorem modPer_scopeCount : (modPer s g f).scopeCount = s.scopeCount := rfl
@[simp] theorem modPer_freeCount : (modPer s g f).freeCount = s.freeCount := rfl
@[simp] theorem modPer_inputs : (modPer s g f).inputs = s.inputs := rfl
@[simp] theorem modPer_ring : (modPer s g f).ring = s.ring := rfl
@[simp] theorem modPer_cur : (modPer s g f).cur = s.cur := rfl
@[simp] theorem modPer_waited : (modPer s g f).waited = s.waited := rfl
end

section
variable (s : State) (g b : Nat) (f : Bank → Bank)
@[simp] theorem modBank_mem : (modBank s g b f).mem = s.mem := rfl
@[simp] theorem modBank_poison : (modBank s g b f).poison = s.poison := rfl
@[simp] theorem modBank_remapped : (modBank s g b f).remapped = s.remapped := rfl
@[simp] theorem modBank_upsets : (modBank s g b f).upsets = s.upsets := rfl
@[simp] theorem modBank_softs : (modBank s g b f).softs = s.softs := rfl
@[simp] theorem modBank_owned : (modBank s g b f).owned = s.owned := rfl
@[simp] theorem modBank_tlb : (modBank s g b f).tlb = s.tlb := rfl
@[simp] theorem modBank_catalogues : (modBank s g b f).catalogues = s.catalogues := rfl
@[simp] theorem modBank_harts : (modBank s g b f).harts = s.harts := rfl
@[simp] theorem modBank_cores : (modBank s g b f).cores = s.cores := rfl
@[simp] theorem modBank_pavilions : (modBank s g b f).pavilions = s.pavilions := rfl
@[simp] theorem modBank_wings : (modBank s g b f).wings = s.wings := rfl
@[simp] theorem modBank_layers : (modBank s g b f).layers = s.layers := rfl
@[simp] theorem modBank_baseTimes : (modBank s g b f).baseTimes = s.baseTimes := rfl
@[simp] theorem modBank_stackReplays : (modBank s g b f).stackReplays = s.stackReplays := rfl
@[simp] theorem modBank_rowcap : (modBank s g b f).rowcap = s.rowcap := rfl
@[simp] theorem modBank_retired : (modBank s g b f).retired = s.retired := rfl
@[simp] theorem modBank_toRetire : (modBank s g b f).toRetire = s.toRetire := rfl
@[simp] theorem modBank_intlvSize : (modBank s g b f).intlvSize = s.intlvSize := rfl
@[simp] theorem modBank_contexts : (modBank s g b f).contexts = s.contexts := rfl
@[simp] theorem modBank_halts : (modBank s g b f).halts = s.halts := rfl
@[simp] theorem modBank_chains : (modBank s g b f).chains = s.chains := rfl
@[simp] theorem modBank_waiting : (modBank s g b f).waiting = s.waiting := rfl
@[simp] theorem modBank_errLog : (modBank s g b f).errLog = s.errLog := rfl
@[simp] theorem modBank_schedLog : (modBank s g b f).schedLog = s.schedLog := rfl
@[simp] theorem modBank_packets : (modBank s g b f).packets = s.packets := rfl
@[simp] theorem modBank_nextPacket : (modBank s g b f).nextPacket = s.nextPacket := rfl
@[simp] theorem modBank_suspendCount : (modBank s g b f).suspendCount = s.suspendCount := rfl
@[simp] theorem modBank_answer : (modBank s g b f).answer = s.answer := rfl
@[simp] theorem modBank_answerPoison : (modBank s g b f).answerPoison = s.answerPoison := rfl
@[simp] theorem modBank_answerCode : (modBank s g b f).answerCode = s.answerCode := rfl
@[simp] theorem modBank_nd : (modBank s g b f).nd = s.nd := rfl
@[simp] theorem modBank_scopeCount : (modBank s g b f).scopeCount = s.scopeCount := rfl
@[simp] theorem modBank_freeCount : (modBank s g b f).freeCount = s.freeCount := rfl
@[simp] theorem modBank_inputs : (modBank s g b f).inputs = s.inputs := rfl
@[simp] theorem modBank_ring : (modBank s g b f).ring = s.ring := rfl
@[simp] theorem modBank_cur : (modBank s g b f).cur = s.cur := rfl
@[simp] theorem modBank_waited : (modBank s g b f).waited = s.waited := rfl
end

section
variable (s : State) (l : Nat) (f : Layer → Layer)
@[simp] theorem modLayer_mem : (modLayer s l f).mem = s.mem := rfl
@[simp] theorem modLayer_poison : (modLayer s l f).poison = s.poison := rfl
@[simp] theorem modLayer_remapped : (modLayer s l f).remapped = s.remapped := rfl
@[simp] theorem modLayer_upsets : (modLayer s l f).upsets = s.upsets := rfl
@[simp] theorem modLayer_softs : (modLayer s l f).softs = s.softs := rfl
@[simp] theorem modLayer_owned : (modLayer s l f).owned = s.owned := rfl
@[simp] theorem modLayer_tlb : (modLayer s l f).tlb = s.tlb := rfl
@[simp] theorem modLayer_catalogues : (modLayer s l f).catalogues = s.catalogues := rfl
@[simp] theorem modLayer_harts : (modLayer s l f).harts = s.harts := rfl
@[simp] theorem modLayer_cores : (modLayer s l f).cores = s.cores := rfl
@[simp] theorem modLayer_pavilions : (modLayer s l f).pavilions = s.pavilions := rfl
@[simp] theorem modLayer_wings : (modLayer s l f).wings = s.wings := rfl
@[simp] theorem modLayer_pergolas : (modLayer s l f).pergolas = s.pergolas := rfl
@[simp] theorem modLayer_baseTimes : (modLayer s l f).baseTimes = s.baseTimes := rfl
@[simp] theorem modLayer_stackReplays : (modLayer s l f).stackReplays = s.stackReplays := rfl
@[simp] theorem modLayer_rowcap : (modLayer s l f).rowcap = s.rowcap := rfl
@[simp] theorem modLayer_retired : (modLayer s l f).retired = s.retired := rfl
@[simp] theorem modLayer_toRetire : (modLayer s l f).toRetire = s.toRetire := rfl
@[simp] theorem modLayer_intlvSize : (modLayer s l f).intlvSize = s.intlvSize := rfl
@[simp] theorem modLayer_contexts : (modLayer s l f).contexts = s.contexts := rfl
@[simp] theorem modLayer_halts : (modLayer s l f).halts = s.halts := rfl
@[simp] theorem modLayer_chains : (modLayer s l f).chains = s.chains := rfl
@[simp] theorem modLayer_waiting : (modLayer s l f).waiting = s.waiting := rfl
@[simp] theorem modLayer_errLog : (modLayer s l f).errLog = s.errLog := rfl
@[simp] theorem modLayer_schedLog : (modLayer s l f).schedLog = s.schedLog := rfl
@[simp] theorem modLayer_packets : (modLayer s l f).packets = s.packets := rfl
@[simp] theorem modLayer_nextPacket : (modLayer s l f).nextPacket = s.nextPacket := rfl
@[simp] theorem modLayer_suspendCount : (modLayer s l f).suspendCount = s.suspendCount := rfl
@[simp] theorem modLayer_answer : (modLayer s l f).answer = s.answer := rfl
@[simp] theorem modLayer_answerPoison : (modLayer s l f).answerPoison = s.answerPoison := rfl
@[simp] theorem modLayer_answerCode : (modLayer s l f).answerCode = s.answerCode := rfl
@[simp] theorem modLayer_nd : (modLayer s l f).nd = s.nd := rfl
@[simp] theorem modLayer_scopeCount : (modLayer s l f).scopeCount = s.scopeCount := rfl
@[simp] theorem modLayer_freeCount : (modLayer s l f).freeCount = s.freeCount := rfl
@[simp] theorem modLayer_inputs : (modLayer s l f).inputs = s.inputs := rfl
@[simp] theorem modLayer_ring : (modLayer s l f).ring = s.ring := rfl
@[simp] theorem modLayer_cur : (modLayer s l f).cur = s.cur := rfl
@[simp] theorem modLayer_waited : (modLayer s l f).waited = s.waited := rfl
end

section
variable (s : State) (c : BitVec 16) (f : HaltStat → HaltStat)
@[simp] theorem modHalt_mem : (modHalt s c f).mem = s.mem := rfl
@[simp] theorem modHalt_poison : (modHalt s c f).poison = s.poison := rfl
@[simp] theorem modHalt_remapped : (modHalt s c f).remapped = s.remapped := rfl
@[simp] theorem modHalt_upsets : (modHalt s c f).upsets = s.upsets := rfl
@[simp] theorem modHalt_softs : (modHalt s c f).softs = s.softs := rfl
@[simp] theorem modHalt_owned : (modHalt s c f).owned = s.owned := rfl
@[simp] theorem modHalt_tlb : (modHalt s c f).tlb = s.tlb := rfl
@[simp] theorem modHalt_catalogues : (modHalt s c f).catalogues = s.catalogues := rfl
@[simp] theorem modHalt_harts : (modHalt s c f).harts = s.harts := rfl
@[simp] theorem modHalt_cores : (modHalt s c f).cores = s.cores := rfl
@[simp] theorem modHalt_pavilions : (modHalt s c f).pavilions = s.pavilions := rfl
@[simp] theorem modHalt_wings : (modHalt s c f).wings = s.wings := rfl
@[simp] theorem modHalt_pergolas : (modHalt s c f).pergolas = s.pergolas := rfl
@[simp] theorem modHalt_layers : (modHalt s c f).layers = s.layers := rfl
@[simp] theorem modHalt_baseTimes : (modHalt s c f).baseTimes = s.baseTimes := rfl
@[simp] theorem modHalt_stackReplays : (modHalt s c f).stackReplays = s.stackReplays := rfl
@[simp] theorem modHalt_rowcap : (modHalt s c f).rowcap = s.rowcap := rfl
@[simp] theorem modHalt_retired : (modHalt s c f).retired = s.retired := rfl
@[simp] theorem modHalt_toRetire : (modHalt s c f).toRetire = s.toRetire := rfl
@[simp] theorem modHalt_intlvSize : (modHalt s c f).intlvSize = s.intlvSize := rfl
@[simp] theorem modHalt_contexts : (modHalt s c f).contexts = s.contexts := rfl
@[simp] theorem modHalt_chains : (modHalt s c f).chains = s.chains := rfl
@[simp] theorem modHalt_waiting : (modHalt s c f).waiting = s.waiting := rfl
@[simp] theorem modHalt_errLog : (modHalt s c f).errLog = s.errLog := rfl
@[simp] theorem modHalt_schedLog : (modHalt s c f).schedLog = s.schedLog := rfl
@[simp] theorem modHalt_packets : (modHalt s c f).packets = s.packets := rfl
@[simp] theorem modHalt_nextPacket : (modHalt s c f).nextPacket = s.nextPacket := rfl
@[simp] theorem modHalt_suspendCount : (modHalt s c f).suspendCount = s.suspendCount := rfl
@[simp] theorem modHalt_answer : (modHalt s c f).answer = s.answer := rfl
@[simp] theorem modHalt_answerPoison : (modHalt s c f).answerPoison = s.answerPoison := rfl
@[simp] theorem modHalt_answerCode : (modHalt s c f).answerCode = s.answerCode := rfl
@[simp] theorem modHalt_nd : (modHalt s c f).nd = s.nd := rfl
@[simp] theorem modHalt_scopeCount : (modHalt s c f).scopeCount = s.scopeCount := rfl
@[simp] theorem modHalt_freeCount : (modHalt s c f).freeCount = s.freeCount := rfl
@[simp] theorem modHalt_inputs : (modHalt s c f).inputs = s.inputs := rfl
@[simp] theorem modHalt_ring : (modHalt s c f).ring = s.ring := rfl
@[simp] theorem modHalt_cur : (modHalt s c f).cur = s.cur := rfl
@[simp] theorem modHalt_waited : (modHalt s c f).waited = s.waited := rfl
end

/-! ## Reading a unit after a change of a unit -/

theorem hartOf_modHart (s : State) (id j : Nat) (f : Hart → Hart) :
    hartOf (modHart s id f) j = if j = id then f (hartOf s id) else hartOf s j := Tbl.get_modify ..
@[simp] theorem hartOf_modHart_same (s : State) (id : Nat) (f : Hart → Hart) : hartOf (modHart s id f) id = f (hartOf s id) := by
  simp [hartOf_modHart]
theorem coreOf_modCore (s : State) (k j : Nat) (f : Core → Core) :
    coreOf (modCore s k f) j = if j = k then f (coreOf s k) else coreOf s j := Tbl.get_modify ..
@[simp] theorem coreOf_modCore_same (s : State) (k : Nat) (f : Core → Core) : coreOf (modCore s k f) k = f (coreOf s k) := by
  simp [coreOf_modCore]
theorem perOf_modPer (s : State) (g j : Nat) (f : Pergola → Pergola) :
    perOf (modPer s g f) j = if j = g then f (perOf s g) else perOf s j := Tbl.get_modify ..
@[simp] theorem perOf_modPer_same (s : State) (g : Nat) (f : Pergola → Pergola) : perOf (modPer s g f) g = f (perOf s g) := by
  simp [perOf_modPer]
theorem pavOf_modPav (s : State) (p j : Nat) (f : Pavilion → Pavilion) :
    pavOf (modPav s p f) j = if j = p then f (pavOf s p) else pavOf s j := Tbl.get_modify ..
theorem wingOf_modWing (s : State) (w j : Nat) (f : Wing → Wing) :
    wingOf (modWing s w f) j = if j = w then f (wingOf s w) else wingOf s j := Tbl.get_modify ..
theorem layerOf_modLayer (s : State) (l j : Nat) (f : Layer → Layer) :
    layerOf (modLayer s l f) j = if j = l then f (layerOf s l) else layerOf s j := Tbl.get_modify ..
theorem haltOf_modHalt (s : State) (c d : BitVec 16) (f : HaltStat → HaltStat) :
    haltOf (modHalt s c f) d = if d = c then f (haltOf s c) else haltOf s d := by
  unfold haltOf modHalt
  rw [Tbl.get_modify]
  by_cases h : d = c
  · simp [h]
  · have : d.toNat ≠ c.toNat := fun e => h (BitVec.eq_of_toNat_eq e)
    simp [h, this]
theorem bankOf_modBank (s : State) (g b h c : Nat) (f : Bank → Bank) :
    bankOf (modBank s g b f) h c = if h = g ∧ c = b then f (bankOf s g b) else bankOf s h c := by
  unfold bankOf modBank
  rw [perOf_modPer]
  by_cases hg : h = g
  · subst hg
    simp only [if_true, true_and, Tbl.get_modify]
  · simp [hg]

/-- Units of one kind are untouched by a change of another kind. -/
@[simp] theorem coreOf_modHart (s : State) (id k : Nat) (f : Hart → Hart) : coreOf (modHart s id f) k = coreOf s k := rfl
@[simp] theorem perOf_modHart (s : State) (id k : Nat) (f : Hart → Hart) : perOf (modHart s id f) k = perOf s k := rfl
@[simp] theorem pavOf_modHart (s : State) (id k : Nat) (f : Hart → Hart) : pavOf (modHart s id f) k = pavOf s k := rfl
@[simp] theorem wingOf_modHart (s : State) (id k : Nat) (f : Hart → Hart) : wingOf (modHart s id f) k = wingOf s k := rfl
@[simp] theorem bankOf_modHart (s : State) (id g b : Nat) (f : Hart → Hart) : bankOf (modHart s id f) g b = bankOf s g b := rfl
@[simp] theorem hartOf_modCore (s : State) (id k : Nat) (f : Core → Core) : hartOf (modCore s k f) id = hartOf s id := rfl
@[simp] theorem perOf_modCore (s : State) (g k : Nat) (f : Core → Core) : perOf (modCore s k f) g = perOf s g := rfl
@[simp] theorem bankOf_modCore (s : State) (k g b : Nat) (f : Core → Core) : bankOf (modCore s k f) g b = bankOf s g b := rfl
@[simp] theorem hartOf_modPer (s : State) (id g : Nat) (f : Pergola → Pergola) : hartOf (modPer s g f) id = hartOf s id := rfl
@[simp] theorem coreOf_modPer (s : State) (k g : Nat) (f : Pergola → Pergola) : coreOf (modPer s g f) k = coreOf s k := rfl
@[simp] theorem hartOf_modBank (s : State) (id g b : Nat) (f : Bank → Bank) : hartOf (modBank s g b f) id = hartOf s id := rfl
@[simp] theorem coreOf_modBank (s : State) (k g b : Nat) (f : Bank → Bank) : coreOf (modBank s g b f) k = coreOf s k := rfl

/-! ## Scalar registers (R32, R39) -/

@[simp] theorem Hart.get_zero (h : Hart) : h.get 0 = 0 := rfl
@[simp] theorem Hart.put_zero (h : Hart) (v : Word) : h.put 0 v = h := rfl
theorem Hart.get_put (h : Hart) (n m : Nat) (v : Word) : (h.put n v).get m = if m = n ∧ n ≠ 0 then v else h.get m := by
  unfold Hart.put Hart.get
  by_cases hn : n = 0
  · simp [hn]
  · by_cases hm : m = 0
    · have : ¬ 0 = n := fun e => hn e.symm
      simp [hm, this]
    · simp only [hn, if_false, hm, Tbl.get_set, ne_eq, not_false_eq_true, and_true]
/-- A write to a scalar register changes nothing but the registers. -/
theorem Hart.put_frame (h : Hart) (n : Nat) (v : Word) : { h.put n v with x := h.x } = h := by
  unfold Hart.put; split <;> rfl

/-! ## Several harts -/

section
variable (f : Hart → Hart)
@[simp] theorem modHarts_mem : ∀ (ids : List Nat) (s : State), (modHarts s ids f).mem = s.mem
  | [], _ => rfl
  | i :: is, s => modHarts_mem is (modHart s i f)
@[simp] theorem modHarts_poison : ∀ (ids : List Nat) (s : State), (modHarts s ids f).poison = s.poison
  | [], _ => rfl
  | i :: is, s => modHarts_poison is (modHart s i f)
@[simp] theorem modHarts_remapped : ∀ (ids : List Nat) (s : State), (modHarts s ids f).remapped = s.remapped
  | [], _ => rfl
  | i :: is, s => modHarts_remapped is (modHart s i f)
@[simp] theorem modHarts_upsets : ∀ (ids : List Nat) (s : State), (modHarts s ids f).upsets = s.upsets
  | [], _ => rfl
  | i :: is, s => modHarts_upsets is (modHart s i f)
@[simp] theorem modHarts_softs : ∀ (ids : List Nat) (s : State), (modHarts s ids f).softs = s.softs
  | [], _ => rfl
  | i :: is, s => modHarts_softs is (modHart s i f)
@[simp] theorem modHarts_owned : ∀ (ids : List Nat) (s : State), (modHarts s ids f).owned = s.owned
  | [], _ => rfl
  | i :: is, s => modHarts_owned is (modHart s i f)
@[simp] theorem modHarts_tlb : ∀ (ids : List Nat) (s : State), (modHarts s ids f).tlb = s.tlb
  | [], _ => rfl
  | i :: is, s => modHarts_tlb is (modHart s i f)
@[simp] theorem modHarts_catalogues : ∀ (ids : List Nat) (s : State), (modHarts s ids f).catalogues = s.catalogues
  | [], _ => rfl
  | i :: is, s => modHarts_catalogues is (modHart s i f)
@[simp] theorem modHarts_cores : ∀ (ids : List Nat) (s : State), (modHarts s ids f).cores = s.cores
  | [], _ => rfl
  | i :: is, s => modHarts_cores is (modHart s i f)
@[simp] theorem modHarts_pavilions : ∀ (ids : List Nat) (s : State), (modHarts s ids f).pavilions = s.pavilions
  | [], _ => rfl
  | i :: is, s => modHarts_pavilions is (modHart s i f)
@[simp] theorem modHarts_wings : ∀ (ids : List Nat) (s : State), (modHarts s ids f).wings = s.wings
  | [], _ => rfl
  | i :: is, s => modHarts_wings is (modHart s i f)
@[simp] theorem modHarts_pergolas : ∀ (ids : List Nat) (s : State), (modHarts s ids f).pergolas = s.pergolas
  | [], _ => rfl
  | i :: is, s => modHarts_pergolas is (modHart s i f)
@[simp] theorem modHarts_layers : ∀ (ids : List Nat) (s : State), (modHarts s ids f).layers = s.layers
  | [], _ => rfl
  | i :: is, s => modHarts_layers is (modHart s i f)
@[simp] theorem modHarts_baseTimes : ∀ (ids : List Nat) (s : State), (modHarts s ids f).baseTimes = s.baseTimes
  | [], _ => rfl
  | i :: is, s => modHarts_baseTimes is (modHart s i f)
@[simp] theorem modHarts_stackReplays : ∀ (ids : List Nat) (s : State), (modHarts s ids f).stackReplays = s.stackReplays
  | [], _ => rfl
  | i :: is, s => modHarts_stackReplays is (modHart s i f)
@[simp] theorem modHarts_rowcap : ∀ (ids : List Nat) (s : State), (modHarts s ids f).rowcap = s.rowcap
  | [], _ => rfl
  | i :: is, s => modHarts_rowcap is (modHart s i f)
@[simp] theorem modHarts_retired : ∀ (ids : List Nat) (s : State), (modHarts s ids f).retired = s.retired
  | [], _ => rfl
  | i :: is, s => modHarts_retired is (modHart s i f)
@[simp] theorem modHarts_toRetire : ∀ (ids : List Nat) (s : State), (modHarts s ids f).toRetire = s.toRetire
  | [], _ => rfl
  | i :: is, s => modHarts_toRetire is (modHart s i f)
@[simp] theorem modHarts_intlvSize : ∀ (ids : List Nat) (s : State), (modHarts s ids f).intlvSize = s.intlvSize
  | [], _ => rfl
  | i :: is, s => modHarts_intlvSize is (modHart s i f)
@[simp] theorem modHarts_contexts : ∀ (ids : List Nat) (s : State), (modHarts s ids f).contexts = s.contexts
  | [], _ => rfl
  | i :: is, s => modHarts_contexts is (modHart s i f)
@[simp] theorem modHarts_halts : ∀ (ids : List Nat) (s : State), (modHarts s ids f).halts = s.halts
  | [], _ => rfl
  | i :: is, s => modHarts_halts is (modHart s i f)
@[simp] theorem modHarts_chains : ∀ (ids : List Nat) (s : State), (modHarts s ids f).chains = s.chains
  | [], _ => rfl
  | i :: is, s => modHarts_chains is (modHart s i f)
@[simp] theorem modHarts_waiting : ∀ (ids : List Nat) (s : State), (modHarts s ids f).waiting = s.waiting
  | [], _ => rfl
  | i :: is, s => modHarts_waiting is (modHart s i f)
@[simp] theorem modHarts_errLog : ∀ (ids : List Nat) (s : State), (modHarts s ids f).errLog = s.errLog
  | [], _ => rfl
  | i :: is, s => modHarts_errLog is (modHart s i f)
@[simp] theorem modHarts_schedLog : ∀ (ids : List Nat) (s : State), (modHarts s ids f).schedLog = s.schedLog
  | [], _ => rfl
  | i :: is, s => modHarts_schedLog is (modHart s i f)
@[simp] theorem modHarts_packets : ∀ (ids : List Nat) (s : State), (modHarts s ids f).packets = s.packets
  | [], _ => rfl
  | i :: is, s => modHarts_packets is (modHart s i f)
@[simp] theorem modHarts_nextPacket : ∀ (ids : List Nat) (s : State), (modHarts s ids f).nextPacket = s.nextPacket
  | [], _ => rfl
  | i :: is, s => modHarts_nextPacket is (modHart s i f)
@[simp] theorem modHarts_suspendCount : ∀ (ids : List Nat) (s : State), (modHarts s ids f).suspendCount = s.suspendCount
  | [], _ => rfl
  | i :: is, s => modHarts_suspendCount is (modHart s i f)
@[simp] theorem modHarts_answer : ∀ (ids : List Nat) (s : State), (modHarts s ids f).answer = s.answer
  | [], _ => rfl
  | i :: is, s => modHarts_answer is (modHart s i f)
@[simp] theorem modHarts_answerPoison : ∀ (ids : List Nat) (s : State), (modHarts s ids f).answerPoison = s.answerPoison
  | [], _ => rfl
  | i :: is, s => modHarts_answerPoison is (modHart s i f)
@[simp] theorem modHarts_answerCode : ∀ (ids : List Nat) (s : State), (modHarts s ids f).answerCode = s.answerCode
  | [], _ => rfl
  | i :: is, s => modHarts_answerCode is (modHart s i f)
@[simp] theorem modHarts_nd : ∀ (ids : List Nat) (s : State), (modHarts s ids f).nd = s.nd
  | [], _ => rfl
  | i :: is, s => modHarts_nd is (modHart s i f)
@[simp] theorem modHarts_scopeCount : ∀ (ids : List Nat) (s : State), (modHarts s ids f).scopeCount = s.scopeCount
  | [], _ => rfl
  | i :: is, s => modHarts_scopeCount is (modHart s i f)
@[simp] theorem modHarts_freeCount : ∀ (ids : List Nat) (s : State), (modHarts s ids f).freeCount = s.freeCount
  | [], _ => rfl
  | i :: is, s => modHarts_freeCount is (modHart s i f)
@[simp] theorem modHarts_inputs : ∀ (ids : List Nat) (s : State), (modHarts s ids f).inputs = s.inputs
  | [], _ => rfl
  | i :: is, s => modHarts_inputs is (modHart s i f)
@[simp] theorem modHarts_ring : ∀ (ids : List Nat) (s : State), (modHarts s ids f).ring = s.ring
  | [], _ => rfl
  | i :: is, s => modHarts_ring is (modHart s i f)
@[simp] theorem modHarts_cur : ∀ (ids : List Nat) (s : State), (modHarts s ids f).cur = s.cur
  | [], _ => rfl
  | i :: is, s => modHarts_cur is (modHart s i f)
@[simp] theorem modHarts_waited : ∀ (ids : List Nat) (s : State), (modHarts s ids f).waited = s.waited
  | [], _ => rfl
  | i :: is, s => modHarts_waited is (modHart s i f)
end

theorem modHarts_frame (s : State) (f : Hart → Hart) : ∀ ids : List Nat, { modHarts s ids f with harts := s.harts } = s := by
  intro ids
  suffices h : ∀ t : State, { t with harts := s.harts } = s → { modHarts t ids f with harts := s.harts } = s from h s rfl
  induction ids with
  | nil => intro t h; exact h
  | cons i is ih => intro t h; exact ih (modHart t i f) h

theorem hartOf_modHarts (f : Hart → Hart) (j : Nat) : ∀ (ids : List Nat) (s : State), ids.Nodup →
    hartOf (modHarts s ids f) j = if j ∈ ids then f (hartOf s j) else hartOf s j
  | [], s, _ => by simp [modHarts]
  | i :: is, s, h => by
    have ih := hartOf_modHarts f j is (modHart s i f) (List.nodup_cons.1 h).2
    show hartOf (modHarts (modHart s i f) is f) j = _
    rw [ih, hartOf_modHart]
    have hn := (List.nodup_cons.1 h).1
    by_cases hj : j = i
    · subst hj; simp [hn]
    · simp [hj]

end Sys2Proof.Machine
end

