-- ==== Sys2Proof/Laws/Memory.lean ====
section
/-! SUPPORT. Memory: every operation keeps the canonical form, and a read after a write gives the byte written inside the range and the old
byte outside it. -/
namespace Sys2Proof.Machine

/-! ## Bytes -/

@[simp] theorem leBytes_length (n v : Nat) : (leBytes n v).length = n := by
  induction n generalizing v with
  | zero => rfl
  | succ n ih => simp [leBytes, ih]

theorem leNat_leBytes (n v : Nat) : leNat (leBytes n v) = v % 256 ^ n := by
  induction n generalizing v with
  | zero => simp [leBytes, leNat, Nat.mod_one]
  | succ n ih =>
    have e : (BitVec.ofNat 8 v).toNat = v % 256 := by simp only [BitVec.toNat_ofNat]
    simp only [leBytes, leNat, ih]
    rw [e, pow_succ', Nat.mod_mul]

/-! ## The canonical form -/

theorem triggerMonitors_mem (s : State) (pa n : Nat) : (triggerMonitors s pa n).mem = s.mem := rfl

theorem writeBytes_mem (s : State) (pa : Nat) (l : List Byte) : (writeBytes s pa l).mem = Tbl.setSpan memDefault s.mem pa l := rfl

/-- A write keeps memory canonical. -/
theorem writeBytes_wf {s : State} (h : Memory.wf s.mem = true) (pa : Nat) (l : List Byte) : Memory.wf (writeBytes s pa l).mem = true :=
  Tbl.wf_setSpan memDefault s.mem pa l h

theorem writeNat_wf {s : State} (h : Memory.wf s.mem = true) (pa n v : Nat) : Memory.wf (writeNat s pa n v).mem = true := writeBytes_wf h ..

@[simp] theorem setPoison_mem (s : State) (pa n : Nat) (b : Bool) : (setPoison s pa n b).mem = s.mem := rfl

@[simp] theorem writeStore_mem (s : State) (p o : Nat) (l : List Byte) : (writeStore s p o l).mem = s.mem := rfl

/-- A property that each step of a fold keeps holds after the fold. -/
theorem foldl_keeps {α σ : Type} (P : σ → Prop) (f : σ → α → σ) (hf : ∀ t a, P t → P (f t a)) : ∀ (l : List α) (t : σ), P t → P (l.foldl f t)
  | [], _, h => h
  | a :: l, t, h => foldl_keeps P f hf l (f t a) (hf t a h)

theorem writePlace_wf {s : State} (h : Memory.wf s.mem = true) (p : Place) (l : List Byte) : Memory.wf (writePlace s p l).mem = true := by
  cases p with
  | phys pa => exact writeBytes_wf h pa l
  | striped w a =>
    unfold writePlace
    exact foldl_keeps (fun t : State => Memory.wf t.mem = true) (fun t k => writeStore t (stripePav w (a + k)) (stripeOff (a + k)) [l.getD k 0])
      (fun _ _ ht => ht) _ _ h
  | _ => exact h

theorem commit_wf {s : State} (h : Memory.wf s.mem = true) (r : Resolved) : Memory.wf (commit s r).mem = true := by
  unfold commit
  cases r.entryAt with
  | none => cases r.tlb <;> exact h
  | some x =>
    dsimp only
    cases r.tlb <;> dsimp only <;> (split <;> first | exact h | exact writeBytes_wf h _ _)

theorem commitAll_wf {s : State} (h : Memory.wf s.mem = true) (l : List Resolved) : Memory.wf (commitAll s l).mem = true :=
  foldl_keeps (fun t : State => Memory.wf t.mem = true) commit (fun _ r ht => commit_wf ht r) l s h

theorem writeRange_go_wf : ∀ (l : List (Place × Nat)) (s : State) (o : Nat) (bs : List Byte), Memory.wf s.mem = true →
    Memory.wf (writeRange.go s l o bs).mem = true
  | [], _, _, _, h => h
  | (p, k) :: t, s, o, bs, h => by
    unfold writeRange.go
    split
    · exact h
    · split
      · exact writeRange_go_wf t _ _ _ (writePlace_wf h _ _)
      · exact writeRange_go_wf t _ _ _ h

theorem writeRange_wf {s : State} (h : Memory.wf s.mem = true) (m : RangeMap) (off : Nat) (bs : List Byte) :
    Memory.wf (writeRange s m off bs).mem = true := writeRange_go_wf _ _ _ _ h

/-- Memory at reset is canonical: it lists nothing. -/
theorem reset_mem_wf : Memory.wf State.reset.mem = true := rfl

/-! ## Reading after writing -/

theorem readByte_writeBytes (s : State) (pa a : Nat) (l : List Byte) :
    readByte (writeBytes s pa l) a = if pa ≤ a ∧ a < pa + l.length then l.getD (a - pa) memDefault else readByte s a :=
  Tbl.get_setSpan memDefault s.mem pa a l

/-- A byte outside the written range reads as before. -/
theorem readByte_writeBytes_outside (s : State) {pa a : Nat} {l : List Byte} (h : ¬(pa ≤ a ∧ a < pa + l.length)) :
    readByte (writeBytes s pa l) a = readByte s a := by rw [readByte_writeBytes, if_neg h]

theorem Tbl.get_inSpan {α : Type} (d : α) (t : Tbl α) (a n j : Nat) (h : a ≤ j ∧ j < a + n) : Tbl.get d (t.inSpan a n) j = Tbl.get d t j := by
  have := Tbl.get_filter d (fun k => decide (a ≤ k) && decide (k < a + n)) j t
  unfold Tbl.inSpan
  rw [this, if_pos (by simp; omega)]

theorem Tbl.getSpan_eq {α : Type} (d : α) (t : Tbl α) (a n : Nat) : Tbl.getSpan d t a n = (List.range n).map fun k => Tbl.get d t (a + k) := by
  unfold Tbl.getSpan
  apply List.map_congr_left
  intro k hk
  exact Tbl.get_inSpan d t a n (a + k) (by simp at hk; omega)

/-- A range reads byte by byte. -/
theorem readBytes_eq (s : State) (pa n : Nat) : readBytes s pa n = (List.range n).map fun k => readByte s (pa + k) :=
  Tbl.getSpan_eq memDefault s.mem pa n

@[simp] theorem readBytes_length (s : State) (pa n : Nat) : (readBytes s pa n).length = n := by simp [readBytes_eq]

/-- The bytes just written read back. -/
theorem readBytes_writeBytes_same (s : State) (pa : Nat) (l : List Byte) : readBytes (writeBytes s pa l) pa l.length = l := by
  rw [readBytes_eq]
  apply List.ext_getElem (by simp)
  intro k h1 h2
  simp only [List.getElem_map, List.getElem_range]
  rw [readByte_writeBytes, if_pos ⟨by omega, by omega⟩]
  simp [List.getElem?_eq_getElem h2]

/-- A range apart from the written one reads as before. -/
theorem readBytes_writeBytes_apart (s : State) {pa a n : Nat} {l : List Byte} (h : a + n ≤ pa ∨ pa + l.length ≤ a) :
    readBytes (writeBytes s pa l) a n = readBytes s a n := by
  simp only [readBytes_eq]
  apply List.map_congr_left
  intro k hk
  simp only [List.mem_range] at hk
  exact readByte_writeBytes_outside s (by omega)

/-- A number written little-endian reads back. -/
theorem readNat_writeNat_same (s : State) (pa n v : Nat) : readNat (writeNat s pa n v) pa n = v % 256 ^ n := by
  unfold readNat writeNat
  have := readBytes_writeBytes_same s pa (leBytes n v)
  rw [leBytes_length] at this
  rw [this, leNat_leBytes]

theorem readNat_writeNat_apart (s : State) {pa n v a m : Nat} (h : a + m ≤ pa ∨ pa + n ≤ a) : readNat (writeNat s pa n v) a m = readNat s a m := by
  unfold readNat writeNat
  rw [readBytes_writeBytes_apart s (by simpa using h)]

end Sys2Proof.Machine
end

