-- ==== Sys2Proof/Laws/Access.lean ====
section
/-! SUPPORT. A program's access to memory beside the device's own state: what it leaves of memory, and what a change of the Ndetrief leaves. -/
namespace Sys2Proof.Machine

/-! ## The Ndetrief changes nothing else -/

section
variable (s : State) (f : Ndetrief → Ndetrief)
@[simp] theorem modNd_nd : (modNd s f).nd = f s.nd := rfl
@[simp] theorem modNd_mem : (modNd s f).mem = s.mem := rfl
@[simp] theorem modNd_harts : (modNd s f).harts = s.harts := rfl
@[simp] theorem modNd_cores : (modNd s f).cores = s.cores := rfl
@[simp] theorem modNd_pergolas : (modNd s f).pergolas = s.pergolas := rfl
@[simp] theorem modNd_inputs : (modNd s f).inputs = s.inputs := rfl
@[simp] theorem modNd_cur : (modNd s f).cur = s.cur := rfl
end

/-! ## Free bytes -/

@[simp] theorem freeBytes_length (s : State) (n : Nat) : (freeBytes s n).1.length = n := by simp [freeBytes]
@[simp] theorem freeBytes_mem (s : State) (n : Nat) : (freeBytes s n).2.mem = s.mem := rfl

/-- A range that becomes unspecified changes no byte outside it. -/
theorem readByte_freeInto_outside (s : State) {pa n a : Nat} (h : ¬(pa ≤ a ∧ a < pa + n)) : readByte (freeInto s pa n) a = readByte s a := by
  unfold freeInto
  rw [readByte_writeBytes_outside _ (by simpa using h)]; rfl

theorem freeInto_wf {s : State} (h : Memory.wf s.mem = true) (pa n : Nat) : Memory.wf (freeInto s pa n).mem = true :=
  writeBytes_wf (s := (freeBytes s n).2) h ..

/-- Reading changes nothing but the count of free values. -/
@[simp] theorem memRead_mem (s : State) (pa n : Nat) : (memRead s pa n).2.mem = s.mem := by unfold memRead; split <;> rfl

/-- What both branches keep. -/
theorem ite_keeps {σ : Type} (P : σ → Prop) {c : Prop} [Decidable c] {a b : σ} (ha : P a) (hb : P b) : P (if c then a else b) := by
  split <;> assumption

/-- Registers whose image is overwritten change, memory does not. -/
@[simp] theorem spoilImages_mem (s : State) (pa n : Nat) : (spoilImages s pa n).mem = s.mem :=
  foldl_keeps (fun t : State => t.mem = s.mem) _ (fun _ _ ht =>
    ite_keeps (fun t : State => t.mem = s.mem) (foldl_keeps (fun t : State => t.mem = s.mem) _ (fun u _ hu => by
      rw [modCore_mem, freeBytes_mem]; exact hu) _ _ ht) ht) _ _ rfl

theorem spoilFrame_wf {s : State} (h : Memory.wf s.mem = true) (pa n : Nat) (f : Nat × Nat × Nat) : Memory.wf (spoilFrame s pa n f).mem = true := by
  have h1 := foldl_keeps (fun t : State => Memory.wf t.mem = true) (fun (t : State) r => freeInto t (f.1 + 1024 * r) 1024)
    (fun _ _ ht => freeInto_wf ht ..) ((List.range (f.2.1 / 1024)).filter fun r => overlaps pa n (f.1 + 1024 * r) 1024) s h
  exact ite_keeps (fun t : State => Memory.wf t.mem = true) (freeInto_wf h1 ..) h1

theorem spoilRecord_wf {s : State} (h : Memory.wf s.mem = true) (pa n : Nat) (r : Nat × Nat) : Memory.wf (spoilRecord s pa n r).mem = true := by
  have h1 := freeInto_wf (ite_keeps (fun t : State => Memory.wf t.mem = true)
    (c := Nat.max pa (recordBase s r) < Nat.min (pa + n) (recordBase s r + 128)) (a := freeInto s (Nat.max pa (recordBase s r)) (Nat.min (pa + n) (recordBase s r + 128) - Nat.max pa (recordBase s r)))
    (freeInto_wf h ..) h) (recordBase s r + 128) 65536
  unfold spoilRecord
  exact ite_keeps (fun t : State => Memory.wf t.mem = true) (by rw [modCore_mem, freeBytes_mem]; exact h1) h1

/-- A program's write keeps memory canonical, whatever images it meets (R102). -/
theorem memWrite_wf {s : State} (h : Memory.wf s.mem = true) (pa : Nat) (l : List Byte) : Memory.wf (memWrite s pa l).mem = true := by
  have h1 : Memory.wf (spoilImages (writeBytes s pa l) pa l.length).mem = true := by rw [spoilImages_mem]; exact writeBytes_wf h ..
  exact foldl_keeps (fun t : State => Memory.wf t.mem = true) _ (fun _ _ ht => spoilRecord_wf ht ..) _ _
    (foldl_keeps (fun t : State => Memory.wf t.mem = true) _ (fun _ _ ht => spoilFrame_wf ht ..) _ _ h1)

/-- A program's write outside the device registers keeps memory canonical. -/
theorem progWrite_wf {s : State} (h : Memory.wf s.mem = true) {p : Place} (hp : ∀ off, p ≠ .dev off) (l : List Byte) :
    Memory.wf (progWrite s p l).mem = true := by
  cases p with
  | phys pa => exact memWrite_wf h pa l
  | dev off => exact absurd rfl (hp off)
  | _ => exact writePlace_wf h _ l

end Sys2Proof.Machine
end

