-- ==== Sys2Proof/Laws/PerInstr.lean ====
section
/-! SUPPORT. The family Encoding: the word of each instruction decodes to that instruction, one lemma per constructor. -/
namespace Sys2Proof.Laws

/-! ## Fields of a concatenation -/

/-- Bits that lie in the low part of a concatenation. -/
theorem extract_low {a b lo n : Nat} (x : BitVec a) (y : BitVec b) (h : lo + n ≤ b) : (x ++ y).extractLsb' lo n = y.extractLsb' lo n := by
  apply BitVec.eq_of_getLsbD_eq; intro k hk
  simp only [BitVec.getLsbD_extractLsb', BitVec.getLsbD_append]
  rw [if_pos (by omega)]

/-- Bits that lie in the high part. -/
theorem extract_high {a b lo n : Nat} (x : BitVec a) (y : BitVec b) (h : b ≤ lo) :
    (x ++ y).extractLsb' lo n = x.extractLsb' (lo - b) n := by
  apply BitVec.eq_of_getLsbD_eq; intro k hk
  simp only [BitVec.getLsbD_extractLsb', BitVec.getLsbD_append]
  rw [if_neg (by omega)]
  congr 2; omega

theorem extract_all {w : Nat} (x : BitVec w) : x.extractLsb' 0 w = x := by
  apply BitVec.eq_of_getLsbD_eq; intro k hk
  simp [hk]

theorem bit_low {a b k : Nat} (x : BitVec a) (y : BitVec b) (h : k < b) : (x ++ y).getLsbD k = y.getLsbD k := by
  rw [BitVec.getLsbD_append, if_pos h]

theorem bit_high {a b k : Nat} (x : BitVec a) (y : BitVec b) (h : b ≤ k) : (x ++ y).getLsbD k = x.getLsbD (k - b) := by
  rw [BitVec.getLsbD_append, if_neg (by omega)]

theorem bit_ofBool (b : Bool) : (BitVec.ofBool b).getLsbD 0 = b := by cases b <;> rfl

theorem opnd_bits (o : Opnd) : Opnd.ofBits o.bits = o := by
  obtain ⟨l, e, n⟩ := o
  have h : ∀ lo m, (Opnd.bits ⟨l, e, n⟩).extractLsb' lo m = BitVec.extractLsb' lo m (l ++ BitVec.ofBool e ++ n) := fun _ _ => rfl
  have g : ∀ k, (Opnd.bits ⟨l, e, n⟩).getLsbD k = BitVec.getLsbD (l ++ BitVec.ofBool e ++ n) k := fun _ => rfl
  simp (disch := decide) only [Opnd.ofBits, h, g, extract_low, extract_high, extract_all, bit_low, bit_high, bit_ofBool, Nat.reduceSub]


/-! ## Fields of a word, format by format (R182, R291, R321) -/

theorem major_encR (M : BitVec 8) (S : BitVec 6) (f : FmtR) : (encR M S f).extractLsb' 0 8 = M :=
  (extract_low _ M (by decide)).trans (extract_all M)
theorem sub_encR (M : BitVec 8) (S : BitVec 6) (f : FmtR) : (encR M S f).extractLsb' 8 6 = S :=
  (extract_high _ M (by decide)).trans ((extract_low _ S (by decide)).trans (extract_all S))
theorem decR_encR (M : BitVec 8) (S : BitVec 6) (f : FmtR) : decR (encR M S f) = f := by
  have h : ∀ lo n, (encR M S f).extractLsb' lo n =
      BitVec.extractLsb' lo n (f.mod ++ f.c.bits ++ f.b.bits ++ f.a.bits ++ f.d.bits ++ S ++ M) := fun _ _ => rfl
  simp (disch := decide) only [decR, opndAt, h, extract_low, extract_high, extract_all, Nat.reduceSub, opnd_bits]

theorem major_encI (M : BitVec 8) (S : BitVec 6) (f : FmtI) : (encI M S f).extractLsb' 0 8 = M :=
  (extract_low _ M (by decide)).trans (extract_all M)
theorem sub_encI (M : BitVec 8) (S : BitVec 6) (f : FmtI) : (encI M S f).extractLsb' 8 6 = S :=
  (extract_high _ M (by decide)).trans ((extract_low _ S (by decide)).trans (extract_all S))
theorem decI_encI (M : BitVec 8) (S : BitVec 6) (f : FmtI) : decI (encI M S f) = f := by
  have h : ∀ lo n, (encI M S f).extractLsb' lo n =
      BitVec.extractLsb' lo n (f.imm ++ f.a.bits ++ f.d.bits ++ S ++ M) := fun _ _ => rfl
  simp (disch := decide) only [decI, opndAt, h, extract_low, extract_high, extract_all, Nat.reduceSub, opnd_bits]

theorem major_encB (M : BitVec 8) (S : BitVec 6) (f : FmtB) : (encB M S f).extractLsb' 0 8 = M :=
  (extract_low _ M (by decide)).trans (extract_all M)
theorem sub_encB (M : BitVec 8) (S : BitVec 6) (f : FmtB) : (encB M S f).extractLsb' 8 6 = S :=
  (extract_high _ M (by decide)).trans ((extract_low _ S (by decide)).trans (extract_all S))
theorem decB_encB (M : BitVec 8) (S : BitVec 6) (f : FmtB) : decB (encB M S f) = f := by
  have h : ∀ lo n, (encB M S f).extractLsb' lo n =
      BitVec.extractLsb' lo n (f.off ++ f.b.bits ++ f.a.bits ++ S ++ M) := fun _ _ => rfl
  simp (disch := decide) only [decB, opndAt, h, extract_low, extract_high, extract_all, Nat.reduceSub, opnd_bits]

theorem major_encJ (M : BitVec 8) (S : BitVec 6) (f : FmtJ) : (encJ M S f).extractLsb' 0 8 = M :=
  (extract_low _ M (by decide)).trans (extract_all M)
theorem sub_encJ (M : BitVec 8) (S : BitVec 6) (f : FmtJ) : (encJ M S f).extractLsb' 8 6 = S :=
  (extract_high _ M (by decide)).trans ((extract_low _ S (by decide)).trans (extract_all S))
theorem decJ_encJ (M : BitVec 8) (S : BitVec 6) (f : FmtJ) : decJ (encJ M S f) = f := by
  have h : ∀ lo n, (encJ M S f).extractLsb' lo n =
      BitVec.extractLsb' lo n (f.off ++ f.a.bits ++ f.d.bits ++ S ++ M) := fun _ _ => rfl
  simp (disch := decide) only [decJ, opndAt, h, extract_low, extract_high, extract_all, Nat.reduceSub, opnd_bits]

theorem major_encL (M : BitVec 8) (S : BitVec 6) (f : FmtL) : (encL M S f).extractLsb' 0 8 = M :=
  (extract_low _ M (by decide)).trans (extract_all M)
theorem sub_encL (M : BitVec 8) (S : BitVec 6) (f : FmtL) : (encL M S f).extractLsb' 8 6 = S :=
  (extract_high _ M (by decide)).trans ((extract_low _ S (by decide)).trans (extract_all S))
theorem decL_encL (M : BitVec 8) (S : BitVec 6) (f : FmtL) : decL (encL M S f) = f := by
  have h : ∀ lo n, (encL M S f).extractLsb' lo n =
      BitVec.extractLsb' lo n (f.end24 ++ f.imm16 ++ f.a.bits ++ S ++ M) := fun _ _ => rfl
  simp (disch := decide) only [decL, opndAt, h, extract_low, extract_high, extract_all, Nat.reduceSub, opnd_bits]

theorem major_encM (M : BitVec 8) (S : BitVec 6) (f : FmtM) : (encM M S f).extractLsb' 0 8 = M :=
  (extract_low _ M (by decide)).trans (extract_all M)
theorem sub_encM (M : BitVec 8) (S : BitVec 6) (f : FmtM) : (encM M S f).extractLsb' 8 6 = S :=
  (extract_high _ M (by decide)).trans ((extract_low _ S (by decide)).trans (extract_all S))
theorem decM_encM (M : BitVec 8) (S : BitVec 6) (f : FmtM) : decM (encM M S f) = f := by
  have h : ∀ lo n, (encM M S f).extractLsb' lo n =
      BitVec.extractLsb' lo n (f.off ++ f.wid ++ f.scope ++ f.strm ++ f.base.bits ++ f.data.bits ++ S ++ M) := fun _ _ => rfl
  simp (disch := decide) only [decM, opndAt, h, extract_low, extract_high, extract_all, Nat.reduceSub, opnd_bits]

theorem major_encV (M : BitVec 8) (S : BitVec 6) (f : FmtV) : (encV M S f).extractLsb' 0 8 = M :=
  (extract_low _ M (by decide)).trans (extract_all M)
theorem sub_encV (M : BitVec 8) (S : BitVec 6) (f : FmtV) : (encV M S f).extractLsb' 8 6 = S :=
  (extract_high _ M (by decide)).trans ((extract_low _ S (by decide)).trans (extract_all S))
theorem decV_encV (M : BitVec 8) (S : BitVec 6) (f : FmtV) : decV (encV M S f) = f := by
  have h : ∀ lo n, (encV M S f).extractLsb' lo n =
      BitVec.extractLsb' lo n (BitVec.ofBool f.sat ++ BitVec.ofBool f.xm ++ f.rm ++ BitVec.ofBool f.masken ++ f.mreg ++ f.vc.bits ++ f.vb.bits ++ f.va.bits ++ f.vd.bits ++ S ++ M) := fun _ _ => rfl
  have g : ∀ k, (encV M S f).getLsbD k =
      BitVec.getLsbD (BitVec.ofBool f.sat ++ BitVec.ofBool f.xm ++ f.rm ++ BitVec.ofBool f.masken ++ f.mreg ++ f.vc.bits ++ f.vb.bits ++ f.va.bits ++ f.vd.bits ++ S ++ M) k := fun _ => rfl
  simp (disch := decide) only [decV, opndAt, h, g, extract_low, extract_high, extract_all, bit_low, bit_high, bit_ofBool, Nat.reduceSub,
    opnd_bits]

theorem major_encW (M : BitVec 8) (S : BitVec 6) (f : FmtW) : (encW M S f).extractLsb' 0 8 = M :=
  (extract_low _ M (by decide)).trans (extract_all M)
theorem sub_encW (M : BitVec 8) (S : BitVec 6) (f : FmtW) : (encW M S f).extractLsb' 8 6 = S :=
  (extract_high _ M (by decide)).trans ((extract_low _ S (by decide)).trans (extract_all S))
theorem decW_encW (M : BitVec 8) (S : BitVec 6) (f : FmtW) : decW (encW M S f) = f := by
  have h : ∀ lo n, (encW M S f).extractLsb' lo n =
      BitVec.extractLsb' lo n (f.imm6 ++ BitVec.ofBool f.masken ++ f.masko ++ BitVec.ofBool f.sat ++ BitVec.ofBool f.xm ++ f.rm ++ f.type ++ f.sb.bits ++ f.sa.bits ++ BitVec.ofBool f.res ++ f.q ++ f.ob ++ f.oa ++ f.od ++ S ++ M) := fun _ _ => rfl
  have g : ∀ k, (encW M S f).getLsbD k =
      BitVec.getLsbD (f.imm6 ++ BitVec.ofBool f.masken ++ f.masko ++ BitVec.ofBool f.sat ++ BitVec.ofBool f.xm ++ f.rm ++ f.type ++ f.sb.bits ++ f.sa.bits ++ BitVec.ofBool f.res ++ f.q ++ f.ob ++ f.oa ++ f.od ++ S ++ M) k := fun _ => rfl
  simp (disch := decide) only [decW, opndAt, h, g, extract_low, extract_high, extract_all, bit_low, bit_high, bit_ofBool, Nat.reduceSub,
    opnd_bits]

theorem major_encX (M : BitVec 8) (S : BitVec 6) (f : FmtX) : (encX M S f).extractLsb' 0 8 = M :=
  (extract_low _ M (by decide)).trans (extract_all M)
theorem sub_encX (M : BitVec 8) (S : BitVec 6) (f : FmtX) : (encX M S f).extractLsb' 8 6 = S :=
  (extract_high _ M (by decide)).trans ((extract_low _ S (by decide)).trans (extract_all S))
theorem decX_encX (M : BitVec 8) (S : BitVec 6) (f : FmtX) : decX (encX M S f) = f := by
  have h : ∀ lo n, (encX M S f).extractLsb' lo n =
      BitVec.extractLsb' lo n (f.res ++ BitVec.ofBool f.foll ++ BitVec.ofBool f.accz ++ f.spn ++ f.fmt ++ f.dk.bits ++ f.db.bits ++ f.da.bits ++ f.slot ++ S ++ M) := fun _ _ => rfl
  have g : ∀ k, (encX M S f).getLsbD k =
      BitVec.getLsbD (f.res ++ BitVec.ofBool f.foll ++ BitVec.ofBool f.accz ++ f.spn ++ f.fmt ++ f.dk.bits ++ f.db.bits ++ f.da.bits ++ f.slot ++ S ++ M) k := fun _ => rfl
  simp (disch := decide) only [decX, opndAt, h, g, extract_low, extract_high, extract_all, bit_low, bit_high, bit_ofBool, Nat.reduceSub,
    opnd_bits]

theorem major_encE (M : BitVec 8) (S : BitVec 6) (f : FmtE) : (encE M S f).extractLsb' 0 8 = M :=
  (extract_low _ M (by decide)).trans (extract_all M)
theorem sub_encE (M : BitVec 8) (S : BitVec 6) (f : FmtE) : (encE M S f).extractLsb' 8 6 = S :=
  (extract_high _ M (by decide)).trans ((extract_low _ S (by decide)).trans (extract_all S))
theorem decE_encE (M : BitVec 8) (S : BitVec 6) (f : FmtE) : decE (encE M S f) = f := by
  have h : ∀ lo n, (encE M S f).extractLsb' lo n =
      BitVec.extractLsb' lo n (f.res ++ BitVec.ofBool f.foll ++ f.strm ++ f.b.bits ++ f.a.bits ++ f.d.bits ++ S ++ M) := fun _ _ => rfl
  have g : ∀ k, (encE M S f).getLsbD k =
      BitVec.getLsbD (f.res ++ BitVec.ofBool f.foll ++ f.strm ++ f.b.bits ++ f.a.bits ++ f.d.bits ++ S ++ M) k := fun _ => rfl
  simp (disch := decide) only [decE, opndAt, h, g, extract_low, extract_high, extract_all, bit_low, bit_high, bit_ofBool, Nat.reduceSub,
    opnd_bits]

end Sys2Proof.Laws

/-! ## One lemma per constructor -/

/-- The word of an instruction decodes to it; the header and the device's own steps have no word. -/
def Sys2Proof.Laws.Encoding.Statement (i : Sys2Proof.Instr) : Prop := ∀ w, Sys2Proof.encodeWord i = some w → Sys2Proof.decodeWord w = .ok i

namespace Sys2Proof.Laws
open Encoding (Statement)

theorem Encoding.add (f : FmtR) : Statement (.add f) := fun _ h => by
  cases h; unfold decodeWord; rw [major_encR, sub_encR]; exact congrArg (fun g => Except.ok (Instr.add g)) (decR_encR _ _ f)
theorem Encoding.sub (f : FmtR) : Statement (.sub f) := fun _ h => by
  cases h; unfold decodeWord; rw [major_encR, sub_encR]; exact congrArg (fun g => Except.ok (Instr.sub g)) (decR_encR _ _ f)
theorem Encoding.and (f : FmtR) : Statement (.and f) := fun _ h => by
  cases h; unfold decodeWord; rw [major_encR, sub_encR]; exact congrArg (fun g => Except.ok (Instr.and g)) (decR_encR _ _ f)
theorem Encoding.or (f : FmtR) : Statement (.or f) := fun _ h => by
  cases h; unfold decodeWord; rw [major_encR, sub_encR]; exact congrArg (fun g => Except.ok (Instr.or g)) (decR_encR _ _ f)
theorem Encoding.xor (f : FmtR) : Statement (.xor f) := fun _ h => by
  cases h; unfold decodeWord; rw [major_encR, sub_encR]; exact congrArg (fun g => Except.ok (Instr.xor g)) (decR_encR _ _ f)
theorem Encoding.andn (f : FmtR) : Statement (.andn f) := fun _ h => by
  cases h; unfold decodeWord; rw [major_encR, sub_encR]; exact congrArg (fun g => Except.ok (Instr.andn g)) (decR_encR _ _ f)
theorem Encoding.shl (f : FmtR) : Statement (.shl f) := fun _ h => by
  cases h; unfold decodeWord; rw [major_encR, sub_encR]; exact congrArg (fun g => Except.ok (Instr.shl g)) (decR_encR _ _ f)
theorem Encoding.shr (f : FmtR) : Statement (.shr f) := fun _ h => by
  cases h; unfold decodeWord; rw [major_encR, sub_encR]; exact congrArg (fun g => Except.ok (Instr.shr g)) (decR_encR _ _ f)
theorem Encoding.sra (f : FmtR) : Statement (.sra f) := fun _ h => by
  cases h; unfold decodeWord; rw [major_encR, sub_encR]; exact congrArg (fun g => Except.ok (Instr.sra g)) (decR_encR _ _ f)
theorem Encoding.ror (f : FmtR) : Statement (.ror f) := fun _ h => by
  cases h; unfold decodeWord; rw [major_encR, sub_encR]; exact congrArg (fun g => Except.ok (Instr.ror g)) (decR_encR _ _ f)
theorem Encoding.min (f : FmtR) : Statement (.min f) := fun _ h => by
  cases h; unfold decodeWord; rw [major_encR, sub_encR]; exact congrArg (fun g => Except.ok (Instr.min g)) (decR_encR _ _ f)
theorem Encoding.max (f : FmtR) : Statement (.max f) := fun _ h => by
  cases h; unfold decodeWord; rw [major_encR, sub_encR]; exact congrArg (fun g => Except.ok (Instr.max g)) (decR_encR _ _ f)
theorem Encoding.minu (f : FmtR) : Statement (.minu f) := fun _ h => by
  cases h; unfold decodeWord; rw [major_encR, sub_encR]; exact congrArg (fun g => Except.ok (Instr.minu g)) (decR_encR _ _ f)
theorem Encoding.maxu (f : FmtR) : Statement (.maxu f) := fun _ h => by
  cases h; unfold decodeWord; rw [major_encR, sub_encR]; exact congrArg (fun g => Except.ok (Instr.maxu g)) (decR_encR _ _ f)
theorem Encoding.slt (f : FmtR) : Statement (.slt f) := fun _ h => by
  cases h; unfold decodeWord; rw [major_encR, sub_encR]; exact congrArg (fun g => Except.ok (Instr.slt g)) (decR_encR _ _ f)
theorem Encoding.sltu (f : FmtR) : Statement (.sltu f) := fun _ h => by
  cases h; unfold decodeWord; rw [major_encR, sub_encR]; exact congrArg (fun g => Except.ok (Instr.sltu g)) (decR_encR _ _ f)
theorem Encoding.seq (f : FmtR) : Statement (.seq f) := fun _ h => by
  cases h; unfold decodeWord; rw [major_encR, sub_encR]; exact congrArg (fun g => Except.ok (Instr.seq g)) (decR_encR _ _ f)
theorem Encoding.clz (f : FmtR) : Statement (.clz f) := fun _ h => by
  cases h; unfold decodeWord; rw [major_encR, sub_encR]; exact congrArg (fun g => Except.ok (Instr.clz g)) (decR_encR _ _ f)
theorem Encoding.ctz (f : FmtR) : Statement (.ctz f) := fun _ h => by
  cases h; unfold decodeWord; rw [major_encR, sub_encR]; exact congrArg (fun g => Except.ok (Instr.ctz g)) (decR_encR _ _ f)
theorem Encoding.popc (f : FmtR) : Statement (.popc f) := fun _ h => by
  cases h; unfold decodeWord; rw [major_encR, sub_encR]; exact congrArg (fun g => Except.ok (Instr.popc g)) (decR_encR _ _ f)
theorem Encoding.sext (f : FmtR) : Statement (.sext f) := fun _ h => by
  cases h; unfold decodeWord; rw [major_encR, sub_encR]; exact congrArg (fun g => Except.ok (Instr.sext g)) (decR_encR _ _ f)
theorem Encoding.zext (f : FmtR) : Statement (.zext f) := fun _ h => by
  cases h; unfold decodeWord; rw [major_encR, sub_encR]; exact congrArg (fun g => Except.ok (Instr.zext g)) (decR_encR _ _ f)
theorem Encoding.bfx (f : FmtR) : Statement (.bfx f) := fun _ h => by
  cases h; unfold decodeWord; rw [major_encR, sub_encR]; exact congrArg (fun g => Except.ok (Instr.bfx g)) (decR_encR _ _ f)
theorem Encoding.bfi (f : FmtR) : Statement (.bfi f) := fun _ h => by
  cases h; unfold decodeWord; rw [major_encR, sub_encR]; exact congrArg (fun g => Except.ok (Instr.bfi g)) (decR_encR _ _ f)
theorem Encoding.sel (f : FmtR) : Statement (.sel f) := fun _ h => by
  cases h; unfold decodeWord; rw [major_encR, sub_encR]; exact congrArg (fun g => Except.ok (Instr.sel g)) (decR_encR _ _ f)
theorem Encoding.addi (f : FmtI) : Statement (.addi f) := fun _ h => by
  cases h; unfold decodeWord; rw [major_encI, sub_encI]; exact congrArg (fun g => Except.ok (Instr.addi g)) (decI_encI _ _ f)
theorem Encoding.andi (f : FmtI) : Statement (.andi f) := fun _ h => by
  cases h; unfold decodeWord; rw [major_encI, sub_encI]; exact congrArg (fun g => Except.ok (Instr.andi g)) (decI_encI _ _ f)
theorem Encoding.ori (f : FmtI) : Statement (.ori f) := fun _ h => by
  cases h; unfold decodeWord; rw [major_encI, sub_encI]; exact congrArg (fun g => Except.ok (Instr.ori g)) (decI_encI _ _ f)
theorem Encoding.xori (f : FmtI) : Statement (.xori f) := fun _ h => by
  cases h; unfold decodeWord; rw [major_encI, sub_encI]; exact congrArg (fun g => Except.ok (Instr.xori g)) (decI_encI _ _ f)
theorem Encoding.shli (f : FmtI) : Statement (.shli f) := fun _ h => by
  cases h; unfold decodeWord; rw [major_encI, sub_encI]; exact congrArg (fun g => Except.ok (Instr.shli g)) (decI_encI _ _ f)
theorem Encoding.shri (f : FmtI) : Statement (.shri f) := fun _ h => by
  cases h; unfold decodeWord; rw [major_encI, sub_encI]; exact congrArg (fun g => Except.ok (Instr.shri g)) (decI_encI _ _ f)
theorem Encoding.srai (f : FmtI) : Statement (.srai f) := fun _ h => by
  cases h; unfold decodeWord; rw [major_encI, sub_encI]; exact congrArg (fun g => Except.ok (Instr.srai g)) (decI_encI _ _ f)
theorem Encoding.slti (f : FmtI) : Statement (.slti f) := fun _ h => by
  cases h; unfold decodeWord; rw [major_encI, sub_encI]; exact congrArg (fun g => Except.ok (Instr.slti g)) (decI_encI _ _ f)
theorem Encoding.sltui (f : FmtI) : Statement (.sltui f) := fun _ h => by
  cases h; unfold decodeWord; rw [major_encI, sub_encI]; exact congrArg (fun g => Except.ok (Instr.sltui g)) (decI_encI _ _ f)
theorem Encoding.li (f : FmtI) : Statement (.li f) := fun _ h => by
  cases h; unfold decodeWord; rw [major_encI, sub_encI]; exact congrArg (fun g => Except.ok (Instr.li g)) (decI_encI _ _ f)
theorem Encoding.lih (f : FmtI) : Statement (.lih f) := fun _ h => by
  cases h; unfold decodeWord; rw [major_encI, sub_encI]; exact congrArg (fun g => Except.ok (Instr.lih g)) (decI_encI _ _ f)
theorem Encoding.addpc (f : FmtI) : Statement (.addpc f) := fun _ h => by
  cases h; unfold decodeWord; rw [major_encI, sub_encI]; exact congrArg (fun g => Except.ok (Instr.addpc g)) (decI_encI _ _ f)
theorem Encoding.mul (f : FmtR) : Statement (.mul f) := fun _ h => by
  cases h; unfold decodeWord; rw [major_encR, sub_encR]; exact congrArg (fun g => Except.ok (Instr.mul g)) (decR_encR _ _ f)
theorem Encoding.mulh (f : FmtR) : Statement (.mulh f) := fun _ h => by
  cases h; unfold decodeWord; rw [major_encR, sub_encR]; exact congrArg (fun g => Except.ok (Instr.mulh g)) (decR_encR _ _ f)
theorem Encoding.mulhu (f : FmtR) : Statement (.mulhu f) := fun _ h => by
  cases h; unfold decodeWord; rw [major_encR, sub_encR]; exact congrArg (fun g => Except.ok (Instr.mulhu g)) (decR_encR _ _ f)
theorem Encoding.div (f : FmtR) : Statement (.div f) := fun _ h => by
  cases h; unfold decodeWord; rw [major_encR, sub_encR]; exact congrArg (fun g => Except.ok (Instr.div g)) (decR_encR _ _ f)
theorem Encoding.divu (f : FmtR) : Statement (.divu f) := fun _ h => by
  cases h; unfold decodeWord; rw [major_encR, sub_encR]; exact congrArg (fun g => Except.ok (Instr.divu g)) (decR_encR _ _ f)
theorem Encoding.rem (f : FmtR) : Statement (.rem f) := fun _ h => by
  cases h; unfold decodeWord; rw [major_encR, sub_encR]; exact congrArg (fun g => Except.ok (Instr.rem g)) (decR_encR _ _ f)
theorem Encoding.remu (f : FmtR) : Statement (.remu f) := fun _ h => by
  cases h; unfold decodeWord; rw [major_encR, sub_encR]; exact congrArg (fun g => Except.ok (Instr.remu g)) (decR_encR _ _ f)
theorem Encoding.madd (f : FmtR) : Statement (.madd f) := fun _ h => by
  cases h; unfold decodeWord; rw [major_encR, sub_encR]; exact congrArg (fun g => Except.ok (Instr.madd g)) (decR_encR _ _ f)
theorem Encoding.beq (f : FmtB) : Statement (.beq f) := fun _ h => by
  cases h; unfold decodeWord; rw [major_encB, sub_encB]; exact congrArg (fun g => Except.ok (Instr.beq g)) (decB_encB _ _ f)
theorem Encoding.bne (f : FmtB) : Statement (.bne f) := fun _ h => by
  cases h; unfold decodeWord; rw [major_encB, sub_encB]; exact congrArg (fun g => Except.ok (Instr.bne g)) (decB_encB _ _ f)
theorem Encoding.blt (f : FmtB) : Statement (.blt f) := fun _ h => by
  cases h; unfold decodeWord; rw [major_encB, sub_encB]; exact congrArg (fun g => Except.ok (Instr.blt g)) (decB_encB _ _ f)
theorem Encoding.bge (f : FmtB) : Statement (.bge f) := fun _ h => by
  cases h; unfold decodeWord; rw [major_encB, sub_encB]; exact congrArg (fun g => Except.ok (Instr.bge g)) (decB_encB _ _ f)
theorem Encoding.bltu (f : FmtB) : Statement (.bltu f) := fun _ h => by
  cases h; unfold decodeWord; rw [major_encB, sub_encB]; exact congrArg (fun g => Except.ok (Instr.bltu g)) (decB_encB _ _ f)
theorem Encoding.bgeu (f : FmtB) : Statement (.bgeu f) := fun _ h => by
  cases h; unfold decodeWord; rw [major_encB, sub_encB]; exact congrArg (fun g => Except.ok (Instr.bgeu g)) (decB_encB _ _ f)
theorem Encoding.bf (f : FmtB) : Statement (.bf f) := fun _ h => by
  cases h; unfold decodeWord; rw [major_encB, sub_encB]; exact congrArg (fun g => Except.ok (Instr.bf g)) (decB_encB _ _ f)
theorem Encoding.bnf (f : FmtB) : Statement (.bnf f) := fun _ h => by
  cases h; unfold decodeWord; rw [major_encB, sub_encB]; exact congrArg (fun g => Except.ok (Instr.bnf g)) (decB_encB _ _ f)
theorem Encoding.jmp (f : FmtJ) : Statement (.jmp f) := fun _ h => by
  cases h; unfold decodeWord; rw [major_encJ, sub_encJ]; exact congrArg (fun g => Except.ok (Instr.jmp g)) (decJ_encJ _ _ f)
theorem Encoding.jmpr (f : FmtJ) : Statement (.jmpr f) := fun _ h => by
  cases h; unfold decodeWord; rw [major_encJ, sub_encJ]; exact congrArg (fun g => Except.ok (Instr.jmpr g)) (decJ_encJ _ _ f)
theorem Encoding.call (f : FmtJ) : Statement (.call f) := fun _ h => by
  cases h; unfold decodeWord; rw [major_encJ, sub_encJ]; exact congrArg (fun g => Except.ok (Instr.call g)) (decJ_encJ _ _ f)
theorem Encoding.callr (f : FmtJ) : Statement (.callr f) := fun _ h => by
  cases h; unfold decodeWord; rw [major_encJ, sub_encJ]; exact congrArg (fun g => Except.ok (Instr.callr g)) (decJ_encJ _ _ f)
theorem Encoding.ret (f : FmtJ) : Statement (.ret f) := fun _ h => by
  cases h; unfold decodeWord; rw [major_encJ, sub_encJ]; exact congrArg (fun g => Except.ok (Instr.ret g)) (decJ_encJ _ _ f)
theorem Encoding.jtab (f : FmtJ) : Statement (.jtab f) := fun _ h => by
  cases h; unfold decodeWord; rw [major_encJ, sub_encJ]; exact congrArg (fun g => Except.ok (Instr.jtab g)) (decJ_encJ _ _ f)
theorem Encoding.fjmp (f : FmtJ) : Statement (.fjmp f) := fun _ h => by
  cases h; unfold decodeWord; rw [major_encJ, sub_encJ]; exact congrArg (fun g => Except.ok (Instr.fjmp g)) (decJ_encJ _ _ f)
theorem Encoding.fcall (f : FmtJ) : Statement (.fcall f) := fun _ h => by
  cases h; unfold decodeWord; rw [major_encJ, sub_encJ]; exact congrArg (fun g => Except.ok (Instr.fcall g)) (decJ_encJ _ _ f)
theorem Encoding.loop (f : FmtL) : Statement (.loop f) := fun _ h => by
  cases h; unfold decodeWord; rw [major_encL, sub_encL]; exact congrArg (fun g => Except.ok (Instr.loop g)) (decL_encL _ _ f)
theorem Encoding.loopi (f : FmtL) : Statement (.loopi f) := fun _ h => by
  cases h; unfold decodeWord; rw [major_encL, sub_encL]; exact congrArg (fun g => Except.ok (Instr.loopi g)) (decL_encL _ _ f)
theorem Encoding.lbrk (f : FmtR) : Statement (.lbrk f) := fun _ h => by
  cases h; unfold decodeWord; rw [major_encR, sub_encR]; exact congrArg (fun g => Except.ok (Instr.lbrk g)) (decR_encR _ _ f)
theorem Encoding.lidx (f : FmtI) : Statement (.lidx f) := fun _ h => by
  cases h; unfold decodeWord; rw [major_encI, sub_encI]; exact congrArg (fun g => Except.ok (Instr.lidx g)) (decI_encI _ _ f)
theorem Encoding.fork (f : FmtR) : Statement (.fork f) := fun _ h => by
  cases h; unfold decodeWord; rw [major_encR, sub_encR]; exact congrArg (fun g => Except.ok (Instr.fork g)) (decR_encR _ _ f)
theorem Encoding.join (f : FmtR) : Statement (.join f) := fun _ h => by
  cases h; unfold decodeWord; rw [major_encR, sub_encR]; exact congrArg (fun g => Except.ok (Instr.join g)) (decR_encR _ _ f)
theorem Encoding.qpush (f : FmtR) : Statement (.qpush f) := fun _ h => by
  cases h; unfold decodeWord; rw [major_encR, sub_encR]; exact congrArg (fun g => Except.ok (Instr.qpush g)) (decR_encR _ _ f)
theorem Encoding.qpop (f : FmtR) : Statement (.qpop f) := fun _ h => by
  cases h; unfold decodeWord; rw [major_encR, sub_encR]; exact congrArg (fun g => Except.ok (Instr.qpop g)) (decR_encR _ _ f)
theorem Encoding.bqpush (f : FmtR) : Statement (.bqpush f) := fun _ h => by
  cases h; unfold decodeWord; rw [major_encR, sub_encR]; exact congrArg (fun g => Except.ok (Instr.bqpush g)) (decR_encR _ _ f)
theorem Encoding.bqbr (f : FmtR) : Statement (.bqbr f) := fun _ h => by
  cases h; unfold decodeWord; rw [major_encR, sub_encR]; exact congrArg (fun g => Except.ok (Instr.bqbr g)) (decR_encR _ _ f)
theorem Encoding.monitor (f : FmtR) : Statement (.monitor f) := fun _ h => by
  cases h; unfold decodeWord; rw [major_encR, sub_encR]; exact congrArg (fun g => Except.ok (Instr.monitor g)) (decR_encR _ _ f)
theorem Encoding.mwait (f : FmtR) : Statement (.mwait f) := fun _ h => by
  cases h; unfold decodeWord; rw [major_encR, sub_encR]; exact congrArg (fun g => Except.ok (Instr.mwait g)) (decR_encR _ _ f)
theorem Encoding.ld (f : FmtM) : Statement (.ld f) := fun _ h => by
  cases h; unfold decodeWord; rw [major_encM, sub_encM]; exact congrArg (fun g => Except.ok (Instr.ld g)) (decM_encM _ _ f)
theorem Encoding.st (f : FmtM) : Statement (.st f) := fun _ h => by
  cases h; unfold decodeWord; rw [major_encM, sub_encM]; exact congrArg (fun g => Except.ok (Instr.st g)) (decM_encM _ _ f)
theorem Encoding.ldacq (f : FmtM) : Statement (.ldacq f) := fun _ h => by
  cases h; unfold decodeWord; rw [major_encM, sub_encM]; exact congrArg (fun g => Except.ok (Instr.ldacq g)) (decM_encM _ _ f)
theorem Encoding.strel (f : FmtM) : Statement (.strel f) := fun _ h => by
  cases h; unfold decodeWord; rw [major_encM, sub_encM]; exact congrArg (fun g => Except.ok (Instr.strel g)) (decM_encM _ _ f)
theorem Encoding.ldnt (f : FmtM) : Statement (.ldnt f) := fun _ h => by
  cases h; unfold decodeWord; rw [major_encM, sub_encM]; exact congrArg (fun g => Except.ok (Instr.ldnt g)) (decM_encM _ _ f)
theorem Encoding.amoadd (f : FmtR) : Statement (.amoadd f) := fun _ h => by
  cases h; unfold decodeWord; rw [major_encR, sub_encR]; exact congrArg (fun g => Except.ok (Instr.amoadd g)) (decR_encR _ _ f)
theorem Encoding.amoand (f : FmtR) : Statement (.amoand f) := fun _ h => by
  cases h; unfold decodeWord; rw [major_encR, sub_encR]; exact congrArg (fun g => Except.ok (Instr.amoand g)) (decR_encR _ _ f)
theorem Encoding.amoor (f : FmtR) : Statement (.amoor f) := fun _ h => by
  cases h; unfold decodeWord; rw [major_encR, sub_encR]; exact congrArg (fun g => Except.ok (Instr.amoor g)) (decR_encR _ _ f)
theorem Encoding.amoxor (f : FmtR) : Statement (.amoxor f) := fun _ h => by
  cases h; unfold decodeWord; rw [major_encR, sub_encR]; exact congrArg (fun g => Except.ok (Instr.amoxor g)) (decR_encR _ _ f)
theorem Encoding.amomin (f : FmtR) : Statement (.amomin f) := fun _ h => by
  cases h; unfold decodeWord; rw [major_encR, sub_encR]; exact congrArg (fun g => Except.ok (Instr.amomin g)) (decR_encR _ _ f)
theorem Encoding.amomax (f : FmtR) : Statement (.amomax f) := fun _ h => by
  cases h; unfold decodeWord; rw [major_encR, sub_encR]; exact congrArg (fun g => Except.ok (Instr.amomax g)) (decR_encR _ _ f)
theorem Encoding.amoswp (f : FmtR) : Statement (.amoswp f) := fun _ h => by
  cases h; unfold decodeWord; rw [major_encR, sub_encR]; exact congrArg (fun g => Except.ok (Instr.amoswp g)) (decR_encR _ _ f)
theorem Encoding.amocas (f : FmtR) : Statement (.amocas f) := fun _ h => by
  cases h; unfold decodeWord; rw [major_encR, sub_encR]; exact congrArg (fun g => Except.ok (Instr.amocas g)) (decR_encR _ _ f)
theorem Encoding.amofadd (f : FmtR) : Statement (.amofadd f) := fun _ h => by
  cases h; unfold decodeWord; rw [major_encR, sub_encR]; exact congrArg (fun g => Except.ok (Instr.amofadd g)) (decR_encR _ _ f)
theorem Encoding.amoinc (f : FmtR) : Statement (.amoinc f) := fun _ h => by
  cases h; unfold decodeWord; rw [major_encR, sub_encR]; exact congrArg (fun g => Except.ok (Instr.amoinc g)) (decR_encR _ _ f)
theorem Encoding.fence (f : FmtR) : Statement (.fence f) := fun _ h => by
  cases h; unfold decodeWord; rw [major_encR, sub_encR]; exact congrArg (fun g => Except.ok (Instr.fence g)) (decR_encR _ _ f)
theorem Encoding.sbar (f : FmtI) : Statement (.sbar f) := fun _ h => by
  cases h; unfold decodeWord; rw [major_encI, sub_encI]; exact congrArg (fun g => Except.ok (Instr.sbar g)) (decI_encI _ _ f)
theorem Encoding.waitv (f : FmtR) : Statement (.waitv f) := fun _ h => by
  cases h; unfold decodeWord; rw [major_encR, sub_encR]; exact congrArg (fun g => Except.ok (Instr.waitv g)) (decR_encR _ _ f)
theorem Encoding.act (f : FmtW) : Statement (.act f) := fun _ h => by
  cases h; unfold decodeWord; rw [major_encW, sub_encW]; exact congrArg (fun g => Except.ok (Instr.act g)) (decW_encW _ _ f)
theorem Encoding.pre (f : FmtW) : Statement (.pre f) := fun _ h => by
  cases h; unfold decodeWord; rw [major_encW, sub_encW]; exact congrArg (fun g => Except.ok (Instr.pre g)) (decW_encW _ _ f)
theorem Encoding.wb (f : FmtW) : Statement (.wb f) := fun _ h => by
  cases h; unfold decodeWord; rw [major_encW, sub_encW]; exact congrArg (fun g => Except.ok (Instr.wb g)) (decW_encW _ _ f)
theorem Encoding.wbpre (f : FmtW) : Statement (.wbpre f) := fun _ h => by
  cases h; unfold decodeWord; rw [major_encW, sub_encW]; exact congrArg (fun g => Except.ok (Instr.wbpre g)) (decW_encW _ _ f)
theorem Encoding.ref (f : FmtW) : Statement (.ref f) := fun _ h => by
  cases h; unfold decodeWord; rw [major_encW, sub_encW]; exact congrArg (fun g => Except.ok (Instr.ref g)) (decW_encW _ _ f)
theorem Encoding.refq (f : FmtW) : Statement (.refq f) := fun _ h => by
  cases h; unfold decodeWord; rw [major_encW, sub_encW]; exact congrArg (fun g => Except.ok (Instr.refq g)) (decW_encW _ _ f)
theorem Encoding.rcopy (f : FmtW) : Statement (.rcopy f) := fun _ h => by
  cases h; unfold decodeWord; rw [major_encW, sub_encW]; exact congrArg (fun g => Except.ok (Instr.rcopy g)) (decW_encW _ _ f)
theorem Encoding.radd (f : FmtW) : Statement (.radd f) := fun _ h => by
  cases h; unfold decodeWord; rw [major_encW, sub_encW]; exact congrArg (fun g => Except.ok (Instr.radd g)) (decW_encW _ _ f)
theorem Encoding.rsub (f : FmtW) : Statement (.rsub f) := fun _ h => by
  cases h; unfold decodeWord; rw [major_encW, sub_encW]; exact congrArg (fun g => Except.ok (Instr.rsub g)) (decW_encW _ _ f)
theorem Encoding.rmul (f : FmtW) : Statement (.rmul f) := fun _ h => by
  cases h; unfold decodeWord; rw [major_encW, sub_encW]; exact congrArg (fun g => Except.ok (Instr.rmul g)) (decW_encW _ _ f)
theorem Encoding.rfma (f : FmtW) : Statement (.rfma f) := fun _ h => by
  cases h; unfold decodeWord; rw [major_encW, sub_encW]; exact congrArg (fun g => Except.ok (Instr.rfma g)) (decW_encW _ _ f)
theorem Encoding.rmin (f : FmtW) : Statement (.rmin f) := fun _ h => by
  cases h; unfold decodeWord; rw [major_encW, sub_encW]; exact congrArg (fun g => Except.ok (Instr.rmin g)) (decW_encW _ _ f)
theorem Encoding.rmax (f : FmtW) : Statement (.rmax f) := fun _ h => by
  cases h; unfold decodeWord; rw [major_encW, sub_encW]; exact congrArg (fun g => Except.ok (Instr.rmax g)) (decW_encW _ _ f)
theorem Encoding.rand (f : FmtW) : Statement (.rand f) := fun _ h => by
  cases h; unfold decodeWord; rw [major_encW, sub_encW]; exact congrArg (fun g => Except.ok (Instr.rand g)) (decW_encW _ _ f)
theorem Encoding.rbor (f : FmtW) : Statement (.rbor f) := fun _ h => by
  cases h; unfold decodeWord; rw [major_encW, sub_encW]; exact congrArg (fun g => Except.ok (Instr.rbor g)) (decW_encW _ _ f)
theorem Encoding.rxor (f : FmtW) : Statement (.rxor f) := fun _ h => by
  cases h; unfold decodeWord; rw [major_encW, sub_encW]; exact congrArg (fun g => Except.ok (Instr.rxor g)) (decW_encW _ _ f)
theorem Encoding.rshr (f : FmtW) : Statement (.rshr f) := fun _ h => by
  cases h; unfold decodeWord; rw [major_encW, sub_encW]; exact congrArg (fun g => Except.ok (Instr.rshr g)) (decW_encW _ _ f)
theorem Encoding.rcmp (f : FmtW) : Statement (.rcmp f) := fun _ h => by
  cases h; unfold decodeWord; rw [major_encW, sub_encW]; exact congrArg (fun g => Except.ok (Instr.rcmp g)) (decW_encW _ _ f)
theorem Encoding.rsel (f : FmtW) : Statement (.rsel f) := fun _ h => by
  cases h; unfold decodeWord; rw [major_encW, sub_encW]; exact congrArg (fun g => Except.ok (Instr.rsel g)) (decW_encW _ _ f)
theorem Encoding.rcvt (f : FmtW) : Statement (.rcvt f) := fun _ h => by
  cases h; unfold decodeWord; rw [major_encW, sub_encW]; exact congrArg (fun g => Except.ok (Instr.rcvt g)) (decW_encW _ _ f)
theorem Encoding.rscl (f : FmtW) : Statement (.rscl f) := fun _ h => by
  cases h; unfold decodeWord; rw [major_encW, sub_encW]; exact congrArg (fun g => Except.ok (Instr.rscl g)) (decW_encW _ _ f)
theorem Encoding.ldlut (f : FmtW) : Statement (.ldlut f) := fun _ h => by
  cases h; unfold decodeWord; rw [major_encW, sub_encW]; exact congrArg (fun g => Except.ok (Instr.ldlut g)) (decW_encW _ _ f)
theorem Encoding.lutdot (f : FmtW) : Statement (.lutdot f) := fun _ h => by
  cases h; unfold decodeWord; rw [major_encW, sub_encW]; exact congrArg (fun g => Except.ok (Instr.lutdot g)) (decW_encW _ _ f)
theorem Encoding.ldsc (f : FmtW) : Statement (.ldsc f) := fun _ h => by
  cases h; unfold decodeWord; rw [major_encW, sub_encW]; exact congrArg (fun g => Except.ok (Instr.ldsc g)) (decW_encW _ _ f)
theorem Encoding.rdot (f : FmtW) : Statement (.rdot f) := fun _ h => by
  cases h; unfold decodeWord; rw [major_encW, sub_encW]; exact congrArg (fun g => Except.ok (Instr.rdot g)) (decW_encW _ _ f)
theorem Encoding.rsum (f : FmtW) : Statement (.rsum f) := fun _ h => by
  cases h; unfold decodeWord; rw [major_encW, sub_encW]; exact congrArg (fun g => Except.ok (Instr.rsum g)) (decW_encW _ _ f)
theorem Encoding.qclr (f : FmtW) : Statement (.qclr f) := fun _ h => by
  cases h; unfold decodeWord; rw [major_encW, sub_encW]; exact congrArg (fun g => Except.ok (Instr.qclr g)) (decW_encW _ _ f)
theorem Encoding.qst (f : FmtW) : Statement (.qst f) := fun _ h => by
  cases h; unfold decodeWord; rw [major_encW, sub_encW]; exact congrArg (fun g => Except.ok (Instr.qst g)) (decW_encW _ _ f)
theorem Encoding.rtopk (f : FmtW) : Statement (.rtopk f) := fun _ h => by
  cases h; unfold decodeWord; rw [major_encW, sub_encW]; exact congrArg (fun g => Except.ok (Instr.rtopk g)) (decW_encW _ _ f)
theorem Encoding.shfl (f : FmtW) : Statement (.shfl f) := fun _ h => by
  cases h; unfold decodeWord; rw [major_encW, sub_encW]; exact congrArg (fun g => Except.ok (Instr.shfl g)) (decW_encW _ _ f)
theorem Encoding.shrx (f : FmtW) : Statement (.shrx f) := fun _ h => by
  cases h; unfold decodeWord; rw [major_encW, sub_encW]; exact congrArg (fun g => Except.ok (Instr.shrx g)) (decW_encW _ _ f)
theorem Encoding.rcast (f : FmtW) : Statement (.rcast f) := fun _ h => by
  cases h; unfold decodeWord; rw [major_encW, sub_encW]; exact congrArg (fun g => Except.ok (Instr.rcast g)) (decW_encW _ _ f)
theorem Encoding.rout (f : FmtW) : Statement (.rout f) := fun _ h => by
  cases h; unfold decodeWord; rw [major_encW, sub_encW]; exact congrArg (fun g => Except.ok (Instr.rout g)) (decW_encW _ _ f)
theorem Encoding.rred (f : FmtW) : Statement (.rred f) := fun _ h => by
  cases h; unfold decodeWord; rw [major_encW, sub_encW]; exact congrArg (fun g => Except.ok (Instr.rred g)) (decW_encW _ _ f)
theorem Encoding.gang (f : FmtW) : Statement (.gang f) := fun _ h => by
  cases h; unfold decodeWord; rw [major_encW, sub_encW]; exact congrArg (fun g => Except.ok (Instr.gang g)) (decW_encW _ _ f)
theorem Encoding.split (f : FmtW) : Statement (.split f) := fun _ h => by
  cases h; unfold decodeWord; rw [major_encW, sub_encW]; exact congrArg (fun g => Except.ok (Instr.split g)) (decW_encW _ _ f)
theorem Encoding.bmask (f : FmtW) : Statement (.bmask f) := fun _ h => by
  cases h; unfold decodeWord; rw [major_encW, sub_encW]; exact congrArg (fun g => Except.ok (Instr.bmask g)) (decW_encW _ _ f)
theorem Encoding.byield (f : FmtW) : Statement (.byield f) := fun _ h => by
  cases h; unfold decodeWord; rw [major_encW, sub_encW]; exact congrArg (fun g => Except.ok (Instr.byield g)) (decW_encW _ _ f)
theorem Encoding.lease (f : FmtW) : Statement (.lease f) := fun _ h => by
  cases h; unfold decodeWord; rw [major_encW, sub_encW]; exact congrArg (fun g => Except.ok (Instr.lease g)) (decW_encW _ _ f)
theorem Encoding.rgete (f : FmtW) : Statement (.rgete f) := fun _ h => by
  cases h; unfold decodeWord; rw [major_encW, sub_encW]; exact congrArg (fun g => Except.ok (Instr.rgete g)) (decW_encW _ _ f)
theorem Encoding.rsete (f : FmtW) : Statement (.rsete f) := fun _ h => by
  cases h; unfold decodeWord; rw [major_encW, sub_encW]; exact congrArg (fun g => Except.ok (Instr.rsete g)) (decW_encW _ _ f)
theorem Encoding.vadd (f : FmtV) : Statement (.vadd f) := fun _ h => by
  cases h; unfold decodeWord; rw [major_encV, sub_encV]; exact congrArg (fun g => Except.ok (Instr.vadd g)) (decV_encV _ _ f)
theorem Encoding.vsub (f : FmtV) : Statement (.vsub f) := fun _ h => by
  cases h; unfold decodeWord; rw [major_encV, sub_encV]; exact congrArg (fun g => Except.ok (Instr.vsub g)) (decV_encV _ _ f)
theorem Encoding.vmul (f : FmtV) : Statement (.vmul f) := fun _ h => by
  cases h; unfold decodeWord; rw [major_encV, sub_encV]; exact congrArg (fun g => Except.ok (Instr.vmul g)) (decV_encV _ _ f)
theorem Encoding.vfma (f : FmtV) : Statement (.vfma f) := fun _ h => by
  cases h; unfold decodeWord; rw [major_encV, sub_encV]; exact congrArg (fun g => Except.ok (Instr.vfma g)) (decV_encV _ _ f)
theorem Encoding.vmin (f : FmtV) : Statement (.vmin f) := fun _ h => by
  cases h; unfold decodeWord; rw [major_encV, sub_encV]; exact congrArg (fun g => Except.ok (Instr.vmin g)) (decV_encV _ _ f)
theorem Encoding.vmax (f : FmtV) : Statement (.vmax f) := fun _ h => by
  cases h; unfold decodeWord; rw [major_encV, sub_encV]; exact congrArg (fun g => Except.ok (Instr.vmax g)) (decV_encV _ _ f)
theorem Encoding.vand (f : FmtV) : Statement (.vand f) := fun _ h => by
  cases h; unfold decodeWord; rw [major_encV, sub_encV]; exact congrArg (fun g => Except.ok (Instr.vand g)) (decV_encV _ _ f)
theorem Encoding.vor (f : FmtV) : Statement (.vor f) := fun _ h => by
  cases h; unfold decodeWord; rw [major_encV, sub_encV]; exact congrArg (fun g => Except.ok (Instr.vor g)) (decV_encV _ _ f)
theorem Encoding.vxor (f : FmtV) : Statement (.vxor f) := fun _ h => by
  cases h; unfold decodeWord; rw [major_encV, sub_encV]; exact congrArg (fun g => Except.ok (Instr.vxor g)) (decV_encV _ _ f)
theorem Encoding.vshl (f : FmtV) : Statement (.vshl f) := fun _ h => by
  cases h; unfold decodeWord; rw [major_encV, sub_encV]; exact congrArg (fun g => Except.ok (Instr.vshl g)) (decV_encV _ _ f)
theorem Encoding.vshr (f : FmtV) : Statement (.vshr f) := fun _ h => by
  cases h; unfold decodeWord; rw [major_encV, sub_encV]; exact congrArg (fun g => Except.ok (Instr.vshr g)) (decV_encV _ _ f)
theorem Encoding.vsra (f : FmtV) : Statement (.vsra f) := fun _ h => by
  cases h; unfold decodeWord; rw [major_encV, sub_encV]; exact congrArg (fun g => Except.ok (Instr.vsra g)) (decV_encV _ _ f)
theorem Encoding.vcvt (f : FmtV) : Statement (.vcvt f) := fun _ h => by
  cases h; unfold decodeWord; rw [major_encV, sub_encV]; exact congrArg (fun g => Except.ok (Instr.vcvt g)) (decV_encV _ _ f)
theorem Encoding.vabs (f : FmtV) : Statement (.vabs f) := fun _ h => by
  cases h; unfold decodeWord; rw [major_encV, sub_encV]; exact congrArg (fun g => Except.ok (Instr.vabs g)) (decV_encV _ _ f)
theorem Encoding.vneg (f : FmtV) : Statement (.vneg f) := fun _ h => by
  cases h; unfold decodeWord; rw [major_encV, sub_encV]; exact congrArg (fun g => Except.ok (Instr.vneg g)) (decV_encV _ _ f)
theorem Encoding.vexp2 (f : FmtV) : Statement (.vexp2 f) := fun _ h => by
  cases h; unfold decodeWord; rw [major_encV, sub_encV]; exact congrArg (fun g => Except.ok (Instr.vexp2 g)) (decV_encV _ _ f)
theorem Encoding.vrcp (f : FmtV) : Statement (.vrcp f) := fun _ h => by
  cases h; unfold decodeWord; rw [major_encV, sub_encV]; exact congrArg (fun g => Except.ok (Instr.vrcp g)) (decV_encV _ _ f)
theorem Encoding.vrsqrt (f : FmtV) : Statement (.vrsqrt f) := fun _ h => by
  cases h; unfold decodeWord; rw [major_encV, sub_encV]; exact congrArg (fun g => Except.ok (Instr.vrsqrt g)) (decV_encV _ _ f)
theorem Encoding.vdiv (f : FmtV) : Statement (.vdiv f) := fun _ h => by
  cases h; unfold decodeWord; rw [major_encV, sub_encV]; exact congrArg (fun g => Except.ok (Instr.vdiv g)) (decV_encV _ _ f)
theorem Encoding.vsqrt (f : FmtV) : Statement (.vsqrt f) := fun _ h => by
  cases h; unfold decodeWord; rw [major_encV, sub_encV]; exact congrArg (fun g => Except.ok (Instr.vsqrt g)) (decV_encV _ _ f)
theorem Encoding.vcmp (f : FmtV) : Statement (.vcmp f) := fun _ h => by
  cases h; unfold decodeWord; rw [major_encV, sub_encV]; exact congrArg (fun g => Except.ok (Instr.vcmp g)) (decV_encV _ _ f)
theorem Encoding.vmerge (f : FmtV) : Statement (.vmerge f) := fun _ h => by
  cases h; unfold decodeWord; rw [major_encV, sub_encV]; exact congrArg (fun g => Except.ok (Instr.vmerge g)) (decV_encV _ _ f)
theorem Encoding.vpopc (f : FmtV) : Statement (.vpopc f) := fun _ h => by
  cases h; unfold decodeWord; rw [major_encV, sub_encV]; exact congrArg (fun g => Except.ok (Instr.vpopc g)) (decV_encV _ _ f)
theorem Encoding.vfirst (f : FmtV) : Statement (.vfirst f) := fun _ h => by
  cases h; unfold decodeWord; rw [major_encV, sub_encV]; exact congrArg (fun g => Except.ok (Instr.vfirst g)) (decV_encV _ _ f)
theorem Encoding.vcompress (f : FmtV) : Statement (.vcompress f) := fun _ h => by
  cases h; unfold decodeWord; rw [major_encV, sub_encV]; exact congrArg (fun g => Except.ok (Instr.vcompress g)) (decV_encV _ _ f)
theorem Encoding.vgather (f : FmtV) : Statement (.vgather f) := fun _ h => by
  cases h; unfold decodeWord; rw [major_encV, sub_encV]; exact congrArg (fun g => Except.ok (Instr.vgather g)) (decV_encV _ _ f)
theorem Encoding.vslide (f : FmtV) : Statement (.vslide f) := fun _ h => by
  cases h; unfold decodeWord; rw [major_encV, sub_encV]; exact congrArg (fun g => Except.ok (Instr.vslide g)) (decV_encV _ _ f)
theorem Encoding.vred (f : FmtV) : Statement (.vred f) := fun _ h => by
  cases h; unfold decodeWord; rw [major_encV, sub_encV]; exact congrArg (fun g => Except.ok (Instr.vred g)) (decV_encV _ _ f)
theorem Encoding.vtopk (f : FmtV) : Statement (.vtopk f) := fun _ h => by
  cases h; unfold decodeWord; rw [major_encV, sub_encV]; exact congrArg (fun g => Except.ok (Instr.vtopk g)) (decV_encV _ _ f)
theorem Encoding.viota (f : FmtV) : Statement (.viota f) := fun _ h => by
  cases h; unfold decodeWord; rw [major_encV, sub_encV]; exact congrArg (fun g => Except.ok (Instr.viota g)) (decV_encV _ _ f)
theorem Encoding.vbcast (f : FmtV) : Statement (.vbcast f) := fun _ h => by
  cases h; unfold decodeWord; rw [major_encV, sub_encV]; exact congrArg (fun g => Except.ok (Instr.vbcast g)) (decV_encV _ _ f)
theorem Encoding.vext (f : FmtV) : Statement (.vext f) := fun _ h => by
  cases h; unfold decodeWord; rw [major_encV, sub_encV]; exact congrArg (fun g => Except.ok (Instr.vext g)) (decV_encV _ _ f)
theorem Encoding.vld (f : FmtR) : Statement (.vld f) := fun _ h => by
  cases h; unfold decodeWord; rw [major_encR, sub_encR]; exact congrArg (fun g => Except.ok (Instr.vld g)) (decR_encR _ _ f)
theorem Encoding.vlds (f : FmtR) : Statement (.vlds f) := fun _ h => by
  cases h; unfold decodeWord; rw [major_encR, sub_encR]; exact congrArg (fun g => Except.ok (Instr.vlds g)) (decR_encR _ _ f)
theorem Encoding.vldx (f : FmtR) : Statement (.vldx f) := fun _ h => by
  cases h; unfold decodeWord; rw [major_encR, sub_encR]; exact congrArg (fun g => Except.ok (Instr.vldx g)) (decR_encR _ _ f)
theorem Encoding.vst (f : FmtR) : Statement (.vst f) := fun _ h => by
  cases h; unfold decodeWord; rw [major_encR, sub_encR]; exact congrArg (fun g => Except.ok (Instr.vst g)) (decR_encR _ _ f)
theorem Encoding.vsts (f : FmtR) : Statement (.vsts f) := fun _ h => by
  cases h; unfold decodeWord; rw [major_encR, sub_encR]; exact congrArg (fun g => Except.ok (Instr.vsts g)) (decR_encR _ _ f)
theorem Encoding.vstx (f : FmtR) : Statement (.vstx f) := fun _ h => by
  cases h; unfold decodeWord; rw [major_encR, sub_encR]; exact congrArg (fun g => Except.ok (Instr.vstx g)) (decR_encR _ _ f)
theorem Encoding.vldsc (f : FmtR) : Statement (.vldsc f) := fun _ h => by
  cases h; unfold decodeWord; rw [major_encR, sub_encR]; exact congrArg (fun g => Except.ok (Instr.vldsc g)) (decR_encR _ _ f)
theorem Encoding.vsetvl (f : FmtV) : Statement (.vsetvl f) := fun _ h => by
  cases h; unfold decodeWord; rw [major_encV, sub_encV]; exact congrArg (fun g => Except.ok (Instr.vsetvl g)) (decV_encV _ _ f)
theorem Encoding.vsettype (f : FmtV) : Statement (.vsettype f) := fun _ h => by
  cases h; unfold decodeWord; rw [major_encV, sub_encV]; exact congrArg (fun g => Except.ok (Instr.vsettype g)) (decV_encV _ _ f)
theorem Encoding.vrdhw (f : FmtV) : Statement (.vrdhw f) := fun _ h => by
  cases h; unfold decodeWord; rw [major_encV, sub_encV]; exact congrArg (fun g => Except.ok (Instr.vrdhw g)) (decV_encV _ _ f)
theorem Encoding.vallot (f : FmtV) : Statement (.vallot f) := fun _ h => by
  cases h; unfold decodeWord; rw [major_encV, sub_encV]; exact congrArg (fun g => Except.ok (Instr.vallot g)) (decV_encV _ _ f)
theorem Encoding.mma (f : FmtX) : Statement (.mma f) := fun _ h => by
  cases h; unfold decodeWord; rw [major_encX, sub_encX]; exact congrArg (fun g => Except.ok (Instr.mma g)) (decX_encX _ _ f)
theorem Encoding.mmas (f : FmtX) : Statement (.mmas f) := fun _ h => by
  cases h; unfold decodeWord; rw [major_encX, sub_encX]; exact congrArg (fun g => Except.ok (Instr.mmas g)) (decX_encX _ _ f)
theorem Encoding.mzero (f : FmtX) : Statement (.mzero f) := fun _ h => by
  cases h; unfold decodeWord; rw [major_encX, sub_encX]; exact congrArg (fun g => Except.ok (Instr.mzero g)) (decX_encX _ _ f)
theorem Encoding.mld (f : FmtX) : Statement (.mld f) := fun _ h => by
  cases h; unfold decodeWord; rw [major_encX, sub_encX]; exact congrArg (fun g => Except.ok (Instr.mld g)) (decX_encX _ _ f)
theorem Encoding.mst (f : FmtX) : Statement (.mst f) := fun _ h => by
  cases h; unfold decodeWord; rw [major_encX, sub_encX]; exact congrArg (fun g => Except.ok (Instr.mst g)) (decX_encX _ _ f)
theorem Encoding.mpin (f : FmtX) : Statement (.mpin f) := fun _ h => by
  cases h; unfold decodeWord; rw [major_encX, sub_encX]; exact congrArg (fun g => Except.ok (Instr.mpin g)) (decX_encX _ _ f)
theorem Encoding.munpin (f : FmtX) : Statement (.munpin f) := fun _ h => by
  cases h; unfold decodeWord; rw [major_encX, sub_encX]; exact congrArg (fun g => Except.ok (Instr.munpin g)) (decX_encX _ _ f)
theorem Encoding.mdelta (f : FmtX) : Statement (.mdelta f) := fun _ h => by
  cases h; unfold decodeWord; rw [major_encX, sub_encX]; exact congrArg (fun g => Except.ok (Instr.mdelta g)) (decX_encX _ _ f)
theorem Encoding.mread (f : FmtX) : Statement (.mread f) := fun _ h => by
  cases h; unfold decodeWord; rw [major_encX, sub_encX]; exact congrArg (fun g => Except.ok (Instr.mread g)) (decX_encX _ _ f)
theorem Encoding.mxfl (f : FmtX) : Statement (.mxfl f) := fun _ h => by
  cases h; unfold decodeWord; rw [major_encX, sub_encX]; exact congrArg (fun g => Except.ok (Instr.mxfl g)) (decX_encX _ _ f)
theorem Encoding.mfind (f : FmtX) : Statement (.mfind f) := fun _ h => by
  cases h; unfold decodeWord; rw [major_encX, sub_encX]; exact congrArg (fun g => Except.ok (Instr.mfind g)) (decX_encX _ _ f)
theorem Encoding.cpy (f : FmtE) : Statement (.cpy f) := fun _ h => by
  cases h; unfold decodeWord; rw [major_encE, sub_encE]; exact congrArg (fun g => Except.ok (Instr.cpy g)) (decE_encE _ _ f)
theorem Encoding.cpyw (f : FmtE) : Statement (.cpyw f) := fun _ h => by
  cases h; unfold decodeWord; rw [major_encE, sub_encE]; exact congrArg (fun g => Except.ok (Instr.cpyw g)) (decE_encE _ _ f)
theorem Encoding.tfetch (f : FmtE) : Statement (.tfetch f) := fun _ h => by
  cases h; unfold decodeWord; rw [major_encE, sub_encE]; exact congrArg (fun g => Except.ok (Instr.tfetch g)) (decE_encE _ _ f)
theorem Encoding.tfrel (f : FmtE) : Statement (.tfrel f) := fun _ h => by
  cases h; unfold decodeWord; rw [major_encE, sub_encE]; exact congrArg (fun g => Except.ok (Instr.tfrel g)) (decE_encE _ _ f)
theorem Encoding.prefb (f : FmtE) : Statement (.prefb f) := fun _ h => by
  cases h; unfold decodeWord; rw [major_encE, sub_encE]; exact congrArg (fun g => Except.ok (Instr.prefb g)) (decE_encE _ _ f)
theorem Encoding.tiermv (f : FmtE) : Statement (.tiermv f) := fun _ h => by
  cases h; unfold decodeWord; rw [major_encE, sub_encE]; exact congrArg (fun g => Except.ok (Instr.tiermv g)) (decE_encE _ _ f)
theorem Encoding.shadow (f : FmtE) : Statement (.shadow f) := fun _ h => by
  cases h; unfold decodeWord; rw [major_encE, sub_encE]; exact congrArg (fun g => Except.ok (Instr.shadow g)) (decE_encE _ _ f)
theorem Encoding.publish (f : FmtE) : Statement (.publish f) := fun _ h => by
  cases h; unfold decodeWord; rw [major_encE, sub_encE]; exact congrArg (fun g => Except.ok (Instr.publish g)) (decE_encE _ _ f)
theorem Encoding.tokwait (f : FmtE) : Statement (.tokwait f) := fun _ h => by
  cases h; unfold decodeWord; rw [major_encE, sub_encE]; exact congrArg (fun g => Except.ok (Instr.tokwait g)) (decE_encE _ _ f)
theorem Encoding.catalloc (f : FmtE) : Statement (.catalloc f) := fun _ h => by
  cases h; unfold decodeWord; rw [major_encE, sub_encE]; exact congrArg (fun g => Except.ok (Instr.catalloc g)) (decE_encE _ _ f)
theorem Encoding.catmap (f : FmtE) : Statement (.catmap f) := fun _ h => by
  cases h; unfold decodeWord; rw [major_encE, sub_encE]; exact congrArg (fun g => Except.ok (Instr.catmap g)) (decE_encE _ _ f)
theorem Encoding.catshare (f : FmtE) : Statement (.catshare f) := fun _ h => by
  cases h; unfold decodeWord; rw [major_encE, sub_encE]; exact congrArg (fun g => Except.ok (Instr.catshare g)) (decE_encE _ _ f)
theorem Encoding.catfree (f : FmtE) : Statement (.catfree f) := fun _ h => by
  cases h; unfold decodeWord; rw [major_encE, sub_encE]; exact congrArg (fun g => Except.ok (Instr.catfree g)) (decE_encE _ _ f)
theorem Encoding.exit (f : FmtR) : Statement (.exit f) := fun _ h => by
  cases h; unfold decodeWord; rw [major_encR, sub_encR]; exact congrArg (fun g => Except.ok (Instr.exit g)) (decR_encR _ _ f)
theorem Encoding.scope (f : FmtR) : Statement (.scope f) := fun _ h => by
  cases h; unfold decodeWord; rw [major_encR, sub_encR]; exact congrArg (fun g => Except.ok (Instr.scope g)) (decR_encR _ _ f)
theorem Encoding.cancel (f : FmtR) : Statement (.cancel f) := fun _ h => by
  cases h; unfold decodeWord; rw [major_encR, sub_encR]; exact congrArg (fun g => Except.ok (Instr.cancel g)) (decR_encR _ _ f)
theorem Encoding.cwait (f : FmtR) : Statement (.cwait f) := fun _ h => by
  cases h; unfold decodeWord; rw [major_encR, sub_encR]; exact congrArg (fun g => Except.ok (Instr.cwait g)) (decR_encR _ _ f)
theorem Encoding.barinit (f : FmtR) : Statement (.barinit f) := fun _ h => by
  cases h; unfold decodeWord; rw [major_encR, sub_encR]; exact congrArg (fun g => Except.ok (Instr.barinit g)) (decR_encR _ _ f)
theorem Encoding.bararr (f : FmtR) : Statement (.bararr f) := fun _ h => by
  cases h; unfold decodeWord; rw [major_encR, sub_encR]; exact congrArg (fun g => Except.ok (Instr.bararr g)) (decR_encR _ _ f)
theorem Encoding.barwait (f : FmtR) : Statement (.barwait f) := fun _ h => by
  cases h; unfold decodeWord; rw [major_encR, sub_encR]; exact congrArg (fun g => Except.ok (Instr.barwait g)) (decR_encR _ _ f)
theorem Encoding.yield (f : FmtR) : Statement (.yield f) := fun _ h => by
  cases h; unfold decodeWord; rw [major_encR, sub_encR]; exact congrArg (fun g => Except.ok (Instr.yield g)) (decR_encR _ _ f)
theorem Encoding.getpg (f : FmtR) : Statement (.getpg f) := fun _ h => by
  cases h; unfold decodeWord; rw [major_encR, sub_encR]; exact congrArg (fun g => Except.ok (Instr.getpg g)) (decR_encR _ _ f)
theorem Encoding.csrr (f : FmtI) : Statement (.csrr f) := fun _ h => by
  cases h; unfold decodeWord; rw [major_encI, sub_encI]; exact congrArg (fun g => Except.ok (Instr.csrr g)) (decI_encI _ _ f)
theorem Encoding.csrw (f : FmtI) : Statement (.csrw f) := fun _ h => by
  cases h; unfold decodeWord; rw [major_encI, sub_encI]; exact congrArg (fun g => Except.ok (Instr.csrw g)) (decI_encI _ _ f)
theorem Encoding.trap (f : FmtR) : Statement (.trap f) := fun _ h => by
  cases h; unfold decodeWord; rw [major_encR, sub_encR]; exact congrArg (fun g => Except.ok (Instr.trap g)) (decR_encR _ _ f)
theorem Encoding.brk (f : FmtR) : Statement (.brk f) := fun _ h => by
  cases h; unfold decodeWord; rw [major_encR, sub_encR]; exact congrArg (fun g => Except.ok (Instr.brk g)) (decR_encR _ _ f)
theorem Encoding.rft (f : FmtR) : Statement (.rft f) := fun _ h => by
  cases h; unfold decodeWord; rw [major_encR, sub_encR]; exact congrArg (fun g => Except.ok (Instr.rft g)) (decR_encR _ _ f)
theorem Encoding.cfetch (f : FmtR) : Statement (.cfetch f) := fun _ h => by
  cases h; unfold decodeWord; rw [major_encR, sub_encR]; exact congrArg (fun g => Except.ok (Instr.cfetch g)) (decR_encR _ _ f)
theorem Encoding.cseg (f : FmtR) : Statement (.cseg f) := fun _ h => by
  cases h; unfold decodeWord; rw [major_encR, sub_encR]; exact congrArg (fun g => Except.ok (Instr.cseg g)) (decR_encR _ _ f)
theorem Encoding.ifence (f : FmtR) : Statement (.ifence f) := fun _ h => by
  cases h; unfold decodeWord; rw [major_encR, sub_encR]; exact congrArg (fun g => Except.ok (Instr.ifence g)) (decR_encR _ _ f)
theorem Encoding.setaside (f : FmtR) : Statement (.setaside f) := fun _ h => by
  cases h; unfold decodeWord; rw [major_encR, sub_encR]; exact congrArg (fun g => Except.ok (Instr.setaside g)) (decR_encR _ _ f)
theorem Encoding.rowwd (f : FmtR) : Statement (.rowwd f) := fun _ h => by
  cases h; unfold decodeWord; rw [major_encR, sub_encR]; exact congrArg (fun g => Except.ok (Instr.rowwd g)) (decR_encR _ _ f)
theorem Encoding.nop (f : FmtR) : Statement (.nop f) := fun _ h => by
  cases h; unfold decodeWord; rw [major_encR, sub_encR]; exact congrArg (fun g => Except.ok (Instr.nop g)) (decR_encR _ _ f)
theorem Encoding.convoyHeader (f : FmtC) : Statement (.convoyHeader f) := fun _ h => by cases h
theorem Encoding.aHartStart (core : Nat) : Statement (.aHartStart core) := fun _ h => by cases h
theorem Encoding.joinRendezvous (core : Nat) : Statement (.joinRendezvous core) := fun _ h => by cases h
theorem Encoding.mwaitTimeout (hart : Nat) : Statement (.mwaitTimeout hart) := fun _ h => by cases h
theorem Encoding.monitorLost (hart : Nat) : Statement (.monitorLost hart) := fun _ h => by cases h
theorem Encoding.waitvSatisfied (hart : Nat) : Statement (.waitvSatisfied hart) := fun _ h => by cases h
theorem Encoding.gangRendezvous (pergola : Nat) : Statement (.gangRendezvous pergola) := fun _ h => by cases h
theorem Encoding.vectorComplete (core reg : Nat) : Statement (.vectorComplete core reg) := fun _ h => by cases h
theorem Encoding.replayUnitRoom (hart : Nat) : Statement (.replayUnitRoom hart) := fun _ h => by cases h
theorem Encoding.matrixComplete (core slot : Nat) : Statement (.matrixComplete core slot) := fun _ h => by cases h
theorem Encoding.ownershipMissService (core slot : Nat) (context : BitVec 16) : Statement (.ownershipMissService core slot context) := fun _ h => by cases h
theorem Encoding.publishSwap (hart : Nat) (handle : Word) : Statement (.publishSwap hart handle) := fun _ h => by cases h
theorem Encoding.engineCommandComplete (core cmd : Nat) : Statement (.engineCommandComplete core cmd) := fun _ h => by cases h
theorem Encoding.followOnIssue (core cmd : Nat) : Statement (.followOnIssue core cmd) := fun _ h => by cases h
theorem Encoding.killPointStop (hart : Nat) : Statement (.killPointStop hart) := fun _ h => by cases h
theorem Encoding.overlayBlockLand (overlay block : Nat) : Statement (.overlayBlockLand overlay block) := fun _ h => by cases h
theorem Encoding.tlbinvVa (context : BitVec 16) (va : BitVec 38) : Statement (.tlbinvVa context va) := fun _ h => by cases h
theorem Encoding.tlbinvContext (context : BitVec 16) : Statement (.tlbinvContext context) := fun _ h => by cases h
theorem Encoding.tlbinvAll : Statement (.tlbinvAll) := fun _ h => by cases h
theorem Encoding.govstatDroopClear (hart : Nat) : Statement (.govstatDroopClear hart) := fun _ h => by cases h
theorem Encoding.rcountDiscard (hart : Nat) : Statement (.rcountDiscard hart) := fun _ h => by cases h
theorem Encoding.registerWrite (hart addr : Nat) (value : Word) : Statement (.registerWrite hart addr value) := fun _ h => by cases h
theorem Encoding.contextEntryInvalidate (context : Nat) : Statement (.contextEntryInvalidate context) := fun _ h => by cases h
theorem Encoding.lateFault (core : Nat) (code : BitVec 8) (info : Word) : Statement (.lateFault core code info) := fun _ h => by cases h
theorem Encoding.unitStop (unit : UnitRef) : Statement (.unitStop unit) := fun _ h => by cases h
theorem Encoding.haltComplete (context : Nat) : Statement (.haltComplete context) := fun _ h => by cases h
theorem Encoding.haltctlHalt (context : Nat) : Statement (.haltctlHalt context) := fun _ h => by cases h
theorem Encoding.haltctlResume (context : Nat) : Statement (.haltctlResume context) := fun _ h => by cases h
theorem Encoding.haltctlKill (context : Nat) : Statement (.haltctlKill context) := fun _ h => by cases h
theorem Encoding.coreFreeSelect (core : Nat) : Statement (.coreFreeSelect core) := fun _ h => by cases h
theorem Encoding.rowStepDispatch (pergola : Nat) : Statement (.rowStepDispatch pergola) := fun _ h => by cases h
theorem Encoding.stepStart (unit : UnitRef) : Statement (.stepStart unit) := fun _ h => by cases h
theorem Encoding.preemptionSave (core : Nat) : Statement (.preemptionSave core) := fun _ h => by cases h
theorem Encoding.intakeTake (chain : Nat) : Statement (.intakeTake chain) := fun _ h => by cases h
theorem Encoding.docctlRestart (wing : Nat) : Statement (.docctlRestart wing) := fun _ h => by cases h
theorem Encoding.rowOpen (pergola bank reg : Nat) : Statement (.rowOpen pergola bank reg) := fun _ h => by cases h
theorem Encoding.rowRestored (pergola bank reg : Nat) : Statement (.rowRestored pergola bank reg) := fun _ h => by cases h
theorem Encoding.writebackEnd (pergola bank reg : Nat) : Statement (.writebackEnd pergola bank reg) := fun _ h => by cases h
theorem Encoding.refreshEnd (pergola bank sag : Nat) : Statement (.refreshEnd pergola bank sag) := fun _ h => by cases h
theorem Encoding.rowWriterComplete (pergola bank reg : Nat) : Statement (.rowWriterComplete pergola bank reg) := fun _ h => by cases h
theorem Encoding.refreshDebtRise (pergola : Nat) : Statement (.refreshDebtRise pergola) := fun _ h => by cases h
theorem Encoding.refdue (pergola bank : Nat) : Statement (.refdue pergola bank) := fun _ h => by cases h
theorem Encoding.forcedRefresh (pergola bank sag : Nat) : Statement (.forcedRefresh pergola bank sag) := fun _ h => by cases h
theorem Encoding.forcedRefreshDone (pergola bank sag : Nat) : Statement (.forcedRefreshDone pergola bank sag) := fun _ h => by cases h
theorem Encoding.leaseRemainExpiry (pergola : Nat) : Statement (.leaseRemainExpiry pergola) := fun _ h => by cases h
theorem Encoding.watchdogExpiry (pergola : Nat) : Statement (.watchdogExpiry pergola) := fun _ h => by cases h
theorem Encoding.vectorLineFetch (core reg : Nat) : Statement (.vectorLineFetch core reg) := fun _ h => by cases h
theorem Encoding.governorSample (compute row fixed flow temp : Nat) : Statement (.governorSample compute row fixed flow temp) := fun _ h => by cases h
theorem Encoding.governorStepDelivery : Statement (.governorStepDelivery) := fun _ h => by cases h
theorem Encoding.droopStretch (unit : UnitRef) : Statement (.droopStretch unit) := fun _ h => by cases h
theorem Encoding.powerEmergency : Statement (.powerEmergency) := fun _ h => by cases h
theorem Encoding.clockGating : Statement (.clockGating) := fun _ h => by cases h
theorem Encoding.regchain (arg0 arg1 : Word) : Statement (.regchain arg0 arg1) := fun _ h => by cases h
theorem Encoding.dropchain (arg1 : Word) : Statement (.dropchain arg1) := fun _ h => by cases h
theorem Encoding.setshare (arg0 arg1 : Word) : Statement (.setshare arg0 arg1) := fun _ h => by cases h
theorem Encoding.ackhalt : Statement (.ackhalt) := fun _ h => by cases h
theorem Encoding.readstart (arg0 : Word) : Statement (.readstart arg0) := fun _ h => by cases h
theorem Encoding.regwrite (arg0 arg1 : Word) : Statement (.regwrite arg0 arg1) := fun _ h => by cases h
theorem Encoding.regread (arg0 : Word) : Statement (.regread arg0) := fun _ h => by cases h
theorem Encoding.hostMemWrite (pa : Nat) (bytes : List Byte) (poison : Bool) : Statement (.hostMemWrite pa bytes poison) := fun _ h => by cases h
theorem Encoding.hostMemRead (pa count : Nat) : Statement (.hostMemRead pa count) := fun _ h => by cases h
theorem Encoding.spdmRequest (index : Nat) : Statement (.spdmRequest index) := fun _ h => by cases h
theorem Encoding.remoteRead (link pa count : Nat) : Statement (.remoteRead link pa count) := fun _ h => by cases h
theorem Encoding.remoteWrite (link pa : Nat) (bytes : List Byte) : Statement (.remoteWrite link pa bytes) := fun _ h => by cases h
theorem Encoding.remoteAtomic (link sub pa size : Nat) (b c : Word) : Statement (.remoteAtomic link sub pa size b c) := fun _ h => by cases h
theorem Encoding.reductionPacket (link pa size : Nat) (float : Bool) (b : Word) : Statement (.reductionPacket link pa size float b) := fun _ h => by cases h
theorem Encoding.remoteCopy (link pa : Nat) (bytes : List Byte) : Statement (.remoteCopy link pa bytes) := fun _ h => by cases h
theorem Encoding.remoteAcknowledgement (packet : Nat) (data : List Byte) (poison : Bool) : Statement (.remoteAcknowledgement packet data poison) := fun _ h => by cases h
theorem Encoding.refusalReturn (packet : Nat) (code : BitVec 8) : Statement (.refusalReturn packet code) := fun _ h => by cases h
theorem Encoding.linkerrClear (port : Nat) : Statement (.linkerrClear port) := fun _ h => by cases h
theorem Encoding.flitCrcReplay (port : Nat) : Statement (.flitCrcReplay port) := fun _ h => by cases h
theorem Encoding.retrainEnd (port : Nat) (passed : Bool) : Statement (.retrainEnd port passed) := fun _ h => by cases h
theorem Encoding.stackPortReplay (stack granule : Nat) : Statement (.stackPortReplay stack granule) := fun _ h => by cases h
theorem Encoding.realignmentRequest (layer : Nat) : Statement (.realignmentRequest layer) := fun _ h => by cases h
theorem Encoding.realignmentDeferralExpiry (layer : Nat) : Statement (.realignmentDeferralExpiry layer) := fun _ h => by cases h
theorem Encoding.realignmentEnd (layer : Nat) (bundleFails : Bool) : Statement (.realignmentEnd layer bundleFails) := fun _ h => by cases h
theorem Encoding.bundlestatAck : Statement (.bundlestatAck) := fun _ h => by cases h
theorem Encoding.restripeComplete : Statement (.restripeComplete) := fun _ h => by cases h
theorem Encoding.powerUp : Statement (.powerUp) := fun _ h => by cases h
theorem Encoding.prechargeEnd (pergola bank sag : Nat) : Statement (.prechargeEnd pergola bank sag) := fun _ h => by cases h
theorem Encoding.activationWindowExpiry (layer : Nat) : Statement (.activationWindowExpiry layer) := fun _ h => by cases h
theorem Encoding.shrxDelivery (pergola bank : Nat) : Statement (.shrxDelivery pergola bank) := fun _ h => by cases h
theorem Encoding.copyGroupArrival (core cmd : Nat) : Statement (.copyGroupArrival core cmd) := fun _ h => by cases h
theorem Encoding.illegalEncoding (word : Word) : Statement (.illegalEncoding word) := fun _ h => by cases h
theorem Encoding.absentBlockFetch (offset : Word) : Statement (.absentBlockFetch offset) := fun _ h => by cases h
theorem Encoding.cxlCacheSnoop (line : Nat) (data : List Byte) : Statement (.cxlCacheSnoop line data) := fun _ h => by cases h

end Sys2Proof.Laws
end

