-- ==== Sys2Proof/Laws/Perform.lean ====
section
/-! SUPPORT. The frame of every instruction, the end of an instruction, and the shared scalar shapes: what each can do, said once. -/
namespace Sys2Proof.Machine

/-! ## `perform` -/

/-- An admitted instruction answers what its own meaning leaves. -/
theorem perform_admitted {i : Instr} {s : State} (h : admitted i s = true) (body : State → M State) :
    perform i s body = .next (finish s (some i) (lateMajor i) (body s)) := by
  unfold admitted at h
  unfold perform
  cases hk : curKind s with
  | none => simp [hk] at h
  | some k =>
    simp only [hk, Bool.and_eq_true, Option.isNone_iff_eq_none, Bool.not_eq_true'] at h
    simp [h.1.1.1, carryOut, refdueFirst, h.1.1.2, h.1.2, h.2]

/-- An admitted instruction whose meaning succeeds leaves what the meaning says. -/
theorem perform_ok {i : Instr} {s t : State} {body : State → M State} (h : admitted i s = true) (hb : body s = .ok t) :
    perform i s body = .next t := by
  rw [perform_admitted h, hb]; rfl

/-! ## Registers and program counters -/

@[simp] theorem HartApart.refl (h : Hart) : HartApart h h := rfl
@[simp] theorem PerApart.refl (p : Pergola) : PerApart p p := rfl
@[simp] theorem SameMemory.refl (s : State) : SameMemory s s := fun _ => rfl

theorem SameMemory.of_mem {s t : State} (h : t.mem = s.mem) : SameMemory s t := fun a => by simp [readByte, h]

theorem HartApart.trans {a b c : Hart} (h : HartApart a b) (h' : HartApart b c) : HartApart a c := by
  cases a; cases b; cases c
  simp only [HartApart, Hart.mk.injEq] at h h' ⊢
  simp_all

theorem PerApart.trans {a b c : Pergola} (h : PerApart a b) (h' : PerApart b c) : PerApart a c := by
  cases a; cases b; cases c
  simp only [PerApart, Pergola.mk.injEq] at h h' ⊢
  simp_all

theorem RegisterFrame.refl (s : State) (ids : List Nat) (d : Nat) : RegisterFrame s s ids d :=
  ⟨rfl, fun _ => rfl, fun _ => rfl, fun _ _ _ => rfl, fun _ => rfl⟩

theorem RegisterFrame.trans {s t u : State} {ids : List Nat} {d : Nat} (h : RegisterFrame s t ids d) (h' : RegisterFrame t u ids d) :
    RegisterFrame s u ids d where
  rest := by
    have e1 := h.rest; have e2 := h'.rest
    cases s; cases t; cases u
    simp only [State.mk.injEq] at e1 e2 ⊢
    simp_all
  harts id := (h.harts id).trans (h'.harts id)
  pergolas g := (h.pergolas g).trans (h'.pergolas g)
  registers id n hn := (h'.registers id n hn).trans (h.registers id n hn)
  memory a := (h'.memory a).trans (h.memory a)

/-- A frame that allows more writes. -/
theorem RegisterFrame.weaken {s t : State} {ids js : List Nat} {d e : Nat} (h : RegisterFrame s t ids d)
    (hs : ∀ id, id ∈ ids → ∀ n, n = d → (id ∈ js ∧ n = e)) : RegisterFrame s t js e :=
  ⟨h.rest, h.harts, h.pergolas, fun id n hn => h.registers id n fun hc => hn (hs id hc.1 n hc.2), h.memory⟩

theorem ControlFrame.frame {s t : State} (h : ControlFrame s t) (ids : List Nat) (d : Nat) : RegisterFrame s t ids d :=
  RegisterFrame.weaken h (fun _ hc => absurd hc (by simp))

/-- Harts changed only in registers, program counter, loop stack and boundary. -/
theorem modHart_registerFrame (s : State) (id : Nat) (f : Hart → Hart) (ids : List Nat) (d : Nat) (hf : ∀ h, HartApart h (f h))
    (hr : ∀ n, ¬(id ∈ ids ∧ n = d) → ∀ h, (f h).get n = h.get n) : RegisterFrame s (modHart s id f) ids d where
  rest := rfl
  harts j := by
    rw [hartOf_modHart]; split
    · rename_i e; subst e; exact hf _
    · rfl
  pergolas _ := rfl
  registers j n hn := by
    rw [hartOf_modHart]; split
    · rename_i e; subst e; exact hr n hn _
    · rfl
  memory _ := rfl

theorem modHarts_registerFrame (f : Hart → Hart) (ids : List Nat) (d : Nat) (hf : ∀ h, HartApart h (f h)) :
    ∀ (js : List Nat) (s : State), (∀ j ∈ js, ∀ n, ¬(j ∈ ids ∧ n = d) → ∀ h, (f h).get n = h.get n) →
      RegisterFrame s (modHarts s js f) ids d
  | [], s, _ => RegisterFrame.refl s ids d
  | j :: js, s, hr =>
    (modHart_registerFrame s j f ids d hf (hr j (by simp))).trans
      (modHarts_registerFrame f ids d hf js (modHart s j f) fun k hk => hr k (by simp [hk]))

theorem setCtl_frame (s : State) (c : Ctl) : ControlFrame s (setCtl s c) := by
  unfold setCtl
  split
  · exact modHart_registerFrame _ _ _ _ _ (fun _ => rfl) fun _ _ _ => rfl
  · refine modHarts_registerFrame _ _ _ ?_ _ _ ?_ <;> intros <;> rfl
  · refine ⟨rfl, fun _ => rfl, fun j => ?_, fun _ _ _ => rfl, fun _ => rfl⟩
    rw [perOf_modPer]; split
    · rename_i e; subst e; rfl
    · rfl
  · exact RegisterFrame.refl _ _ _

theorem markBoundary_frame (s : State) : ControlFrame s (markBoundary s) := by
  refine modHarts_registerFrame _ _ _ ?_ _ _ ?_ <;> intros <;> rfl

/-- The end of an instruction changes only program counters, loop stacks and boundaries. -/
theorem advanceBy_frame (len : Word) (s : State) : ControlFrame s (advanceBy len s) := by
  unfold advanceBy
  simp only
  split
  · exact (setCtl_frame s _).trans (markBoundary_frame _)
  · exact setCtl_frame s _

theorem advance_frame (s : State) : ControlFrame s (advance s) := advanceBy_frame 8 s

theorem jumpTo_frame (target : Word) (s : State) : ControlFrame s (jumpTo target s) := by
  unfold jumpTo
  simp only
  split
  · exact (setCtl_frame s _).trans (markBoundary_frame _)
  · exact setCtl_frame s _

@[simp] theorem setCtl_cur (s : State) (c : Ctl) : (setCtl s c).cur = s.cur := by
  have h := congrArg State.cur (setCtl_frame s c).rest
  exact h

theorem Hart.dest_apart (h : Hart) (o : Opnd) (v : Word) : HartApart h (h.dest o v) := by
  unfold Hart.dest Hart.put; split <;> rfl

theorem Hart.get_dest (h : Hart) (o : Opnd) (v : Word) (n : Nat) :
    (h.dest o v).get n = if n = o.num.toNat ∧ n ≠ 0 then v else h.get n := by
  unfold Hart.dest; rw [Hart.get_put]
  by_cases hn : n = o.num.toNat
  · subst hn; simp
  · simp [hn]

/-- The place of the issuer after `setCtl`. -/
theorem ctl_setCtl {s : State} {k : HartKind} (h : curKind s = some k) (c : Ctl) : ctl (setCtl s c) = c := by
  unfold curKind at h
  unfold ctl setCtl
  split at h
  · rename_i id e; simp [e]
  · rename_i g e; simp [e]
  · rename_i g b e
    simp only [e, modHarts_cur]
    rw [hartOf_modHarts]
    · unfold splitBanks; split <;> simp
    · unfold splitBanks; split <;> simp [bankId]
  · cases h

/-- A change of registers moves no place. -/
theorem ctl_modHarts (s : State) (ids : List Nat) (f : Hart → Hart) (hf : ∀ h, (f h).pc = h.pc ∧ (f h).loops = h.loops) :
    ctl (modHarts s ids f) = ctl s := by
  have key : ∀ j, (hartOf (modHarts s ids f) j).pc = (hartOf s j).pc ∧ (hartOf (modHarts s ids f) j).loops = (hartOf s j).loops := by
    intro j
    induction ids generalizing s with
    | nil => exact ⟨rfl, rfl⟩
    | cons i is ih =>
      have := ih (modHart s i f)
      show (hartOf (modHarts (modHart s i f) is f) j).pc = _ ∧ _
      rw [show hartOf (modHarts s (i :: is) f) j = hartOf (modHarts (modHart s i f) is f) j from rfl, this.1, this.2, hartOf_modHart]
      split
      · rename_i e; subst e; exact hf _
      · exact ⟨rfl, rfl⟩
  unfold ctl
  simp only [modHarts_cur]
  split <;> simp [key, perOf]

theorem ctl_markBoundary (s : State) : ctl (markBoundary s) = ctl s := ctl_modHarts s _ _ fun _ => ⟨rfl, rfl⟩

/-- Where an instruction without a control transfer leaves the issuer (R217). -/
theorem ctl_advanceBy {s : State} {k : HartKind} (h : curKind s = some k) (len : Word) :
    ctl (advanceBy len s) = (fallThrough (ctl s) len).1 := by
  unfold advanceBy
  simp only
  split
  · rw [ctl_markBoundary, ctl_setCtl h]
  · rw [ctl_setCtl h]

theorem ctl_advance {s : State} {k : HartKind} (h : curKind s = some k) : ctl (advance s) = (fallThrough (ctl s) 8).1 := ctl_advanceBy h 8

theorem ctl_jumpTo {s : State} {k : HartKind} (h : curKind s = some k) (target : Word) :
    ctl (jumpTo target s) = { ctl s with pc := target } := by
  unfold jumpTo
  simp only
  split
  · rw [ctl_markBoundary, ctl_setCtl h]
  · rw [ctl_setCtl h]

theorem performers_nodup (s : State) : (performers s).Nodup := by
  unfold performers
  split
  · simp
  · unfold enabledBanks
    rename_i g _
    refine List.Nodup.map (fun a b h => ?_) (List.Nodup.filter _ List.nodup_range)
    simp only [bankId] at h; omega
  · unfold splitBanks; split <;> simp [bankId]
  · simp

theorem curKind_modHarts (s : State) (ids : List Nat) (f : Hart → Hart) : curKind (modHarts s ids f) = curKind s := by
  unfold curKind; rw [modHarts_cur]

theorem admitted_curKind {i : Instr} {s : State} (h : admitted i s = true) : ∃ k, curKind s = some k := by
  unfold admitted at h
  split at h
  · cases h
  · exact ⟨_, by assumption⟩

/-- The shared scalar shape: every performing hart writes a register, then the instruction ends. -/
theorem scalar_shape (s : State) {k : HartKind} (hk : curKind s = some k) (d : Opnd) (v : Hart → Word) :
    let t := advance (modPerformers s fun h => h.dest d (v h))
    (∀ id ∈ performers s, (hartOf t id).get d.num.toNat = if d.num.toNat = 0 then 0 else v (hartOf s id)) ∧
      RegisterFrame s t (performers s) d.num.toNat ∧ ctl t = (fallThrough (ctl s) 8).1 := by
  intro t
  have hm : ctl (modPerformers s fun h => h.dest d (v h)) = ctl s :=
    ctl_modHarts s _ _ fun h => by unfold Hart.dest Hart.put; split <;> exact ⟨rfl, rfl⟩
  have hf : RegisterFrame s (modPerformers s fun h => h.dest d (v h)) (performers s) d.num.toNat := by
    refine modHarts_registerFrame _ _ _ (fun h => Hart.dest_apart h _ _) _ _ fun j hj n hn h => ?_
    rw [Hart.get_dest, if_neg]
    rintro ⟨e, _⟩; exact hn ⟨hj, e⟩
  refine ⟨fun id hid => ?_, hf.trans ((advance_frame _).frame _ _), ?_⟩
  · rw [(advance_frame _).registers id _ (by simp), modPerformers, hartOf_modHarts _ _ _ _ (performers_nodup s), if_pos hid, Hart.get_dest]
    by_cases h0 : d.num.toNat = 0
    · rw [h0]; simp
    · simp [h0]
  · rw [ctl_advance (by rw [modPerformers, curKind_modHarts]; exact hk), hm]

end Sys2Proof.Machine
end

