-- ==== Sys2Proof/Tests/Slice0.lean ====
section
/-! SUPPORT. Tests of the model on fixed values, from the spec's encodings and rules; and for every statement of the provers' file a state and
operands that meet its hypotheses. -/
namespace Sys2Proof.Tests
open Sys2Proof Sys2Proof.Machine
set_option Elab.async false

/-! ## Words written out from the formats of R182 and the map of R185 -/

/-- An operand field (R178). -/
def op (lvl : BitVec 2) (fe : Bool) (num : BitVec 7) : Opnd := { lvl := lvl, fe := fe, num := num }

/-- Format R (R182). -/
def wordR (major sub mod c b a d : Nat) : Nat :=
  major + sub * 2 ^ 8 + d * 2 ^ 14 + a * 2 ^ 24 + b * 2 ^ 34 + c * 2 ^ 44 + mod * 2 ^ 54

/-- Format I (R182). -/
def wordI (major sub imm a d : Nat) : Nat :=
  major + sub * 2 ^ 8 + d * 2 ^ 14 + a * 2 ^ 24 + imm * 2 ^ 34

/-- Format B (R182). -/
def wordB (major sub off b a : Nat) : Nat :=
  major + sub * 2 ^ 8 + a * 2 ^ 14 + b * 2 ^ 24 + off * 2 ^ 34

/-- Format J (R182). -/
def wordJ (major sub off a d : Nat) : Nat :=
  major + sub * 2 ^ 8 + d * 2 ^ 14 + a * 2 ^ 24 + off * 2 ^ 34

/-- Format L (R182). -/
def wordL (major sub end24 imm16 a : Nat) : Nat :=
  major + sub * 2 ^ 8 + a * 2 ^ 14 + imm16 * 2 ^ 24 + end24 * 2 ^ 40

/-- Format M (R182). -/
def wordM (major sub off wid scope strm base data : Nat) : Nat :=
  major + sub * 2 ^ 8 + data * 2 ^ 14 + base * 2 ^ 24 + strm * 2 ^ 34 + scope * 2 ^ 38 + wid * 2 ^ 40 + off * 2 ^ 44

/-- Format V (R182). -/
def wordV (major sub sat xm rm masken mreg vc vb va vd : Nat) : Nat :=
  major + sub * 2 ^ 8 + vd * 2 ^ 14 + va * 2 ^ 24 + vb * 2 ^ 34 + vc * 2 ^ 44 + mreg * 2 ^ 54 + masken * 2 ^ 59 + rm * 2 ^ 60 +
    xm * 2 ^ 62 + sat * 2 ^ 63

/-- Format W (R182). -/
def wordW (major sub imm6 masken masko sat xm rm ty sb sa res q ob oa od : Nat) : Nat :=
  major + sub * 2 ^ 8 + od * 2 ^ 14 + oa * 2 ^ 17 + ob * 2 ^ 20 + q * 2 ^ 23 + res * 2 ^ 25 + sa * 2 ^ 26 + sb * 2 ^ 36 +
    ty * 2 ^ 46 + rm * 2 ^ 50 + xm * 2 ^ 52 + sat * 2 ^ 53 + masko * 2 ^ 54 + masken * 2 ^ 57 + imm6 * 2 ^ 58

/-- Format X (R182). -/
def wordX (major sub res foll accz spn fmt dk db da slot : Nat) : Nat :=
  major + sub * 2 ^ 8 + slot * 2 ^ 14 + da * 2 ^ 17 + db * 2 ^ 27 + dk * 2 ^ 37 + fmt * 2 ^ 47 + spn * 2 ^ 51 + accz * 2 ^ 54 +
    foll * 2 ^ 55 + res * 2 ^ 56

/-- Format E (R182). -/
def wordE (major sub res foll strm b a d : Nat) : Nat :=
  major + sub * 2 ^ 8 + d * 2 ^ 14 + a * 2 ^ 24 + b * 2 ^ 34 + strm * 2 ^ 44 + foll * 2 ^ 48 + res * 2 ^ 49

/-- The fields that these tests give each format. -/
def fieldR : FmtR := {
    mod := 0x155, c := op 2 true 3, b := op 1 false 2, a := op 3 true 1, d := op 0 false 5 }
def fieldI : FmtI := {
    imm := 0x2AAAAAAB, a := op 1 true 3, d := op 0 false 9 }
def fieldB : FmtB := {
    off := 0x3FFFFFFE, b := op 1 false 4, a := op 2 true 0x21 }
def fieldJ : FmtJ := {
    off := 0x20000001, a := op 2 false 6, d := op 0 false 0x3F }
def fieldL : FmtL := {
    end24 := 0x800005, imm16 := 0x8009, a := op 1 false 7 }
def fieldM : FmtM := {
    off := 0x80010, wid := 3, scope := 2, strm := 9, base := op 1 false 4, data := op 2 false 5 }
def fieldV : FmtV := {
    sat := true, xm := false, rm := 2, masken := true, mreg := 0x11, vc := op 0 true 3, vb := op 1 false 2,
    va := op 2 false 4, vd := op 0 false 6 }
def fieldW : FmtW := {
    imm6 := 0x25, masken := true, masko := 5, sat := false, xm := true, rm := 1, type := 9, sb := op 1 false 2,
    sa := op 2 true 3, res := false, q := 2, ob := 3, oa := 5, od := 6 }
def fieldX : FmtX := {
    res := 0x81, foll := false, accz := true, spn := 2, fmt := 9, dk := op 1 false 3, db := op 2 true 2,
    da := op 3 false 1, slot := 5 }
def fieldE : FmtE := {
    res := 0x4001, foll := true, strm := 9, b := op 1 false 3, a := op 2 true 2, d := op 0 false 7 }

theorem test_decode_scalar_register_1 :
    decodeTableWord 64 (wordR 0x01 0 0x155 0x283 0x102 0x381 5) = some (.add fieldR) ∧
    decodeTableWord 64 (wordR 0x01 1 0x155 0x283 0x102 0x381 5) = some (.sub fieldR) ∧
    decodeTableWord 64 (wordR 0x01 2 0x155 0x283 0x102 0x381 5) = some (.and fieldR) ∧
    decodeTableWord 64 (wordR 0x01 3 0x155 0x283 0x102 0x381 5) = some (.or fieldR) ∧
    decodeTableWord 64 (wordR 0x01 4 0x155 0x283 0x102 0x381 5) = some (.xor fieldR) ∧
    decodeTableWord 64 (wordR 0x01 5 0x155 0x283 0x102 0x381 5) = some (.andn fieldR) ∧
    decodeTableWord 64 (wordR 0x01 6 0x155 0x283 0x102 0x381 5) = some (.shl fieldR) ∧
    decodeTableWord 64 (wordR 0x01 7 0x155 0x283 0x102 0x381 5) = some (.shr fieldR) ∧
    decodeTableWord 64 (wordR 0x01 8 0x155 0x283 0x102 0x381 5) = some (.sra fieldR) ∧
    decodeTableWord 64 (wordR 0x01 9 0x155 0x283 0x102 0x381 5) = some (.ror fieldR) ∧
    decodeTableWord 64 (wordR 0x01 10 0x155 0x283 0x102 0x381 5) = some (.min fieldR) ∧
    decodeTableWord 64 (wordR 0x01 11 0x155 0x283 0x102 0x381 5) = some (.max fieldR) ∧
    decodeTableWord 64 (wordR 0x01 12 0x155 0x283 0x102 0x381 5) = some (.minu fieldR) ∧
    decodeTableWord 64 (wordR 0x01 13 0x155 0x283 0x102 0x381 5) = some (.maxu fieldR) := by decide

theorem test_decode_scalar_register_2 :
    decodeTableWord 64 (wordR 0x01 14 0x155 0x283 0x102 0x381 5) = some (.slt fieldR) ∧
    decodeTableWord 64 (wordR 0x01 15 0x155 0x283 0x102 0x381 5) = some (.sltu fieldR) ∧
    decodeTableWord 64 (wordR 0x01 16 0x155 0x283 0x102 0x381 5) = some (.seq fieldR) ∧
    decodeTableWord 64 (wordR 0x01 17 0x155 0x283 0x102 0x381 5) = some (.clz fieldR) ∧
    decodeTableWord 64 (wordR 0x01 18 0x155 0x283 0x102 0x381 5) = some (.ctz fieldR) ∧
    decodeTableWord 64 (wordR 0x01 19 0x155 0x283 0x102 0x381 5) = some (.popc fieldR) ∧
    decodeTableWord 64 (wordR 0x01 20 0x155 0x283 0x102 0x381 5) = some (.sext fieldR) ∧
    decodeTableWord 64 (wordR 0x01 21 0x155 0x283 0x102 0x381 5) = some (.zext fieldR) ∧
    decodeTableWord 64 (wordR 0x01 22 0x155 0x283 0x102 0x381 5) = some (.bfx fieldR) ∧
    decodeTableWord 64 (wordR 0x01 23 0x155 0x283 0x102 0x381 5) = some (.bfi fieldR) ∧
    decodeTableWord 64 (wordR 0x01 24 0x155 0x283 0x102 0x381 5) = some (.sel fieldR) := by decide

theorem test_decode_scalar_immediate :
    decodeTableWord 64 (wordI 0x02 0 0x2AAAAAAB 0x183 9) = some (.addi fieldI) ∧
    decodeTableWord 64 (wordI 0x02 1 0x2AAAAAAB 0x183 9) = some (.andi fieldI) ∧
    decodeTableWord 64 (wordI 0x02 2 0x2AAAAAAB 0x183 9) = some (.ori fieldI) ∧
    decodeTableWord 64 (wordI 0x02 3 0x2AAAAAAB 0x183 9) = some (.xori fieldI) ∧
    decodeTableWord 64 (wordI 0x02 4 0x2AAAAAAB 0x183 9) = some (.shli fieldI) ∧
    decodeTableWord 64 (wordI 0x02 5 0x2AAAAAAB 0x183 9) = some (.shri fieldI) ∧
    decodeTableWord 64 (wordI 0x02 6 0x2AAAAAAB 0x183 9) = some (.srai fieldI) ∧
    decodeTableWord 64 (wordI 0x02 7 0x2AAAAAAB 0x183 9) = some (.slti fieldI) ∧
    decodeTableWord 64 (wordI 0x02 8 0x2AAAAAAB 0x183 9) = some (.sltui fieldI) ∧
    decodeTableWord 64 (wordI 0x02 9 0x2AAAAAAB 0x183 9) = some (.li fieldI) ∧
    decodeTableWord 64 (wordI 0x02 10 0x2AAAAAAB 0x183 9) = some (.lih fieldI) ∧
    decodeTableWord 64 (wordI 0x02 11 0x2AAAAAAB 0x183 9) = some (.addpc fieldI) := by decide

theorem test_decode_multiply_divide :
    decodeTableWord 64 (wordR 0x03 0 0x155 0x283 0x102 0x381 5) = some (.mul fieldR) ∧
    decodeTableWord 64 (wordR 0x03 1 0x155 0x283 0x102 0x381 5) = some (.mulh fieldR) ∧
    decodeTableWord 64 (wordR 0x03 2 0x155 0x283 0x102 0x381 5) = some (.mulhu fieldR) ∧
    decodeTableWord 64 (wordR 0x03 3 0x155 0x283 0x102 0x381 5) = some (.div fieldR) ∧
    decodeTableWord 64 (wordR 0x03 4 0x155 0x283 0x102 0x381 5) = some (.divu fieldR) ∧
    decodeTableWord 64 (wordR 0x03 5 0x155 0x283 0x102 0x381 5) = some (.rem fieldR) ∧
    decodeTableWord 64 (wordR 0x03 6 0x155 0x283 0x102 0x381 5) = some (.remu fieldR) ∧
    decodeTableWord 64 (wordR 0x03 7 0x155 0x283 0x102 0x381 5) = some (.madd fieldR) := by decide

theorem test_decode_branch :
    decodeTableWord 64 (wordB 0x20 0 0x3FFFFFFE 0x104 0x2A1) = some (.beq fieldB) ∧
    decodeTableWord 64 (wordB 0x20 1 0x3FFFFFFE 0x104 0x2A1) = some (.bne fieldB) ∧
    decodeTableWord 64 (wordB 0x20 2 0x3FFFFFFE 0x104 0x2A1) = some (.blt fieldB) ∧
    decodeTableWord 64 (wordB 0x20 3 0x3FFFFFFE 0x104 0x2A1) = some (.bge fieldB) ∧
    decodeTableWord 64 (wordB 0x20 4 0x3FFFFFFE 0x104 0x2A1) = some (.bltu fieldB) ∧
    decodeTableWord 64 (wordB 0x20 5 0x3FFFFFFE 0x104 0x2A1) = some (.bgeu fieldB) ∧
    decodeTableWord 64 (wordB 0x20 6 0x3FFFFFFE 0x104 0x2A1) = some (.bf fieldB) ∧
    decodeTableWord 64 (wordB 0x20 7 0x3FFFFFFE 0x104 0x2A1) = some (.bnf fieldB) := by decide

theorem test_decode_jump :
    decodeTableWord 64 (wordJ 0x21 0 0x20000001 0x206 0x3F) = some (.jmp fieldJ) ∧
    decodeTableWord 64 (wordJ 0x21 1 0x20000001 0x206 0x3F) = some (.jmpr fieldJ) ∧
    decodeTableWord 64 (wordJ 0x21 2 0x20000001 0x206 0x3F) = some (.call fieldJ) ∧
    decodeTableWord 64 (wordJ 0x21 3 0x20000001 0x206 0x3F) = some (.callr fieldJ) ∧
    decodeTableWord 64 (wordJ 0x21 4 0x20000001 0x206 0x3F) = some (.ret fieldJ) ∧
    decodeTableWord 64 (wordJ 0x21 5 0x20000001 0x206 0x3F) = some (.jtab fieldJ) ∧
    decodeTableWord 64 (wordJ 0x21 6 0x20000001 0x206 0x3F) = some (.fjmp fieldJ) ∧
    decodeTableWord 64 (wordJ 0x21 7 0x20000001 0x206 0x3F) = some (.fcall fieldJ) := by decide

theorem test_decode_loop :
    decodeTableWord 64 (wordL 0x22 0 0x800005 0x8009 0x107) = some (.loop fieldL) ∧
    decodeTableWord 64 (wordL 0x22 1 0x800005 0x8009 0x107) = some (.loopi fieldL) ∧
    decodeTableWord 64 (wordR 0x22 2 0x155 0x283 0x102 0x381 5) = some (.lbrk fieldR) ∧
    decodeTableWord 64 (wordI 0x22 3 0x2AAAAAAB 0x183 9) = some (.lidx fieldI) := by decide

theorem test_decode_coordination :
    decodeTableWord 64 (wordR 0x23 0 0x155 0x283 0x102 0x381 5) = some (.fork fieldR) ∧
    decodeTableWord 64 (wordR 0x23 1 0x155 0x283 0x102 0x381 5) = some (.join fieldR) ∧
    decodeTableWord 64 (wordR 0x23 2 0x155 0x283 0x102 0x381 5) = some (.qpush fieldR) ∧
    decodeTableWord 64 (wordR 0x23 3 0x155 0x283 0x102 0x381 5) = some (.qpop fieldR) ∧
    decodeTableWord 64 (wordR 0x23 4 0x155 0x283 0x102 0x381 5) = some (.bqpush fieldR) ∧
    decodeTableWord 64 (wordR 0x23 5 0x155 0x283 0x102 0x381 5) = some (.bqbr fieldR) ∧
    decodeTableWord 64 (wordR 0x23 6 0x155 0x283 0x102 0x381 5) = some (.monitor fieldR) ∧
    decodeTableWord 64 (wordR 0x23 7 0x155 0x283 0x102 0x381 5) = some (.mwait fieldR) := by decide

theorem test_decode_memory :
    decodeTableWord 64 (wordM 0x30 0 0x80010 3 2 9 0x104 0x205) = some (.ld fieldM) ∧
    decodeTableWord 64 (wordM 0x30 1 0x80010 3 2 9 0x104 0x205) = some (.st fieldM) ∧
    decodeTableWord 64 (wordM 0x30 2 0x80010 3 2 9 0x104 0x205) = some (.ldacq fieldM) ∧
    decodeTableWord 64 (wordM 0x30 3 0x80010 3 2 9 0x104 0x205) = some (.strel fieldM) ∧
    decodeTableWord 64 (wordM 0x30 4 0x80010 3 2 9 0x104 0x205) = some (.ldnt fieldM) := by decide

theorem test_decode_atomic :
    decodeTableWord 64 (wordR 0x31 0 0x155 0x283 0x102 0x381 5) = some (.amoadd fieldR) ∧
    decodeTableWord 64 (wordR 0x31 1 0x155 0x283 0x102 0x381 5) = some (.amoand fieldR) ∧
    decodeTableWord 64 (wordR 0x31 2 0x155 0x283 0x102 0x381 5) = some (.amoor fieldR) ∧
    decodeTableWord 64 (wordR 0x31 3 0x155 0x283 0x102 0x381 5) = some (.amoxor fieldR) ∧
    decodeTableWord 64 (wordR 0x31 4 0x155 0x283 0x102 0x381 5) = some (.amomin fieldR) ∧
    decodeTableWord 64 (wordR 0x31 5 0x155 0x283 0x102 0x381 5) = some (.amomax fieldR) ∧
    decodeTableWord 64 (wordR 0x31 6 0x155 0x283 0x102 0x381 5) = some (.amoswp fieldR) ∧
    decodeTableWord 64 (wordR 0x31 7 0x155 0x283 0x102 0x381 5) = some (.amocas fieldR) ∧
    decodeTableWord 64 (wordR 0x31 8 0x155 0x283 0x102 0x381 5) = some (.amofadd fieldR) ∧
    decodeTableWord 64 (wordR 0x31 9 0x155 0x283 0x102 0x381 5) = some (.amoinc fieldR) := by decide

theorem test_decode_ordering :
    decodeTableWord 64 (wordR 0x32 0 0x155 0x283 0x102 0x381 5) = some (.fence fieldR) ∧
    decodeTableWord 64 (wordI 0x32 1 0x2AAAAAAB 0x183 9) = some (.sbar fieldI) ∧
    decodeTableWord 64 (wordR 0x32 2 0x155 0x283 0x102 0x381 5) = some (.waitv fieldR) := by decide

theorem test_decode_row_timing :
    decodeTableWord 64 (wordW 0x40 0 0x25 1 5 0 1 1 9 0x102 0x283 0 2 3 5 6) = some (.act fieldW) ∧
    decodeTableWord 64 (wordW 0x40 1 0x25 1 5 0 1 1 9 0x102 0x283 0 2 3 5 6) = some (.pre fieldW) ∧
    decodeTableWord 64 (wordW 0x40 2 0x25 1 5 0 1 1 9 0x102 0x283 0 2 3 5 6) = some (.wb fieldW) ∧
    decodeTableWord 64 (wordW 0x40 3 0x25 1 5 0 1 1 9 0x102 0x283 0 2 3 5 6) = some (.wbpre fieldW) ∧
    decodeTableWord 64 (wordW 0x40 4 0x25 1 5 0 1 1 9 0x102 0x283 0 2 3 5 6) = some (.ref fieldW) ∧
    decodeTableWord 64 (wordW 0x40 5 0x25 1 5 0 1 1 9 0x102 0x283 0 2 3 5 6) = some (.refq fieldW) ∧
    decodeTableWord 64 (wordW 0x40 6 0x25 1 5 0 1 1 9 0x102 0x283 0 2 3 5 6) = some (.rcopy fieldW) := by decide

theorem test_decode_row_arithmetic :
    decodeTableWord 64 (wordW 0x41 0 0x25 1 5 0 1 1 9 0x102 0x283 0 2 3 5 6) = some (.radd fieldW) ∧
    decodeTableWord 64 (wordW 0x41 1 0x25 1 5 0 1 1 9 0x102 0x283 0 2 3 5 6) = some (.rsub fieldW) ∧
    decodeTableWord 64 (wordW 0x41 2 0x25 1 5 0 1 1 9 0x102 0x283 0 2 3 5 6) = some (.rmul fieldW) ∧
    decodeTableWord 64 (wordW 0x41 3 0x25 1 5 0 1 1 9 0x102 0x283 0 2 3 5 6) = some (.rfma fieldW) ∧
    decodeTableWord 64 (wordW 0x41 4 0x25 1 5 0 1 1 9 0x102 0x283 0 2 3 5 6) = some (.rmin fieldW) ∧
    decodeTableWord 64 (wordW 0x41 5 0x25 1 5 0 1 1 9 0x102 0x283 0 2 3 5 6) = some (.rmax fieldW) ∧
    decodeTableWord 64 (wordW 0x41 6 0x25 1 5 0 1 1 9 0x102 0x283 0 2 3 5 6) = some (.rand fieldW) ∧
    decodeTableWord 64 (wordW 0x41 7 0x25 1 5 0 1 1 9 0x102 0x283 0 2 3 5 6) = some (.rbor fieldW) ∧
    decodeTableWord 64 (wordW 0x41 8 0x25 1 5 0 1 1 9 0x102 0x283 0 2 3 5 6) = some (.rxor fieldW) ∧
    decodeTableWord 64 (wordW 0x41 9 0x25 1 5 0 1 1 9 0x102 0x283 0 2 3 5 6) = some (.rshr fieldW) ∧
    decodeTableWord 64 (wordW 0x41 10 0x25 1 5 0 1 1 9 0x102 0x283 0 2 3 5 6) = some (.rcmp fieldW) ∧
    decodeTableWord 64 (wordW 0x41 11 0x25 1 5 0 1 1 9 0x102 0x283 0 2 3 5 6) = some (.rsel fieldW) ∧
    decodeTableWord 64 (wordW 0x41 12 0x25 1 5 0 1 1 9 0x102 0x283 0 2 3 5 6) = some (.rcvt fieldW) ∧
    decodeTableWord 64 (wordW 0x41 13 0x25 1 5 0 1 1 9 0x102 0x283 0 2 3 5 6) = some (.rscl fieldW) := by decide

theorem test_decode_row_lut_reduction :
    decodeTableWord 64 (wordW 0x42 0 0x25 1 5 0 1 1 9 0x102 0x283 0 2 3 5 6) = some (.ldlut fieldW) ∧
    decodeTableWord 64 (wordW 0x42 1 0x25 1 5 0 1 1 9 0x102 0x283 0 2 3 5 6) = some (.lutdot fieldW) ∧
    decodeTableWord 64 (wordW 0x42 2 0x25 1 5 0 1 1 9 0x102 0x283 0 2 3 5 6) = some (.ldsc fieldW) ∧
    decodeTableWord 64 (wordW 0x42 3 0x25 1 5 0 1 1 9 0x102 0x283 0 2 3 5 6) = some (.rdot fieldW) ∧
    decodeTableWord 64 (wordW 0x42 4 0x25 1 5 0 1 1 9 0x102 0x283 0 2 3 5 6) = some (.rsum fieldW) ∧
    decodeTableWord 64 (wordW 0x42 5 0x25 1 5 0 1 1 9 0x102 0x283 0 2 3 5 6) = some (.qclr fieldW) ∧
    decodeTableWord 64 (wordW 0x42 6 0x25 1 5 0 1 1 9 0x102 0x283 0 2 3 5 6) = some (.qst fieldW) ∧
    decodeTableWord 64 (wordW 0x42 7 0x25 1 5 0 1 1 9 0x102 0x283 0 2 3 5 6) = some (.rtopk fieldW) := by decide

theorem test_decode_row_exchange :
    decodeTableWord 64 (wordW 0x43 0 0x25 1 5 0 1 1 9 0x102 0x283 0 2 3 5 6) = some (.shfl fieldW) ∧
    decodeTableWord 64 (wordW 0x43 1 0x25 1 5 0 1 1 9 0x102 0x283 0 2 3 5 6) = some (.shrx fieldW) ∧
    decodeTableWord 64 (wordW 0x43 2 0x25 1 5 0 1 1 9 0x102 0x283 0 2 3 5 6) = some (.rcast fieldW) ∧
    decodeTableWord 64 (wordW 0x43 3 0x25 1 5 0 1 1 9 0x102 0x283 0 2 3 5 6) = some (.rout fieldW) ∧
    decodeTableWord 64 (wordW 0x43 4 0x25 1 5 0 1 1 9 0x102 0x283 0 2 3 5 6) = some (.rred fieldW) := by decide

theorem test_decode_row_control :
    decodeTableWord 64 (wordW 0x44 0 0x25 1 5 0 1 1 9 0x102 0x283 0 2 3 5 6) = some (.gang fieldW) ∧
    decodeTableWord 64 (wordW 0x44 1 0x25 1 5 0 1 1 9 0x102 0x283 0 2 3 5 6) = some (.split fieldW) ∧
    decodeTableWord 64 (wordW 0x44 2 0x25 1 5 0 1 1 9 0x102 0x283 0 2 3 5 6) = some (.bmask fieldW) ∧
    decodeTableWord 64 (wordW 0x44 3 0x25 1 5 0 1 1 9 0x102 0x283 0 2 3 5 6) = some (.byield fieldW) ∧
    decodeTableWord 64 (wordW 0x44 4 0x25 1 5 0 1 1 9 0x102 0x283 0 2 3 5 6) = some (.lease fieldW) ∧
    decodeTableWord 64 (wordW 0x44 5 0x25 1 5 0 1 1 9 0x102 0x283 0 2 3 5 6) = some (.rgete fieldW) ∧
    decodeTableWord 64 (wordW 0x44 6 0x25 1 5 0 1 1 9 0x102 0x283 0 2 3 5 6) = some (.rsete fieldW) := by decide

theorem test_decode_vector_arithmetic_1 :
    decodeTableWord 64 (wordV 0x60 0 1 0 2 1 0x11 0x083 0x102 0x204 6) = some (.vadd fieldV) ∧
    decodeTableWord 64 (wordV 0x60 1 1 0 2 1 0x11 0x083 0x102 0x204 6) = some (.vsub fieldV) ∧
    decodeTableWord 64 (wordV 0x60 2 1 0 2 1 0x11 0x083 0x102 0x204 6) = some (.vmul fieldV) ∧
    decodeTableWord 64 (wordV 0x60 3 1 0 2 1 0x11 0x083 0x102 0x204 6) = some (.vfma fieldV) ∧
    decodeTableWord 64 (wordV 0x60 4 1 0 2 1 0x11 0x083 0x102 0x204 6) = some (.vmin fieldV) ∧
    decodeTableWord 64 (wordV 0x60 5 1 0 2 1 0x11 0x083 0x102 0x204 6) = some (.vmax fieldV) ∧
    decodeTableWord 64 (wordV 0x60 6 1 0 2 1 0x11 0x083 0x102 0x204 6) = some (.vand fieldV) ∧
    decodeTableWord 64 (wordV 0x60 7 1 0 2 1 0x11 0x083 0x102 0x204 6) = some (.vor fieldV) ∧
    decodeTableWord 64 (wordV 0x60 8 1 0 2 1 0x11 0x083 0x102 0x204 6) = some (.vxor fieldV) ∧
    decodeTableWord 64 (wordV 0x60 9 1 0 2 1 0x11 0x083 0x102 0x204 6) = some (.vshl fieldV) ∧
    decodeTableWord 64 (wordV 0x60 10 1 0 2 1 0x11 0x083 0x102 0x204 6) = some (.vshr fieldV) ∧
    decodeTableWord 64 (wordV 0x60 11 1 0 2 1 0x11 0x083 0x102 0x204 6) = some (.vsra fieldV) ∧
    decodeTableWord 64 (wordV 0x60 12 1 0 2 1 0x11 0x083 0x102 0x204 6) = some (.vcvt fieldV) ∧
    decodeTableWord 64 (wordV 0x60 13 1 0 2 1 0x11 0x083 0x102 0x204 6) = some (.vabs fieldV) := by decide

theorem test_decode_vector_arithmetic_2 :
    decodeTableWord 64 (wordV 0x60 14 1 0 2 1 0x11 0x083 0x102 0x204 6) = some (.vneg fieldV) ∧
    decodeTableWord 64 (wordV 0x60 15 1 0 2 1 0x11 0x083 0x102 0x204 6) = some (.vexp2 fieldV) ∧
    decodeTableWord 64 (wordV 0x60 16 1 0 2 1 0x11 0x083 0x102 0x204 6) = some (.vrcp fieldV) ∧
    decodeTableWord 64 (wordV 0x60 17 1 0 2 1 0x11 0x083 0x102 0x204 6) = some (.vrsqrt fieldV) ∧
    decodeTableWord 64 (wordV 0x60 18 1 0 2 1 0x11 0x083 0x102 0x204 6) = some (.vdiv fieldV) ∧
    decodeTableWord 64 (wordV 0x60 19 1 0 2 1 0x11 0x083 0x102 0x204 6) = some (.vsqrt fieldV) := by decide

theorem test_decode_vector_compare :
    decodeTableWord 64 (wordV 0x61 0 1 0 2 1 0x11 0x083 0x102 0x204 6) = some (.vcmp fieldV) ∧
    decodeTableWord 64 (wordV 0x61 1 1 0 2 1 0x11 0x083 0x102 0x204 6) = some (.vmerge fieldV) ∧
    decodeTableWord 64 (wordV 0x61 2 1 0 2 1 0x11 0x083 0x102 0x204 6) = some (.vpopc fieldV) ∧
    decodeTableWord 64 (wordV 0x61 3 1 0 2 1 0x11 0x083 0x102 0x204 6) = some (.vfirst fieldV) := by decide

theorem test_decode_vector_permute :
    decodeTableWord 64 (wordV 0x62 0 1 0 2 1 0x11 0x083 0x102 0x204 6) = some (.vcompress fieldV) ∧
    decodeTableWord 64 (wordV 0x62 1 1 0 2 1 0x11 0x083 0x102 0x204 6) = some (.vgather fieldV) ∧
    decodeTableWord 64 (wordV 0x62 2 1 0 2 1 0x11 0x083 0x102 0x204 6) = some (.vslide fieldV) ∧
    decodeTableWord 64 (wordV 0x62 3 1 0 2 1 0x11 0x083 0x102 0x204 6) = some (.vred fieldV) ∧
    decodeTableWord 64 (wordV 0x62 4 1 0 2 1 0x11 0x083 0x102 0x204 6) = some (.vtopk fieldV) ∧
    decodeTableWord 64 (wordV 0x62 5 1 0 2 1 0x11 0x083 0x102 0x204 6) = some (.viota fieldV) ∧
    decodeTableWord 64 (wordV 0x62 6 1 0 2 1 0x11 0x083 0x102 0x204 6) = some (.vbcast fieldV) ∧
    decodeTableWord 64 (wordV 0x62 7 1 0 2 1 0x11 0x083 0x102 0x204 6) = some (.vext fieldV) := by decide

theorem test_decode_vector_memory :
    decodeTableWord 64 (wordR 0x63 0 0x155 0x283 0x102 0x381 5) = some (.vld fieldR) ∧
    decodeTableWord 64 (wordR 0x63 1 0x155 0x283 0x102 0x381 5) = some (.vlds fieldR) ∧
    decodeTableWord 64 (wordR 0x63 2 0x155 0x283 0x102 0x381 5) = some (.vldx fieldR) ∧
    decodeTableWord 64 (wordR 0x63 3 0x155 0x283 0x102 0x381 5) = some (.vst fieldR) ∧
    decodeTableWord 64 (wordR 0x63 4 0x155 0x283 0x102 0x381 5) = some (.vsts fieldR) ∧
    decodeTableWord 64 (wordR 0x63 5 0x155 0x283 0x102 0x381 5) = some (.vstx fieldR) ∧
    decodeTableWord 64 (wordR 0x63 6 0x155 0x283 0x102 0x381 5) = some (.vldsc fieldR) := by decide

theorem test_decode_vector_config :
    decodeTableWord 64 (wordV 0x64 0 1 0 2 1 0x11 0x083 0x102 0x204 6) = some (.vsetvl fieldV) ∧
    decodeTableWord 64 (wordV 0x64 1 1 0 2 1 0x11 0x083 0x102 0x204 6) = some (.vsettype fieldV) ∧
    decodeTableWord 64 (wordV 0x64 2 1 0 2 1 0x11 0x083 0x102 0x204 6) = some (.vrdhw fieldV) ∧
    decodeTableWord 64 (wordV 0x64 3 1 0 2 1 0x11 0x083 0x102 0x204 6) = some (.vallot fieldV) := by decide

theorem test_decode_matrix :
    decodeTableWord 64 (wordX 0x80 0 0x81 0 1 2 9 0x103 0x282 0x301 5) = some (.mma fieldX) ∧
    decodeTableWord 64 (wordX 0x80 1 0x81 0 1 2 9 0x103 0x282 0x301 5) = some (.mmas fieldX) ∧
    decodeTableWord 64 (wordX 0x80 2 0x81 0 1 2 9 0x103 0x282 0x301 5) = some (.mzero fieldX) ∧
    decodeTableWord 64 (wordX 0x80 3 0x81 0 1 2 9 0x103 0x282 0x301 5) = some (.mld fieldX) ∧
    decodeTableWord 64 (wordX 0x80 4 0x81 0 1 2 9 0x103 0x282 0x301 5) = some (.mst fieldX) ∧
    decodeTableWord 64 (wordX 0x80 5 0x81 0 1 2 9 0x103 0x282 0x301 5) = some (.mpin fieldX) ∧
    decodeTableWord 64 (wordX 0x80 6 0x81 0 1 2 9 0x103 0x282 0x301 5) = some (.munpin fieldX) ∧
    decodeTableWord 64 (wordX 0x80 7 0x81 0 1 2 9 0x103 0x282 0x301 5) = some (.mdelta fieldX) ∧
    decodeTableWord 64 (wordX 0x80 8 0x81 0 1 2 9 0x103 0x282 0x301 5) = some (.mread fieldX) ∧
    decodeTableWord 64 (wordX 0x80 9 0x81 0 1 2 9 0x103 0x282 0x301 5) = some (.mxfl fieldX) ∧
    decodeTableWord 64 (wordX 0x80 10 0x81 0 1 2 9 0x103 0x282 0x301 5) = some (.mfind fieldX) := by decide

theorem test_decode_engine :
    decodeTableWord 64 (wordE 0x90 0 0x4001 1 9 0x103 0x282 7) = some (.cpy fieldE) ∧
    decodeTableWord 64 (wordE 0x90 1 0x4001 1 9 0x103 0x282 7) = some (.cpyw fieldE) ∧
    decodeTableWord 64 (wordE 0x90 2 0x4001 1 9 0x103 0x282 7) = some (.tfetch fieldE) ∧
    decodeTableWord 64 (wordE 0x90 3 0x4001 1 9 0x103 0x282 7) = some (.tfrel fieldE) := by decide

theorem test_decode_tier_publish :
    decodeTableWord 64 (wordE 0x91 0 0x4001 1 9 0x103 0x282 7) = some (.prefb fieldE) ∧
    decodeTableWord 64 (wordE 0x91 1 0x4001 1 9 0x103 0x282 7) = some (.tiermv fieldE) ∧
    decodeTableWord 64 (wordE 0x91 2 0x4001 1 9 0x103 0x282 7) = some (.shadow fieldE) ∧
    decodeTableWord 64 (wordE 0x91 3 0x4001 1 9 0x103 0x282 7) = some (.publish fieldE) ∧
    decodeTableWord 64 (wordE 0x91 4 0x4001 1 9 0x103 0x282 7) = some (.tokwait fieldE) := by decide

theorem test_decode_catalogue :
    decodeTableWord 64 (wordE 0x92 0 0x4001 1 9 0x103 0x282 7) = some (.catalloc fieldE) ∧
    decodeTableWord 64 (wordE 0x92 1 0x4001 1 9 0x103 0x282 7) = some (.catmap fieldE) ∧
    decodeTableWord 64 (wordE 0x92 2 0x4001 1 9 0x103 0x282 7) = some (.catshare fieldE) ∧
    decodeTableWord 64 (wordE 0x92 3 0x4001 1 9 0x103 0x282 7) = some (.catfree fieldE) := by decide

theorem test_decode_task :
    decodeTableWord 64 (wordR 0xA0 0 0x155 0x283 0x102 0x381 5) = some (.exit fieldR) ∧
    decodeTableWord 64 (wordR 0xA0 1 0x155 0x283 0x102 0x381 5) = some (.scope fieldR) ∧
    decodeTableWord 64 (wordR 0xA0 2 0x155 0x283 0x102 0x381 5) = some (.cancel fieldR) ∧
    decodeTableWord 64 (wordR 0xA0 3 0x155 0x283 0x102 0x381 5) = some (.cwait fieldR) ∧
    decodeTableWord 64 (wordR 0xA0 4 0x155 0x283 0x102 0x381 5) = some (.barinit fieldR) ∧
    decodeTableWord 64 (wordR 0xA0 5 0x155 0x283 0x102 0x381 5) = some (.bararr fieldR) ∧
    decodeTableWord 64 (wordR 0xA0 6 0x155 0x283 0x102 0x381 5) = some (.barwait fieldR) ∧
    decodeTableWord 64 (wordR 0xA0 7 0x155 0x283 0x102 0x381 5) = some (.yield fieldR) ∧
    decodeTableWord 64 (wordR 0xA0 8 0x155 0x283 0x102 0x381 5) = some (.getpg fieldR) := by decide

theorem test_decode_system :
    decodeTableWord 64 (wordI 0xB0 0 0x2AAAAAAB 0x183 9) = some (.csrr fieldI) ∧
    decodeTableWord 64 (wordI 0xB0 1 0x2AAAAAAB 0x183 9) = some (.csrw fieldI) ∧
    decodeTableWord 64 (wordR 0xB0 2 0x155 0x283 0x102 0x381 5) = some (.trap fieldR) ∧
    decodeTableWord 64 (wordR 0xB0 3 0x155 0x283 0x102 0x381 5) = some (.brk fieldR) ∧
    decodeTableWord 64 (wordR 0xB0 4 0x155 0x283 0x102 0x381 5) = some (.rft fieldR) ∧
    decodeTableWord 64 (wordR 0xB0 5 0x155 0x283 0x102 0x381 5) = some (.cfetch fieldR) ∧
    decodeTableWord 64 (wordR 0xB0 6 0x155 0x283 0x102 0x381 5) = some (.cseg fieldR) ∧
    decodeTableWord 64 (wordR 0xB0 7 0x155 0x283 0x102 0x381 5) = some (.ifence fieldR) ∧
    decodeTableWord 64 (wordR 0xB0 8 0x155 0x283 0x102 0x381 5) = some (.setaside fieldR) ∧
    decodeTableWord 64 (wordR 0xB0 9 0x155 0x283 0x102 0x381 5) = some (.rowwd fieldR) ∧
    decodeTableWord 64 (wordR 0xB0 10 0x155 0x283 0x102 0x381 5) = some (.nop fieldR) := by decide

theorem test_decode_convoy_header : decodeTableWord 32 (0xC0 + 2 * 2 ^ 8 + 1 * 2 ^ 11 + 3 * 2 ^ 14 + 5 * 2 ^ 17 + 6 * 2 ^ 20 + 7 * 2 ^ 23 +
    4 * 2 ^ 26 + 1 * 2 ^ 29) =
    some (.convoyHeader { hres := 1, unit5 := 4, unit4 := 7, unit3 := 6, unit2 := 5, unit1 := 3, unit0 := 1, n := 2 }) := by decide

/-- The three words that 06_encoding.md works out. -/
theorem test_decode_worked_words :
    decodeTableWord 64 0x0001_030C_0401_4030 =
      some (.ld { off := 16, wid := 3, scope := 0, strm := 3, base := op 0 false 4, data := op 0 false 5 }) ∧
    decodeTableWord 64 0x0021_0000_0010_8041 = some (.radd {
      imm6 := 0, masken := false, masko := 0, sat := true, xm := false, rm := 0, type := 4, sb := op 0 false 0, sa := op 0 false 0,
      res := false, q := 0, ob := 1, oa := 0, od := 2 }) ∧
    decodeTableWord 64 0x0000_020E_0401_4060 = some (.vadd {
      sat := false, xm := false, rm := 0, masken := false, mreg := 0, vc := op 0 false 0, vb := op 0 true 3, va := op 2 false 4,
      vd := op 0 false 5 }) := by decide

/-- SUB past a major's list, majors outside the map, zero and all ones (R174, R185). -/
theorem test_decode_outside_the_map :
    decodeTableWord 64 (wordR 0x01 25 0 0 0 0 0) = none ∧ decodeTableWord 64 (wordR 0x22 4 0 0 0 0 0) = none ∧
    decodeTableWord 64 (wordW 0x40 7 0 0 0 0 0 0 0 0 0 0 0 0 0 0) = none ∧ decodeTableWord 64 (wordX 0x80 11 0 0 0 0 0 0 0 0 0) = none ∧
    decodeTableWord 64 (wordR 0xB0 11 0 0 0 0 0) = none ∧ decodeTableWord 64 0x04 = none ∧ decodeTableWord 64 0 = none ∧
    decodeTableWord 64 0xFFFF_FFFF_FFFF_FFFF = none := by decide

/-! ## Small states -/

/-- A running hart of context 1 with a handler at 0x400 and registers. -/
def hart (x : Tbl Word) : Hart := { x := x, context := 1, trapvec := 0x400, run := .running, pred := true }

/-- A machine that has started, with the registers of one hart (or of all banks of Pergola 0), page 0 of 2 MiB of context 1 mapped to itself, and
that agent issuing. -/
def base (a : Agent) (x : Tbl Word) : State :=
  { nd := { started := true }, intlvSize := 0x10000000, cur := a, rowcap := BitVec.allOnes 1152,
    tlb := [{ context := 1, page := 0, entry := 0x7F, large := true }],
    contexts := [(1, { v := true, spillbase := 0x8000000, framebase := 0x4000000 })],
    harts := match a with
      | .hart id => [(id, hart x)]
      | _ => (List.range 8).map fun b => (bankId 0 b, hart x) }

def onA (x : Tbl Word) : State := base (.hart 0) x
def onX (x : Tbl Word) : State := base (.hart 1) x
def onDocent (x : Tbl Word) : State := base (.hart 0x4000) x
/-- Bank 3 of Pergola 0 issues in split mode. -/
def onBank (x : Tbl Word) : State := { base (.bank 0 3) x with pergolas := [(0, { gang := false })] }
def onGang (x : Tbl Word) : State := base (.pergola 0) x

/-- Operand fields without hints. -/
def r (n : BitVec 7) : Opnd := op 0 false n
def fR (d a b c : BitVec 7) (mod : BitVec 10 := 0) : FmtR := { mod := mod, c := r c, b := r b, a := r a, d := r d }
def fI (d a : BitVec 7) (imm : BitVec 30) : FmtI := { imm := imm, a := r a, d := r d }
def fB (a b : BitVec 7) (off : BitVec 30) : FmtB := { off := off, b := r b, a := r a }
def fJ (d a : BitVec 7) (off : BitVec 30) : FmtJ := { off := off, a := r a, d := r d }
def fM (data base : BitVec 7) (wid : BitVec 4) (off : BitVec 20) : FmtM :=
  { off := off, wid := wid, scope := 0, strm := 0, base := r base, data := r data }
def fE (d a b : BitVec 7) : FmtE := { res := 0, foll := false, strm := 0, b := r b, a := r a, d := r d }
def fX (slot : BitVec 3) (da db dk : BitVec 7) (fmt : BitVec 4 := 0) : FmtX :=
  { res := 0, foll := false, accz := false, spn := 0, fmt := fmt, dk := r dk, db := r db, da := r da, slot := slot }
def fV (vd va vb vc : BitVec 7) : FmtV :=
  { sat := false, xm := false, rm := 0, masken := false, mreg := 0, vc := r vc, vb := r vb, va := r va, vd := r vd }
def fW (od oa ob : BitVec 3) (sa : BitVec 7 := 0) (type : BitVec 4 := 0) : FmtW :=
  { imm6 := 0, masken := false, masko := 0, sat := false, xm := false, rm := 0, type := type, sb := r 0, sa := r sa, res := false, q := 0,
    ob := ob, oa := oa, od := od }

/-! ## Ill-formed terms, one for each check of step 3 of R187 -/

theorem test_wellFormed_some : fieldsOk .aHart (.add (fR 3 1 2 0)) = true ∧ fieldsOk .bank (.add (fR 15 15 15 0)) = true ∧
    fieldsOk .xHart (.vadd (fV 31 31 31 0)) = true := by decide
theorem test_illFormed_destination_bit7 : fieldsOk .aHart (.add { fR 0 1 2 0 with d := op 0 true 3 }) = false := by decide
theorem test_illFormed_number_of_a_bank : fieldsOk .bank (.add (fR 16 1 2 0)) = false ∧ fieldsOk .bank (.add (fR 3 16 2 0)) = false := by decide
theorem test_illFormed_number_of_a_vector : fieldsOk .xHart (.vadd (fV 1 32 2 0)) = false := by decide
theorem test_illFormed_number_of_a_queue : fieldsOk .aHart (.qpush (fR 4 1 0 0)) = false := by decide
theorem test_illFormed_number_of_a_token : fieldsOk .aHart (.tokwait (fE 32 0 0)) = false := by decide
theorem test_illFormed_unused_operand : fieldsOk .aHart (.add (fR 3 1 2 1)) = false ∧
    fieldsOk .aHart (.add { fR 3 1 2 0 with c := op 1 false 0 }) = false := by decide
theorem test_illFormed_modifier_bits : fieldsOk .aHart (.add (fR 3 1 2 0 1)) = false ∧ fieldsOk .aHart (.sext (fR 3 1 0 0 4)) = false := by
  decide
theorem test_illFormed_compare_modifiers : fieldsOk .bank (.rcmp { fW 0 1 2 with rm := 1 }) = false ∧
    fieldsOk .bank (.rcmp { fW 0 1 2 with sat := true }) = false := by decide
theorem test_illFormed_loop_length : fieldsOk .aHart (.loopi { end24 := 1, imm16 := 3, a := r 0 }) = false := by decide
theorem test_illFormed_return_offset : fieldsOk .aHart (.ret (fJ 0 1 1)) = false := by decide
theorem test_illFormed_width : fieldsOk .aHart (.ld (fM 1 2 7 0)) = false ∧ fieldsOk .aHart (.st (fM 1 2 4 0)) = false := by decide
theorem test_illFormed_scope : fieldsOk .aHart (.ld { fM 1 2 3 0 with scope := 1 }) = false := by decide
theorem test_illFormed_fence_scope : fieldsOk .aHart (.fence (fR 0 0 0 0 0x14)) = false := by decide
theorem test_illFormed_amofadd_width : fieldsOk .aHart (.amofadd (fR 1 2 3 0 0x300)) = false := by decide
theorem test_illFormed_vector_modifier : fieldsOk .xHart (.vcmp { fV 1 2 3 0 with xm := true }) = false ∧
    fieldsOk .xHart (.vmerge { fV 1 2 3 0 with sat := true }) = false := by decide
theorem test_illFormed_vector_immediate : fieldsOk .xHart (.vcmp { fV 1 2 3 0 with vc := op 0 false 8 }) = false := by decide
theorem test_illFormed_row_reserved_bit : fieldsOk .bank (.radd { fW 1 2 3 with res := true }) = false := by decide
theorem test_illFormed_row_format : fieldsOk .bank (.radd (fW 1 2 3 0 12)) = false := by decide
theorem test_illFormed_row_immediate : fieldsOk .bank (.lutdot { fW 0 2 0 with imm6 := 2 }) = false := by decide
theorem test_illFormed_matrix_reserved : fieldsOk .xHart (.mzero { fX 0 0 0 0 with res := 1 }) = false ∧
    fieldsOk .xHart (.mmas { fX 0 1 2 3 with spn := 4 }) = false := by decide
theorem test_illFormed_engine_reserved : fieldsOk .aHart (.cpy { fE 1 2 3 with res := 1 }) = false ∧
    fieldsOk .aHart (.prefb { fE 1 2 3 with foll := true }) = false := by decide
theorem test_hartClass : hartExecutes .aHart (.ld (fM 1 2 3 0)) = true ∧ hartExecutes .xHart (.ld (fM 1 2 3 0)) = false ∧
    hartExecutes .bank (.act (fW 1 0 0)) = true ∧ hartExecutes .docent (.act (fW 1 0 0)) = false := by decide

/-! ## Checks that succeed, evaluated by the kernel -/

def okIs {ε α : Type} [DecidableEq α] (x : Except ε α) (a : α) : Bool :=
  match x with
  | .ok b => decide (b = a)
  | .error _ => false
theorem okIs_eq {ε α : Type} [DecidableEq α] {x : Except ε α} {a : α} (h : okIs x a = true) : x = .ok a := by
  cases x with
  | error e => simp [okIs] at h
  | ok b => simp only [okIs, decide_eq_true_eq] at h; rw [h]
theorem errIs_eq {ε α : Type} [DecidableEq ε] {x : Except ε α} {e : ε}
    (h : (match x with | .ok _ => false | .error y => decide (y = e)) = true) : x = .error e := by
  cases x with
  | ok a => cases h
  | error y => simp only [decide_eq_true_eq] at h; rw [h]
/-- A translation that a held entry gives. -/
def hit (pa : Nat) : Resolved := { place := .phys pa }


/-! ## Scalar instructions: results, and the hypotheses of their statements -/

/-- x[D] of the issuer after an instruction. -/
def after (i : Instr) (s : State) (n : Nat) : Option Word :=
  match exec i s with
  | .next t => some ((hartOf t (leadHart s)).get n)
  | _ => none

/-- The cause and TRAPINFO of a trap that an instruction takes. -/
def cause (i : Instr) (s : State) : Option (BitVec 8 × Word × Word) :=
  match exec i s with
  | .next t => some ((hartOf t (leadHart s)).code, (hartOf t (leadHart s)).trapinfo, (hartOf t (leadHart s)).pc)
  | _ => none

theorem witness_RegisterArithmeticResults : ∃ i f v s, result01 i = some (f, v) ∧ admitted i s = true :=
  ⟨.add (fR 3 1 2 0), _, _, onGang [(1, 5), (2, 7)], rfl, by decide⟩
theorem test_add_wraps : after (.add (fR 3 1 2 0)) (onA [(1, 0xFFFF_FFFF_FFFF_FFFF), (2, 2)]) 3 = some 1 := by decide
theorem test_add_to_x0_is_discarded : after (.add (fR 0 1 2 0)) (onA [(1, 5), (2, 2)]) 0 = some 0 := by decide
theorem test_sra_of_a_negative : after (.sra (fR 3 1 2 0)) (onA [(1, 0x8000_0000_0000_0000), (2, 64 + 4)]) 3 = some 0xF800_0000_0000_0000 := by
  decide
theorem test_bfi_length_is_cut : after (.bfi (fR 3 1 2 4)) (onX [(1, 0xFF), (2, 4 * 256 + 62), (4, 1)]) 3 = some 0xC000_0000_0000_0001 := by
  decide

theorem witness_ImmediateArithmeticResults : ∃ i f v s, result02 i = some (f, v) ∧ admitted i s = true :=
  ⟨.addi (fI 3 1 5), _, _, onDocent [(1, 5)], rfl, by decide⟩
theorem witness_ImmediateArithmetic_li : ∃ f s, admitted (.li f) s = true := ⟨fI 3 0 5, onBank [], by decide⟩
theorem witness_ImmediateArithmetic_range : ∃ i f s, shiftTable i = some f ∧ 64 ≤ f.imm.toNat ∧ admitted i s = true ∧ cancelled s = false ∧
    inGroup s = false := ⟨.shli (fI 3 1 64), _, onA [], rfl, by decide +kernel⟩
theorem witness_ImmediateArithmetic_gangRange : ∃ i f s, shiftTable i = some f ∧ 64 ≤ f.imm.toNat ∧ admitted i s = true ∧ cancelled s = false ∧
    inGroup s = true := ⟨.srai (fI 3 1 0x3FFFFFFF), _, onGang [], rfl, by decide +kernel⟩
theorem test_shift_by_64_is_out_of_range : cause (.shri (fI 3 1 64)) (onA []) = some (0x02, instrWord (.shri (fI 3 1 64)), 0x400) := by decide
theorem test_li_sign_extends : after (.li (fI 3 0 0x20000000)) (onA []) 3 = some 0xFFFF_FFFF_E000_0000 := by decide
theorem test_lih_shifts_30 : after (.lih (fI 3 3 0x3FFFFFFF)) (onA [(3, 1)]) 3 = some 0x7FFFFFFF := by decide

theorem witness_MultiplyDivideResults : ∃ i f v s, result03 i = some (f, v) ∧ admitted i s = true :=
  ⟨.div (fR 3 1 2 0), _, _, onBank [(1, 5)], rfl, by decide⟩
theorem test_div_by_zero : after (.div (fR 3 1 2 0)) (onA [(1, 5)]) 3 = some 0xFFFF_FFFF_FFFF_FFFF := by decide
theorem test_rem_of_the_least : after (.rem (fR 3 1 2 0)) (onA [(1, 0x8000_0000_0000_0000), (2, 0xFFFF_FFFF_FFFF_FFFF)]) 3 = some 0 := by decide

theorem witness_BranchesGoWhereTheyShould : ∃ i f c s, branchTable i = some (f, c) ∧ admitted i s = true ∧
    c (xRead s f.a) (xRead s f.b) (hartOf s (leadHart s)).flags = true :=
  ⟨.beq (fB 1 2 0x3FFFFFFF), _, _, onA [], rfl, by decide, by decide⟩
theorem test_branch_backwards : (match exec (.beq (fB 1 2 0x3FFFFFFF)) { onA [] with harts := [(0, { hart [] with pc := 0x100 })] } with
    | .next t => (hartOf t 0).pc | _ => 0) = 0xFC := by decide

theorem witness_JumpsAndCallsReachTheirTargets : ∃ i s j, jumpTable' i s = some j ∧ admitted i s = true ∧ (j.fromReg = true → j.target.toNat % 4 = 0) :=
  ⟨.callr (fJ 3 1 2), onGang [(1, 0x100)], _, rfl, by decide, by decide⟩
theorem test_call_links : after (.call (fJ 3 0 4)) { onA [] with harts := [(0, { hart [] with pc := 0x100 })] } 3 = some 0x108 := by decide

/-- The A-hart's overlay with one landed block of a jump table of length 2 at offset 0: DEFAULT 3, entries 5 and 7. -/
def withTable (s : State) : State := { s with pavilions := [(0, { overlay := [(0, { st := .landed, bytes := 2 + 3 * 2 ^ 32 + 5 * 2 ^ 64 + 7 * 2 ^ 96 })] })] }

theorem witness_TableAndFencedJumps_entry : ∃ f s hdr d, admitted (.jtab f) s = true ∧
    readCode s (curOverlay s) (parcelsFrom (curPc s) f.off).toNat 8 = some hdr ∧
    (if (xRead s f.a).toNat < hdr % 2 ^ 32 then
      readCode s (curOverlay s) (((parcelsFrom (curPc s) f.off).toNat + 8 + 4 * (xRead s f.a).toNat) % 2 ^ 64) 4 = some d
     else hdr / 2 ^ 32 = d) :=
  ⟨fJ 0 1 0, withTable (onA [(1, 1)]), 2 + 3 * 2 ^ 32, 7, by decide +kernel⟩
theorem witness_TableAndFencedJumps_default : ∃ f s hdr d, admitted (.jtab f) s = true ∧
    readCode s (curOverlay s) (parcelsFrom (curPc s) f.off).toNat 8 = some hdr ∧
    (if (xRead s f.a).toNat < hdr % 2 ^ 32 then
      readCode s (curOverlay s) (((parcelsFrom (curPc s) f.off).toNat + 8 + 4 * (xRead s f.a).toNat) % 2 ^ 64) 4 = some d
     else hdr / 2 ^ 32 = d) :=
  ⟨fJ 0 1 0, withTable (onA [(1, 2)]), 2 + 3 * 2 ^ 32, 3, by decide +kernel⟩
theorem witness_TableAndFencedJumps_fenced : ∃ i s j, fencedTable i s = some j ∧ admitted i s = true ∧ j.target.toNat % 4 = 0 ∧
    fetchPending s = false ∧ landed s (curOverlay s) j.target.toNat 4 = true :=
  ⟨.fcall (fJ 3 1 0), withTable (onX [(1, 124)]), _, rfl, by decide +kernel⟩

theorem witness_MisalignedTargets : ∃ i s j, (jumpTable' i s = some j ∨ fencedTable i s = some j) ∧ j.fromReg = true ∧ admitted i s = true ∧
    j.target.toNat % 4 ≠ 0 ∧ cancelled s = false :=
  ⟨.callr (fJ 3 1 0), onA [(1, 0x102)], _, .inl rfl, by decide +kernel⟩
theorem test_callr_misaligned : cause (.callr (fJ 3 1 0)) (onA [(1, 0x102)]) = some (0x05, 0x102, 0x400) := by decide

/-- A loop entry whose body is `[start, fin + 8)`. -/
def entry (remain start fin : Word) : LoopEntry := { index := 5, remain := remain, start := start, fin := fin }
def inLoops (s : State) (l : List LoopEntry) : State := modHart s (leadHart s) fun h => { h with loops := l }

theorem witness_LoopInstructionsPushOrSkip : ∃ i s e n, loopTable i s = some (e, n) ∧ admitted i s = true ∧
    (∀ top ∈ (ctl s).loops.head?, top.fin ≠ curPc s) ∧ (n ≠ 0 → (ctl s).loops.length < 6) :=
  ⟨.loopi { end24 := 2, imm16 := 3, a := r 0 }, inLoops (onA []) (List.replicate 5 (entry 1 0 8)), _, _, rfl, by decide, by decide, by decide⟩
theorem test_loop_of_zero_skips : (match exec (.loop { end24 := 4, imm16 := 0, a := r 1 }) (onA []) with
    | .next t => some ((hartOf t 0).pc, (hartOf t 0).loops) | _ => none) = some (24, []) := by decide

theorem witness_LoopStackFaults_full : ∃ i s e n, loopTable i s = some (e, n) ∧ admitted i s = true ∧ cancelled s = false ∧
    ((∃ top ∈ (ctl s).loops.head?, top.fin = curPc s) ∨ (n ≠ 0 ∧ (ctl s).loops.length = 6)) :=
  ⟨.loopi { end24 := 2, imm16 := 3, a := r 0 }, inLoops (onA []) (List.replicate 6 (entry 1 0 8)), _, _, rfl, by decide, by decide,
    .inr ⟨by decide, by decide⟩⟩
theorem witness_LoopStackFaults_atEnd : ∃ i s e n, loopTable i s = some (e, n) ∧ admitted i s = true ∧ cancelled s = false ∧
    ((∃ top ∈ (ctl s).loops.head?, top.fin = curPc s) ∨ (n ≠ 0 ∧ (ctl s).loops.length = 6)) :=
  ⟨.loopi { end24 := 2, imm16 := 3, a := r 0 }, inLoops (onA []) [entry 1 0 0], _, _, rfl, by decide, by decide,
    .inl ⟨entry 1 0 0, by decide, by decide⟩⟩
theorem witness_LoopStackFaults_break : ∃ f s, admitted (.lbrk f) s = true ∧ cancelled s = false ∧ (ctl s).loops = [] :=
  ⟨fR 0 1 0 0, onA [], by decide, by decide, by decide⟩
theorem witness_LoopStackFaults_index : ∃ f s, admitted (.lidx f) s = true ∧ cancelled s = false ∧ (ctl s).loops.length ≤ f.imm.toNat ∧
    f.imm.toNat < 6 := ⟨fI 1 0 1, inLoops (onA []) [entry 1 0 8], by decide +kernel⟩
theorem witness_LoopStackFaults_depth : ∃ f s, admitted (.lidx f) s = true ∧ cancelled s = false ∧ 6 ≤ f.imm.toNat :=
  ⟨fI 1 0 6, inLoops (onA []) [entry 1 0 8], by decide, by decide, by decide⟩

theorem witness_LoopBreakAndIndex_break : ∃ f s top rest, admitted (.lbrk f) s = true ∧ (ctl s).loops = top :: rest :=
  ⟨fR 0 1 0 0 1, inLoops (onA []) [entry 3 0 8, entry 2 0 8], _, _, by decide, rfl⟩
theorem witness_LoopBreakAndIndex_index : ∃ f s e, admitted (.lidx f) s = true ∧ (ctl s).loops[f.imm.toNat]? = some e ∧
    f.imm.toNat < 6 := ⟨fI 1 0 5, inLoops (onX []) (List.replicate 6 (entry 1 0 8)), _, by decide, rfl, by decide⟩

theorem witness_EndStep : ∃ f s, admitted (.nop f) s = true ∧ (ctl s).loops.head?.map (·.fin) = some (curPc s) :=
  ⟨fR 0 0 0 0, inLoops (onA []) [entry 1 0 0, entry 2 8 0], by decide, by decide⟩
theorem test_end_step_of_two_bodies : (match exec (.nop (fR 0 0 0 0)) (inLoops (onA []) [entry 1 0 0, entry 2 16 0]) with
    | .next t => some ((hartOf t 0).pc, (hartOf t 0).loops) | _ => none) = some (16, [{ entry 1 16 0 with index := 6 }]) := by decide

/-! ## The two harts of a core -/

def both (f : State → State) (a x : HartRun) (cur : Agent) : State :=
  f { onX [] with cur := cur, harts := [(0, { hart [] with run := a }), (1, { hart [(1, 0x200), (2, 9)] with run := x })] }

theorem witness_ForkStartsTheAHart : ∃ f s k, s.cur = .hart (xHartId k) ∧ admitted (.fork f) s = true ∧ (hartOf s (aHartId k)).run = .idle ∧
    (xRead s f.a).toNat % 4 = 0 ∧ landedAll s (xHartId k) = true ∧ ∀ i ∈ (coreOf s k).step, scopeSound s i.context i.scope = true :=
  ⟨fR 0 1 0 0, both (fun s => { s with cores := [(0, { step := some { launch := 0x3000, step := 0, prio := 0, context := 1, scope := 0x1000 } })] })
    .idle .running (.hart 1), 0, by decide +kernel⟩
theorem witness_JoinMeets_idle : ∃ f s k, s.cur = .hart (xHartId k) ∧ admitted (.join f) s = true ∧ (hartOf s (aHartId k)).run = .idle ∧
    cancelled s = false ∧ landedAll s (xHartId k) = true := ⟨fR 0 0 0 0, both id .idle .running (.hart 1), 0, by decide⟩
theorem witness_JoinMeets_waits : ∃ f s, admitted (.join f) s = true ∧ cancelled s = false ∧ landedAll s (leadHart s) = true ∧
    ∀ k, s.cur = .hart (xHartId k) → (hartOf s (aHartId k)).run ≠ .idle :=
  ⟨fR 0 0 0 0, both id .running .running (.hart 1), by decide, by decide, by decide, by
    intro k h
    have : k = 0 := by
      have : (1 : Nat) = xHartId k := by simpa [both, onX, base] using h
      unfold xHartId at this; omega
    subst this; decide⟩
theorem witness_JoinMeets_rendezvous : ∃ s k, k < 128 ∧ (hartOf s (xHartId k)).run = .atJoin ∧
    ((hartOf s (aHartId k)).run = .atJoin ∨ (hartOf s (aHartId k)).run = .idle) :=
  ⟨both id .atJoin .atJoin (.hart 1), 0, by decide, by decide, by decide⟩
theorem witness_JoinMeets_notYet : ∃ s k, k < 128 ∧
    ¬((hartOf s (xHartId k)).run = .atJoin ∧ ((hartOf s (aHartId k)).run = .atJoin ∨ (hartOf s (aHartId k)).run = .idle)) :=
  ⟨both id .running .atJoin (.hart 1), 0, by decide, by decide⟩

def withCore (s : State) (c : Core) : State := { s with cores := [(0, c)] }

theorem witness_DataQueues_push : ∃ f s id, s.cur = .hart id ∧ admitted (.qpush f) s = true ∧ sends id f.d.num.toNat = true ∧
    orderedAll s id = true ∧ ((coreOf s (id / 2)).dq f.d.num.toNat).length < 16 :=
  ⟨fR 0 1 0 0, withCore (onA [(1, 7)]) { dq0 := List.replicate 15 1 }, 0, by decide +kernel⟩
theorem witness_DataQueues_pop : ∃ f s id v q, s.cur = .hart id ∧ admitted (.qpop f) s = true ∧ sends id f.a.num.toNat = false ∧
    (coreOf s (id / 2)).dq f.a.num.toNat = v :: q :=
  ⟨fR 3 0 0 0, withCore (onX []) { dq0 := [1, 2] }, 1, _, _, by decide, by decide, by decide, rfl⟩
theorem witness_DataQueues_wrongPush : ∃ f s id, s.cur = .hart id ∧ admitted (.qpush f) s = true ∧ cancelled s = false ∧
    sends id f.d.num.toNat = false := ⟨fR 0 1 0 0, onX [], 1, by decide +kernel⟩
theorem witness_DataQueues_wrongPop : ∃ f s id, s.cur = .hart id ∧ admitted (.qpop f) s = true ∧ cancelled s = false ∧
    sends id f.a.num.toNat = true := ⟨fR 3 0 0 0, onA [], 0, by decide +kernel⟩
theorem test_pop_takes_the_oldest : after (.qpop (fR 3 0 0 0)) (withCore (onX []) { dq0 := [11, 22] }) 3 = some 11 := by decide

theorem witness_BranchOutcomes_push : ∃ f s id, s.cur = .hart id ∧ admitted (.bqpush f) s = true ∧
    (coreOf s (id / 2)).bqProducer ≠ some (decide (id % 2 = 0)) ∧ orderedAll s id = true ∧ (coreOf s (id / 2)).bq.length < 32 :=
  ⟨fR 0 1 0 0, withCore (onX [(1, 7)]) { bq := List.replicate 31 true, bqProducer := some true }, 1, by decide +kernel⟩
theorem witness_BranchOutcomes_take : ∃ f s id b q, s.cur = .hart id ∧ admitted (.bqbr f) s = true ∧
    (coreOf s (id / 2)).bqProducer ≠ some (decide (id % 2 = 1)) ∧ (coreOf s (id / 2)).bq = b :: q :=
  ⟨fR 0 0 0 0 0x3FF, withCore (onA []) { bq := [true, false], bqProducer := some true }, 0, _, _, by decide, by decide, by decide, rfl⟩
theorem witness_BranchOutcomes_wrong : ∃ f s id, s.cur = .hart id ∧ cancelled s = false ∧ admitted (.bqpush f) s = true ∧
    (coreOf s (id / 2)).bqProducer = some (decide (id % 2 = 0)) :=
  ⟨fR 0 1 0 0, withCore (onX []) { bqProducer := some false }, 1, by decide +kernel⟩
theorem witness_BranchOutcomes_wrongTake : ∃ f s id, s.cur = .hart id ∧ cancelled s = false ∧ admitted (.bqbr f) s = true ∧
    (coreOf s (id / 2)).bqProducer = some (decide (id % 2 = 1)) :=
  ⟨fR 0 0 0 0, withCore (onX []) { bqProducer := some true }, 1, by decide +kernel⟩

theorem witness_Monitors_arm : ∃ f s id line, s.cur = .hart id ∧ admitted (.monitor f) s = true ∧
    monitorLine s (hartCtx s id) (xRead s f.a) = .ok line := ⟨fR 0 1 0 0, onA [(1, 0x1083)], 0, 0x1080, by decide, by decide, rfl⟩
theorem witness_Monitors_wait : ∃ f s id code, s.cur = .hart id ∧ admitted (.mwait f) s = true ∧ cancelled s = false ∧
    waitEnds (hartOf s id) (clockOfHart s id).ltime (xRead s f.a) = some code :=
  ⟨fR 3 1 0 0, modHart (onA [(1, 0)]) 0 fun h => { h with monitor := some { line := 0x1080, triggered := true } }, 0, 0, by decide, by decide,
    by decide⟩


/-! ## Memory -/

/-- A second page: 64 KiB at 0x1000_0000 over device registers, and one over peer 1. -/
def withPages (s : State) : State :=
  { s with tlb := { context := 1, page := 0x1000, entry := 0xF00000000 * 2 ^ 16 + 0x7F, large := false } ::
    { context := 1, page := 0x1001, entry := 0x9000000000 * 2 ^ 16 + 0x7F, large := false } :: s.tlb }

theorem witness_LoadsReadMemory : ∃ i f s p l, loadTable i = some f ∧ admitted i s = true ∧
    acknowledgedOn s (leadHart s) (· == f.strm.toNat) = true ∧
    resolve s (hartCtx s (leadHart s)) (loadReq (widthOf f.wid)) (effective s f) = .ok (p, l) ∧
    plainPlace (commitAll s l) p (widthOf f.wid) = true :=
  ⟨.ld (fM 3 1 3 0xFFFF8), _, onA [(1, 0x1FFFF8 + 8)], .phys 0x1FFFF8, _, rfl, by decide, by decide, rfl, by decide +kernel⟩
theorem witness_LoadsReadMemory_store : ∃ i f s p l, loadTable i = some f ∧ admitted i s = true ∧
    acknowledgedOn s (leadHart s) (· == f.strm.toNat) = true ∧
    resolve s (hartCtx s (leadHart s)) (loadReq (widthOf f.wid)) (effective s f) = .ok (p, l) ∧
    plainPlace (commitAll s l) p (widthOf f.wid) = true :=
  ⟨.ldacq (fM 3 1 3 0), _, onA [(1, 2 ^ 54 + 0x7FFFF8)], .store 0 0x7FFFF8, [], rfl, by decide, by decide,
    okIs_eq (by decide +kernel), by decide +kernel⟩
theorem test_ld_sign_extends : after (.ld (fM 3 1 5 0)) { onA [(1, 0x1000)] with mem := [(0x1000, 0x34), (0x1001, 0x92)] } 3 =
    some 0xFFFF_FFFF_FFFF_9234 := by decide
theorem test_ld_misaligned : cause (.ld (fM 3 1 3 4)) (onA [(1, 0x1000)]) = some (0x05, 0x1004, 0x400) := by decide

theorem witness_LoadsElsewhere_device : ∃ i f s p l v u, loadTable i = some f ∧ admitted i s = true ∧
    acknowledgedOn s (leadHart s) (· == f.strm.toNat) = true ∧
    resolve s (hartCtx s (leadHart s)) (loadReq (widthOf f.wid)) (effective s f) = .ok (p, l) ∧
    beforePeer s (leadHart s) f.strm.toNat p (widthOf f.wid) false = .ok () ∧
    readValue s l (leadHart s) f.strm.toNat 0 (effective s f) p (widthOf f.wid) = .ok (v, u) :=
  ⟨.ld (fM 3 1 3 0), _, modHart (withPages (onA [(1, 0x10000000)])) 0 fun h => { h with priv := true }, _, _, _, _, rfl, by decide, by decide,
    rfl, rfl, rfl⟩
theorem witness_LoadsElsewhere_peer : ∃ i f s p l v u, loadTable i = some f ∧ admitted i s = true ∧
    acknowledgedOn s (leadHart s) (· == f.strm.toNat) = true ∧
    resolve s (hartCtx s (leadHart s)) (loadReq (widthOf f.wid)) (effective s f) = .ok (p, l) ∧
    beforePeer s (leadHart s) f.strm.toNat p (widthOf f.wid) false = .ok () ∧
    readValue s l (leadHart s) f.strm.toNat 0 (effective s f) p (widthOf f.wid) = .ok (v, u) :=
  ⟨.ld (fM 3 1 3 0), _, modHart (withPages (onA [(1, 0x10010000)])) 0 fun h => { h with replies := [.value 9 false] }, _, _, _, _, rfl,
    by decide, by decide, rfl, rfl, rfl⟩
theorem witness_StoresElsewhere_device : ∃ i f release s l off, storeTable i = some (f, release) ∧ admitted i s = true ∧
    mayAccess s (leadHart s) release f.strm.toNat = true ∧
    resolve s (hartCtx s (leadHart s)) (storeReq (widthOf f.wid)) (effective s f) = .ok (.dev off, l) ∧
    beforePeer s (leadHart s) f.strm.toNat (.dev off) (widthOf f.wid) true = .ok () :=
  ⟨.st (fM 3 1 3 8), _, _, modHart (withPages (onA [(1, 0x10000000)])) 0 fun h => { h with priv := true }, _, 8, rfl, by decide, by decide, rfl,
    rfl⟩
theorem witness_StoresElsewhere_peer : ∃ i f release s l k a, storeTable i = some (f, release) ∧ admitted i s = true ∧
    mayAccess s (leadHart s) release f.strm.toNat = true ∧
    resolve s (hartCtx s (leadHart s)) (storeReq (widthOf f.wid)) (effective s f) = .ok (.peer k a, l) ∧
    beforePeer s (leadHart s) f.strm.toNat (.peer k a) (widthOf f.wid) true = .ok () :=
  ⟨.strel (fM 3 1 3 8), _, _, withPages (onA [(1, 0x10010000)]), _, _, _, rfl, by decide, by decide, rfl, rfl⟩
theorem witness_AtomicsElsewhere_reduction : ∃ i f op s k a l, atomTable i = some (f, op) ∧ admitted i s = true ∧
    mayAccess s (leadHart s) (atomRelease f) (atomStream f) = true ∧
    resolve s (hartCtx s (leadHart s)) (atomicReq (atomWidth f)) (xRead s f.a) = .ok (.peer k a, l) ∧
    (∀ g, i = .amofadd g → atomWidth f = 4) ∧ beforePeer s (leadHart s) (atomStream f) (.peer k a) (atomWidth f) true = .ok () ∧
    (((∃ g, i = .amoadd g) ∨ ∃ g, i = .amofadd g) ∧ f.d.num = 0 ∧ f.mod.extractLsb' 6 2 = 0) ∧ portDown s k = false :=
  ⟨.amoadd (fR 0 1 2 0 0x300), _, _, withPages (onA [(1, 0x10010000)]), _, _, _, rfl, by decide, by decide, rfl, (by intro g h; cases h), rfl,
    ⟨.inl ⟨_, rfl⟩, by decide, by decide⟩, rfl⟩
theorem witness_AtomicsElsewhere_answered : ∃ i f op s k a l v, atomTable i = some (f, op) ∧ admitted i s = true ∧
    mayAccess s (leadHart s) (atomRelease f) (atomStream f) = true ∧
    resolve s (hartCtx s (leadHart s)) (atomicReq (atomWidth f)) (xRead s f.a) = .ok (.peer k a, l) ∧
    (∀ g, i = .amofadd g → atomWidth f = 4) ∧ beforePeer s (leadHart s) (atomStream f) (.peer k a) (atomWidth f) true = .ok () ∧
    (hartOf s (leadHart s)).replies = [.value v false] ∧
    ¬(((∃ g, i = .amoadd g) ∨ ∃ g, i = .amofadd g) ∧ f.d.num = 0 ∧ f.mod.extractLsb' 6 2 = 0) :=
  ⟨.amoswp (fR 3 1 2 0 0x300), _, _, modHart (withPages (onA [(1, 0x10010000)])) 0 fun h => { h with replies := [.value 9 false] }, _, _, _, _, rfl,
    by decide, by decide, rfl, (by intro g h; cases h), rfl, rfl, fun h => absurd h.2.1 (by decide)⟩

theorem witness_StoresWriteOnlyTheirBytes : ∃ i f release s pa l, storeTable i = some (f, release) ∧ admitted i s = true ∧
    mayAccess s (leadHart s) release f.strm.toNat = true ∧
    resolve s (hartCtx s (leadHart s)) (storeReq (widthOf f.wid)) (effective s f) = .ok (.phys pa, l) ∧
    recordsHit (commitAll s l) pa (widthOf f.wid) = [] ∧
    ∀ u ∈ savedFrames (commitAll s l), overlaps pa (widthOf f.wid) u.1 u.2.2 = false :=
  ⟨.strel (fM 3 1 0 0x1F), _, _, onA [(1, 0x1FFFE0)], 0x1FFFFF, _, rfl, by decide, by decide, rfl, by decide +kernel, by decide +kernel⟩
theorem witness_StoresWriteOnlyTheirBytes_store : ∃ i f release s v o l, storeTable i = some (f, release) ∧ admitted i s = true ∧
    mayAccess s (leadHart s) release f.strm.toNat = true ∧
    resolve s (hartCtx s (leadHart s)) (storeReq (widthOf f.wid)) (effective s f) = .ok (.store v o, l) :=
  ⟨.st (fM 3 1 3 0), _, _, onX [(1, 2 ^ 54)] |> fun s => { s with cur := .hart 0, harts := [(0, hart [(1, 2 ^ 54 + 8)])] }, 0, 8, [], rfl,
    by decide, by decide, okIs_eq (by decide +kernel)⟩
theorem witness_StoresWriteOnlyTheirBytes_striped : ∃ i f release s v o l, storeTable i = some (f, release) ∧ admitted i s = true ∧
    mayAccess s (leadHart s) release f.strm.toNat = true ∧
    resolve s (hartCtx s (leadHart s)) (storeReq (widthOf f.wid)) (effective s f) = .ok (.striped v o, l) :=
  ⟨.st (fM 3 1 3 0), _, _, onA [(1, 0x44000003FFFFF8)], 0, 0x3FFFFF8, _, rfl, by decide, by decide, rfl⟩
theorem test_st_writes_its_width : (match exec (.st (fM 3 1 1 0)) { onA [(1, 0x1000), (3, 0xABCD)] with mem := [(0x1002, 7)] } with
    | .next t => t.mem | _ => []) = [(0x1000, 0xCD), (0x1001, 0xAB), (0x1002, 7)] := by decide

theorem witness_AtomicsReadAndWriteAtOnce : ∃ i f op s p l, atomTable i = some (f, op) ∧ admitted i s = true ∧
    (∀ g, i = .amofadd g → atomWidth f = 4) ∧ mayAccess s (leadHart s) (atomRelease f) (atomStream f) = true ∧
    resolve s (hartCtx s (leadHart s)) (atomicReq (atomWidth f)) (xRead s f.a) = .ok (p, l) ∧
    plainPlace (commitAll s l) p (atomWidth f) = true :=
  ⟨.amofadd (fR 3 1 2 0 0x200), _, _, onDocent [(1, 0x1004)], .phys 0x1004, _, rfl, by decide, by intros; decide, by decide, rfl, by decide⟩
theorem test_amoadd_wraps_at_its_width : (match exec (.amoadd (fR 3 1 2 0 0x000)) { onA [(1, 0x1000), (2, 0x102)] with mem := [(0x1000, 0xFF)] } with
    | .next t => ((hartOf t 0).get 3, t.mem) | _ => (0, [])) = (0xFF, [(0x1000, 1)]) := by decide
theorem test_amoinc_to_the_bound : (match exec (.amoinc (fR 3 1 2 0 0x300)) { onA [(1, 0x1000), (2, 5)] with mem := [(0x1000, 5)] } with
    | .next t => ((hartOf t 0).get 3, t.mem) | _ => (0, [])) = (5, []) := by decide

theorem witness_FencesAndBarriersEnd : ∃ f s, admitted (.fence f) s = true ∧ landedAll s (leadHart s) = true ∧
    (f.mod.getLsbD 1 = true → orderedAll s (leadHart s) = true) ∧
    (f.mod.toNat % 4 = 3 → commandsOf s (leadHart s) = [] ∧
      (kindOfId (leadHart s) = some .aHart → (coreOf s (leadHart s / 2)).follow = [])) ∧
    (f.mod.toNat / 4 % 8 = 4 → (hartOf s (leadHart s)).refused = 0 ∧ outstanding s (leadHart s) (fun _ => true) = false) :=
  ⟨fR 0 0 0 0 0x13, onA [], by decide +kernel⟩
theorem witness_FencesAndBarriersEnd_sbar : ∃ f s, admitted (.sbar f) s = true ∧
    acknowledgedOn s (leadHart s) (fun n => f.imm.getLsbD n) = true := ⟨fI 0 0 0xFFFF, onDocent [], by decide, by decide⟩

theorem witness_WaitvEnds : ∃ f s p l, admitted (.waitv f) s = true ∧ cancelled s = false ∧
    acknowledgedOn s (leadHart s) (· == atomStream f) = true ∧
    resolve s (hartCtx s (leadHart s)) (loadReq (atomWidth f)) (xRead s f.a) = .ok (p, l) ∧
    plainPlace (commitAll s l) p (atomWidth f) = true ∧
    waitCond (f.c.bits.toNat % 4) (leNat (readPlace (commitAll s l) p (atomWidth f))) ((xRead s f.b).toNat % 2 ^ (8 * atomWidth f)) = true :=
  ⟨fR 3 1 2 2 0x300, onA [(1, 0x1000)], .phys 0x1000, _, by decide, by decide, by decide, rfl, by decide, by decide⟩
/-- The A-hart parked at a WAITV for a nonzero word, which is in its overlay. -/
def parkedAt (s : State) (w : Nat) : State :=
  modHart { s with pavilions := [(0, { overlay := [(0, { st := .landed, bytes := BitVec.ofNat 1024 w })] })] } 0 fun h => { h with parked := true }
theorem witness_WaitvEnds_parked : ∃ f s p l id k, admitted (.waitv f) s = true ∧ cancelled s = false ∧
    acknowledgedOn s (leadHart s) (· == atomStream f) = true ∧
    resolve s (hartCtx s (leadHart s)) (loadReq (atomWidth f)) (xRead s f.a) = .ok (p, l) ∧
    plainPlace (commitAll s l) p (atomWidth f) = true ∧
    waitCond (f.c.bits.toNat % 4) (leNat (readPlace (commitAll s l) p (atomWidth f))) ((xRead s f.b).toNat % 2 ^ (8 * atomWidth f)) = true ∧
    s.cur = .hart id ∧ kindOfId id = some k ∧ (hartOf s id).run = .running ∧ (hartOf s id).parked = true ∧ fetched s = .instr (.waitv f) :=
  ⟨fR 3 1 2 1 0x300, parkedAt { onA [(1, 0x1000)] with mem := [(0x1000, 9)] } (wordR 0x32 2 0x300 1 2 1 3), .phys 0x1000, _, 0, .aHart, by decide,
    by decide, by decide, rfl, by decide +kernel⟩
theorem witness_WaitvStays : ∃ f s p l, admitted (.waitv f) s = true ∧ cancelled s = false ∧
    acknowledgedOn s (leadHart s) (· == atomStream f) = true ∧
    resolve s (hartCtx s (leadHart s)) (loadReq (atomWidth f)) (xRead s f.a) = .ok (p, l) ∧
    plainPlace (commitAll s l) p (atomWidth f) = true ∧
    waitCond (f.c.bits.toNat % 4) (leNat (readPlace (commitAll s l) p (atomWidth f))) ((xRead s f.b).toNat % 2 ^ (8 * atomWidth f)) = false :=
  ⟨fR 3 1 2 3 0x300, onA [(1, 0x1000)], .phys 0x1000, _, by decide, by decide, by decide, rfl, by decide, by decide⟩

/-! ## Traps and control registers -/

theorem witness_TakingATrap : ∃ s id k, inGroup s = false ∧ leadHart s = id ∧ kindOfId id = some k ∧ k ≠ .docent ∧ canTrap (hartOf s id) = true :=
  ⟨onBank [], bankId 0 3, .bank, by decide +kernel⟩
theorem witness_GangTraps : ∃ s g, s.cur = .pergola g ∧ canTrap (hartOf s (leadHart s)) = true := ⟨onGang [], 0, by decide, by decide⟩
theorem witness_TrapsWithNoHandler : ∃ s id k, inGroup s = false ∧ leadHart s = id ∧ kindOfId id = some k ∧ k ≠ .docent ∧
    canTrap (hartOf s id) = false ∧ (haltOf s (hartOf s id).context).st = .running ∧ id < 256 ∧ (coreOf s (id / 2)).fault = none :=
  ⟨modHart (onX []) 1 fun h => { h with ih := true }, 1, .xHart, by decide +kernel⟩
theorem witness_TrapsWithNoHandler_docent : ∃ (s : State) (id : Nat), s.cur = .hart id ∧ kindOfId id = some .docent := ⟨onDocent [], 0x4000, by decide, by decide⟩

theorem witness_EncodingChecks_class : ∃ i s k, (encodeWord i).isSome = true ∧ isHeader i = false ∧ curKind s = some k ∧ cancelled s = false ∧
    strayFollow i = false ∧ loneCopy i s = false ∧ hartExecutes k i = false :=
  ⟨.vadd (fV 1 2 3 0), onA [], .aHart, by decide +kernel⟩
theorem witness_EncodingChecks_field : ∃ i s k, (encodeWord i).isSome = true ∧ isHeader i = false ∧ curKind s = some k ∧ cancelled s = false ∧
    strayFollow i = false ∧ loneCopy i s = false ∧ hartExecutes k i = true ∧ fieldsOk k i = false :=
  ⟨.vadd (fV 1 2 3 1), onX [], .xHart, by decide +kernel⟩
theorem witness_EncodingChecks_allot : ∃ i s k n, (encodeWord i).isSome = true ∧ isHeader i = false ∧ curKind s = some k ∧ cancelled s = false ∧
    strayFollow i = false ∧ loneCopy i s = false ∧ hartExecutes k i = true ∧ fieldsOk k i = true ∧ (k = .aHart ∨ k = .xHart) ∧
    allotFault (coreOf s (curCore s)).allot i = some n :=
  ⟨.vadd (fV 7 31 8 0), onX [], .xHart, 8, by decide +kernel⟩
theorem test_allot_names_the_lowest : cause (.vadd (fV 7 31 8 0)) (onX []) = some (0x03, 8, 0x400) := by decide

theorem witness_SoftwareTraps : ∃ f s id k, inGroup s = false ∧ leadHart s = id ∧ kindOfId id = some k ∧ k ≠ .docent ∧ cancelled s = false ∧
    canTrap (hartOf s id) = true ∧ admitted (.trap f) s = true := ⟨fR 0 1 0 0, onA [(1, 77)], 0, .aHart, by decide +kernel⟩
theorem witness_SoftwareTraps_brk : ∃ f s id k, inGroup s = false ∧ leadHart s = id ∧ kindOfId id = some k ∧ k ≠ .docent ∧ cancelled s = false ∧
    canTrap (hartOf s id) = true ∧ admitted (.brk f) s = true := ⟨fR 0 0 0 0, onBank [], bankId 0 3, .bank, by decide +kernel⟩
theorem test_trap_and_its_cause : cause (.trap (fR 0 1 0 0)) (onA [(1, 77)]) = some (0x18, 77, 0x400) := by decide

theorem witness_ReturnFromTrap : ∃ f s, admitted (.rft f) s = true ∧ (hartOf s (leadHart s)).ih = true ∧ (hartOf s (leadHart s)).replay = [] ∧
    writesPending s = false :=
  ⟨fR 0 0 0 0, modHart (onA []) 0 fun h => { h with ih := true, trappc := 0x40 }, by decide +kernel⟩
theorem witness_ReturnFromTrap_outside : ∃ f s, admitted (.rft f) s = true ∧ (hartOf s (leadHart s)).ih = false ∧ cancelled s = false :=
  ⟨fR 0 0 0 0, onA [], by decide, by decide, by decide⟩
theorem test_rft_returns : (match exec (.rft (fR 0 0 0 0)) (modHart (onA []) 0 fun h => { h with ih := true, trappc := 0x40 }) with
    | .next t => ((hartOf t 0).pc, (hartOf t 0).ih) | _ => (0, true)) = (0x40, false) := by decide

theorem witness_FetchFaults : ∃ s k, curKind s = some k ∧ cancelled s = false := ⟨onGang [], .bank, by decide, by decide⟩
theorem witness_ConvoyHeaders : ∃ f s, admitted (.convoyHeader f) s = true ∧ ∀ top ∈ (ctl s).loops.head?, top.fin ≠ curPc s :=
  ⟨⟨7, 7, 7, 7, 7, 7, 7, 7⟩, onX [], by decide, by decide⟩

theorem witness_ControlRegistersRead : ∃ f s, admitted (.csrr f) s = true ∧ csrKnown (issuerKind s) f.imm.toNat = true ∧
    (0x20 ≤ f.imm.toNat → (hartOf s (leadHart s)).priv = true) :=
  ⟨fI 3 0 0x25, modHart (onA []) 0 fun h => { h with priv := true }, by decide, by decide, by decide⟩
theorem witness_ControlRegistersRead_unknown : ∃ i f s, (i = Instr.csrr f ∨ i = .csrw f) ∧ admitted i s = true ∧ cancelled s = false ∧
    inGroup s = false ∧ csrKnown (issuerKind s) f.imm.toNat = false :=
  ⟨_, fI 3 0 0x26, onA [], .inl rfl, by decide +kernel⟩
theorem witness_ControlRegistersRead_barred : ∃ i f s, (i = Instr.csrr f ∨ i = .csrw f) ∧ admitted i s = true ∧ cancelled s = false ∧
    inGroup s = false ∧ csrKnown (issuerKind s) f.imm.toNat = true ∧
    ((0x20 ≤ f.imm.toNat ∧ (hartOf s (leadHart s)).priv = false) ∨ (i = .csrw f ∧ (f.imm.toNat ∈ [0, 1, 6, 7]))) :=
  ⟨_, fI 0 1 7, onX [], .inr rfl, by decide, by decide, by decide, by decide, .inr ⟨rfl, by decide⟩⟩
theorem witness_ControlRegistersWrite : ∃ f s, admitted (.csrw f) s = true ∧ csrKnown (issuerKind s) f.imm.toNat = true ∧
    csrReadOnly f.imm.toNat = false ∧ (0x20 ≤ f.imm.toNat → (hartOf s (leadHart s)).priv = true) ∧
    (f.imm.toNat = 5 → ∀ id ∈ performers s, typeOk true ((hartOf s id).opnd f.a) = true) ∧ (f.imm.toNat = 0x21 → tlbBusy s (xRead s f.a) = false) :=
  ⟨fI 0 1 5, onGang [(1, 4)], by decide +kernel⟩
theorem witness_ControlRegistersWrite_trapcause : ∃ f s, admitted (.csrw f) s = true ∧ csrKnown (issuerKind s) f.imm.toNat = true ∧
    csrReadOnly f.imm.toNat = false ∧ f.imm.toNat = 0x12 ∧ inGroup s = false ∧ (xRead s f.a).extractLsb' 17 7 = 0 :=
  ⟨fI 0 1 0x12, onX [(1, 0x10105)], by decide⟩
theorem witness_ControlRegistersWrite_flags : ∃ f s v, admitted (.csrw f) s = true ∧ csrKnown (issuerKind s) f.imm.toNat = true ∧
    csrReadOnly f.imm.toNat = false ∧ f.imm.toNat < 0x20 ∧ f.imm.toNat ≠ 5 ∧ (controlStored f.imm.toNat 0).isSome = true ∧
    (∀ id ∈ performers s, (hartOf s id).opnd f.a = v) ∧ performers s ≠ [] := ⟨fI 0 1 3, onGang [(1, 3)], 3, by decide⟩
theorem test_csrw_flags_11_is_00 : (match exec (.csrw (fI 0 1 3)) (onA [(1, 7)]) with | .next t => (hartOf t 0).flags | _ => 1) = 0 := by decide
theorem test_csrr_hartid : after (.csrr (fI 3 0 0)) (onBank []) 3 = some 0x8003 := by decide

theorem witness_CodeSegments_fetch : ∃ f s r m, admitted (.cfetch f) s = true ∧ acknowledgedOn s (leadHart s) (fun _ => true) = true ∧
    performers s ≠ [] ∧ (∀ id ∈ performers s, segmentOf f (hartOf s id) = r ∧ segmentMap s id r = .ok m ∧
      (hartOf s id).context = (hartOf s (leadHart s)).context) :=
  ⟨fR 0 1 2 0, onA [(1, 0x2000), (2, 0x100 + 0x80 * 2 ^ 32)], segmentOf (fR 0 1 2 0) (hart [(1, 0x2000), (2, 0x100 + 0x80 * 2 ^ 32)]), _,
    by decide, by decide, by decide, by intro id h; rcases List.mem_singleton.mp h; exact ⟨rfl, rfl, rfl⟩⟩
theorem witness_CodeSegments_state : ∃ f s, admitted (.cseg f) s = true ∧
    (∀ id ∈ performers s, ((hartOf s id).opnd f.a).toNat < 128 * overlayBlocks (curOverlay s)) :=
  ⟨fR 3 1 0 0, onGang [(1, 0xFFFF)], by decide, by decide⟩
theorem witness_CodeSegments_fence : ∃ f s, admitted (.ifence f) s = true ∧ fetchPending s = false :=
  ⟨fR 0 0 0 0, withTable (onA []), by decide, by decide⟩


/-! ## Leases, records and objects, ends of steps -/

/-- Memory with little-endian numbers: address, bytes, value. -/
def memOf (l : List (Nat × Nat × Nat)) : List Host.Cell := l.foldl (fun m p => Tbl.setSpan memDefault m p.1 (leBytes p.2.1 p.2.2)) []

/-- A live record of context 1 with SCOPEID 7 at 0x1000, the home scope of every hart here; a quiesced one at 0x1040. -/
def withScopes (s : State) : State :=
  let h := s.harts.map fun p => (p.1, { p.2 with home := 0x1000, spawn := 0x1000 })
  { s with mem := memOf [(0x1000, 64, 0x10000 + 7 * 2 ^ 32), (0x1040, 64, 2 + 0x10000 + 8 * 2 ^ 32 + 0x1000 * 2 ^ 64)], harts := h }

def asPriv (s : State) : State := modHart s (leadHart s) fun h => { h with priv := true }

theorem witness_Leases_grant : ∃ f s g d c, admitted (.setaside f) s = true ∧ (hartOf s (leadHart s)).priv = true ∧
    (xRead s f.a).toNat = g + (if (xRead s f.a).getLsbD 12 then 2 ^ 12 else 0) + c.toNat * 2 ^ 48 ∧ g < 1152 ∧ (xRead s f.b).toNat = d ∧
    d < 2 ^ 40 ∧ ctxNumber c = true ∧ rowCapable s g = true ∧ leased s g = false ∧ d ≠ 0 ∧
    (∀ e ∈ s.cores, e.2.engines = []) ∧ fetchesFrom s g = false :=
  ⟨fR 0 1 2 0, asPriv (onA [(1, 0x1_0000_0000_147F), (2, 0xFF_FFFF_FFFF)]), 0x47F, 0xFF_FFFF_FFFF, 1, by decide +kernel⟩
theorem witness_Leases_none : ∃ f s g d c, admitted (.setaside f) s = true ∧ (hartOf s (leadHart s)).priv = true ∧
    (xRead s f.a).toNat = g + (if (xRead s f.a).getLsbD 12 then 2 ^ 12 else 0) + c.toNat * 2 ^ 48 ∧ g < 1152 ∧ (xRead s f.b).toNat = d ∧
    d < 2 ^ 40 ∧ ctxNumber c = true ∧ rowCapable s g = true ∧ leased s g = false ∧ d = 0 :=
  ⟨fR 0 1 2 0, asPriv (onX [(1, 0x1_0000_0000_0005)]), 5, 0, 1, by decide +kernel⟩
def leasedState (x : Tbl Word) : State := { asPriv (onDocent x) with pergolas := [(5, { lessee := 1, remain := 9 })] }
theorem witness_Leases_renew : ∃ f s g d c, admitted (.setaside f) s = true ∧ (hartOf s (leadHart s)).priv = true ∧
    (xRead s f.a).toNat = g + (if (xRead s f.a).getLsbD 12 then 2 ^ 12 else 0) + c.toNat * 2 ^ 48 ∧ g < 1152 ∧ (xRead s f.b).toNat = d ∧
    d < 2 ^ 40 ∧ ctxNumber c = true ∧ rowCapable s g = true ∧ leased s g = true ∧ (perOf s g).lessee = c ∧ d ≠ 0 ∧
    (perOf s g).dual = (xRead s f.a).getLsbD 12 :=
  ⟨fR 0 1 2 0, leasedState [(1, 0x1_0000_0000_0005), (2, 1)], 5, 1, 1, by decide +kernel⟩
theorem witness_Leases_end : ∃ f s g d c, admitted (.setaside f) s = true ∧ (hartOf s (leadHart s)).priv = true ∧
    (xRead s f.a).toNat = g + (if (xRead s f.a).getLsbD 12 then 2 ^ 12 else 0) + c.toNat * 2 ^ 48 ∧ g < 1152 ∧ (xRead s f.b).toNat = d ∧
    d < 2 ^ 40 ∧ ctxNumber c = true ∧ rowCapable s g = true ∧ leased s g = true ∧ (perOf s g).lessee = c ∧ d = 0 :=
  ⟨fR 0 1 2 0, leasedState [(1, 0x1_0000_0000_0005)], 5, 0, 1, by decide +kernel⟩
theorem witness_Leases_watchdog : ∃ f s g, admitted (.rowwd f) s = true ∧ (xRead s f.a).toNat = g ∧ g < 1152 ∧ (xRead s f.b).toNat < 2 ^ 40 ∧
    ((hartOf s (leadHart s)).priv = true ∨ (leased s g = true ∧ (perOf s g).lessee = (hartOf s (leadHart s)).context)) :=
  ⟨fR 0 1 2 0, { onA [(1, 5), (2, 100)] with pergolas := [(5, { lessee := 1, remain := 9 })] }, 5, by decide +kernel, by decide +kernel, by decide +kernel, by decide +kernel,
    .inr ⟨by decide +kernel, by decide +kernel⟩⟩

theorem witness_Scopes_home : ∃ f s pa l, admitted (.scope f) s = true ∧ curKind s ≠ some .docent ∧ xRead s f.a = 0 ∧
    orderedAll s (leadHart s) = true ∧
    deviceAddr s (hartCtx s (leadHart s)) (hartOf s (leadHart s)).home.toNat false 64 = .ok (pa, l) ∧ recordLost s pa = false :=
  ⟨fR 3 0 0 0, withScopes (onA []), 0x1000, hit 0x1000, by decide +kernel, by decide +kernel, by decide +kernel, by decide +kernel,
    okIs_eq (by decide +kernel), by decide +kernel⟩
theorem witness_Scopes_open : ∃ f s pa ppa pr q l lp, admitted (.scope f) s = true ∧ curKind s ≠ some .docent ∧ xRead s f.a ≠ 0 ∧
    orderedAll s (leadHart s) = true ∧ deviceAddr s (hartCtx s (leadHart s)) (xRead s f.a).toNat true 64 = .ok (pa, l) ∧ firstPoison s pa 64 = none ∧
    (recordAt s pa = 0 ∨ recState (recordAt s pa) = 2) ∧
    deviceRead s (hartCtx s (leadHart s)) (hartOf s (leadHart s)).spawn.toNat 64 64 = .ok (ppa, pr) ∧ recDepth pr < 15 ∧
    deviceAddr (commit s l) (hartCtx s (leadHart s)) (hartOf s (leadHart s)).spawn.toNat false 1 = .ok (q, lp) :=
  ⟨fR 3 1 0 0, withScopes (onX [(1, 0x1040)]), 0x1040, 0x1000, 0x10000 + 7 * 2 ^ 32, 0x1000, hit 0x1040, hit 0x1000, by decide +kernel,
    by decide +kernel, by decide +kernel, by decide +kernel, okIs_eq (by decide +kernel), by decide +kernel, by decide +kernel, okIs_eq (by decide +kernel),
    by decide +kernel, okIs_eq (by decide +kernel)⟩
theorem witness_Scopes_docent : ∃ f s, admitted (.scope f) s = true ∧ curKind s = some .docent ∧ xRead s f.a = 0 :=
  ⟨fR 3 0 0 0, onDocent [], by decide +kernel⟩
theorem witness_Scopes_cancel : ∃ f s pa r q, admitted (.cancel f) s = true ∧ orderedAll s (leadHart s) = true ∧
    namesRecord s (xRead s f.a) pa r ∧
    (let s' := scopeReads s (xRead s f.a)
     let c := BitVec.ofNat 16 (recContext r)
     recState (recordAt s' pa) = 0 ∧ (∀ k, (haltOf s k).killing = false) ∧
     (q = pa ∨ q ∈ knownScopes s' c ∧ recState (recordAt s' q) = 0 ∧ inSubtree s' (entryCtx s' c) q pa = true) ∧
     recordLost s' q = false ∧ lineClear s' c q) := by
  let s := withScopes (onA [(1, 0x1000)])
  have m : s.cores = [] ∧ s.pergolas = [] ∧ s.halts = [] := by decide +kernel
  have c : (scopeReads s 0x1000).cores = [] ∧ (scopeReads s 0x1000).pergolas = [] := by decide +kernel
  refine ⟨fR 0 1 0 0, s, 0x1000, 0x10000 + 7 * 2 ^ 32, 0x1000, by decide +kernel, by decide +kernel,
    ⟨okIs_eq (by decide +kernel), by decide, by decide, fun _ => ⟨by decide +kernel, (0x1000, hit 0x1000), okIs_eq (by decide +kernel),
      by decide +kernel⟩⟩, by decide +kernel, fun k => ?_, .inl rfl, by decide +kernel, fun k => ?_, by decide +kernel⟩
  · unfold haltOf; rw [m.2.2]; rfl
  · show overlaps _ _ ((coreOf (scopeReads s 0x1000) k).frame + 0x8000) _ = _ ∧ overlaps _ _ (perOf (scopeReads s 0x1000) k).frame _ = _
    unfold coreOf perOf; rw [c.1, c.2]; exact ⟨(by decide : overlaps 4096 64 (({} : Core).frame + 32768) 64 = false), (by decide : overlaps 4096 64 ({} : Pergola).frame 64 = false)⟩
theorem witness_Scopes_cancelChild : ∃ s q, q ≠ 0x1000 ∧ q ∈ knownScopes s 1 ∧ recState (recordAt s q) = 0 ∧
    inSubtree s (entryCtx s 1) q 0x1000 = true ∧ recordLost s q = false :=
  ⟨{ withScopes (onA []) with mem := memOf [(0x1000, 64, 0x10000 + 7 * 2 ^ 32), (0x1040, 64, 0x10000 + 8 * 2 ^ 32 + 0x1000 * 2 ^ 64)],
                              owned := [(0x40, .scope), (0x41, .scope)] }, 0x1040, by decide +kernel⟩
theorem witness_Scopes_cancelNotLive : ∃ f s pa r, admitted (.cancel f) s = true ∧ orderedAll s (leadHart s) = true ∧
    namesRecord s (xRead s f.a) pa r ∧
    (let s' := scopeReads s (xRead s f.a)
     recState (recordAt s' pa) ≠ 0 ∧ recordLost s' pa = false) :=
  ⟨fR 0 1 0 0, withScopes (onA [(1, 0x1040)]), 0x1040, 2 + 0x10000 + 8 * 2 ^ 32 + 0x1000 * 2 ^ 64, by decide +kernel, by decide +kernel,
    ⟨okIs_eq (by decide +kernel), by decide, by decide, fun _ => ⟨by decide +kernel,
      (0x1000, hit 0x1000), okIs_eq (by decide +kernel), by decide +kernel⟩⟩, by decide +kernel⟩
theorem witness_Scopes_quiesced : ∃ f s pa r, admitted (.cwait f) s = true ∧ admitted (.cancel f) s = true ∧ cancelled s = false ∧
    orderedAll s (leadHart s) = true ∧ namesRecord s (xRead s f.a) pa r ∧ recState r = 2 :=
  ⟨fR 0 1 0 0, withScopes (onA [(1, 0x1040)]), 0x1040, 2 + 0x10000 + 8 * 2 ^ 32 + 0x1000 * 2 ^ 64, by decide +kernel, by decide +kernel,
    by decide +kernel, by decide +kernel, ⟨okIs_eq (by decide +kernel), by decide, by decide, fun _ => ⟨by decide +kernel,
      (0x1000, hit 0x1000), okIs_eq (by decide +kernel), by decide +kernel⟩⟩, by decide⟩
theorem witness_Scopes_wait : ∃ f s pa r, admitted (.cwait f) s = true ∧ cancelled s = false ∧ orderedAll s (leadHart s) = true ∧
    namesRecord s (xRead s f.a) pa r ∧ recState r ≠ 2 :=
  ⟨fR 0 1 0 0, withScopes (onDocent [(1, 0x1000)]), 0x1000, 0x10000 + 7 * 2 ^ 32, by decide +kernel, by decide +kernel, by decide +kernel,
    ⟨okIs_eq (by decide +kernel), by decide, by decide, fun h => absurd (by decide +kernel) h⟩, by decide⟩
theorem witness_Scopes_fault : ∃ i f s pa r, (i = Instr.cancel f ∨ i = .cwait f) ∧ admitted i s = true ∧ cancelled s = false ∧
    orderedAll s (leadHart s) = true ∧
    deviceRead s (hartCtx s (leadHart s)) (xRead s f.a).toNat 64 64 = .ok (pa, r) ∧ (r = 0 ∨ recState r = 3) :=
  ⟨_, fR 0 1 0 0, withScopes (onA [(1, 0x1080)]), 0x1080, 0, .inr rfl, by decide +kernel, by decide +kernel, by decide +kernel,
    okIs_eq (by decide +kernel), .inl (by decide +kernel)⟩
theorem test_cancel_of_no_record : cause (.cancel (fR 0 1 0 0)) (withScopes (onA [(1, 0x1080)])) = some (0x1C, 0x1080, 0x400) := by decide +kernel

/-- A live barrier of context 1 expecting 2, one arrived, PHASE 4, at 0x1000. -/
def withBarrier (s : State) : State := { s with mem := memOf [(0x1000, 64, 1 + 0x10000 + 2 * 2 ^ 32 + 1 * 2 ^ 64 + 4 * 2 ^ 96)] }
theorem witness_Barriers_init : ∃ f s pa l, admitted (.barinit f) s = true ∧ orderedAll s (leadHart s) = true ∧
    (xRead s f.a).toNat % 64 = 0 ∧ (xRead s f.b).toNat < 2 ^ 32 ∧
    deviceAddr s (hartCtx s (leadHart s)) (xRead s f.a).toNat true 64 = .ok (pa, l) ∧
    (bits (readNat s pa 64) 0 2 = 1 → barArrived (readNat s pa 64) = 0) :=
  ⟨fR 0 1 2 0, onA [(1, 0x1000), (2, 0xFFFFFFFF)], 0x1000, hit 0x1000, by decide +kernel, by decide +kernel, by decide +kernel,
    by decide +kernel, okIs_eq (by decide +kernel), by decide +kernel⟩
theorem witness_Barriers_arrive : ∃ f s pa l, admitted (.bararr f) s = true ∧ orderedAll s (leadHart s) = true ∧
    barObject s (xRead s f.a) true = .ok (pa, l) ∧ bits (readNat s pa 64) 0 2 = 1 ∧
    bits (readNat s pa 64) 16 16 = (hartOf s (leadHart s)).context.toNat ∧
    ((hartOf s (leadHart s)).members.length < 4 ∨ ∃ m ∈ (hartOf s (leadHart s)).members, m.object = xRead s f.a) :=
  ⟨fR 3 1 0 0, withBarrier (onA [(1, 0x1000)]), 0x1000, hit 0x1000, by decide +kernel, by decide +kernel,
    okIs_eq (by decide +kernel), by decide +kernel, by decide +kernel, .inl (by decide +kernel)⟩
theorem test_last_arrival_releases : (match exec (.bararr (fR 3 1 0 0)) (withBarrier (onA [(1, 0x1000)])) with
    | .next t => ((hartOf t 0).get 3, barArrived (readNat t 0x1000 64), barPhase (readNat t 0x1000 64)) | _ => (0, 9, 9)) = (4, 0, 5) := by decide +kernel
theorem witness_Barriers_pass : ∃ f s pa l, admitted (.barwait f) s = true ∧ cancelled s = false ∧ orderedAll s (leadHart s) = true ∧
    barObject s (xRead s f.a) false = .ok (pa, l) ∧
    barPhase (readNat s pa 64) ≠ (xRead s f.b).toNat % 2 ^ 32 :=
  ⟨fR 0 1 2 0, withBarrier (onA [(1, 0x1000), (2, 3)]), 0x1000, hit 0x1000, by decide +kernel, by decide +kernel, by decide +kernel,
    okIs_eq (by decide +kernel), by decide +kernel⟩
theorem witness_Barriers_stay : ∃ f s pa l, admitted (.barwait f) s = true ∧ cancelled s = false ∧ orderedAll s (leadHart s) = true ∧
    barObject s (xRead s f.a) false = .ok (pa, l) ∧
    barPhase (readNat s pa 64) = (xRead s f.b).toNat % 2 ^ 32 :=
  ⟨fR 0 1 2 0, withBarrier (onDocent [(1, 0x1000), (2, 4)]), 0x1000, hit 0x1000, by decide +kernel, by decide +kernel, by decide +kernel,
    okIs_eq (by decide +kernel), by decide +kernel⟩

/-- A running step of the block at 0x3000. -/
def stepInfo : StepInfo := { launch := 0x3000, step := 0, prio := 0, context := 1, scope := 0x1000 }
theorem witness_Exit_x : ∃ f s k i, admitted (.exit f) s = true ∧ cancelled s = false ∧ k < 128 ∧ s.cur = .hart (xHartId k) ∧
    exitFault s f (xHartId k) = none ∧ exitPoison f (xHartId k) s = .ok () ∧ (hartOf s (aHartId k)).run = .idle ∧ (coreOf s k).step = some i ∧
    stepCommands s i = [] ∧ orderedAll s (aHartId k) = true ∧ orderedAll s (xHartId k) = true ∧ (hartOf s (xHartId k)).refused = 0 ∧
    (coreOf s k).follow = [] :=
  ⟨fR 1 0 0 0, { withScopes (onX [(1, 0x2000)]) with
      mem := memOf [(0x1000, 64, 0x10000 + 7 * 2 ^ 32), (0x2010, 8, 0x1000)], cores := [(0, { step := some stepInfo, phase := .running })] }, 0, stepInfo,
    by decide +kernel, by decide +kernel, by decide +kernel, by decide +kernel, by decide +kernel, okIs_eq (by decide +kernel), by decide +kernel⟩
theorem witness_Exit_a : ∃ f s k, admitted (.exit f) s = true ∧ cancelled s = false ∧ k < 128 ∧ s.cur = .hart (aHartId k) ∧
    exitFault s f (aHartId k) = none ∧ exitPoison f (aHartId k) s = .ok () ∧ commandsOf s (aHartId k) = [] ∧
    orderedAll s (aHartId k) = true ∧ (hartOf s (aHartId k)).refused = 0 ∧ (coreOf s k).follow = [] :=
  ⟨fR 0 0 0 0, onA [], 0, by decide +kernel, by decide +kernel, by decide +kernel, by decide +kernel, by decide +kernel, okIs_eq (by decide +kernel), by decide +kernel⟩
def exitGang : State := { onGang [] with pergolas := [(0, { step := some stepInfo, phase := .running })] }
theorem witness_Exit_bank : ∃ f s i, admitted (.exit f) s = true ∧ cancelled s = false ∧ curKind s = some .bank ∧ (perOf s (curPer s)).step = some i ∧
    (∀ id ∈ performers s, exitFault s f id = none ∧ exitPoison f id s = .ok ()) ∧
    (∀ id ∈ allHarts s, bankSettled s (curPer s) (bankOfHart id) = true) ∧ fetchOf s (64 + curPer s) (allHarts s) = false :=
  ⟨fR 0 0 0 0, exitGang, stepInfo, by decide +kernel, by decide +kernel,
    by decide +kernel, by decide +kernel, fun id h => ⟨(by decide +kernel : ∀ id ∈ performers exitGang, exitFault exitGang (fR 0 0 0 0) id = none) id h,
    okIs_eq ((by decide +kernel : ∀ id ∈ performers exitGang, okIs (exitPoison (fR 0 0 0 0) id exitGang) () = true) id h)⟩, by decide +kernel, by decide +kernel⟩
theorem witness_Exit_docent : ∃ f s, admitted (.exit f) s = true ∧ cancelled s = false ∧ curKind s = some .docent ∧
    orderedAll s (leadHart s) = true ∧ (hartOf s (leadHart s)).refused = 0 ∧
    (∀ v ∈ successors f (hartOf s (leadHart s)), v.toNat % 256 = 0 ∧ blockPoison s (hartCtx s (leadHart s)) v = none) ∧
    ∃ v, successors f (hartOf s (leadHart s)) = [v] :=
  ⟨fR 0 1 0 0, onDocent [(1, 0x2000)], by decide +kernel, by decide +kernel, by decide +kernel, by decide +kernel, by decide +kernel, fun v h => by
    have e : successors (fR 0 1 0 0) (hartOf (onDocent [(1, 0x2000)]) (leadHart (onDocent [(1, 0x2000)]))) = [0x2000] := by decide +kernel
    rw [e, List.mem_singleton] at h; subst h; exact ⟨by decide +kernel, by decide +kernel⟩, 0x2000, by decide +kernel⟩
/-- A waiting block at 0x2000 of one step with `n` dependences, its scope record live at 0x1000. -/
def waitingBlock (n : Nat) : State :=
  { onDocent [(1, 0x2000)] with mem := memOf [(0x1000, 64, 0x10000 + 7 * 2 ^ 32), (0x2000, 256, 2 + 2 ^ 14 + n * 2 ^ 64 + 0x1000 * 2 ^ 128)] }
def blockRaw (n : Nat) : Nat := 2 + 2 ^ 14 + n * 2 ^ 64 + 0x1000 * 2 ^ 128
theorem witness_Exit_decrement : ∃ s c v b, readBlock s c v = .ok b ∧ blkState b = 0 ∧ blkDead b = false ∧ 0 < blkDeps b ∧
    deadOnArrival s c b = false ∧ 1 < blkDeps b :=
  ⟨waitingBlock 2, hartCtx (waitingBlock 2) 0x4000, 0x2000, { pa := 0x2000, raw := blockRaw 2 }, okIs_eq (by decide +kernel), by decide +kernel⟩
theorem witness_Exit_ready : ∃ s c v b b1, readBlock s c v = .ok b ∧ blkState b = 0 ∧ blkDead b = false ∧ 0 < blkDeps b ∧
    deadOnArrival s c b = false ∧ blkDeps b = 1 ∧ readBlock (putDeps s b 0) c v = .ok b1 ∧ b1.pa = b.pa ∧ stepCount b1 ≠ 0 ∧
    rejectReason (putDeps s b 0) c (blockContext s c b) b1 = none :=
  ⟨waitingBlock 1, hartCtx (waitingBlock 1) 0x4000, 0x2000, { pa := 0x2000, raw := blockRaw 1 }, { pa := 0x2000, raw := blockRaw 0 },
    okIs_eq (by decide +kernel), by decide +kernel, by decide +kernel, by decide +kernel, by decide +kernel, by decide +kernel,
    okIs_eq (by decide +kernel), by decide +kernel⟩

theorem witness_Yield_hart : ∃ f s, admitted (.yield f) s = true ∧ (curKind s = some .aHart ∨ curKind s = some .xHart) :=
  ⟨fR 0 0 0 0, onX [], by decide +kernel, by decide +kernel⟩
theorem witness_Yield_docent : ∃ f s, admitted (.yield f) s = true ∧ curKind s = some .docent := ⟨fR 0 0 0 0, onDocent [], by decide +kernel, by decide +kernel⟩
theorem witness_Yield_gang : ∃ f s, admitted (.yield f) s = true ∧ inGang s = true := ⟨fR 0 0 0 0, onGang [], by decide +kernel, by decide +kernel⟩
theorem witness_Yield_bank : ∃ f s, admitted (.yield f) s = true ∧ curKind s = some .bank ∧ inGang s = false :=
  ⟨fR 0 0 0 0, onBank [], by decide +kernel⟩
/-- The step's block, with its process-group table at 0x2000. -/
def withPgt (s : State) : State :=
  { s with mem := memOf [(0x3020, 8, 0x2000)], cores := [(0, { step := some stepInfo, phase := .running, frame := 0x4000000 })],
           pergolas := [(0, { step := some stepInfo, phase := .running, lessee := 1, remain := 9, frame := 0x4010000 })] }
theorem witness_Getpg : ∃ f s p l, admitted (.getpg f) s = true ∧ curKind s ≠ some .bank ∧ tablePointer s (leadHart s) ≠ 0 ∧
    acknowledgedOn s (leadHart s) (· == 0) = true ∧
    resolve s (hartCtx s (leadHart s)) { loadReq 8 with astore := curKind s != some .xHart }
      (tablePointer s (leadHart s) + BitVec.ofNat 64 (64 * (f.a.bits.toNat % 8) + 8 * (f.b.bits.toNat % 8))) = .ok (p, l) ∧
    plainPlace (commitAll s l) p 8 = true :=
  ⟨fR 3 7 7 0, withPgt (onA []), .phys 0x21F8, [hit 0x21F8], by decide +kernel, by decide +kernel, by decide +kernel,
    by decide +kernel, okIs_eq (by decide +kernel), by decide +kernel⟩
def splitPgt : State :=
  { withPgt (onBank []) with pergolas := [(0, { gang := false, step := some stepInfo, phase := .running, lessee := 1, remain := 9,
                                                      frame := 0x4010000 })] }
theorem witness_Getpg_bank : ∃ f s pa l, admitted (.getpg f) s = true ∧ curKind s = some .bank ∧
    (∀ id ∈ performers s, portWord s f id = .ok (.phys pa, l)) ∧ (∀ r ∈ l, r.entryAt = none ∧ r.tlb = none) ∧ plainPlace s (.phys pa) 8 = true :=
  ⟨fR 3 0 1 0, splitPgt, 0x2008, [hit 0x2008], by decide +kernel, by decide +kernel,
    fun id h => okIs_eq ((by decide +kernel : ∀ id ∈ performers splitPgt, okIs (portWord splitPgt (fR 3 0 1 0) id) (.phys 0x2008, [hit 0x2008]) = true) id h),
    by decide +kernel, by decide +kernel⟩


/-! ## Engine commands -/

def isOk {ε α : Type} (x : Except ε α) : Bool :=
  match x with
  | .ok _ => true
  | .error _ => false
theorem ok_of {ε α : Type} (x : Except ε α) (h : isOk x = true) : ∃ a, x = .ok a := by
  cases x with
  | error e => cases h
  | ok a => exact ⟨a, rfl⟩

def cpyState : State := onA [(1, 0x8000), (2, 0x4000), (3, 256)]
theorem witness_CommandsIssue_cpy : ∃ f s a, admitted (.cpy f) s = true ∧ f.foll = false ∧ f.b.num ≠ 63 ∧
    (let n := (hartOf s (leadHart s)).get (f.b.num.toNat + 1)
     let c := issueCtx s (.cpy f) [xRead s f.a, xRead s f.b, n] (f.d.num.toNat % 32) 1
     n.toNat < 2 ^ 32 ∧ n ≠ 0 ∧ resolveRange s c { rd := true, handle := .published, peer := true } (xRead s f.b) n.toNat = .ok a ∧
     (∃ d, resolveRange s c { wr := true, handle := .hidden } (xRead s f.a) n.toNat = .ok d) ∧ handleOpen s c (xRead s f.a) = .ok () ∧
     engineReady s f.strm.toNat (f.d.num.toNat % 32) = true) := by
  obtain ⟨a, ha⟩ := ok_of (resolveRange cpyState (issueCtx cpyState (.cpy (fE 31 1 2)) [0x8000, 0x4000, 256] 31 1)
    { rd := true, handle := .published, peer := true } 0x4000 256) (by decide +kernel)
  obtain ⟨d, hd⟩ := ok_of (resolveRange cpyState (issueCtx cpyState (.cpy (fE 31 1 2)) [0x8000, 0x4000, 256] 31 1)
    { wr := true, handle := .hidden } 0x8000 256) (by decide +kernel)
  exact ⟨fE 31 1 2, cpyState, a, by decide +kernel, rfl, by decide, by decide +kernel, by decide +kernel, ha, ⟨d, hd⟩, rfl, by decide +kernel⟩
theorem witness_CommandsIssue_cpyw : ∃ f s a, admitted (.cpyw f) s = true ∧ f.foll = false ∧ f.b.num ≠ 63 ∧
    (let n := (hartOf s (leadHart s)).get (f.b.num.toNat + 1)
     let c := issueCtx s (.cpyw f) [xRead s f.a, xRead s f.b, n] (f.d.num.toNat % 32) 1
     n.toNat < 2 ^ 32 ∧ resolveRange s c { rd := true, handle := .published, peer := false } (xRead s f.b) n.toNat = .ok a ∧
     (xRead s f.a).toNat < 2 ^ 21 ∧ (xRead s f.a).toNat + n.toNat ≤ 2 ^ 21 ∧ engineReady s f.strm.toNat (f.d.num.toNat % 32) = true) := by
  obtain ⟨a, ha⟩ := ok_of (resolveRange cpyState (issueCtx cpyState (.cpyw (fE 0 1 2)) [0x8000, 0x4000, 256] 0 1)
    { rd := true, handle := .published, peer := false } 0x4000 256) (by decide +kernel)
  exact ⟨fE 0 1 2, cpyState, a, by decide +kernel, rfl, by decide, by decide +kernel, ha, by decide +kernel⟩
/-- A copy at offset 0 of the overlay with an MMA of slot 5 behind it. -/
def followCode : BitVec 1024 := BitVec.ofNat 1024 (wordE 0x90 0 0 1 0 2 1 4 + 2 ^ 64 * wordX 0x80 0 0 1 0 0 4 3 2 1 5)
def followState : State :=
  { cpyState with pavilions := [(0, { overlay := [(0, { st := .landed, bytes := followCode })] })],
                  cores := [(0, { slots := [(5, { owner := 1, v := true })] })] }
def followCopy : FmtE := { fE 4 1 2 with foll := true }
theorem witness_CommandsIssue_follow : ∃ f s j a d, admitted (.cpy f) s = true ∧ f.foll = true ∧ f.b.num ≠ 63 ∧ followInstr (.cpy f) s = .ok (some j) ∧
    (let n := (hartOf s (leadHart s)).get (f.b.num.toNat + 1)
     let c := issueCtx s (.cpy f) [xRead s f.a, xRead s f.b, n] (f.d.num.toNat % 32) 1
     let e0 := { newEngine s (.cpy f) [xRead s f.a, xRead s f.b, n] (f.d.num.toNat % 32) 1 with
       finstr := instrWord j, fops := followOps s j, fpend := true }
     n.toNat < 2 ^ 32 ∧ n ≠ 0 ∧ resolveRange s c { rd := true, handle := .published } (xRead s f.b) n.toNat = .ok a ∧
     resolveRange s c { wr := true, handle := .hidden } (xRead s f.a) n.toNat = .ok d ∧ handleOpen s c (xRead s f.a) = .ok () ∧
     engineReady s f.strm.toNat (f.d.num.toNat % 32) = true ∧ followCores e0 (curCore s) ≠ [] ∧
     ∀ c ∈ followCores e0 (curCore s), slotFree s c (followSlot e0) (hartOf s (leadHart s)).context true = true ∧
       ownsSlot s c (followSlot e0) (hartOf s (leadHart s)).context = true) := by
  obtain ⟨a, ha⟩ := ok_of (resolveRange followState (issueCtx followState (.cpy followCopy) [0x8000, 0x4000, 256] 4 1)
    { rd := true, handle := .published } 0x4000 256) (by decide +kernel)
  obtain ⟨d, hd⟩ := ok_of (resolveRange followState (issueCtx followState (.cpy followCopy) [0x8000, 0x4000, 256] 4 1)
    { wr := true, handle := .hidden } 0x8000 256) (by decide +kernel)
  exact ⟨followCopy, followState, .mma { fX 5 1 2 3 4 with foll := true }, a, d, by decide +kernel, rfl, by decide, okIs_eq (by decide +kernel),
    by decide +kernel, by decide +kernel, ha, hd, rfl, by decide +kernel⟩
/-- A tensor map at 0x2000: 16 bytes from 0x4000 in one row. -/
def mapState : State :=
  { onA [(1, 15), (2, 0x2000)] with mem := memOf [(0x2000, 128, 0x4000 + 16 * 2 ^ 128 + 2 ^ 160 + 2 ^ 192 + 2 ^ 224 + 16 * 2 ^ 448 + 2 ^ 464 +
    2 ^ 480 + 2 ^ 496 + 16 * 2 ^ 704)] }
theorem witness_CommandsIssue_tfetch : ∃ f s r, admitted (.tfetch f) s = true ∧ (xRead s f.a).toNat < 16 ∧
    mapIssue (.tfetch f) s (newEngine s (.tfetch f) [xRead s f.a, xRead s f.b, 0] (f.d.num.toNat % 32) 2) = .ok r ∧
    engineReady s f.strm.toNat (f.d.num.toNat % 32) = true ∧
    ((coreOf s (curCore s)).tiles.get {} (xRead s f.a).toNat).st ≠ .loading ∧ tileRead (coreOf s (curCore s)) (xRead s f.a).toNat = false := by
  obtain ⟨a, ha⟩ := ok_of (mapIssue (.tfetch (fE 3 1 2)) mapState (newEngine mapState (.tfetch (fE 3 1 2)) [15, 0x2000, 0] 3 2)) (by decide +kernel)
  exact ⟨fE 3 1 2, mapState, a, by decide +kernel, by decide +kernel, ha, by decide +kernel⟩
theorem witness_CommandsIssue_prefb : ∃ f s m, admitted (.prefb f) s = true ∧ (xRead s f.b).toNat ≤ 2 ^ 32 ∧
    resolveRange s (issueCtx s (.prefb f) [xRead s f.a, xRead s f.b, 0] (f.d.num.toNat % 32) 1)
      { rd := true, handle := .published, peer := false } (xRead s f.a) (xRead s f.b).toNat = .ok m ∧
    engineReady s f.strm.toNat (f.d.num.toNat % 32) = true := by
  obtain ⟨a, ha⟩ := ok_of (resolveRange cpyState (issueCtx cpyState (.prefb (fE 3 2 3)) [0x4000, 256, 0] 3 1)
    { rd := true, handle := .published, peer := false } 0x4000 256) (by decide +kernel)
  exact ⟨fE 3 2 3, cpyState, a, by decide +kernel, by decide +kernel, ha, by decide +kernel⟩
def tierState : State := onA [(1, 0x8000), (2, 0x4000), (3, 0x1000)]
theorem witness_CommandsIssue_tiermv : ∃ f s a d, admitted (.tiermv f) s = true ∧ f.b.num ≠ 63 ∧
    (let n := (hartOf s (leadHart s)).get (f.b.num.toNat + 1)
     let c := issueCtx s (.tiermv f) [xRead s f.a, xRead s f.b, n] (f.d.num.toNat % 32) 1
     n.toNat % 4096 = 0 ∧
     resolveRange s c { wr := true, handle := .hidden, peer := false, align := 4096 } (xRead s f.a) n.toNat = .ok d ∧
     resolveRange s c { rd := true, handle := .published, peer := false, align := 4096 } (xRead s f.b) n.toNat = .ok a ∧
     tierPlaces s d (xRead s f.a) = .ok () ∧ tierPlaces s a (xRead s f.b) = .ok () ∧
     (n ≠ 0 → handleOpen s c (xRead s f.a) = .ok ()) ∧ engineReady s f.strm.toNat (f.d.num.toNat % 32) = true) := by
  let c := issueCtx tierState (.tiermv (fE 3 1 2)) [0x8000, 0x4000, 0x1000] 3 1
  obtain ⟨d, hd⟩ := ok_of (resolveRange tierState c { wr := true, handle := .hidden, peer := false, align := 4096 } 0x8000 0x1000) (by decide +kernel)
  obtain ⟨a, ha⟩ := ok_of (resolveRange tierState c { rd := true, handle := .published, peer := false, align := 4096 } 0x4000 0x1000) (by decide +kernel)
  have td : isOk ((resolveRange tierState c { wr := true, handle := .hidden, peer := false, align := 4096 } 0x8000 0x1000).bind fun m => tierPlaces tierState m 0x8000) = true := by
    decide +kernel
  have ta : isOk ((resolveRange tierState c { rd := true, handle := .published, peer := false, align := 4096 } 0x4000 0x1000).bind fun m => tierPlaces tierState m 0x4000) = true := by
    decide +kernel
  rw [hd] at td; rw [ha] at ta
  obtain ⟨_, hd'⟩ := ok_of _ td
  obtain ⟨_, ha'⟩ := ok_of _ ta
  exact ⟨fE 3 1 2, tierState, a, d, by decide +kernel, by decide, by decide +kernel, hd, ha, hd', ha',
    fun _ => rfl, by decide +kernel⟩
def slotState : State := { onX [(1, 0x20000)] with cores := [(0, { slots := [(7, { owner := 1, v := true })] })] }
theorem witness_CommandsIssue_slot : ∃ f s i load m, i = (if load then Instr.mld f else .mst f) ∧ admitted i s = true ∧
    resolveRange s { hartCtx s (leadHart s) with pav := none }
      { rd := load, wr := !load, handle := .none, window := false, align := 128, peer := false } (xRead s f.da) 65536 = .ok m ∧
    acknowledgedOn s (leadHart s) (· == f.db.num.toNat % 16) = true ∧ inFlight (coreOf s (curCore s)) < 8 ∧
    slotFree s (curCore s) f.slot.toNat (hartOf s (leadHart s)).context load = true ∧
    ownsSlot s (curCore s) f.slot.toNat (hartOf s (leadHart s)).context = true := by
  obtain ⟨m, hm⟩ := ok_of (resolveRange slotState { hartCtx slotState (leadHart slotState) with pav := none }
    { rd := true, wr := false, handle := .none, window := false, align := 128, peer := false } 0x20000 65536) (by decide +kernel)
  exact ⟨fX 7 1 15 0, slotState, _, true, m, rfl, by decide +kernel, hm, by decide +kernel⟩

/-- A linear command of 256 bytes from 0x4000 to `dst`, at 0 of its bytes, of the step that core 0 runs. -/
def command (instr : Word) (dst : Word) (done : Nat) : EngineRec :=
  { instr := instr, ops := [dst, 0x4000, 256], finstr := 0, fops := [], done := done, token := 3, engine := 1, fpend := false, hart := 0,
    info := stepInfo, priv := false, ptroot := 0, hndbase := 0, hndcount := 0 }
def inFlightState (e : EngineRec) : State :=
  { onA [] with mem := memOf [(0x4000, 8, 0x1122334455667788)],
                cores := [(0, { step := some stepInfo, phase := .running, frame := 0x4000000, engines := [e], tokens := [(3, 1)] })] }
theorem witness_CommandsMove_wbuf : ∃ s core cmd a len e l, core < 128 ∧ engineAt s core cmd = some e ∧ e.mapped = false ∧ e.moved = false ∧
    engineMoves s e = true ∧ len = chunkLen e ∧ linePoison s e len = none ∧ e.buffer = [] ∧
    enginePlace s e (e.srcBase + BitVec.ofNat 64 e.done) false = .ok (.phys a, l) ∧ len ≤ pieceLeft (e.srcBase + BitVec.ofNat 64 e.done) ∧
    plainPlace s (.phys a) (chunkSource e) = true ∧ e.kind = .cpyw :=
  ⟨inFlightState (command 0x190 0x100 128), 0, 0, 0x4080, 128, command 0x190 0x100 128, [hit 0x4080], by decide, by decide +kernel,
    by decide +kernel, by decide +kernel, by decide +kernel, rfl, by decide +kernel, rfl, okIs_eq (by decide +kernel), by decide +kernel⟩
theorem witness_CommandsMove_memory : ∃ s core cmd a len e l b l', core < 128 ∧ engineAt s core cmd = some e ∧ e.mapped = false ∧ e.moved = false ∧
    engineMoves s e = true ∧ len = chunkLen e ∧ linePoison s e len = none ∧ e.buffer = [] ∧
    enginePlace s e (e.srcBase + BitVec.ofNat 64 e.done) false = .ok (.phys a, l) ∧ len ≤ pieceLeft (e.srcBase + BitVec.ofNat 64 e.done) ∧
    plainPlace s (.phys a) (chunkSource e) = true ∧ enginePlace s e (e.opA + BitVec.ofNat 64 e.done) true = .ok (.phys b, l') ∧
    (e.kind = .cpy ∧ e.done + len < e.total ∧ ∀ k, k < len → overlapped (sourceMap s e) (.mem (.phys b)) k = false) ∧ landsPlain s b len :=
  ⟨inFlightState (command 0x090 0x8000 0), 0, 0, 0x4000, 128, command 0x090 0x8000 0, [hit 0x4000], 0x8000, [hit 0x8000], by decide,
    by decide +kernel, by decide +kernel, by decide +kernel, by decide +kernel, rfl, by decide +kernel, rfl, okIs_eq (by decide +kernel),
    by decide +kernel, by decide +kernel, okIs_eq (by decide +kernel), by decide +kernel, by unfold landsPlain; decide +kernel⟩
theorem witness_CommandsMove_mld : ∃ s core cmd a len e l, core < 128 ∧ engineAt s core cmd = some e ∧ e.mapped = false ∧ e.moved = false ∧
    engineMoves s e = true ∧ len = chunkLen e ∧ linePoison s e len = none ∧ e.buffer = [] ∧
    enginePlace s e (e.srcBase + BitVec.ofNat 64 e.done) false = .ok (.phys a, l) ∧ len ≤ pieceLeft (e.srcBase + BitVec.ofNat 64 e.done) ∧
    plainPlace s (.phys a) (chunkSource e) = true ∧ e.kind = .mld ∧ e.done + len ≤ 65536 :=
  ⟨inFlightState (command 0x14380 0x20000 65408), 0, 0, 0x2FF80, 128, command 0x14380 0x20000 65408, [hit 0x2FF80], by decide, by decide +kernel,
    by decide +kernel, by decide +kernel, by decide +kernel, rfl, by decide +kernel, rfl, okIs_eq (by decide +kernel), by decide +kernel⟩
theorem witness_CommandsMove_mst : ∃ s core cmd b e l, core < 128 ∧ engineAt s core cmd = some e ∧ e.kind = .mst ∧
    e.moved = false ∧ engineMoves s e = true ∧ enginePlace s e (e.opA + BitVec.ofNat 64 e.done) true = .ok (.phys b, l) ∧
    landsPlain s b (chunkLen e) :=
  ⟨inFlightState (command 0x14480 0x20000 65408), 0, 0, 0x2FF80, command 0x14480 0x20000 65408, [hit 0x2FF80], by decide, by decide +kernel, rfl,
    by decide +kernel, by decide +kernel, okIs_eq (by decide +kernel), by unfold landsPlain; decide +kernel⟩
/-- The map of `mapState`: 16 bytes from 0x4000 in one row. -/
def mapRaw : Nat :=
  0x4000 + 16 * 2 ^ 128 + 2 ^ 160 + 2 ^ 192 + 2 ^ 224 + 16 * 2 ^ 448 + 2 ^ 464 + 2 ^ 480 + 2 ^ 496 + 16 * 2 ^ 704
theorem nothing_cached (s : State) (l : List ((Nat × Nat × Nat) × List (Option Byte))) (h : l = []) :
    ∀ c ∈ l, ∀ a, c.1 = (Place.phys a).key → c.2 = (readBytes s a 8).map some := by subst h; simp
def mapCommand (instr dst : Word) (done : Nat) : EngineRec :=
  { command instr dst done with ops := [dst, 0x2000, 2 ^ 63], tmap := some (mapRaw, []) }
theorem witness_CommandsMove_tile : ∃ s core cmd e m, core < 128 ∧ engineAt s core cmd = some e ∧ e.mapped = true ∧
    e.tmap = some m ∧ e.moved = false ∧ engineMoves s e = true ∧ e.out = [] ∧
    (∀ c ∈ e.cached, ∀ a, c.1 = (Place.phys a).key → c.2 = (readBytes s a 8).map some) ∧
    (let n := min (128 / tmEsize m.1) (tmCount m.1 - e.done)
     let off (k : Nat) := (tmPos m.1 m.2 k).2
     e.kind = .tfetch ∧ (∀ k, k < e.done + n → e.done ≤ k → (elementOf s e m k).isSome = true) ∧
     (∀ k, k < e.done + n → ∀ j, j < k → e.done ≤ j → off j + tmEsize m.1 ≤ off k ∨ off k + tmEsize m.1 ≤ off j)) :=
  ⟨inFlightState (mapCommand 0x290 15 0), 0, 0, mapCommand 0x290 15 0, (mapRaw, []), by decide, by decide +kernel, by decide +kernel, rfl,
    by decide +kernel, by decide +kernel, rfl, nothing_cached _ _ rfl, by decide +kernel⟩
theorem witness_CommandsMove_element : ∃ s core cmd e m x b, core < 128 ∧ engineAt s core cmd = some e ∧ e.mapped = true ∧
    e.tmap = some m ∧ e.moved = false ∧ engineMoves s e = true ∧ e.out = [] ∧
    (∀ c ∈ e.cached, ∀ a, c.1 = (Place.phys a).key → c.2 = (readBytes s a 8).map some) ∧
    (let off (k : Nat) := (tmPos m.1 m.2 k).2
     e.done + 1 = tmCount m.1 ∧ elementOf s e m e.done = some x ∧ (e.opA.toNat + off e.done) % 8 + tmEsize m.1 ≤ 8 ∧ e.kind = .cpy ∧
     landsPlain s b (tmEsize m.1) ∧
     (∀ j, j < tmEsize m.1 → ∃ l, enginePlace s e (e.opA + BitVec.ofNat 64 (off e.done + j)) true = .ok (.phys (b + j), l))) := by
  have h : (elementOf (inFlightState (mapCommand 0x090 0x8000 15)) (mapCommand 0x090 0x8000 15) (mapRaw, []) 15).isSome = true := by decide +kernel
  obtain ⟨x, hx⟩ := Option.isSome_iff_exists.mp h
  refine ⟨inFlightState (mapCommand 0x090 0x8000 15), 0, 0, mapCommand 0x090 0x8000 15, (mapRaw, []), x, 0x800F, by decide, by decide +kernel,
    by decide +kernel, rfl, by decide +kernel, by decide +kernel, rfl, nothing_cached _ _ rfl, by decide +kernel, hx, by decide +kernel,
    by decide +kernel, by unfold landsPlain; decide +kernel, fun j hj => ?_⟩
  have j0 : j = 0 := by
    have e1 : tmEsize (mapRaw, ([] : List Nat)).1 = 1 := by decide +kernel
    rw [e1] at hj; omega
  subst j0
  exact ⟨[hit 0x800F], okIs_eq (by decide +kernel)⟩
theorem witness_CommandsMove_elementBuffer : ∃ s core cmd e m x, core < 128 ∧ engineAt s core cmd = some e ∧ e.mapped = true ∧
    e.tmap = some m ∧ e.moved = false ∧ engineMoves s e = true ∧ e.out = [] ∧
    (∀ c ∈ e.cached, ∀ a, c.1 = (Place.phys a).key → c.2 = (readBytes s a 8).map some) ∧
    (let off (k : Nat) := (tmPos m.1 m.2 k).2
     e.done + 1 = tmCount m.1 ∧ elementOf s e m e.done = some x ∧ (e.opA.toNat + off e.done) % 8 + tmEsize m.1 ≤ 8 ∧ e.kind = .cpyw) := by
  have h : (elementOf (inFlightState (mapCommand 0x190 0x100 15)) (mapCommand 0x190 0x100 15) (mapRaw, []) 15).isSome = true := by decide +kernel
  obtain ⟨x, hx⟩ := Option.isSome_iff_exists.mp h
  exact ⟨inFlightState (mapCommand 0x190 0x100 15), 0, 0, mapCommand 0x190 0x100 15, (mapRaw, []), x, by decide, by decide +kernel,
    by decide +kernel, rfl, by decide +kernel, by decide +kernel, rfl, nothing_cached _ _ rfl, by decide +kernel, hx, by decide +kernel,
    by decide +kernel⟩
theorem witness_CommandsMove_tiled : ∃ m b0 b1 b2 b3, b0 < tmBox m 0 ∧ b1 < tmBox m 1 ∧ tmKind m = 0 ∧ b2 < tmBox m 2 ∧ b3 < tmBox m 3 :=
  ⟨mapRaw, 15, 0, 0, 0, by decide +kernel⟩
theorem witness_CommandsMove_gathered : ∃ m b0 b1, b0 < tmBox m 0 ∧ b1 < tmBox m 1 ∧ tmKind m = 2 :=
  ⟨mapRaw + 2 * 2 ^ 64, 15, 0, by decide +kernel⟩
theorem witness_CommandsMove_patches : ∃ m b1 c w h, b1 < tmBox m 1 ∧ 0 < tmBox m 0 ∧ tmKind m = 1 ∧ c < tmSize m 0 ∧ w < tmFw m ∧ h < tmFh m ∧
    tmBox m 0 = tmSize m 0 * tmFw m * tmFh m :=
  ⟨mapRaw + 2 ^ 64 + 2 ^ 424 + 2 ^ 428, 0, 15, 0, 0, by decide +kernel⟩
theorem witness_CommandsMove_still : ∃ s core cmd e, core < 128 ∧ engineAt s core cmd = some e ∧
    (e.moved = true ∧ e.out = [] ∨ engineMoves s e = false) :=
  ⟨inFlightState (command 0x090 0x8000 256), 0, 0, _, by decide, rfl, .inl (by decide +kernel)⟩
theorem witness_CommandsMove_unfinished : ∃ s core cmd e, core < 128 ∧ engineAt s core cmd = some e ∧ (e.moved = false ∨ engineMoves s e = false) :=
  ⟨inFlightState (command 0x090 0x8000 255), 0, 0, _, by decide, rfl, .inl (by decide +kernel)⟩
theorem witness_CommandsMove_complete : ∃ s core cmd e, core < 128 ∧ engineAt s core cmd = some e ∧ e.moved = true ∧ e.out = [] ∧ e.fpend = false ∧
    e.finstr = 0 ∧
    linesOut s e = false ∧ engineMoves s e = true ∧ Tbl.rising s.cores = true ∧ whereStep s e.info = .core core ∧
    (coreOf s core).phase ≠ .resuming ∧ (e.kind = .tfetch ∨ e.kind = .cpy ∨ e.kind = .cpyw ∨ e.kind = .prefb ∨ e.kind = .tiermv) ∧
    engineDead s e = false ∧ e.kind = .tfetch ∧ (coreOf s core).tokens.get 0 e.token = 1 :=
  ⟨inFlightState (mapCommand 0x290 15 16), 0, 0, mapCommand 0x290 15 16, by decide, by decide +kernel, by decide +kernel, rfl, rfl, rfl,
    by decide +kernel⟩
theorem witness_CommandsMove_slotComplete : ∃ s core cmd e, core < 128 ∧ engineAt s core cmd = some e ∧ e.moved = true ∧ e.out = [] ∧
    e.fpend = false ∧ e.finstr = 0 ∧ linesOut s e = false ∧ engineMoves s e = true ∧ (e.kind = .mld ∨ e.kind = .mst) ∧ e.kind = .mld :=
  ⟨inFlightState (command 0x14380 0x20000 65536), 0, 0, command 0x14380 0x20000 65536, by decide, by decide +kernel, by decide +kernel, rfl, rfl, rfl,
    by decide +kernel⟩
def withFollow (e : EngineRec) : EngineRec := { e with fpend := true, finstr := BitVec.ofNat 64 (wordX 0x80 0 0 1 0 0 4 3 2 1 5) }
theorem witness_CommandsMove_dead : ∃ s core cmd e, core < 128 ∧ engineAt s core cmd = some e ∧ e.moved = true ∧ e.out = [] ∧ e.fpend = true ∧
    linesOut s e = false ∧ engineMoves s e = true ∧ engineDead s e = true :=
  ⟨{ inFlightState (withFollow (command 0x090 0x8000 256)) with cores := [(0, { engines := [withFollow (command 0x090 0x8000 256)] })] }, 0, 0,
    withFollow (command 0x090 0x8000 256), by decide, by decide +kernel, by decide +kernel, rfl, rfl, by decide +kernel⟩
/-- An MMA of format INT8, 1 x 4 x 1 from the write buffer. -/
def productCommand : EngineRec := { withFollow (command 0x090 0x8000 256) with fops := [0, 0, 1 + 2 ^ 16 + 4 * 2 ^ 32, 0] }
def followMoved : State :=
  let s := inFlightState productCommand
  { s with cores := s.cores.map fun c => (c.1, { c.2 with slots := [(5, { owner := 1, v := true })] }) }
theorem witness_CommandsMove_follow : ∃ s core cmd e p r, core < 128 ∧ engineAt s core cmd = some e ∧ e.moved = true ∧ e.out = [] ∧ e.fpend = true ∧
    linesOut s e = false ∧ engineMoves s e = true ∧ engineDead s e = false ∧ followProd e = some p ∧
    (∀ w ∈ (coreOf s core).matrix, caughtFollow e w = false) ∧ (∀ x ∈ p.targets core, ownsSlot s x.1 p.slot e.info.context = true) ∧
    (p.staged = true → ((coreOf s core).tiles.get {} p.bOff).st ≠ .loading) ∧
    p.check s core e.finstr = .ok r := by
  have h : (followProd productCommand).isSome = true := by decide +kernel
  obtain ⟨p, hp⟩ := Option.isSome_iff_exists.mp h
  have h1 : (followProd productCommand).all (fun p => decide (∀ x ∈ p.targets 0, ownsSlot followMoved x.1 p.slot productCommand.info.context = true) &&
    !p.staged && isOk (p.check followMoved 0 productCommand.finstr)) = true := by decide +kernel
  rw [hp] at h1
  simp only [Option.all_some, Bool.and_eq_true, decide_eq_true_eq, Bool.not_eq_true'] at h1
  obtain ⟨r, hr⟩ := ok_of _ h1.2
  have hs : p.staged = true → ((coreOf followMoved 0).tiles.get {} p.bOff).st ≠ .loading := fun h => by
    rw [h1.1.2] at h; cases h
  exact ⟨followMoved, 0, 0, productCommand, p, r, by decide, by decide +kernel, by decide +kernel, rfl, rfl, by decide +kernel,
    by decide +kernel, by decide +kernel, hp, by decide +kernel, h1.1.1, hs, hr⟩

theorem witness_Tokwait_zero : ∃ f s, admitted (.tokwait f) s = true ∧ cancelled s = false ∧
    (coreOf s (curCore s)).tokens.get 0 f.d.num.toNat = 0 ∧ ∀ w ∈ (coreOf s (curCore s)).follow, w.token ≠ f.d.num.toNat := ⟨fE 31 0 0, onA [], by decide +kernel⟩
theorem witness_Tokwait_stays : ∃ f s, admitted (.tokwait f) s = true ∧ (coreOf s (curCore s)).tokens.get 0 f.d.num.toNat ≠ 0 ∧
    cancelled s = false := ⟨fE 3 0 0, inFlightState (command 0x090 0x8000 0), by decide +kernel⟩
theorem witness_Tokwait_fails : ∃ f s w l, admitted (.tokwait f) s = true ∧ (coreOf s (curCore s)).tokens.get 0 f.d.num.toNat = 0 ∧
    cancelled s = false ∧ (coreOf s (curCore s)).follow = w :: l ∧ w.token = f.d.num.toNat ∧ w.code ≠ Cause.ue :=
  ⟨fE 3 0 0, withCore (onA []) { follow := [{ token := 3, code := 7, info := 9 }] }, { token := 3, code := 7, info := 9 }, [], by decide +kernel⟩
theorem witness_Tfrel_free : ∃ f s, admitted (.tfrel f) s = true ∧ (xRead s f.a).toNat < 16 ∧
    ¬(((coreOf s (curCore s)).tiles.get {} (xRead s f.a).toNat).st = .loading ∨ tileRead (coreOf s (curCore s)) (xRead s f.a).toNat = true) :=
  ⟨fE 0 1 0, withCore (onA [(1, 15)]) { tiles := [(15, { st := .staged })] }, by decide +kernel⟩
theorem witness_Tfrel_busy : ∃ f s, admitted (.tfrel f) s = true ∧ (xRead s f.a).toNat < 16 ∧
    (((coreOf s (curCore s)).tiles.get {} (xRead s f.a).toNat).st = .loading ∨ tileRead (coreOf s (curCore s)) (xRead s f.a).toNat = true) ∧
    cancelled s = false :=
  ⟨fE 0 1 0, withCore (onA [(1, 15)]) { tiles := [(15, { st := .loading })] }, by decide +kernel⟩

/-! ## Handles and the Catalogue -/

/-- A handle 0 at 0x2000: sides 0x4000 and 0x6000, length 0x1000, PUBS 255, SIDE 0, V 1; with OPEN. -/
def handleState (opened : Nat) (x : Tbl Word) : State :=
  modHart { onA x with mem := memOf [(0x2000, 32, 1 + opened * 8 + 255 * 256 + 0x1000 * 2 ^ 96 + 0x4000 * 2 ^ 128 + 0x6000 * 2 ^ 192)] } 0
    fun h => { h with hndbase := 0x2000, hndcount := 1 }
def handle0 (opened : Bool) : Handle :=
  { sideA := 0x4000, sideB := 0x6000, length := 0x1000, pubs := 255, stale := false, opened := opened, side := false, valid := true }
theorem witness_Handles_shadow : ∃ f s h pa l, handleWrite s (xRead s f.a) = .ok (h, pa, l) ∧ admitted (.shadow f) s = true ∧
    acknowledgedOn s (leadHart s) (· == f.strm.toNat) = true ∧ h.opened = false :=
  ⟨fE 0 1 0, handleState 0 [(1, 0)], handle0 false, 0x2000, hit 0x2000, okIs_eq (by decide +kernel), by decide +kernel, by decide +kernel, rfl⟩
theorem witness_Handles_shadowOpen : ∃ f s h pa l, handleWrite s (xRead s f.a) = .ok (h, pa, l) ∧ admitted (.shadow f) s = true ∧
    acknowledgedOn s (leadHart s) (· == f.strm.toNat) = true ∧ h.opened = true :=
  ⟨fE 0 1 0, handleState 1 [(1, 0)], handle0 true, 0x2000, hit 0x2000, okIs_eq (by decide +kernel), by decide +kernel, by decide +kernel, rfl⟩
theorem witness_Handles_publish : ∃ f s h pa l, handleWrite s (xRead s f.a) = .ok (h, pa, l) ∧ admitted (.publish f) s = true ∧ h.opened = true ∧
    h.stale = false ∧ (∀ c ∈ s.cores, ∀ e ∈ c.2.engines, writesHandle s pa e = false) ∧ orderedAll s (leadHart s) = true :=
  ⟨fE 0 1 0, handleState 1 [(1, 0)], handle0 true, 0x2000, hit 0x2000, okIs_eq (by decide +kernel), by decide +kernel, rfl, rfl, by decide +kernel,
    by decide +kernel⟩
theorem witness_Handles_closed : ∃ f s h pa l, handleWrite s (xRead s f.a) = .ok (h, pa, l) ∧ admitted (.publish f) s = true ∧ cancelled s = false ∧
    (h.opened = false ∨ h.stale = true) :=
  ⟨fE 0 1 0, handleState 0 [(1, 0)], handle0 false, 0x2000, hit 0x2000, okIs_eq (by decide +kernel), by decide +kernel, by decide +kernel, .inl rfl⟩
def intoHandle : EngineRec := { command 0x090 0x80000000000000 0 with hndbase := 0x2000, hndcount := 1 }
def publishing : State :=
  { handleState 1 [(1, 0)] with cores := [(0, { step := some stepInfo, phase := .running, frame := 0x4000000, engines := [intoHandle] })] }
theorem witness_Handles_writer : ∃ f s h pa l, handleWrite s (xRead s f.a) = .ok (h, pa, l) ∧ admitted (.publish f) s = true ∧ cancelled s = false ∧
    h.opened = true ∧ h.stale = false ∧ ∃ c ∈ s.cores, ∃ e ∈ c.2.engines, writesHandle s pa e = true :=
  ⟨fE 0 1 0, publishing, handle0 true, 0x2000, hit 0x2000, okIs_eq (by decide +kernel), by decide +kernel, by decide +kernel, rfl, rfl,
    by decide +kernel⟩
theorem witness_Handles_swap : ∃ f s u id, id < 256 ∧ s.cur = .hart id ∧ (hartOf s id).run = .running ∧ (hartOf s id).parked = true ∧
    standsAt s id = some (.publish f) ∧ publish f s = .ok u := by
  obtain ⟨u, hu⟩ := ok_of (publish (fE 0 1 0) (parkedAt (handleState 1 [(1, 0)]) (wordE 0x91 3 0 0 0 0 1 0))) (by decide +kernel)
  exact ⟨fE 0 1 0, parkedAt (handleState 1 [(1, 0)]) (wordE 0x91 3 0 0 0 0 1 0), u, 0, by decide, by decide, by decide +kernel, by decide +kernel,
    by decide +kernel, hu⟩

/-- An ordinary Catalogue at 0x2000: map table of 2^10 entries at 0x8000, three blocks with states at 0x3000, the pool at 0x10000, three names mapped. Name 5 has
block 0, shared with name 6; block 1 is free, or with `two` also block 2. -/
def catState (k : Catalogue) (x : Tbl Word) : State :=
  modHart { onA x with
    mem := memOf [(0x2000, 64, 1 + 10 * 4 + 3 * 2 ^ 32 + 3 * 2 ^ 96 + 0x10000 * 2 ^ 128 + 0x3000 * 2 ^ 192 + 0x8000 * 2 ^ 256)], catalogues := [(0x2000, k)] } 0
    fun h => { h with catbase := 0x2000 }
def twoNames : Catalogue := { names := [(6, 0), (5, 0), (9, 2)], counts := [(0, 2), (2, 1)] }
def catRaw : Nat := 1 + 10 * 4 + 3 * 2 ^ 32 + 3 * 2 ^ 96 + 0x10000 * 2 ^ 128 + 0x3000 * 2 ^ 192 + 0x8000 * 2 ^ 256
theorem catDesc_of (k : Catalogue) (x : Tbl Word) (name : Word) (h : isOk (catDesc (catState k x) name) = true)
    (g : (match catDesc (catState k x) name with | .ok p => decide (p.1 = { pa := 0x2000, raw := catRaw }) | .error _ => false) = true) :
    ∃ l, catDesc (catState k x) name = .ok ({ pa := 0x2000, raw := catRaw }, l) := by
  obtain ⟨⟨d, l⟩, e⟩ := ok_of _ h
  rw [e] at g
  exact ⟨l, by rw [e]; simp only [decide_eq_true_eq] at g; rw [g]⟩
theorem witness_Catalogue_alloc : ∃ f s d l b u loc m, catDesc s (xRead s f.a) = .ok (d, l) ∧ (xRead s f.a).toNat < 2 ^ 60 ∧
    orderedAll s (leadHart s) = true ∧ admitted (.catalloc f) s = true ∧ (catOf s d).find (xRead s f.a).toNat = none ∧
    4 * ((catOf s d).names.length + 1) ≤ 3 * 2 ^ d.mapLog ∧ takeBlock? s d (catOf s d) = some (b, u) ∧
    catLocation u d (xRead s f.a) b = .ok (loc, m) := by
  obtain ⟨l, hl⟩ := catDesc_of twoNames [(1, 7)] 7 (by decide +kernel) (by decide +kernel)
  have hf : (catOf (catState twoNames [(1, 7)]) { pa := 0x2000, raw := catRaw }).free { pa := 0x2000, raw := catRaw } = [1] := by decide +kernel
  refine ⟨fE 3 1 0, catState twoNames [(1, 7)], { pa := 0x2000, raw := catRaw }, l, 1,
    { catState twoNames [(1, 7)] with freeCount := (catState twoNames [(1, 7)]).freeCount + 1 }, 0x12000, [], hl, by decide +kernel, by decide +kernel,
    by decide +kernel, by decide +kernel, by decide +kernel, ?_, okIs_eq (by decide +kernel)⟩
  unfold takeBlock?
  rw [hf]
  simp [Nat.mod_one]
theorem witness_Catalogue_map : ∃ f s d l b loc m, catDesc s (xRead s f.a) = .ok (d, l) ∧ (xRead s f.a).toNat < 2 ^ 60 ∧
    orderedAll s (leadHart s) = true ∧ admitted (.catmap f) s = true ∧ (catOf s d).find (xRead s f.a).toNat = some b ∧
    (f.b.bits.getLsbD 0 = false ∨ (catOf s d).count b ≤ 1) ∧ catLocation s d (xRead s f.a) b = .ok (loc, m) := by
  obtain ⟨l, hl⟩ := catDesc_of twoNames [(1, 9)] 9 (by decide +kernel) (by decide +kernel)
  exact ⟨fE 3 1 1, catState twoNames [(1, 9)], { pa := 0x2000, raw := catRaw }, l, 2, 0x14000, [], hl, by decide +kernel, by decide +kernel,
    by decide +kernel, by decide +kernel, .inr (by decide +kernel), okIs_eq (by decide +kernel)⟩
theorem witness_Catalogue_copy : ∃ f s d l b new u q loc m, catDesc s (xRead s f.a) = .ok (d, l) ∧ ((xRead s f.a).toNat < 2 ^ 60 ∧
    orderedAll s (leadHart s) = true ∧ admitted (.catmap f) s = true ∧ (catOf s d).find (xRead s f.a).toNat = some b ∧
    f.b.bits.getLsbD 0 = true ∧ 1 < (catOf s d).count b ∧ d.row = false) ∧ catCopy s d (xRead s f.a) (catOf s d) b = .ok (new, u, q) ∧
    catLocation u d (xRead s f.a) new = .ok (loc, m) ∧ u.cur = s.cur ∧ ctl u = ctl s := by
  obtain ⟨l, hl⟩ := catDesc_of twoNames [(1, 5)] 5 (by decide +kernel) (by decide +kernel)
  let d : CatDesc := { pa := 0x2000, raw := catRaw }
  let s := catState twoNames [(1, 5)]
  have hf : (catOf s d).free d = [1] := by decide +kernel
  have ht : takeBlock? s d (catOf s d) = some (1, { s with freeCount := s.freeCount + 1 }) := by
    unfold takeBlock?
    rw [hf]
    simp [Nat.mod_one]
  have ho : (match catCopy s d 5 (catOf s d) 0 with
      | .ok r => decide (r.2.1.cur = s.cur ∧ ctl r.2.1 = ctl s)
      | .error _ => false) = true := by
    unfold catCopy
    rw [ht]
    decide +kernel
  cases hc : catCopy s d 5 (catOf s d) 0 with
  | error e => rw [hc] at ho; cases ho
  | ok r =>
  rw [hc] at ho
  obtain ⟨new, u, q⟩ := r
  refine ⟨fE 3 1 1, s, d, l, 0, new, u, q, BitVec.ofNat 64 ((0x10000 + 8192 * new) % 2 ^ 56), [], hl, by decide +kernel, hc, ?_,
    of_decide_eq_true ho⟩
  have hr : d.row = false := by decide +kernel
  have hp : d.pool = 0x10000 := by decide +kernel
  simp [catLocation, hr, hp]
/-- The two blocks of that copy, as the copy engine resolves them. -/
theorem witness_Catalogue_copies : ∃ (s : State) (d : CatDesc) (b new x y : Nat) (lx ly : List Resolved),
    (let s1 := { s with freeCount := s.freeCount + 1 }
     let c := hartCtx s (leadHart s)
     resolveRange s1 c { rd := true, peer := false } (BitVec.ofNat 64 (d.pool + 8192 * b)) 8192 =
       .ok { pieces := [(.phys x, 8192)], commits := lx } ∧
     resolveRange s1 c { wr := true, peer := false } (BitVec.ofNat 64 (d.pool + 8192 * new)) 8192 =
       .ok { pieces := [(.phys y, 8192)], commits := ly } ∧
     plainPlace s (.phys x) 8192 = true ∧ plainPlace s (.phys y) 8192 = true ∧ overlaps x 8192 y 8192 = false ∧
     overlaps d.pa 64 y 8192 = false ∧
     ∀ z ∈ tableBytes (lx ++ ly), overlaps z 1 x 8192 = false ∧ overlaps z 1 y 8192 = false) := by
  let s := catState twoNames [(1, 5)]
  obtain ⟨m, hm⟩ := ok_of (resolveRange { s with freeCount := s.freeCount + 1 } (hartCtx s 0) { rd := true, peer := false } 0x10000 8192)
    (by decide +kernel)
  obtain ⟨w, hw⟩ := ok_of (resolveRange { s with freeCount := s.freeCount + 1 } (hartCtx s 0) { wr := true, peer := false } 0x12000 8192)
    (by decide +kernel)
  have h : (match resolveRange { s with freeCount := s.freeCount + 1 } (hartCtx s 0) { rd := true, peer := false } 0x10000 8192,
      resolveRange { s with freeCount := s.freeCount + 1 } (hartCtx s 0) { wr := true, peer := false } 0x12000 8192 with
    | .ok m, .ok w => decide (m.pieces = [(.phys 0x10000, 8192)] ∧ w.pieces = [(.phys 0x12000, 8192)] ∧ tableBytes (m.commits ++ w.commits) = [])
    | _, _ => false) = true := by decide +kernel
  rw [hm, hw] at h
  obtain ⟨h1, h2, h3⟩ := of_decide_eq_true h
  obtain ⟨mp, mc⟩ := m
  obtain ⟨wp, wc⟩ := w
  refine ⟨s, { pa := 0x2000, raw := catRaw }, 0, 1, 0x10000, 0x12000, mc, wc, ?_, ?_, by decide +kernel, by decide +kernel, by decide +kernel,
    by decide +kernel, fun z hz => ?_⟩
  · simp only at h1; rw [← h1]; exact hm
  · simp only at h2; rw [← h2]; exact hw
  · simp only at h3; rw [h3] at hz; cases hz
theorem witness_Catalogue_share : ∃ f s d l, catDesc s (xRead s f.a) = .ok (d, l) ∧ (xRead s f.a).toNat < 2 ^ 60 ∧
    orderedAll s (leadHart s) = true ∧
    (let k := catOf s d
     let tgt := xRead s f.b
     let n := tgt.toNat % 2 ^ 17
     admitted (.catshare f) s = true ∧ bits tgt.toNat 17 15 = 0 ∧ n ≠ 0 ∧ (xRead s f.a).toNat % 65536 + n ≤ 65536 ∧
     (∀ i, i < n → ∃ b, k.find (catNames (xRead s f.a) tgt i).1 = some b ∧ k.count b + n ≤ 65535) ∧
     (∀ i, i < n → k.find (catNames (xRead s f.a) tgt i).2 = none)) := by
  obtain ⟨l, hl⟩ := catDesc_of twoNames [(1, 5), (2, 2 + 2 ^ 32)] 5 (by decide +kernel) (by decide +kernel)
  refine ⟨fE 0 1 2, catState twoNames [(1, 5), (2, 2 + 2 ^ 32)], { pa := 0x2000, raw := catRaw }, l, hl, by decide +kernel, by decide +kernel,
    by decide +kernel, by decide +kernel, by decide +kernel, by decide +kernel, ?_, by decide +kernel⟩
  intro i _
  exact ⟨0, (by decide +kernel : ∀ i, i < 2 → (catOf (catState twoNames [(1, 5), (2, 2 + 2 ^ 32)]) { pa := 0x2000, raw := catRaw }).find
    (catNames 5 (2 + 2 ^ 32) i).1 = some 0) i (by assumption), by decide +kernel⟩
theorem witness_Catalogue_free : ∃ f s d l b, catDesc s (xRead s f.a) = .ok (d, l) ∧ (xRead s f.a).toNat < 2 ^ 60 ∧
    orderedAll s (leadHart s) = true ∧ admitted (.catfree f) s = true ∧ (catOf s d).find (xRead s f.a).toNat = some b := by
  obtain ⟨l, hl⟩ := catDesc_of twoNames [(1, 6)] 6 (by decide +kernel) (by decide +kernel)
  exact ⟨fE 0 1 0, catState twoNames [(1, 6)], { pa := 0x2000, raw := catRaw }, l, 0, hl, by decide +kernel⟩
theorem witness_Catalogue_unmapped : ∃ f s d l i, catDesc s (xRead s f.a) = .ok (d, l) ∧ (xRead s f.a).toNat < 2 ^ 60 ∧
    orderedAll s (leadHart s) = true ∧ (i = Instr.catmap f ∨ i = .catfree f) ∧ admitted i s = true ∧ cancelled s = false ∧
    (catOf s d).find (xRead s f.a).toNat = none := by
  obtain ⟨l, hl⟩ := catDesc_of twoNames [(1, 7)] 7 (by decide +kernel) (by decide +kernel)
  exact ⟨fE 0 1 0, catState twoNames [(1, 7)], { pa := 0x2000, raw := catRaw }, l, _, hl, by decide +kernel, by decide +kernel, .inr rfl,
    by decide +kernel⟩


/-! ## Rows -/

/-- An open row register. -/
def opened (d : Row) : RowReg := { st := .opened, row := 5, restored := true, data := d }
/-- Rows 0 and 1 open in SAGs 1 and 2 of every bank of Pergola 0, SAG 3 open as well, at rc 1000; the others closed. -/
def rowBank : Bank := { o := [(1, opened 0x05060708), (2, opened 0x01020304), (3, opened 1)] }
def rowState (a : Agent) (x : Tbl Word) (b : Bank) : State :=
  { base a x with pergolas := [(0, { gang := a == .pergola 0, rc := 1000, lessee := 1, remain := 5000, banks := (List.range 8).map fun n => (n, b) })] }
def rowGang (x : Tbl Word) : State := rowState (.pergola 0) x rowBank
def rowAlone (x : Tbl Word) : State := rowState (.bank 0 3) x rowBank

/-- Row register `n` of bank `b` after an instruction. -/
def rowAfter (i : Instr) (s : State) (b n : Nat) : Option RowReg :=
  match exec i s with
  | .next t => some (regOf t 0 b n)
  | _ => none

theorem witness_Rows_act : ∃ f s b, admitted (.act f) s = true ∧ (actOrder s)[(perOf s (curPer s)).actDone]? = some b ∧
    ((perOf s (curPer s)).actDone = 0 → ∀ c ∈ rowBanks s, actCheck s (curPer s) f c = none ∧
      (regOf s (curPer s) c f.od.toNat).st = .closed ∧ actReady s (curPer s) c f.od.toNat = true) ∧
    (∀ c ∈ actGroup s (curPer s) b, actReady s (curPer s) c f.od.toNat = true ∧ (regOf s (curPer s) c f.od.toNat).st = .closed) ∧
    arbiterFree s (curPer s) b (actGroup s (curPer s) b).length = true :=
  ⟨fW 7 0 0 1, rowGang [(1, 7 + 8 * 766)], 0, by decide +kernel⟩
theorem test_act_opens : (rowAfter (.act (fW 7 0 0 1)) (rowAlone [(1, 7 + 8 * 766)]) 3 7).map (fun r => (r.st, r.row, r.actAt)) =
    some (.opening, 766, 1000) := by decide +kernel
theorem witness_Rows_pre : ∃ f s, admitted (.pre f) s = true ∧ ∀ b ∈ rowBanks s, preReady s (curPer s) b f.od.toNat = true ∧
    ((bankOf s (curPer s) b).sag f.od.toNat).forced = false := ⟨fW 1 0 0, rowGang [], by decide +kernel, by decide +kernel⟩
theorem witness_Rows_wb : ∃ (i : Instr) (f : FmtW) (s : State) (close : Bool), i = (if close then Instr.wbpre f else .wb f) ∧ admitted i s = true ∧
    ∀ b ∈ rowBanks s, wbReady s (curPer s) b f.od.toNat = true ∧ leaveFault s (curPer s) b f.od.toNat = none ∧
      ((bankOf s (curPer s) b).sag f.od.toNat).forced = false :=
  ⟨_, fW 1 0 0, rowAlone [], true, rfl, by decide +kernel, by decide +kernel⟩
theorem witness_Rows_ref : ∃ f s, admitted (.ref f) s = true ∧
    ∀ b ∈ rowBanks s, (regOf s (curPer s) b f.od.toNat).st = .closed ∧ ((bankOf s (curPer s) b).sag f.od.toNat).forced = false ∧
      ((bankOf s (curPer s) b).sag f.od.toNat).preEnd ≤ rcOf s (curPer s) ∧ ((bankOf s (curPer s) b).sag f.od.toNat).refEnd ≤ rcOf s (curPer s) :=
  ⟨fW 7 0 0, rowState (.pergola 0) [] { sags := [(7, { debt := 1, preEnd := 1000, nextRow := 762 })] }, by decide +kernel, by decide +kernel⟩
theorem witness_Rows_refq : ∃ f s, admitted (.refq f) s = true := ⟨fW 0 0 0 15, rowGang [], by decide +kernel⟩
theorem witness_Rows_rcopy : ∃ f s, admitted (.rcopy f) s = true ∧ f.od ≠ f.oa ∧
    rowReady s (fun b => { oa := some (b, f.oa.toNat), od := some f.od.toNat }) = true :=
  ⟨fW 3 1 0, rowGang [], by decide +kernel⟩

theorem witness_RowArithmetic : ∃ i f ob fused op s, rowTable i = some (f, ob, fused, op) ∧ admitted i s = true ∧
    (∀ b ∈ rowBanks s, rowFieldsOk i s b f ob = true) ∧ rowReady s (elemUse f ob fused) = true :=
  ⟨.rfma { fW 3 1 2 0 4 with masken := true, masko := 1 }, _, _, _, _, rowGang [], rfl, by decide +kernel⟩
theorem test_radd_saturates : (rowAfter (.radd { fW 3 1 2 0 4 with sat := true }) (rowState (.bank 0 3) []
    { o := [(1, opened 0x7F80), (2, opened 0x01FF), (3, opened 0)] }) 3 3).map (fun r => (r.st, r.data)) = some (.busy, 0x7F80) := by decide +kernel
theorem witness_RowArithmetic_closed : ∃ i f ob fused op s g b, rowTable i = some (f, ob, fused, op) ∧ admitted i s = true ∧ s.cur = .bank g b ∧
    inGroup s = false ∧ cancelled s = false ∧ rowFieldsOk i s b f ob = true ∧ rescuedOf s g ((elemUse f ob fused b).named b) = none ∧
    unforced s g ((elemUse f ob fused b).named b) = true ∧ (regOf s g b f.oa.toNat).st = .closed :=
  ⟨.radd (fW 3 7 2 0 4), _, _, _, _, rowAlone [], 0, 3, rfl, by decide +kernel⟩

theorem witness_RowCompare : ∃ f s, admitted (.rcmp f) s = true ∧
    (∀ b ∈ rowBanks s, rowFieldsOk (.rcmp f) s b f true = true ∧ f.imm6.toNat < 6 ∧ rcmpPoison s (curPer s) f b = none) ∧
    rowReady s (elemUse f true false) = true :=
  ⟨{ fW 3 1 2 0 4 with imm6 := 5 }, rowGang [], by decide +kernel⟩
theorem witness_RowSelect : ∃ f s, admitted (.rsel f) s = true ∧ (∀ b ∈ rowBanks s, rowPlain (rowEff s (curPer s) f b) = true) ∧
    rowReady s (fun b => { oa := some (b, f.oa.toNat), ob := some f.ob.toNat, od := some f.od.toNat, mo := some f.masko.toNat,
                           moRead := true }) = true :=
  ⟨{ fW 3 1 2 0 4 with masko := 3 }, rowAlone [], by decide +kernel⟩
theorem witness_RowConvert : ∃ f s, admitted (.rcvt f) s = true ∧
    (∀ b ∈ rowBanks s, (rowCvtOf s (curPer s) f b).ok = true ∧ maskFree f [f.oa] = true) ∧ rowReady s (elemUse f false false) = true :=
  ⟨{ fW 3 1 0 0 8 with imm6 := 9 }, rowGang [], by decide +kernel⟩

theorem witness_Tables_ldlut : ∃ f s, admitted (.ldlut f) s = true ∧ rowReady s (fun b => { oa := some (b, f.oa.toNat) }) = true :=
  ⟨fW 0 1 0, rowGang [], by decide +kernel, by decide +kernel⟩
theorem witness_Tables_ldsc : ∃ f s, admitted (.ldsc f) s = true ∧ rowReady s (fun b => { oa := some (b, f.oa.toNat) }) = true :=
  ⟨fW 0 1 0 1, rowGang [(1, 2047)], by decide +kernel, by decide +kernel⟩
theorem witness_Tables_lutdot : ∃ f s, admitted (.lutdot f) s = true ∧ (perOf s (curPer s)).dual = false ∧
    (∀ b ∈ rowBanks s, lutOk s (curPer s) f b = true ∧ latchReady s (curPer s) b f.q.toNat = true) ∧
    rowReady s (fun b => { oa := some (b, f.oa.toNat) }) = true :=
  ⟨{ fW 0 1 0 0 2 with imm6 := 1, q := 3 }, rowGang [], by decide +kernel⟩
theorem witness_Tables_lutdotGrouped : ∃ f s, admitted (.lutdot f) s = true ∧ (perOf s (curPer s)).dual = false ∧
    (∀ b ∈ rowBanks s, lutOk s (curPer s) f b = true ∧ latchReady s (curPer s) b f.q.toNat = true ∧
      ¬((rowEff s (curPer s) f b).code = 11 ∨ typeBlk (bankOf s (curPer s) b).rtype = 0)) ∧
    rowReady s (fun b => { oa := some (b, f.oa.toNat) }) = true :=
  ⟨{ fW 0 1 0 0 2 with q := 3 }, rowState (.pergola 0) [] { rowBank with rtype := 2 + 2 ^ 9 }, by decide +kernel⟩
theorem witness_Tables_dot : ∃ i f s, (i = Instr.rdot f ∨ i = .rsum f) ∧ admitted i s = true ∧ (perOf s (curPer s)).dual = false ∧
    (∀ b ∈ rowBanks s, (accum f = true → latchReady s (curPer s) b f.q.toNat = true) ∧
      (i = .rdot f → dotCheck i f 15 true (rowEff s (curPer s) f b) = none) ∧
      (i = .rsum f → dotCheck i f (if columnMode f then 8 else 15) (columnMode f || f.ob == 0) (rowEff s (curPer s) f b) = none)) ∧
    rowReady s (fun b => { oa := some (b, f.oa.toNat), ob := if i = .rdot f ∨ columnMode f = true then some f.ob.toNat else none }) = true :=
  ⟨.rdot { fW 0 1 2 0 10 with imm6 := 11 }, { fW 0 1 2 0 10 with imm6 := 11 }, rowGang [], .inl rfl, by decide +kernel⟩
theorem witness_Tables_qclr : ∃ f s, admitted (.qclr f) s = true ∧ (∀ b ∈ rowBanks s, (bankOf s (curPer s) b).laneFree ≤ rcOf s (curPer s)) :=
  ⟨{ fW 0 0 0 with q := 3 }, rowGang [], by decide +kernel, by decide +kernel⟩
theorem witness_Tables_qst : ∃ f s, admitted (.qst f) s = true ∧ (perOf s (curPer s)).dual = false ∧
    (∀ b ∈ rowBanks s, latchReady s (curPer s) b f.q.toNat = true ∧ codeFloat (rowEff s (curPer s) f b).code = true ∧
      256 * f.imm6.toNat + 256 ≤ rowMax (rowEff s (curPer s) f b).code) ∧ rowReady s (fun _ => { od := some f.od.toNat }) = true :=
  ⟨{ fW 3 0 0 0 10 with imm6 := 7 }, rowGang [], by decide +kernel⟩
theorem witness_Tables_rtopk : ∃ f s, admitted (.rtopk f) s = true ∧ 1 ≤ f.imm6.toNat ∧ f.imm6.toNat ≤ 32 ∧
    (∀ b ∈ rowBanks s, latchReady s (curPer s) b f.q.toNat = true) ∧ rowReady s (fun _ => { od := some f.od.toNat, odRead := true }) = true :=
  ⟨{ fW 3 0 0 1 with imm6 := 32 }, rowGang [], by decide +kernel⟩

theorem witness_Moves_shfl : ∃ f s, admitted (.shfl f) s = true ∧ inGang s = true ∧ f.imm6.toNat < 24 ∧
    rowReady s (fun b => { oa := some (shflSource f b, f.oa.toNat), od := some f.od.toNat }) = true :=
  ⟨{ fW 3 1 0 with imm6 := 23 }, rowGang [], by decide +kernel⟩
/-- Pergola 8 of the same lessee, to whose banks Pergola 0 sends. -/
def withNeighbour (s : State) : State := { s with pergolas := s.pergolas ++ [(8, { lessee := 1, remain := 5000 })] }
theorem witness_Moves_shrx : ∃ f s, admitted (.shrx f) s = true ∧
    (∀ b ∈ rowBanks s, (bankOf s (curPer s) b).shrx = 0 ∧ shrxCheck s f (curPer s) b = none ∧ shrxPoison s f (curPer s) b = none) ∧
    rowReady s (fun b => { oa := some (b, f.oa.toNat) }) = true ∧ (perOf s (curPer s)).dual = false :=
  ⟨fW 0 1 0 1, withNeighbour (rowGang [(1, 2 ^ 19)]), by decide +kernel⟩
theorem witness_Moves_shrxDone : ∃ f s, admitted (.shrx f) s = true ∧ (∃ b ∈ rowBanks s, (bankOf s (curPer s) b).shrx ≠ 0) ∧
    (∀ b ∈ rowBanks s, (bankOf s (curPer s) b).shrx ≤ 1) :=
  ⟨fW 0 1 0 1, rowState (.bank 0 3) [(1, 8)] { rowBank with shrx := 1 }, by decide +kernel⟩
theorem witness_Moves_shrxWaits : ∃ f s, admitted (.shrx f) s = true ∧ (∃ b ∈ rowBanks s, 1 < (bankOf s (curPer s) b).shrx) ∧ cancelled s = false :=
  ⟨fW 0 1 0 1, rowState (.bank 0 3) [(1, 8)] { rowBank with shrx := 2 }, by decide +kernel⟩
def sentRow : SentRow := { data := 7, poison := 0, sender := 0x8003 }
theorem witness_Moves_delivery : ∃ s g b r rest, g < 1152 ∧ b < 8 ∧ (bankOf s g b).inbox = none ∧
    (bankOf s g b).arrived ++ (bankOf s g b).sending.filter (rowArrived s g) = r :: rest :=
  ⟨rowState (.pergola 0) [] { sending := [sentRow] }, 0, 7, sentRow, [], by decide +kernel⟩
theorem witness_Moves_noDelivery : ∃ s g b, g < 1152 ∧ b < 8 ∧ ((bankOf s g b).inbox.isSome = true ∨
    (bankOf s g b).arrived ++ (bankOf s g b).sending.filter (rowArrived s g) = []) :=
  ⟨rowState (.pergola 0) [] { inbox := some sentRow, sending := [sentRow] }, 0, 7, by decide, by decide, .inl (by decide +kernel)⟩
theorem witness_Moves_rcast : ∃ f s m, admitted (.rcast f) s = true ∧ portRange s (curPer s) (xRead s f.sa) false = .ok m ∧
    (∀ p ∈ m.pieces, plainPlace s p.1 p.2 = true) ∧ busOpen s (curPer s) = true ∧ rowReady s (fun _ => { od := some f.od.toNat }) = true := by
  obtain ⟨m, hm⟩ := ok_of (portRange (rowGang [(1, 0x8000)]) 0 0x8000 false) (by decide +kernel)
  have h : (match portRange (rowGang [(1, 0x8000)]) 0 0x8000 false with
    | .ok m => decide (∀ p ∈ m.pieces, plainPlace (rowGang [(1, 0x8000)]) p.1 p.2 = true)
    | .error _ => false) = true := by decide +kernel
  rw [hm] at h
  exact ⟨fW 3 0 0 1, rowGang [(1, 0x8000)], m, by decide +kernel, hm, of_decide_eq_true h, by decide +kernel, by decide +kernel⟩
theorem witness_Moves_rout : ∃ f s, admitted (.rout f) s = true ∧ busOpen s (curPer s) = true ∧
    (∀ b ∈ rowBanks s, portFault s (curPer s) ((hartOf s (bankId (curPer s) b)).opnd f.sa) true = none ∧
      leaveFault s (curPer s) b f.oa.toNat = none) ∧ rowReady s (fun b => { oa := some (b, f.oa.toNat) }) = true :=
  ⟨fW 0 1 0 1, rowGang [(1, 0x8000)], by decide +kernel⟩
theorem witness_Moves_routBytes : ∃ f s b pa m, admitted (.rout f) s = true ∧ rowBanks s = [b] ∧ (perOf s (curPer s)).dual = false ∧
    portRange s (curPer s) ((hartOf s (bankId (curPer s) b)).opnd f.sa) true = .ok m ∧ m.pieces = [(.phys pa, 8192)] ∧
    landsPlain (commitAll s m.commits) pa 8192 := by
  obtain ⟨m, hm⟩ := ok_of (portRange (rowAlone [(1, 0x8000)]) 0 0x8000 true) (by decide +kernel)
  have h : (match portRange (rowAlone [(1, 0x8000)]) 0 0x8000 true with
    | .ok m =>
      decide (m.pieces = [(.phys 0x8000, 8192)] ∧
      (∀ u ∈ savedFrames (commitAll (rowAlone [(1, 0x8000)]) m.commits), overlaps 0x8000 8192 u.1 u.2.2 = false) ∧
      recordsHit (commitAll (rowAlone [(1, 0x8000)]) m.commits) 0x8000 8192 = [])
    | .error _ => false) = true := by decide +kernel
  rw [hm] at h
  exact ⟨fW 0 1 0 1, rowAlone [(1, 0x8000)], 3, 0x8000, m, by decide +kernel, by decide +kernel, by decide +kernel, hm, (of_decide_eq_true h).1,
    (of_decide_eq_true h).2⟩
theorem witness_Moves_rred : ∃ f s, admitted (.rred f) s = true ∧
    (∀ b ∈ rowBanks s, rowPlain (rowEff s (curPer s) f b) = true ∧ (f.xm = true → f.masko ≠ f.od) ∧ (bankOf s (curPer s) b).inbox.isSome = true) ∧
    rowReady s (fun _ => { od := some f.od.toNat, odRead := !f.imm6.getLsbD 0,
                           mo := if f.masken || f.xm then some f.masko.toNat else none, moRead := f.masken, moWrite := f.xm }) = true :=
  ⟨fW 3 0 0 0 4, rowState (.bank 0 3) [] { rowBank with inbox := some sentRow }, by decide +kernel⟩

theorem witness_Gangs_gang : ∃ f s, admitted (.gang f) s = true ∧ inGang s = true := ⟨fW 0 0 0, rowGang [], by decide +kernel, by decide +kernel⟩
theorem witness_Gangs_alone : ∃ f s, admitted (.gang f) s = true ∧ inGang s = false := ⟨fW 0 0 0, rowAlone [], by decide +kernel, by decide +kernel⟩
/-- Pergola 0 in split mode, every bank at the rendezvous, or bank 7 still running. -/
def atRendezvous (last : HartRun) : State :=
  { rowAlone [] with harts := (List.range 8).map fun b => (bankId 0 b, { hart [] with run := if b = 7 then last else .atGang }),
                     pergolas := [(0, { gang := false, step := some stepInfo, phase := .running })] }
theorem witness_Gangs_rendezvous : ∃ s g b bs, g < 1152 ∧ liveBanks s g = b :: bs ∧ (perOf s g).gang = false ∧ (perOf s g).phase = .running ∧
    (∀ c ∈ b :: bs, (hartOf s (bankId g c)).run = .atGang) ∧ standsAtYield s g b = false :=
  ⟨atRendezvous .atGang, 0, 0, [1, 2, 3, 4, 5, 6, 7], by decide +kernel⟩
theorem witness_Gangs_notYet : ∃ s g b bs, g < 1152 ∧ liveBanks s g = b :: bs ∧
    ((perOf s g).gang = true ∨ ∃ c ∈ b :: bs, (hartOf s (bankId g c)).run ≠ .atGang) :=
  ⟨atRendezvous .running, 0, 0, [1, 2, 3, 4, 5, 6, 7], by decide, by decide +kernel, .inr (by decide +kernel)⟩
theorem witness_Gangs_split : ∃ f s, admitted (.split f) s = true ∧ inGang s = true := ⟨fW 0 0 0, rowGang [], by decide +kernel, by decide +kernel⟩
theorem witness_Gangs_splitAgain : ∃ f s, admitted (.split f) s = true ∧ inGang s = false := ⟨fW 0 0 0, rowAlone [], by decide +kernel, by decide +kernel⟩
theorem witness_Gangs_bmask : ∃ f s, admitted (.bmask f) s = true ∧ f.imm6.toNat / 16 ≠ 3 :=
  ⟨{ fW 0 0 0 1 with imm6 := 0x14 }, rowGang [], by decide +kernel, by decide⟩
theorem witness_Gangs_bmaskReserved : ∃ f s, admitted (.bmask f) s = true ∧ f.imm6.toNat / 16 = 3 ∧ cancelled s = false :=
  ⟨{ fW 0 0 0 1 with imm6 := 0x30 }, rowGang [], by decide +kernel⟩
theorem witness_Gangs_byield : ∃ f s, admitted (.byield f) s = true ∧ inGang s = true ∧ (perOf s (curPer s)).step = none :=
  ⟨fW 0 0 0, rowGang [], by decide +kernel⟩
theorem witness_Gangs_byieldAlone : ∃ f s, admitted (.byield f) s = true ∧ inGang s = false := ⟨fW 0 0 0, rowAlone [], by decide +kernel, by decide +kernel⟩
theorem witness_Gangs_lease : ∃ f s, admitted (.lease f) s = true := ⟨fW 0 0 0 3, rowGang [], by decide +kernel⟩
theorem witness_Gangs_rgete : ∃ f s, admitted (.rgete f) s = true ∧ rowReady s (fun b => { oa := some (b, f.oa.toNat) }) = true ∧
    (∀ b ∈ rowBanks s, (rowEff s (curPer s) f b).code ≠ 11 ∧ rgetePoison s (curPer s) f b = none) :=
  ⟨{ fW 0 1 0 3 4 with sb := r 2 }, rowGang [(2, 8191)], by decide +kernel⟩
theorem witness_Gangs_rsete : ∃ f s, admitted (.rsete f) s = true ∧ rowReady s (fun _ => { od := some f.od.toNat }) = true ∧
    (∀ b ∈ rowBanks s, (rowEff s (curPer s) f b).code ≠ 11) :=
  ⟨{ fW 3 0 0 1 4 with sb := r 2 }, rowGang [(2, 8192)], by decide +kernel⟩


/-! ## Vectors -/

/-- A vector register of 32-bit elements, the first given. -/
def v32 (l : List Nat) : VReg := BitVec.ofNat 8192 (l.foldr (fun w n => w % 2 ^ 32 + n * 2 ^ 32) 0)
/-- An X-hart whose core has vl 3 at INT32 or another format, v1 and v2 filled. -/
def vecCore (type : Word := 7) : Core :=
  { vl := 3, vtype := type, v := [(1, v32 [5, 0x7FFFFFFF, 9]), (2, v32 [1, 1, 0xFFFFFFFF]), (3, v32 [1, 0, 1, 1]), (4, v32 [2, 2, 2, 2])] }
def vec (x : Tbl Word) (type : Word := 7) : State := withCore (onX x) (vecCore type)
/-- Element `e` of vector register `n` at 32 bits after an instruction. -/
def vAfter (i : Instr) (s : State) (n e : Nat) : Option Nat :=
  match exec i s with
  | .next t => some (vAt t 32 n e)
  | _ => none

theorem witness_VectorElementwise_goes : ∃ i f srcs cls op s, vecTable i = some (f, srcs, cls, op) ∧ admitted i s = true ∧
    cls (vEff s).code = true ∧ vPlain s = true ∧ vMaskFree f srcs = true ∧
    vGoes s srcs ((if f.masken || f.xm then [f.mreg.toNat] else []) ++ [f.vd.num.toNat]) = true :=
  ⟨.vadd { fV 4 1 2 0 with masken := true, mreg := 3, xm := true, sat := true }, _, _, _, _, vec [], rfl, by decide +kernel, rfl, by decide +kernel⟩
theorem witness_VectorElementwise_none : ∃ i f srcs cls op s, vecTable i = some (f, srcs, cls, op) ∧ admitted i s = true ∧
    cls (vEff s).code = true ∧ vPlain s = true ∧ vMaskFree f srcs = true ∧
    (∀ o ∈ srcs, o.fe = true → vEmpty (vCore s) o.num.toNat = false) ∧ (vCore s).vl = 0 :=
  ⟨.vmul (fV 4 1 2 0), _, _, _, _, withCore (onX []) {}, rfl, by decide +kernel, rfl, by decide +kernel⟩
theorem witness_VectorElementwise_trap : ∃ i f srcs cls op s o, vecTable i = some (f, srcs, cls, op) ∧ admitted i s = true ∧
    cls (vEff s).code = true ∧ vPlain s = true ∧ vMaskFree f srcs = true ∧
    (srcs.find? fun o => o.fe && vEmpty (vCore s) o.num.toNat) = some o ∧ cancelled s = false :=
  ⟨.vsqrt { fV 4 1 0 0 with va := op 0 true 1 }, _, _, _, _, withCore (onX []) { vempty := 2 }, _, rfl, by decide +kernel, by decide +kernel,
    by decide +kernel, by decide +kernel, rfl, by decide +kernel⟩
theorem witness_VectorElementwise_stays : ∃ i f srcs cls op s, vecTable i = some (f, srcs, cls, op) ∧ admitted i s = true ∧
    cls (vEff s).code = true ∧ vPlain s = true ∧ vMaskFree f srcs = true ∧
    (∀ o ∈ srcs, o.fe = true → vEmpty (vCore s) o.num.toNat = false) ∧ (vCore s).vl ≠ 0 ∧
    vGoes s srcs ((if f.masken || f.xm then [f.mreg.toNat] else []) ++ [f.vd.num.toNat]) = false ∧ cancelled s = false :=
  ⟨.vfma (fV 4 1 2 3), _, _, _, _, withCore (onX []) { vempty := 8, vl := 1 }, rfl, by decide +kernel, rfl, by decide +kernel⟩
theorem witness_VectorElementwise_format : ∃ i f srcs cls op s, vecTable i = some (f, srcs, cls, op) ∧ admitted i s = true ∧
    cls (vEff s).code = false ∧ cancelled s = false :=
  ⟨.vshl (fV 4 1 2 0), _, _, _, _, vec [] 10, rfl, by decide +kernel⟩
theorem test_vadd_wraps_and_saturates : (vAfter (.vadd (fV 4 1 2 0)) (vec []) 4 1, vAfter (.vadd { fV 4 1 2 0 with sat := true }) (vec []) 4 1) =
    (some 0x80000000, some 0x7FFFFFFF) := by decide +kernel
theorem test_vadd_mask_keeps : (vAfter (.vadd { fV 4 1 2 0 with masken := true, mreg := 3 }) (vec []) 4 1,
    vAfter (.vadd { fV 4 1 2 0 with masken := true, mreg := 3 }) (vec []) 4 2, vAfter (.vadd (fV 4 1 2 0)) (vec []) 4 3) =
    (some 2, some 8, some 2) := by decide +kernel
theorem test_vmul_fp32 : vAfter (.vmul (fV 4 1 2 0)) (withCore (onX []) { vl := 1, v := [(1, v32 [0x3FC00000]), (2, v32 [0x40000000])] }) 4 0 =
    some 0x40400000 := by decide +kernel

theorem witness_Vector_vcmp : ∃ f s, admitted (.vcmp f) s = true ∧ vPlain s = true ∧ f.vc.bits.toNat % 8 < 6 ∧
    vGoes s [f.va, f.vb] ((if f.masken then [f.mreg.toNat] else []) ++ [f.vd.num.toNat]) = true :=
  ⟨fV 4 1 2 5, vec [], by decide +kernel⟩
theorem test_vcmp_less_is_signed : (vAfter (.vcmp (fV 4 1 2 2)) (vec []) 4 0, vAfter (.vcmp (fV 4 2 1 2)) (vec []) 4 2) = (some 0, some 1) := by
  decide +kernel
theorem witness_Vector_vmerge : ∃ f s, admitted (.vmerge f) s = true ∧ vPlain s = true ∧
    vGoes s [f.va, f.vb] [f.mreg.toNat, f.vd.num.toNat] = true :=
  ⟨{ fV 4 1 2 0 with mreg := 3 }, vec [], by decide +kernel⟩
theorem witness_Vector_vpopc : ∃ i f s, (i = .vpopc f ∨ i = .vfirst f) ∧ admitted i s = true ∧ vPlain s = true ∧
    vGoes s [f.va] (if f.masken then [f.mreg.toNat] else []) = true :=
  ⟨_, fV 5 3 0 0, vec [], .inl rfl, by decide +kernel⟩
theorem test_vpopc_below_vl : after (.vpopc (fV 5 3 0 0)) (vec []) 5 = some 2 := by decide +kernel
theorem test_vfirst_none : after (.vfirst (fV 5 4 0 0)) (vec []) 5 = some 0xFFFFFFFFFFFFFFFF := by decide +kernel
theorem witness_Vector_vcvt : ∃ f s, admitted (.vcvt f) s = true ∧ vcvtOk s f = true ∧
    (let F := vEff s
     let dfmt := f.vc.bits.toNat % 16
     let dblk := f.vc.bits.toNat / 128 % 4
     vGoes s (if codeGrouped dfmt dblk then [f.va, f.vb] else [f.va])
      ((if f.masken || f.xm then [f.mreg.toNat] else []) ++ (if codeGrouped F.code F.blk then [F.sreg] else []) ++ [f.vd.num.toNat]) = true) :=
  ⟨fV 4 1 0 10, vec [], by decide +kernel⟩
theorem test_vcvt_to_fp32 : (vAfter (.vcvt (fV 4 2 0 10)) (vec []) 4 0, vAfter (.vcvt (fV 4 2 0 10)) (vec []) 4 2) =
    (some 0x3F800000, some 0xBF800000) := by decide +kernel
theorem witness_Vector_vsetvl : ∃ f s, admitted (.vsetvl f) s = true := ⟨fV 5 1 0 0, vec [(1, 1000)], by decide +kernel⟩
theorem test_vsetvl_is_cut : after (.vsetvl (fV 5 1 0 0)) (vec [(1, 1000)]) 5 = some 256 := by decide +kernel
theorem witness_Vector_vsettype : ∃ f s, admitted (.vsettype f) s = true ∧ typeOk false (xRead s f.va) = true :=
  ⟨fV 5 1 0 0, vec [(1, 6)], by decide +kernel, by decide +kernel⟩
theorem witness_Vector_vsettype_refused : ∃ f s, admitted (.vsettype f) s = true ∧ typeOk false (xRead s f.va) = false ∧ cancelled s = false :=
  ⟨fV 5 1 0 0, vec [(1, 12)], by decide +kernel⟩
theorem witness_Vector_vrdhw : ∃ f s, admitted (.vrdhw f) s = true := ⟨fV 5 0 0 0, vec [], by decide +kernel⟩
theorem witness_Vector_vallot : ∃ f s n, admitted (.vallot f) s = true ∧ n = (xRead s f.va).toNat ∧ (n = 8 ∨ n = 16 ∨ n = 32) ∧
    ∀ r, n ≤ r → r < 32 → vEmpty (vCore s) r = false :=
  ⟨fV 5 1 0 0, vec [(1, 16)], 16, by decide +kernel, by decide, by decide, fun r _ _ => by
    show BitVec.getLsbD (0 : BitVec 32) r = false
    simp⟩
theorem witness_Vector_complete : ∃ s c r, c < 128 ∧ r < 32 ∧ r ∈ (coreOf s c).vpend :=
  ⟨withCore (onX []) { vpend := [4], vempty := 16 }, 0, 4, by decide, by decide, by decide⟩
theorem witness_Vector_complete_not : ∃ s c r, c < 128 ∧ r < 32 ∧ r ∉ (coreOf s c).vpend := ⟨onX [], 127, 31, by decide, by decide, by decide⟩

theorem witness_VectorMove_vcompress : ∃ f s, admitted (.vcompress f) s = true ∧ vPlain s = true ∧
    (let g := indexGroup f.vd.num.toNat (vCore s).vl
     g.all (fun n => decide (n < 32 ∧ n < (vCore s).allot) && n != f.va.num.toNat && !(f.masken && n == f.mreg.toNat)) = true ∧
     vGoes s [f.va] ((if f.masken then [f.mreg.toNat] else []) ++ g) = true) :=
  ⟨fV 4 3 0 0, vec [], by decide +kernel⟩
theorem test_vcompress_indices : vAfter (.vcompress (fV 4 3 0 0)) (vec []) 4 0 = some 0x20000 := by decide +kernel
theorem witness_VectorMove_vgather : ∃ f s, admitted (.vgather f) s = true ∧ vPlain s = true ∧ f.vd.num ≠ f.va.num ∧
    (let g := indexGroup f.vb.num.toNat (vCore s).vl
     g.all (fun n => decide (n < 32 ∧ n < (vCore s).allot) && n != f.vd.num.toNat) = true ∧
     vGoes s [f.va, f.vb] ((if f.masken then [f.mreg.toNat] else []) ++ g ++ [f.vd.num.toNat]) = true) :=
  ⟨fV 4 1 3 0, vec [], by decide +kernel⟩
theorem witness_VectorMove_vslide : ∃ f s, admitted (.vslide f) s = true ∧ vPlain s = true ∧ f.vd.num ≠ f.va.num ∧
    vGoes s [f.va] ((if f.masken then [f.mreg.toNat] else []) ++ [f.vd.num.toNat]) = true :=
  ⟨fV 4 1 2 1, vec [(2, 1)], by decide +kernel⟩
theorem test_vslide_up_and_down : (vAfter (.vslide (fV 4 1 2 1)) (vec [(2, 1)]) 4 1, vAfter (.vslide (fV 4 1 2 0)) (vec [(2, 1)]) 4 1,
    vAfter (.vslide (fV 4 1 2 0)) (vec [(2, 1)]) 4 2) = (some 5, some 9, some 0) := by decide +kernel
theorem witness_VectorMove_vred : ∃ f s, admitted (.vred f) s = true ∧ vPlain s = true ∧ f.vc.bits.toNat % 8 < 6 ∧
    vGoes s [f.va, f.vb] ((if f.masken then [f.mreg.toNat] else []) ++ [f.vd.num.toNat]) = true :=
  ⟨fV 4 1 2 0, vec [], by decide +kernel⟩
theorem witness_VectorMove_vtopk : ∃ f s n, admitted (.vtopk f) s = true ∧ n = f.vc.bits.toNat % 64 ∧ 1 ≤ n ∧ n ≤ 32 ∧
    vGoes s [f.va, f.vb] [f.vd.num.toNat] = true :=
  ⟨fV 4 1 2 32, vec [], 32, by decide +kernel⟩
theorem witness_VectorMove_viota : ∃ i f s, (i = .viota f ∧ codeFloat (vEff s).code = false ∨ i = .vbcast f) ∧ admitted i s = true ∧
    vPlain s = true ∧ vGoes s [] ((if f.masken then [f.mreg.toNat] else []) ++ [f.vd.num.toNat]) = true :=
  ⟨.viota (fV 4 0 0 0), _, vec [], .inl ⟨rfl, by decide +kernel⟩, by decide +kernel⟩
theorem witness_VectorMove_vbcast : ∃ i f s, (i = .viota f ∧ codeFloat (vEff s).code = false ∨ i = .vbcast f) ∧ admitted i s = true ∧
    vPlain s = true ∧ vGoes s [] ((if f.masken then [f.mreg.toNat] else []) ++ [f.vd.num.toNat]) = true :=
  ⟨.vbcast (fV 4 1 0 0), _, vec [], .inr rfl, by decide +kernel⟩
theorem witness_VectorMove_vext : ∃ f s, admitted (.vext f) s = true ∧ vPlain s = true ∧ vGoes s [f.va] [] = true :=
  ⟨fV 5 1 2 0, vec [(2, 257)], by decide +kernel⟩
theorem test_vext_sign : after (.vext (fV 5 2 2 0)) (vec [(2, 258)]) 5 = some 0xFFFFFFFFFFFFFFFF := by decide +kernel


/-! ## Vector memory and the matrix unit -/

def unitEntry (st : Bool) : ReplayEntry := { data := 0x11223344, cause := 0, strm := 0, size := 2, st := st, reg := 4, unit := 255, va := 0x1000 }
theorem witness_VectorUnits_load : ∃ (s : State) (id n pa : Nat) (e : ReplayEntry) (va : Word) (p : Place) (l : List Resolved), n = sizeBytes e.size ∧
    resolveRange s (hartCtx s id) { loadReq n with align := if e.size = 3 then 1 else n } va n = .ok { pieces := [(p, n)], commits := l } ∧
    e.st = false ∧ plainPlace (commitAll s l) p n = true ∧ (if e.size = 3 then 4 else n) * (e.unit.toNat + 1) ≤ 1024 ∧ p = .phys pa :=
  ⟨vec [], 1, 4, 0x1000, unitEntry false, 0x1000, .phys 0x1000, [hit 0x1000], by decide, okIs_eq (by decide +kernel), rfl, by decide +kernel,
    by decide, rfl⟩
theorem witness_VectorUnits_store : ∃ (s : State) (id n pa : Nat) (e : ReplayEntry) (va : Word) (l : List Resolved), n = sizeBytes e.size ∧
    e.size ≠ 3 ∧ e.half = 3 ∧
    resolveRange s (hartCtx s id) (storeReq n) va n = .ok { pieces := [(.phys pa, n)], commits := l } ∧ e.st = true ∧
    landsPlain (commitAll s l) pa n :=
  ⟨vec [], 1, 4, 0x1000, unitEntry true, 0x1000, [hit 0x1000], by decide, by decide, rfl, okIs_eq (by decide +kernel), rfl, by
    unfold landsPlain; decide +kernel⟩
/-- The conditions of a whole vector load or store. -/
def VmGoes (i : Instr) (f : FmtR) (s : State) (load : Bool) (srcs : List Opnd) (others : List Nat) (units : List VUnit) (bytes : Nat) : Prop :=
  vmForm s i = some (f, load, srcs, others, units, bytes) ∧ admitted i s = true ∧
    acknowledgedOn s (leadHart s) (· == (f.mod.extractLsb' 0 4).toNat) = true ∧
    (∀ n ∈ others, liveLoad (hartOf s (leadHart s)) (BitVec.ofNat 5 n) = false) ∧
    vGoes s (srcs ++ if f.mod.getLsbD 8 then [f.c] else []) (others ++ if load then [f.d.num.toNat] else []) = true ∧
    ((hartOf s (leadHart s)).vdone = [] → meetsEntry (hartOf s (leadHart s)) units = false) ∧ (load = true → chained s f units = false) ∧
    (let left := units.filter fun u => !(hartOf s (leadHart s)).vdone.contains u.entry.unit.toNat
     let o := unitOrder s (leadHart s) left
     let r := o.1.foldl (runOne (leadHart s)) { s := o.2 }
     let meet (u v : VUnit) := unitsMeet (u.lane, u.places s (leadHart s)) (v.lane, v.places s (leadHart s))
     left.all (fun u => !u.entry.st || left.all fun v => !meet u v) = true ∧ r.stop = false ∧ r.wait = false)
/-- An A-hart over the same registers. -/
def vecA (x : Tbl Word) : State := withCore (onA x) (vecCore 7)
theorem witness_VectorMemory_load : ∃ i f s srcs others units bytes, VmGoes i f s true srcs others units bytes :=
  ⟨.vldx (fR 4 1 3 0), _, vecA [(1, 0x1000)], _, _, _, _, rfl, by decide +kernel, by decide +kernel, by decide +kernel, by decide +kernel,
    fun _ => by decide +kernel, fun _ => by decide +kernel, by decide +kernel⟩
theorem witness_VectorMemory_store : ∃ i f s srcs others units bytes, VmGoes i f s false srcs others units bytes :=
  ⟨.vsts (fR 1 1 2 0), _, vecA [(1, 0x1000), (2, 8)], _, _, _, _, rfl, by decide +kernel, by decide +kernel, by decide +kernel, by decide +kernel,
    fun _ => by decide +kernel, fun _ => by decide +kernel, by decide +kernel⟩
theorem witness_VectorMemory_addresses : ∃ (f : FmtR) (s : State) (u : VUnit) (load : Bool),
    u ∈ vmList s f (!load) fun u => xRead s f.a + BitVec.ofNat 64 (u * vmSize (vmCode s f)) :=
  ⟨fR 4 1 0 0, vecA [(1, 0x1000)], ⟨{ unitEntry false with data := 0, unit := 0 }, 0x1000⟩, true, by decide +kernel⟩
theorem witness_VectorMemory_strided : ∃ (f : FmtR) (s : State) (u : VUnit) (load : Bool),
    u ∈ vmList s f (!load) fun u => xRead s f.a + BitVec.ofNat 64 u * xRead s f.b :=
  ⟨fR 4 1 2 0, vecA [(1, 0x1000), (2, 0xFFFFFFFFFFFFFFF8)], ⟨{ unitEntry false with data := 0, unit := 2, va := 0xFF0 }, 0xFF0⟩, true, by decide +kernel⟩
theorem witness_VectorMemory_indexed : ∃ (f : FmtR) (s : State) (u : VUnit) (load : Bool),
    u ∈ vmList s f (!load) fun u => xRead s f.a + vmIndex s f u * BitVec.ofNat 64 (vmSize (vmCode s f)) :=
  ⟨fR 4 1 2 0, vecA [(1, 0x1000)], ⟨{ unitEntry false with data := 0, unit := 2, va := 0xFFC }, 0xFFC⟩, true, by decide +kernel⟩
theorem witness_VectorMemory_packed : ∃ (f : FmtR) (s : State) (u : VUnit), (vCore s).vl ≤ 2048 ∧ u ∈ vscList s f :=
  ⟨fR 4 1 0 0, vecA [(1, 0x1000)], ⟨{ unitEntry false with data := 0, unit := 0, size := 3 }, 0x1000⟩, by decide +kernel,
    by decide +kernel⟩
theorem test_vst_stores : (match exec (.vst (fR 1 1 0 0)) (vecA [(1, 0x1000)]) with
    | .next t => leNat (readBytes t 0x1004 4)
    | _ => 0) = 0x7FFFFFFF := by decide +kernel
theorem test_vld_loads : vAfter (.vld (fR 5 1 0 0)) { vecA [(1, 0x1000)] with mem := memOf [(0x1008, 4, 77)] } 5 2 = some 77 := by decide +kernel

/-- Slot 0 is context 1's, pinned. -/
def mat (x : Tbl Word) (pin : Bool := true) : State := withCore (onX x) { vecCore 10 with slots := [(0, { owner := 1, v := true, p := pin })] }
theorem witness_Matrix_product : ∃ (i : Instr) (f : FmtX) (p : Prod) (s : State), productOf i s = some (f, p) ∧ admitted i s = true ∧
    p.check s (curCore s) (instrWord i) = .ok () ∧ (p.staged = true → ((vCore s).tiles.get {} p.bOff).st ≠ .loading) ∧ inFlight (vCore s) < 8 ∧
    (∀ x ∈ p.targets (curCore s), slotReady s x.1 p.slot true = true) :=
  ⟨.mma (fX 0 1 2 4 10), _, _, mat [(4, 1 + 2 ^ 16 + 4 * 2 ^ 32)], rfl, by decide +kernel, okIs_eq (by decide +kernel), by decide +kernel⟩
theorem witness_Matrix_refused : ∃ (i : Instr) (f : FmtX) (p : Prod) (s : State) (e : BitVec 8 × Word), productOf i s = some (f, p) ∧
    admitted i s = true ∧ p.check s (curCore s) (instrWord i) = .error e ∧ cancelled s = false :=
  ⟨.mma (fX 0 1 2 4 10), _, _, mat [], (Cause.reservedField, instrWord (.mma (fX 0 1 2 4 10))), rfl, by decide +kernel, errIs_eq (by decide +kernel),
    by decide +kernel⟩
theorem witness_Matrix_spn : ∃ (f : FmtX) (s : State), f.spn = 0 ∧ admitted (.mmas f) s = true ∧ cancelled s = false :=
  ⟨fX 0 1 2 4 10, mat [], by decide +kernel⟩
theorem witness_Matrix_mzero : ∃ (f : FmtX) (s : State), admitted (.mzero f) s = true ∧ slotReady s (curCore s) f.slot.toNat true = true :=
  ⟨fX 0 0 0 0, mat [], by decide +kernel, by decide +kernel⟩
theorem witness_Matrix_mpin : ∃ (f : FmtX) (s : State) (x : Nat × Nat), admitted (.mpin f) s = true ∧
    liveScope s (leadHart s) (xRead s f.db) = some x ∧ slotReady s (curCore s) f.slot.toNat false = true ∧
    (slotOf s (curCore s) f.slot.toNat).p = false ∧
    findKey s (curCore s) (hartOf s (leadHart s)).context (hartOf s (leadHart s)).spillbase (xRead s f.dk) (some f.slot.toNat) = .ok none :=
  ⟨fX 0 0 1 2, withScopes (mat [(1, 0x1000), (2, 99)] false), (0x1000, 0x10000 + 7 * 2 ^ 32), by decide +kernel, by decide +kernel, by decide +kernel,
    by decide +kernel, okIs_eq (by decide +kernel)⟩
theorem witness_Matrix_munpin : ∃ (f : FmtX) (s : State), admitted (.munpin f) s = true ∧ slotReady s (curCore s) f.slot.toNat false = true ∧
    (slotOf s (curCore s) f.slot.toNat).p = true := ⟨fX 0 0 0 0, mat [], by decide +kernel⟩
theorem witness_Matrix_munpin_not : ∃ (f : FmtX) (s : State), admitted (.munpin f) s = true ∧ slotReady s (curCore s) f.slot.toNat false = true ∧
    (slotOf s (curCore s) f.slot.toNat).p = false ∧ cancelled s = false :=
  ⟨fX 0 0 0 0, mat [] false, by decide +kernel⟩
theorem witness_Matrix_mxfl : ∃ (f : FmtX) (s : State), admitted (.mxfl f) s = true ∧ slotReady s (curCore s) f.slot.toNat false = true :=
  ⟨fX 0 5 0 1, mat [], by decide +kernel, by decide +kernel⟩
theorem witness_Matrix_mfind : ∃ (f : FmtX) (s : State) (q : Option Nat), admitted (.mfind f) s = true ∧
    findKey s (curCore s) (hartOf s (leadHart s)).context (hartOf s (leadHart s)).spillbase (xRead s f.dk) none = .ok q :=
  ⟨fX 0 5 0 2, mat [], some 0, by decide +kernel, okIs_eq (by decide +kernel)⟩
/-- One token, S of 1 by 1: K, V, Q, G, O in v1 to v5. -/
def fast1 : Word := BitVec.ofNat 64 (2 ^ 41 + 2 ^ 33 + 2 ^ 25 + 5 * 2 ^ 20 + 4 * 2 ^ 15 + 3 * 2 ^ 10 + 2 * 2 ^ 5 + 1)
theorem witness_Matrix_mdelta : ∃ (f : FmtX) (s : State) (d : Fast), admitted (.mdelta f) s = true ∧ d = { raw := (xRead s f.dk).toNat } ∧
    fastCheck (.mdelta f) s f d (fastGroup d.kreg (d.t * d.dk) ++ fastGroup d.qreg (d.t * d.dk) ++ fastGroup d.vreg (d.t * d.dv) ++ [d.greg])
      (fastGroup d.oreg (d.t * d.dv)) true = .ok () ∧
    (∀ n ∈ fastGroup d.kreg (d.t * d.dk) ++ fastGroup d.qreg (d.t * d.dk) ++ fastGroup d.vreg (d.t * d.dv) ++ [d.greg] ++
      fastGroup d.oreg (d.t * d.dv), vEmpty (vCore s) n = false) ∧
    inFlight (vCore s) < 8 ∧ slotReady s (curCore s) f.slot.toNat true = true ∧ (slotOf s (curCore s) f.slot.toNat).p = true :=
  ⟨fX 0 0 0 1 10, mat [(1, fast1)], ⟨fast1.toNat⟩, by decide +kernel, by decide +kernel, okIs_eq (a := ()) (by decide +kernel), by decide +kernel⟩
theorem witness_Matrix_mread : ∃ (f : FmtX) (s : State) (d : Fast), admitted (.mread f) s = true ∧ d = { raw := (xRead s f.dk).toNat } ∧
    fastCheck (.mread f) s f d (fastGroup d.qreg (d.t * d.dk)) (fastGroup f.da.num.toNat (d.t * d.dv))
      (d.oreg == 0 && d.greg == 0 && d.vreg == 0 && d.kreg == 0) = .ok () ∧
    (∀ n ∈ fastGroup d.qreg (d.t * d.dk) ++ fastGroup f.da.num.toNat (d.t * d.dv), vEmpty (vCore s) n = false) ∧
    slotReady s (curCore s) f.slot.toNat false = true ∧ (slotOf s (curCore s) f.slot.toNat).p = true :=
  ⟨fX 0 5 0 1 10, mat [(1, BitVec.ofNat 64 (2 ^ 41 + 2 ^ 33 + 2 ^ 25 + 3 * 2 ^ 10))], ⟨2 ^ 41 + 2 ^ 33 + 2 ^ 25 + 3 * 2 ^ 10⟩, by decide +kernel,
    by decide +kernel, okIs_eq (a := ()) (by decide +kernel), by decide +kernel⟩
theorem witness_Matrix_complete : ∃ s c n, c < 128 ∧ n < 8 ∧ n ∈ (coreOf s c).mpend :=
  ⟨withCore (onX []) { mpend := [7, 7] }, 0, 7, by decide, by decide, by decide⟩
theorem witness_Matrix_complete_not : ∃ s c n, c < 128 ∧ n < 8 ∧ n ∉ (coreOf s c).mpend ∧
    workAt s c n (fun _ => true) = none := ⟨onX [], 127, 7, by decide, by decide, by decide, by decide⟩
/-- Core 0 has a product of slot 7 in flight, caught by a stop or not. -/
def workOn7 (again : Bool) : MatrixWork := { entry := command 0x1C080 0 0, slot := 7, again := again, tiles := [{ core := 0, before := {} }] }
def working (again : Bool) : State := withCore (onX []) { matrix := [workOn7 again] }
theorem witness_Matrix_complete_work : ∃ s c n x, c < 128 ∧ n < 8 ∧ n ∉ (coreOf s c).mpend ∧ workAt s c n (fun w => !w.again) = some x :=
  ⟨working false, 0, 7, (0, 0), by decide +kernel⟩
theorem witness_Matrix_complete_caught : ∃ s c n k j w, c < 128 ∧ n < 8 ∧ n ∉ (coreOf s c).mpend ∧ workAt s c n (fun w => !w.again) = none ∧
    workAt s c n (fun w => w.again) = some (k, j) ∧ (coreOf s k).matrix[j]? = some w ∧
    (w.entry.fpend = true ∨ whereStep s w.entry.info ≠ .core k ∨ (coreOf s k).phase ≠ .running) :=
  ⟨working true, 0, 7, 0, 0, workOn7 true, by decide, by decide, by decide +kernel, by decide +kernel, by decide +kernel, by decide +kernel, .inr (.inl (by decide +kernel))⟩
/-- The X-hart of core 0 stands at MZERO of slot 5. -/
def missing : State := parkedAt (onX []) (wordX 0x80 2 0 0 0 0 0 0 0 0 5)
theorem witness_Matrix_miss : ∃ (s : State) (c n : Nat) (ctx : BitVec 16), c < 128 ∧ n < 8 ∧
    (let h := hartOf s (xHartId c)
     (h.run = .running ∧ h.context = ctx ∧ slotFree s c n ctx false = true ∧ (standsAt s (xHartId c)).bind namedSlot = some n) ∧
     deviceArea s (spillAddr h.spillbase c n) 128 = true ∧ spillLive s (spillAddr h.spillbase c n) = false ∧
     (slotOf s c n).v = false ∧ firstPoison s (spillAddr h.spillbase c n) 128 = none) :=
  ⟨missing, 0, 5, 1, by decide +kernel⟩
theorem witness_Matrix_miss_not : ∃ (s : State) (c n : Nat) (ctx : BitVec 16), c < 128 ∧ n < 8 ∧
    ¬((hartOf s (xHartId c)).run = .running ∧ (hartOf s (xHartId c)).context = ctx ∧ slotFree s c n ctx false = true ∧
      (standsAt s (xHartId c)).bind namedSlot = some n) := ⟨missing, 0, 4, 1, by decide +kernel⟩
theorem test_mxfl_clears_on_bit0 : (match exec (.mxfl (fX 0 5 0 1)) (withCore (onX []) { slots := [(0, { owner := 1, v := true, sticky := 0x11 })] }) with
    | .next t => ((hartOf t 1).get 5, (slotOf t 0 0).sticky)
    | _ => (0, 0)) = (0x11, 0) := by decide +kernel


/-! ## The device's own steps -/

theorem witness_Device_aStart : ∃ s k f, k < 128 ∧ (hartOf s (xHartId k)).run = .running ∧ (hartOf s (xHartId k)).parked = true ∧
    standsAt s (xHartId k) = some (.fork f) ∧ ((hartOf s (xHartId k)).opnd f.a).toNat % 4 = 0 ∧ (hartOf s (aHartId k)).run = .idle :=
  ⟨modHart (parkedAt (onX [(1, 0x40)]) (wordR 0x23 0 0 0 0 1 0)) 1 fun h => { h with parked := true }, 0, fR 0 1 0 0, by decide +kernel⟩
theorem witness_Device_aStart_not : ∃ s k, k < 128 ∧ (hartOf s (xHartId k)).parked = false := ⟨onX [], 127, by decide, by decide⟩
theorem witness_Device_mwait : ∃ s id f code, hasMonitor id = true ∧ (hartOf s id).run = .running ∧ (hartOf s id).mwaitFrom.isSome = true ∧
    standsAt s id = some (.mwait f) ∧ waitEnds (hartOf s id) (clockOfHart s id).ltime ((hartOf s id).opnd f.a) = some code :=
  ⟨modHart (parkedAt (onA [(1, 5)]) (wordR 0x23 7 0 0 0 1 3)) 0 fun h =>
      { h with mwaitFrom := some 0, monitor := some { line := 0x1080, triggered := false, lost := true } },
    0, fR 3 1 0 0, 2, by decide +kernel⟩
theorem witness_Device_mwait_not : ∃ s id, hasMonitor id = true ∧ (hartOf s id).mwaitFrom = none := ⟨onA [], 0, by decide, by decide⟩
theorem witness_Device_kill : ∃ s id i, id < 256 ∧ (hartOf s id).killReq = true ∧ (hartOf s id).live = true ∧ atKillPoint s id = true ∧
    stepOfHart s id = some i ∧ (coreOf s (coreOfHart id)).vqueue = [] ∧
    outstanding s id (fun p => p.kind != .copy && !p.wants) = false :=
  ⟨modHart (withCore (onX []) { step := some stepInfo, phase := .running }) 1 fun h => { h with killReq := true, boundary := true }, 1, stepInfo,
    by decide +kernel⟩
theorem witness_Device_kill_not : ∃ s id, id < 256 ∧ (hartOf s id).killReq = false := ⟨onX [], 255, by decide, by decide⟩
theorem witness_Device_land : ∃ s n k pa, overlayExists n = true ∧ k < overlayBlocks n ∧ (blockAt s n k).st = .pending ∧
    (blockAt s n k).image = some pa ∧ firstPoison s pa 128 = none ∧ ((framesInUse s).any fun f => overlaps pa 128 f.1 f.2) = false ∧
    recordsHit s pa 128 = [] :=
  ⟨{ onA [] with pavilions := [(63, { overlay := [(4095, { st := .pending, context := 1, source := 0x1000, image := some 0x1000 })] })] }, 63, 4095,
    0x1000, by decide +kernel⟩
theorem witness_Device_land_not : ∃ s n k, overlayExists n = true ∧ k < overlayBlocks n ∧ (blockAt s n k).st ≠ .pending :=
  ⟨onA [], 1223, 511, by decide, by decide, by decide⟩
theorem witness_Device_tlbinv : ∃ (s : State) (c : BitVec 16) (va : BitVec 38), tlbBusy s (c ++ 0#10 ++ va) = false ∧
    tlbBusy s (c ++ 1#2 ++ 0#46) = false ∧ tlbBusy s (0#16 ++ 2#2 ++ 0#46) = false :=
  ⟨onA [], 1, 0, by decide +kernel⟩
theorem witness_Device_register : ∃ (id a : Nat) (v w : Word) (k : HartKind), kindOfId id = some k ∧ csrPlain k a v = true ∧ a ≠ 0x12 ∧
    controlStored a v = some w := ⟨0, 0x10, 0x403, 0x400, .aHart, by decide +kernel⟩
theorem witness_Device_register_not : ∃ (id a : Nat) (v : Word) (k : HartKind), kindOfId id = some k ∧ csrPlain k a v = false :=
  ⟨0, 0x2, 0, .aHart, by decide, by decide⟩
theorem witness_Device_room : ∃ s id e l c, id < 256 ∧ (hartOf s id).roomWait = e :: l ∧ (hartOf s id).ih = false ∧
    (hartOf s id).replay.length < 64 ∧ runUnit s id 0 e (e.va.setWidth 64) = .bad c :=
  ⟨modHart (onA []) 0 fun h => { h with roomWait := [{ unitEntry false with va := 0x1001 }] }, 0, _, _, Cause.misalign, by decide, rfl,
    by decide +kernel⟩
theorem witness_Device_room_not : ∃ s id e l, id < 256 ∧ (hartOf s id).roomWait = e :: l ∧ ((hartOf s id).ih = true ∨ 64 ≤ (hartOf s id).replay.length) :=
  ⟨modHart (onA []) 0 fun h => { h with roomWait := [unitEntry false], ih := true }, 0, _, _, by decide, rfl, .inl (by decide +kernel)⟩
theorem witness_Device_late : ∃ s k q l, k < 128 ∧ (coreOf s k).vqueue = q :: l ∧ (hartOf s (xHartId k)).live = true ∧
    (hartOf s (xHartId k)).killReq = false ∧ canTrap (hartOf s (xHartId k)) = true :=
  ⟨withCore (onX []) { vqueue := [{ pc := 8, instr := .vadd (fV 4 1 2 0) }] }, 0, _, _, by decide, rfl, by decide +kernel⟩

/-- Bank 3 of Pergola 0 in split mode, its SAG 2 and that SAG's row register given; rc 1000. -/
def sagState (o : RowReg) (g : Sag) : State :=
  { onBank [] with pergolas := [(0, { gang := false, rc := 1000, lessee := 1, remain := 5000, step := some stepInfo, phase := .running,
                                       banks := (List.range 8).map fun n => (n, { o := [(2, o)], sags := [(2, g)] }) })] }
theorem witness_Device_rowOpen : ∃ s g b n, g < 1152 ∧ b < 8 ∧ n < 8 ∧ (regOf s g b n).st = .opening ∧ (regOf s g b n).actAt + 18 ≤ rcOf s g :=
  ⟨sagState { st := .opening, actAt := 982 } {}, 0, 3, 2, by decide +kernel⟩
theorem witness_Device_restored : ∃ s g b n, g < 1152 ∧ b < 8 ∧ n < 8 ∧ (regOf s g b n).st = .opened ∧ (regOf s g b n).restored = false ∧
    (regOf s g b n).actAt + 48 ≤ rcOf s g ∧ (regOf s g b n).lasting = false :=
  ⟨sagState { st := .opened, actAt := 952 } {}, 0, 3, 2, by decide +kernel⟩
theorem witness_Device_writer : ∃ s g b n, g < 1152 ∧ b < 8 ∧ n < 8 ∧ (regOf s g b n).st = .busy ∧ (regOf s g b n).busyEnd ≤ rcOf s g :=
  ⟨sagState { st := .busy, busyEnd := 1000 } {}, 0, 3, 2, by decide +kernel⟩
theorem witness_Device_writeback : ∃ s g b n m close, g < 1152 ∧ b < 8 ∧ n < 8 ∧ (regOf s g b n).wbEnd = some (m, close) ∧ m ≤ rcOf s g ∧
    (regOf s g b n).dirty = true :=
  ⟨sagState { st := .opened, dirty := true, wbEnd := some (1000, true) } {}, 0, 3, 2, 1000, true, by decide +kernel⟩
theorem witness_Device_rowOpen_early : ∃ s g b n, g < 1152 ∧ b < 8 ∧ n < 8 ∧ rcOf s g < (regOf s g b n).actAt + 18 ∧
    rcOf s g < (regOf s g b n).actAt + 48 ∧ (regOf s g b n).st = .opening ∧ (regOf s g b n).restored = false :=
  ⟨sagState { st := .opening, actAt := 983 } {}, 0, 3, 2, by decide +kernel⟩
theorem witness_Device_writer_early : ∃ s g b n, g < 1152 ∧ b < 8 ∧ n < 8 ∧ (regOf s g b n).st = .busy ∧ rcOf s g < (regOf s g b n).busyEnd :=
  ⟨sagState { st := .busy, busyEnd := 1001 } {}, 0, 3, 2, by decide +kernel⟩
theorem witness_Device_writeback_early : ∃ s g b n m close, g < 1152 ∧ b < 8 ∧ n < 8 ∧ (regOf s g b n).wbEnd = some (m, close) ∧ rcOf s g < m :=
  ⟨sagState { st := .opened, wbEnd := some (1001, false) } {}, 0, 3, 2, 1001, false, by decide +kernel⟩
theorem witness_Device_forced_early : ∃ s g b n, g < 1152 ∧ b < 8 ∧ n < 8 ∧ leased s g = true ∧ ((bankOf s g b).sag n).debt ≤ 8 ∧
    ((bankOf s g b).sag n).forced = false := ⟨sagState {} { debt := 8 }, 0, 3, 2, by decide +kernel⟩
theorem witness_Device_forced_running : ∃ s g b n, g < 1152 ∧ b < 8 ∧ n < 8 ∧ ((bankOf s g b).sag n).forced = true ∧
    rcOf s g < ((bankOf s g b).sag n).refEnd := ⟨sagState {} { debt := 9, forced := true, refEnd := 1001 }, 0, 3, 2, by decide +kernel⟩
theorem witness_Device_closed : ∃ s g b n, g < 1152 ∧ b < 8 ∧ n < 8 ∧ (regOf s g b n).st ≠ .opening ∧ (regOf s g b n).st ≠ .busy ∧
    (regOf s g b n).wbEnd = none ∧ rcOf s g < ((bankOf s g b).sag n).preEnd ∧ rcOf s g < ((bankOf s g b).sag n).refEnd ∧
    ((bankOf s g b).sag n).forced = false ∧ refdueOf s g b = false :=
  ⟨sagState {} { preEnd := 1001, refEnd := 1001 }, 0, 3, 2, by decide +kernel⟩
theorem witness_Device_restored_not : ∃ s g b n, g < 1152 ∧ b < 8 ∧ n < 8 ∧ (regOf s g b n).restored = true :=
  ⟨sagState { restored := true } {}, 0, 3, 2, by decide +kernel⟩
theorem witness_Device_marks : ∃ s g b n, g < 1152 ∧ b < 8 ∧ n < 8 ∧ 0 < ((bankOf s g b).sag n).preEnd ∧ ((bankOf s g b).sag n).preEnd ≤ rcOf s g ∧
    0 < ((bankOf s g b).sag n).refEnd ∧ ((bankOf s g b).sag n).refEnd ≤ rcOf s g ∧ ((bankOf s g b).sag n).forced = false :=
  ⟨sagState {} { preEnd := 1000, refEnd := 1 }, 0, 3, 2, by decide +kernel⟩
theorem test_refresh_debt_rises : (match exec (.refreshDebtRise 0) (sagState (opened 0) { debt := 5 }) with
    | .next t => (((bankOf t 0 3).sag 2).debt, ((bankOf t 0 3).sag 2).due)
    | _ => (0, false)) = (6, true) := by decide +kernel
theorem witness_Device_refdue : ∃ s g b, g < 1152 ∧ b < 8 ∧ refdueOf s g b = true ∧ issues s g b = true ∧ leaseCounts s g = true ∧
    (perOf s g).gang = false ∧ (perOf s g).dual = false ∧ canTrap (hartOf s (bankId g b)) = true ∧ (hartOf s (bankId g b)).killReq = false :=
  ⟨sagState {} { debt := 6, due := true }, 0, 3, by decide +kernel⟩
theorem witness_Device_forced_closed : ∃ s g b n, g < 1152 ∧ b < 8 ∧ n < 8 ∧ leased s g = true ∧ 9 ≤ ((bankOf s g b).sag n).debt ∧
    ((bankOf s g b).sag n).forced = false ∧ (regOf s g b n).st = .closed :=
  ⟨sagState {} { debt := 9 }, 0, 3, 2, by decide +kernel⟩
theorem witness_Device_forced_open : ∃ s g b n, g < 1152 ∧ b < 8 ∧ n < 8 ∧ leased s g = true ∧ 9 ≤ ((bankOf s g b).sag n).debt ∧
    ((bankOf s g b).sag n).forced = false ∧ (regOf s g b n).st = .opened ∧ (regOf s g b n).restored = true ∧ (regOf s g b n).wbEnd = none ∧
    (regOf s g b n).readEnd ≤ rcOf s g ∧ (regOf s g b n).dirty = true :=
  ⟨sagState { opened 7 with dirty := true } { debt := 9 }, 0, 3, 2, by decide +kernel⟩
theorem witness_Device_forced_not : ∃ s g, g < 1152 ∧ leased s g = false := ⟨onBank [], 1151, by decide, by decide⟩
theorem witness_Device_forced_done : ∃ s g b n, g < 1152 ∧ b < 8 ∧ n < 8 ∧ ((bankOf s g b).sag n).forced = true ∧
    (regOf s g b n).st = .rescued ∧ ((bankOf s g b).sag n).refEnd ≤ rcOf s g :=
  ⟨sagState { st := .rescued } { debt := 9, forced := true, refEnd := 1000 }, 0, 3, 2, by decide +kernel⟩

/-! ## Walkers, halts, leases -/

theorem witness_Sched_stop : ∃ s k i, k < 128 ∧ (coreOf s k).step = some i ∧ (coreOf s k).phase = .running ∧ (haltOf s i.context).st = .halting ∧
    accessesDone s k = true :=
  ⟨{ withCore (onX []) { step := some stepInfo, phase := .running } with halts := [(1, { st := .halting })] }, 0, stepInfo, by decide +kernel⟩
theorem witness_Sched_none : ∃ s k g, k < 128 ∧ g < 1152 ∧ (coreOf s k).step = none ∧ (perOf s g).step = none :=
  ⟨onX [], 127, 1151, by decide +kernel⟩
theorem witness_Sched_stopRow : ∃ s g i, g < 1152 ∧ (perOf s g).step = some i ∧ (perOf s g).phase = .running ∧
    (haltOf s i.context).st = .halting ∧ (perOf s g).actDone = 0 :=
  ⟨{ sagState {} {} with halts := [(1, { st := .halting })] }, 0, stepInfo, by decide +kernel⟩
theorem witness_Sched_halted : ∃ s c, 1 ≤ c ∧ c < 8192 ∧ (haltOf s (BitVec.ofNat 16 c)).st = .halting ∧ allStopped s (BitVec.ofNat 16 c) = true :=
  ⟨{ onX [] with halts := [(8191, { st := .halting })] }, 8191, by decide +kernel⟩
theorem witness_Sched_running : ∃ s c, 1 ≤ c ∧ c < 8192 ∧ (haltOf s (BitVec.ofNat 16 c)).st ≠ .halting ∧ (haltOf s (BitVec.ofNat 16 c)).st ≠ .halted :=
  ⟨onX [], 1, by decide +kernel⟩
theorem witness_Sched_resume : ∃ s c k i, 1 ≤ c ∧ c < 8192 ∧ (haltOf s (BitVec.ofNat 16 c)).st = .halted ∧ (coreOf s k).step = some i ∧
    (coreOf s k).phase = .stopped ∧ i.context = BitVec.ofNat 16 c :=
  ⟨{ withCore (onX []) { step := some stepInfo, phase := .stopped } with halts := [(1, { st := .halted })] }, 1, 0, stepInfo, by decide +kernel⟩
theorem witness_Sched_secondHalt : ∃ s c k i rest, 1 ≤ c ∧ c < 8192 ∧ (haltOf s (BitVec.ofNat 16 c)).st ≠ .running ∧
    faultlessUnits s (BitVec.ofNat 16 c) = .core k :: rest ∧ (coreOf s k).step = some i ∧ (coreOf s k).phase ≠ .stopped ∧ (coreOf s k).fault = none :=
  ⟨{ withCore (onX []) { step := some stepInfo, phase := .running } with halts := [(1, { st := .halting })] }, 1, 0, stepInfo, [], by decide +kernel⟩
theorem witness_Sched_secondHalt_stopped : ∃ s c k i rest, 1 ≤ c ∧ c < 8192 ∧ (haltOf s (BitVec.ofNat 16 c)).st ≠ .running ∧
    faultlessUnits s (BitVec.ofNat 16 c) = .core k :: rest ∧ (coreOf s k).step = some i ∧ (coreOf s k).phase = .stopped ∧
    deviceArea s ((coreOf s k).frame + 0x8000) 64 = true :=
  ⟨{ withCore (onX []) { step := some stepInfo, phase := .stopped, frame := 0x4000000 } with halts := [(1, { st := .halted })] }, 1, 0, stepInfo, [],
    by decide +kernel⟩
theorem witness_Sched_kill : ∃ s c k i, 1 ≤ c ∧ c < 8192 ∧ (haltOf s (BitVec.ofNat 16 c)).st = .halted ∧ k < 128 ∧ (coreOf s k).step = some i ∧
    (coreOf s k).phase = .stopped ∧ i.context = BitVec.ofNat 16 c ∧ (hartOf s (xHartId k)).live = true ∧
    (∀ id ∈ [aHartId k, xHartId k], outstanding s id (fun p => p.kind != .copy && !p.wants) = false) :=
  ⟨{ withCore (onX []) { step := some stepInfo, phase := .stopped } with halts := [(1, { st := .halted })] }, 1, 0, stepInfo, by decide +kernel⟩
def rootState : State := { withScopes (onX []) with halts := [(1, { st := .halted })], owned := [(0x40, .scope)] }
theorem witness_Sched_killRoot : ∃ s c q, 1 ≤ c ∧ c < 8192 ∧ (haltOf s (BitVec.ofNat 16 c)).st = .halted ∧ (∀ d, (haltOf s d).killing = false) ∧
    holdsNothing s (BitVec.ofNat 16 c) = true ∧ q ∈ knownScopes s (BitVec.ofNat 16 c) ∧ recState (recordAt s q) = 0 ∧
    recParent (recordAt s q) = 0 ∧ lineClear s (BitVec.ofNat 16 c) q := by
  have m : rootState.cores = [] ∧ rootState.pergolas = [] := by decide +kernel
  refine ⟨rootState, 1, 0x1000, by decide, by decide, by decide +kernel, fun d => ?_, by decide +kernel, by decide +kernel, by decide +kernel,
    by decide +kernel, fun k => ?_, by decide +kernel⟩
  · show ((Tbl.get ({} : HaltStat) [(1, { st := .halted })] d.toNat).killing) = false
    by_cases h : d.toNat = 1 <;> simp [Tbl.get, h]
  · unfold coreOf perOf; rw [m.1, m.2]
    exact ⟨(by decide : overlaps 4096 64 (({} : Core).frame + 32768) 64 = false), (by decide : overlaps 4096 64 ({} : Pergola).frame 64 = false)⟩
/-- A block of context 1 at 0x2000: its flags, and a one-step grid; octet 0 in its list at 0x4000. -/
def launchMem (flags : Nat) : List Host.Cell := memOf [(0x2000, 256, flags + 1 + 2 ^ 832 + 2 ^ 864 + (if flags = 0 then 0 else 0x4000 * 2 ^ 512 + 2 ^ 576))]
def blk0 : BlockRef := { context := 1, va := 0x2000 }
def queuedState : State :=
  { onX [] with mem := launchMem 0, wings := [(0, { queue1 := [blk0] })], nd := { started := true } }
theorem witness_Sched_select : ∃ s k p b m, (k < 128 ∧ coreFree s k = true ∧ launchesTaken s = true ∧
    (∀ q, q < 4 → (wingOf s (k / 16)).grants.get 0 q < 64) ∧ wingSuspended s (k / 16) = [] ∧
    poisonedHead s (wingOf s (k / 16)).queues = none ∧ p < 4 ∧ ∀ q, q < p → queueHead s (k / 16) k q = none) ∧
    queueHead s (k / 16) k p = some blk0 ∧ queued? s blk0 = some b ∧ (s.contexts.get {} blk0.context.toNat).v = true ∧
    segmentCheck (claim s blk0 b) (entryCtx (claim s blk0 b) blk0.context) (k / 2) (BitVec.ofNat 64 (blkCode b)) (blkSegoff b) (blkSeglen b) = .ok m :=
  ⟨queuedState, 0, 1, ⟨0x2000, 1 + 2 ^ 832 + 2 ^ 864⟩, {}, by decide +kernel, by decide +kernel, by decide +kernel, by decide +kernel, okIs_eq (by decide +kernel)⟩
theorem witness_Sched_select_not : ∃ s k, k < 128 ∧ (coreFree s k = false ∨ launchesTaken s = false) :=
  ⟨withCore (onX []) { step := some stepInfo }, 0, by decide, .inl (by decide)⟩
def claimState : State :=
  { onBank [] with mem := launchMem 0x2000, pergolas := [(0, { lessee := 1, remain := 9 })], wings := [(0, { rowClaims := [⟨blk0, 0⟩] })],
                   nd := { started := true } }
theorem witness_Sched_rowDispatch : ∃ s g w c b m, (g < 1152 ∧ perFree s g = true ∧ launchesTaken s = true ∧
    poisonedHead s ((List.range 8).map fun w => (wingOf s w).queues ++ (wingOf s w).rowClaims.map (·.block)).flatten = none) ∧
    claimedFor s g (fun _ _ => true) = some (w, c) ∧ queued? s c.block = some b ∧ (s.contexts.get {} c.block.context.toNat).v = true ∧
    leasedTo s g c.block.context = true ∧
    (let s1 := served (modWing s w fun v => { v with rowClaims := v.rowClaims.filter (· != c) }) g c.block
     segmentCheck s1 (entryCtx s1 c.block.context) (64 + g) (BitVec.ofNat 64 (blkCode b)) (blkSegoff b) (blkSeglen b) = .ok m) :=
  ⟨claimState, 0, 0, ⟨blk0, 0⟩, ⟨0x2000, 0x2000 + 1 + 2 ^ 832 + 2 ^ 864 + 0x4000 * 2 ^ 512 + 2 ^ 576⟩, {}, by decide +kernel, by decide +kernel, by decide +kernel, by decide +kernel, by decide +kernel, okIs_eq (by decide +kernel)⟩
def landingInfo : StepInfo := { stepInfo with launch := 0x2000 }
theorem witness_Sched_start : ∃ s k i b, k < 128 ∧ (coreOf s k).step = some i ∧ (coreOf s k).phase = .landing ∧
    readBlock s { hartCtx s (xHartId k) with pav := none } i.launch = .ok b ∧ ctxRunning s i.context = true ∧ segmentsReady s (k / 2) i b false = true :=
  ⟨{ withCore (onX []) { step := some landingInfo } with mem := launchMem 0 }, 0, landingInfo, ⟨0x2000, 1 + 2 ^ 832 + 2 ^ 864⟩, by decide,
    by decide +kernel, by decide +kernel, okIs_eq (by decide +kernel), by decide +kernel, by decide +kernel⟩
theorem witness_Sched_start_not : ∃ s k i b, k < 128 ∧ (coreOf s k).step = some i ∧ (coreOf s k).phase = .landing ∧
    readBlock s { hartCtx s (xHartId k) with pav := none } i.launch = .ok b ∧ ctxRunning s i.context = false ∧ (coreOf s k).fault = none :=
  ⟨{ withCore (onX []) { step := some landingInfo } with mem := launchMem 0, halts := [(1, { st := .halting })] }, 0, landingInfo,
    ⟨0x2000, 1 + 2 ^ 832 + 2 ^ 864⟩, by decide, by decide +kernel, by decide +kernel, okIs_eq (by decide +kernel), by decide +kernel⟩
theorem witness_Sched_startRow : ∃ s g i b, g < 1152 ∧ (perOf s g).step = some i ∧ (perOf s g).phase = .landing ∧
    readBlock s (entryCtx s i.context) i.launch = .ok b ∧ ctxRunning s i.context = true ∧ leasedTo s g i.context = true ∧
    segmentsReady s (64 + g) i b false = true :=
  ⟨{ onBank [] with mem := launchMem 0x2000, pergolas := [(1151, { lessee := 1, remain := 9, step := some landingInfo })] }, 1151, landingInfo,
    ⟨0x2000, 0x2000 + 1 + 2 ^ 832 + 2 ^ 864 + 0x4000 * 2 ^ 512 + 2 ^ 576⟩, by decide, by decide +kernel, by decide +kernel, okIs_eq (by decide +kernel),
    by decide +kernel⟩
theorem witness_Sched_save : ∃ s k i, k < 128 ∧ (coreOf s k).step = some i ∧ (coreOf s k).phase = .running ∧ (coreOf s k).preemptReq = true ∧
    atPoint s (xHartId k) = true ∧ atPoint s (aHartId k) = true ∧ (hartOf s (xHartId k)).run ≠ .idle ∧ accessesDone s k = true ∧
    i.killPa = none ∧ deviceArea s (coreFrame s i.context k i.prio) 0xA000 = true :=
  ⟨modHart (withCore (onX []) { step := some stepInfo, phase := .running, preemptReq := true }) 1 fun h => { h with boundary := true }, 0, stepInfo,
    by decide +kernel⟩
theorem witness_Sched_save_not : ∃ s k i, k < 128 ∧ (coreOf s k).step = some i ∧ (coreOf s k).phase = .running ∧ (coreOf s k).preemptReq = false :=
  ⟨withCore (onX []) { step := some stepInfo, phase := .running }, 0, stepInfo, by decide +kernel⟩
/-- A chain of context 1: the anchor at 0x1000 names the block at 0x2000, whose LINK is given. -/
def chainState (link : Nat) : State :=
  { onX [] with mem := memOf [(0x1006, 2, 1), (0x1010, 8, 0x2000), (0x2060, 8, link)], chains := [(63, some { anchor := 0x1000, context := 1 })] }
theorem witness_Sched_intake : ∃ s n ch a l, n < 64 ∧ s.chains.get none n = some ch ∧ (wingOf s (n % 8)).docStopped = false ∧ launchesTaken s = true ∧
    ctxRunning s ch.context = true ∧ deviceRead s (entryCtx s ch.context) ch.anchor.toNat 64 64 = .ok a ∧
    ctxRunning s (BitVec.ofNat 16 (bits a.2 48 16)) = true ∧
    deviceRead s (entryCtx s ch.context) (bits a.2 128 64 + 96) 8 8 = .ok l ∧ l.2 ≠ 0 ∧
    blockPoison s (entryCtx s ch.context) (BitVec.ofNat 64 l.2) = none :=
  ⟨chainState 0x2100, 63, { anchor := 0x1000, context := 1 }, (0x1000, 2 ^ 48 + 0x2000 * 2 ^ 128), (0x2060, 0x2100), by decide, by decide +kernel, by decide +kernel,
    by decide +kernel, by decide +kernel, okIs_eq (by decide +kernel), by decide +kernel, okIs_eq (by decide +kernel), by decide,
    by decide +kernel⟩
theorem witness_Sched_intake_none : ∃ s n ch a l, n < 64 ∧ s.chains.get none n = some ch ∧ (wingOf s (n % 8)).docStopped = false ∧
    launchesTaken s = true ∧ ctxRunning s ch.context = true ∧ deviceRead s (entryCtx s ch.context) ch.anchor.toNat 64 64 = .ok a ∧
    ctxRunning s (BitVec.ofNat 16 (bits a.2 48 16)) = true ∧
    deviceRead s (entryCtx s ch.context) (bits a.2 128 64 + 96) 8 8 = .ok l ∧ l.2 = 0 :=
  ⟨chainState 0, 63, { anchor := 0x1000, context := 1 }, (0x1000, 2 ^ 48 + 0x2000 * 2 ^ 128), (0x2060, 0), by decide, by decide +kernel, by decide +kernel,
    by decide +kernel, by decide +kernel, okIs_eq (by decide +kernel), by decide +kernel, okIs_eq (by decide +kernel), rfl⟩
theorem witness_Sched_restart : ∃ s w, w < 8 ∧ (wingOf s w).docStopped = true :=
  ⟨{ onX [] with wings := [(7, { docStopped := true, docCause := 3 })] }, 7, by decide, by decide⟩
theorem witness_Sched_restart_not : ∃ s w, w < 8 ∧ (wingOf s w).docStopped = false := ⟨onX [], 0, by decide, by decide⟩
theorem witness_Sched_lease : ∃ s g, g < 1152 ∧ leaseCounts s g = true ∧ rowStepHere s g = none ∧ (perOf s g).remain = 0 ∧ (perOf s g).watchdog = some 0 :=
  ⟨{ onBank [] with pergolas := [(1151, { lessee := 1, remain := 0, watchdog := some 0 })] }, 1151, by decide +kernel⟩
theorem witness_Sched_lease_not : ∃ s g, g < 1152 ∧ leaseCounts s g = false := ⟨onBank [], 0, by decide, by decide +kernel⟩


/-! ## The Ndetrief, the host, peers and ports -/

/-- A device that has started, at the end of a sampling period. -/
def sampling : State := { onA [] with nd := { started := true, ltime := 1000, nextSample := 1000 } }
theorem witness_Outside_reading : ∃ s : State, s.nd.ltime.toNat < s.nd.nextSample := ⟨onA [], by decide⟩
theorem witness_Outside_governor : ∃ (s : State) (c k f flow temp : Nat), s.nd.nextSample ≤ s.nd.ltime.toNat ∧ 2000 ≤ flow ∧ temp ≤ 95 ∧
    (c + k + f ≤ 2900 ∨ s.nd.computeStep ≠ 4 ∨ s.nd.rowWindow ≠ 8) ∧ 2800 < c + k + f ∧ s.nd.shareCompute < c ∧ s.nd.shareRow < k :=
  ⟨sampling, 1901, 751, 200, 2000, 95, by decide +kernel⟩
theorem test_governor_lowers : (match exec (.governorSample 1901 751 200 2000 95) sampling with
    | .next t => (t.nd.computeStep, t.nd.rowWindow)
    | _ => (0, 0)) = (15, 24) := by decide +kernel
theorem witness_Outside_raise : ∃ (s : State) (c k f : Nat), s.nd.nextSample ≤ s.nd.ltime.toNat ∧ c + k + f < 2700 := ⟨sampling, 1, 2, 3, by decide⟩
theorem witness_Outside_keep : ∃ (s : State) (c k f : Nat), s.nd.nextSample ≤ s.nd.ltime.toNat ∧ 2700 ≤ c + k + f ∧ c + k + f ≤ 2800 :=
  ⟨sampling, 1800, 750, 250, by decide⟩
theorem witness_Outside_cooling : ∃ (s : State) (flow temp : Nat), s.nd.nextSample ≤ s.nd.ltime.toNat ∧ (flow < 1000 ∨ 105 < temp) :=
  ⟨sampling, 999, 25, by decide⟩
theorem witness_Outside_gating : ∃ s, noStep s = true ∧ 1000000 ≤ s.nd.idleFor :=
  ⟨{ onA [] with nd := { started := true, idleFor := 1000000 } }, by decide⟩
theorem witness_Outside_gating_not : ∃ s, noStep s = false ∨ s.nd.idleFor < 1000000 := ⟨withCore (onX []) { step := some stepInfo }, .inl (by decide)⟩
theorem witness_Outside_notInService : ∃ s : State, (s.nd.started = false ∧ s.nd.safe = false ∨ s.nd.dead = true) := ⟨State.reset, by decide⟩
theorem witness_Outside_mailbox : ∃ (s : State) (a0 a1 : Word), inService s = true ∧ s.chains.get none (a1.toNat / 2 ^ 16 % 64) = none ∧
    1 ≤ a1.toNat % 2 ^ 16 ∧ a1.toNat % 2 ^ 16 < 8192 ∧ (s.contexts.get {} 8191).v = false ∧ a0.toNat = 0x300000 + 64 * 8191 + 16 ∧
    a0.toNat % 8 = 0 ∧ (devWord s a0.toNat).isSome = true :=
  ⟨onA [], 0x37FFD0, 0x3F1FFF, by decide +kernel⟩
theorem witness_Outside_emergency : ∃ (s : State) (c : BitVec 16), (∃ e ∈ s.contexts, e.2.v = true ∧ c = BitVec.ofNat 16 e.1) ∧
    (haltOf s c).st = .running := ⟨onA [], 1, by decide, by decide⟩
theorem witness_Outside_share : ∃ (s : State) (a b : Word), inService s = true ∧ a.toNat + b.toNat ≤ 2650 := ⟨onA [], 1900, 750, by decide, by decide⟩
theorem witness_Outside_share_not : ∃ (s : State) (a b : Word), inService s = true ∧ 2650 < a.toNat + b.toNat :=
  ⟨onA [], 1900, 751, by decide, by decide⟩
theorem witness_Outside_chain_taken : ∃ (s : State) (a1 : Word), inService s = true ∧ (s.chains.get none (a1.toNat / 2 ^ 16 % 64)).isSome = true :=
  ⟨chainState 0, 0x3F0001, by decide, by decide⟩
theorem witness_Outside_record : ∃ (s : State) (a b : Word), inService s = true ∧ a.toNat < 20 ∧ 20 ≤ b.toNat := ⟨onA [], 19, 20, by decide⟩
theorem witness_Outside_memory : ∃ (s : State) (pa : Nat) (bytes : List Byte),
    landsPlain s pa bytes.length ∧ hostSees s pa bytes.length = true ∧ 0 < bytes.length ∧
    pa < 2 ^ 44 ∧ packetRefusal s pa bytes.length false = none ∧ recordsHit s pa bytes.length = [] ∧
    ((framesInUse s).any fun f => overlaps pa bytes.length f.1 f.2) = false :=
  ⟨onA [], 0x1000, [1, 2], by unfold landsPlain; decide +kernel⟩
theorem witness_Outside_line : ∃ (s : State) (pa line : Nat) (bytes : List Byte),
    landsPlain s pa bytes.length ∧ line / 128 * 128 = pa ∧ 0x200000000000 ≤ pa ∧
    pa < 0x400000000000 ∧ 0 < bytes.length ∧ bytes.length ≤ 128 :=
  ⟨onA [], 0x3FFFFFFFFF80, 0x3FFFFFFFFFFF, [1], by unfold landsPlain; decide +kernel⟩
theorem witness_Outside_unseen : ∃ s pa n, hostSees s pa n = false := ⟨onA [], 0x10000000, 1, by decide +kernel⟩
theorem witness_Outside_refused : ∃ s link pa n c, link < 8 ∧ pa < 2 ^ 44 ∧ packetRefusal s pa n false = some c :=
  ⟨onA [], 7, 0x20000000000, 8, _, by decide, by decide, rfl⟩
theorem witness_Outside_atomic : ∃ s link pa sub n, link < 8 ∧ pa < 2 ^ 44 ∧ atomicOk sub n = true ∧ packetRefusal s pa n true = none ∧
    ((framesInUse s).any fun f => overlaps pa n f.1 f.2) = false ∧ recordsHit s pa n = [] :=
  ⟨onA [], 0, 0x1000, 0, 8, by decide +kernel⟩
theorem witness_Outside_monitor : ∃ (s : State) (line id : Nat) (m : Monitor), 0x200000000000 ≤ line / 128 * 128 ∧ line / 128 * 128 < 0x400000000000 ∧
    (hartOf s id).monitor = some m ∧ m.line = line / 128 * 128 ∧ m.triggered = false :=
  ⟨modHart (onA []) 0 fun h => { h with monitor := some { line := 0x200000000000, triggered := false } }, 0x200000000000, 0, _, by decide, by decide, rfl,
    by decide, by decide⟩
theorem witness_Outside_spdm : ∃ (s : State) (n : Nat), inService s = true ∧ 1 ≤ n ∧ n ≤ 5 := ⟨onA [], 5, by decide, by decide, by decide⟩
def sentRead : Packet :=
  { link := 3, kind := .read, address := 0x1000, size := 8, data := [], hart := 0, va := 0, strm := 0, wants := true, context := 1, launch := 0, step := 0 }
theorem witness_Outside_acknowledged : ∃ (s : State) (n : Nat) (p : Packet), s.packets.get none n = some p ∧ p.wants = true ∧ p.kind ≠ .copy ∧
    (hartOf s p.hart).awaiting = some n ∧ (s.nd.ports.get {} p.link).errCount = 0 :=
  ⟨modHart { onA [] with packets := [(4, some sentRead)] } 0 fun h => { h with awaiting := some 4 }, 4, _, rfl, by decide +kernel⟩
theorem witness_Outside_acknowledged_not : ∃ (s : State) (n : Nat), s.packets.get none n = none := ⟨onA [], 4, by decide⟩
theorem witness_Outside_port : ∃ (s : State) (k : Nat), k < 8 ∧ (s.nd.ports.get {} k).retraining = false ∧ (s.nd.ports.get {} k).rate ≠ 0 :=
  ⟨onA [], 7, by decide, by decide, by decide⟩
theorem witness_Outside_retraining : ∃ (s : State) (k : Nat), k < 8 ∧ (s.nd.ports.get {} k).retraining = true ∧ (s.nd.ports.get {} k).failedRetrains = 2 :=
  ⟨{ onA [] with nd := { started := true, ports := [(0, { retraining := true, failedRetrains := 2 })] } }, 0, by decide, by decide, by decide⟩
theorem witness_Outside_retraining_again : ∃ (s : State) (k : Nat), k < 8 ∧ (s.nd.ports.get {} k).retraining = true ∧
    (s.nd.ports.get {} k).failedRetrains < 2 :=
  ⟨{ onA [] with nd := { started := true, ports := [(7, { retraining := true, failedRetrains := 1 })] } }, 7, by decide, by decide, by decide⟩
theorem witness_Outside_stackPort : ∃ s k n, k < 12 ∧ portGranule s k n = true ∧ 8 ≤ s.stackReplays.get 0 k :=
  ⟨{ onA [] with stackReplays := [(11, 8)] }, 11, 0, by decide +kernel⟩
theorem witness_Outside_stackPort_first : ∃ s k n, k < 12 ∧ portGranule s k n = true ∧ s.stackReplays.get 0 k < 8 :=
  ⟨onA [], 0, 0, by decide +kernel⟩
theorem witness_Outside_stackPort_not : ∃ s k n, k < 12 ∧ portGranule s k n = false := ⟨onA [], 0, 2 ^ 35, by decide, by decide +kernel⟩
theorem witness_Outside_layer : ∃ s l, l < 144 ∧ (layerOf s l).requested = false ∧ (layerOf s l).realigning = false ∧
    (layerBusy s l = false ∨ 2 ≤ (layerOf s l).deferrals) := ⟨onA [], 143, by decide, by decide, by decide, .inl (by decide +kernel)⟩
theorem witness_Outside_layer_busy : ∃ s l, l < 144 ∧ (layerOf s l).requested = false ∧ (layerOf s l).realigning = false ∧ layerBusy s l = true ∧
    (layerOf s l).deferrals < 2 :=
  ⟨rowState (.bank 0 3) [] { laneFree := 2000, laneInstr := 0x243 }, 0, by decide +kernel⟩
theorem witness_Outside_layer_requested : ∃ s l, l < 144 ∧ (layerOf s l).requested = true ∧ deferralOver s l = true :=
  ⟨{ onA [] with layers := [(0, { requested := true })] }, 0, by decide, by decide, by decide +kernel⟩
theorem witness_Outside_layer_deferred : ∃ s l, l < 144 ∧ deferralOver s l = false := ⟨onA [], 0, by decide, by decide +kernel⟩
theorem witness_Outside_layer_realigning : ∃ s l, l < 144 ∧ (layerOf s l).realigning = true ∧ (layerOf s l).bundlesRetired = 0 :=
  ⟨{ onA [] with layers := [(0, { realigning := true })] }, 0, by decide, by decide, by decide⟩
theorem witness_Outside_bundlestat : ∃ s : State, s.nd.bundlestat.getLsbD 0 = true := ⟨{ onA [] with nd := { started := true, bundlestat := 1 } }, by decide⟩
theorem witness_Outside_restriping : ∃ s : State, s.nd.restriping = true := ⟨{ onA [] with nd := { started := true, restriping := true } }, by decide⟩
/-- FIPS 202's own example: SHA3-256 of the empty message is a7ffc6f8 bf1ed766 51c14756 a061d662 f580ff4d e43b49fa 82d80a4b 80f8434a. -/
theorem test_sha3_of_nothing : sha3 [] = 0x4a43f8804b0ad882fa493be44dff80f562d661a05647c15166d71ebff8c6ffa7 := by decide +kernel
theorem test_hostRead_answers : (match exec (.hostMemRead 0x1000 2) { onA [] with mem := memOf [(0x1000, 2, 0x0201)] } with
    | .next t => t.answer
    | _ => []) = [1, 2] := by decide +kernel

/-! ## Steps -/

def addWord : Nat := wordR 0x01 0 0 0 2 1 3
/-- A machine that has started, ADD before the agent. -/
def stepState (a : Agent) : State :=
  placeCode { (if a = .hart 0 then onA [(1, 5), (2, 6)] else if a = .pergola 0 then onGang [(1, 5), (2, 6)] else onBank [(1, 5), (2, 6)]) with
    ring := [if a = .hart 0 then a else .pergola 0] } (if a = .hart 0 then 0 else 64) 0 (leBytes 16 addWord)
/-- That machine with the ring turned, the agent issuing. -/
def turned (a c : Agent) : State := { stepState a with ring := [a], cur := c, waited := false }
theorem witness_Step_hart : ∃ s u id rest i, (startOver s = true ∧ commandDue s = false ∧ s.inputs = [] ∧ s.ring = .hart id :: rest ∧
    u = { s with ring := rest ++ [.hart id], cur := .hart id, waited := false } ∧ hartFree u id = true ∧ (hartOf u id).run = .running) ∧
    CodeAt u i ∧ issuingX u = none ∧ (coreOf s (coreOfHart id)).vqueue = [] :=
  ⟨stepState (.hart 0), turned (.hart 0) (.hart 0), 0, [], .add (fR 3 1 2 0), by decide +kernel, .inl ⟨addWord, 8, by decide +kernel, okIs_eq (by decide +kernel)⟩, by decide +kernel⟩
/-- The X-hart stands at an instruction, a VADD at offset 256 queued before it. -/
def queueState (w : Nat) : State :=
  { withCore (placeCode { onX [(1, 5), (2, 6)] with ring := [.hart 1] } 0 0 (leBytes 16 w))
      { step := some stepInfo, phase := .running, vqueue := [{ pc := 256, instr := .vadd (fV 4 1 2 0) }] } with ring := [.hart 1] }
def queueTurned (w : Nat) : State := { queueState w with cur := .hart 1, waited := false }
def vaddWord : Nat := wordV 0x60 0 0 0 0 0 0 0 2 1 5
theorem witness_Step_queued : ∃ s u id rest k i, (startOver s = true ∧ commandDue s = false ∧ s.inputs = [] ∧ s.ring = .hart id :: rest ∧
    u = { s with ring := rest ++ [.hart id], cur := .hart id, waited := false } ∧ hartFree u id = true ∧ (hartOf u id).run = .running) ∧
    issuingX u = some k ∧ CodeAt u i ∧ (coreOf s k).vqueue ≠ [] ∧ queued i = true :=
  ⟨queueState vaddWord, queueTurned vaddWord, 1, [], 0, .vadd (fV 5 1 2 0), by decide +kernel, by decide +kernel, .inl ⟨vaddWord, 8, by decide +kernel, okIs_eq (by decide +kernel)⟩,
    by decide +kernel⟩
theorem witness_Step_runsAhead : ∃ s u id rest k i t, (startOver s = true ∧ commandDue s = false ∧ s.inputs = [] ∧ s.ring = .hart id :: rest ∧
    u = { s with ring := rest ++ [.hart id], cur := .hart id, waited := false } ∧ hartFree u id = true ∧ (hartOf u id).run = .running) ∧
    issuingX u = some k ∧ CodeAt u i ∧ (coreOf s k).vqueue ≠ [] ∧ queued i = false ∧ queueBars i = false ∧
    behindQueue (coreOf s k).vqueue i = false ∧ exec i (leavePoint u) = .next t ∧ t.waited = false :=
  ⟨queueState addWord, queueTurned addWord, 1, [], 0, .add (fR 3 1 2 0), _, by decide +kernel, by decide +kernel, .inl ⟨addWord, 8, by decide +kernel, okIs_eq (by decide +kernel)⟩,
    by decide +kernel, by decide +kernel, by decide +kernel, by decide +kernel, rfl, by decide +kernel⟩
theorem witness_Step_behindQueue : ∃ s k i, (coreOf s k).vqueue ≠ [] ∧ queued i = false ∧ (queueBars i = true ∨ behindQueue (coreOf s k).vqueue i = true) :=
  ⟨queueState addWord, 0, .yield (fR 0 0 0 0), by decide, by decide, .inl (by decide)⟩
/-- The unit of core 0 in its turn. -/
def headTurn : State := { queueState addWord with ring := [.unit 0] }
theorem witness_Step_head : ∃ s u t k rest q l, (startOver s = true ∧ commandDue s = false ∧ s.inputs = [] ∧ s.ring = .unit k :: rest ∧
    u = { s with ring := rest ++ [.unit k], cur := .unit k, waited := false } ∧ unitMove u k = .queueHead k) ∧ (coreOf u k).vqueue = q :: l ∧
    exec q.instr (headState u k) = .next t ∧ t.waited = false ∧ headPassed (headState u k) t k = true := by
  have h : (match exec (.vadd (fV 4 1 2 0)) (headState { headTurn with cur := .unit 0 } 0) with
    | .next t => !t.waited && headPassed (headState { headTurn with cur := .unit 0 } 0) t 0
    | _ => false) = true := by decide +kernel
  cases e : exec (.vadd (fV 4 1 2 0)) (headState { headTurn with cur := .unit 0 } 0) with
  | next t =>
    rw [e] at h
    simp only [Bool.and_eq_true, Bool.not_eq_true'] at h
    exact ⟨headTurn, { headTurn with cur := .unit 0 }, t, 0, [], _, _, by decide +kernel, rfl, e, h.1, h.2⟩
  | fault f => rw [e] at h; cases h
  | refused r => rw [e] at h; cases h
theorem test_queue_takes_a_vadd : (match step (queueState vaddWord) with
    | .next t => ((coreOf t 0).vqueue.map (·.pc), (hartOf t 1).pc)
    | _ => ([], 0)) = ([256, 0], 8) := by decide +kernel
theorem witness_Step_input : ∃ s i rest, startOver s = true ∧ commandDue s = false ∧ s.inputs = .event i :: rest :=
  ⟨{ onA [] with inputs := [.event .clockGating] }, .clockGating, [], by decide, by decide, rfl⟩
theorem witness_Step_register : ∃ s x rest, startOver s = true ∧ commandDue s = false ∧ s.inputs = x :: rest ∧ ∀ i, x ≠ .event i :=
  ⟨{ onA [] with inputs := [.mbWrite 8 7] }, .mbWrite 8 7, [], by decide, by decide, rfl, fun _ h => nomatch h⟩
/-- The host has written GO with command 5. -/
def commanded : State := { onA [] with nd := { started := true, go := true, cmd := 5 } }
theorem witness_Step_command : ∃ s, startOver s = true ∧ commandDue s = true := ⟨commanded, by decide, by decide⟩
theorem test_mailbox_command_ends : (match step commanded with
    | .next t => (t.nd.done, t.nd.go)
    | _ => (false, true)) = (true, false) := by decide +kernel
theorem witness_Step_illegal : ∃ s u id rest w, (startOver s = true ∧ commandDue s = false ∧ s.inputs = [] ∧ s.ring = .hart id :: rest ∧
    u = { s with ring := rest ++ [.hart id], cur := .hart id, waited := false } ∧ hartFree u id = true ∧ (hartOf u id).run = .running) ∧
    issuingX u = none ∧ fetched u = .illegal w :=
  ⟨parkedAt { onA [] with ring := [.hart 0] } 0, { parkedAt { onA [] with ring := [.hart 0] } 0 with ring := [.hart 0], cur := .hart 0, waited := false },
    0, [], 0, by decide +kernel⟩
theorem witness_Step_absent : ∃ s u id rest a, (startOver s = true ∧ commandDue s = false ∧ s.inputs = [] ∧ s.ring = .hart id :: rest ∧
    u = { s with ring := rest ++ [.hart id], cur := .hart id, waited := false } ∧ hartFree u id = true ∧ (hartOf u id).run = .running) ∧
    issuingX u = none ∧ fetched u = .absent a :=
  ⟨{ onA [] with ring := [.hart 0] }, { onA [] with ring := [.hart 0], cur := .hart 0, waited := false }, 0, [], 0, by decide +kernel⟩
theorem witness_Step_gang : ∃ s u g rest i, (startOver s = true ∧ commandDue s = false ∧ s.inputs = [] ∧ s.ring = .pergola g :: rest ∧
    u = { s with ring := rest ++ [.pergola g], cur := .pergola g, waited := false } ∧ pergolaFree u g = true) ∧ (perOf u g).gang = true ∧ CodeAt u i :=
  ⟨stepState (.pergola 0), turned (.pergola 0) (.pergola 0), 0, [], .add (fR 3 1 2 0), by decide +kernel, by decide +kernel, .inl ⟨addWord, 8, by decide +kernel, okIs_eq (by decide +kernel)⟩⟩
def splitState : State := stepState (.bank 0 0)
def splitTurned : State := { splitState with ring := [.pergola 0], cur := .pergola 0, waited := false }
theorem witness_Step_split : ∃ s u t v g b bs rest i, (startOver s = true ∧ commandDue s = false ∧ s.inputs = [] ∧ s.ring = .pergola g :: rest ∧
    u = { s with ring := rest ++ [.pergola g], cur := .pergola g, waited := false } ∧ pergolaFree u g = true) ∧ (perOf u g).gang = false ∧
    splitOrder u g = b :: bs ∧ b ∈ liveBanks u g ∧ (hartOf u (bankId g b)).run = .running ∧ t = leavePoint { u with cur := .bank g b, waited := false } ∧
    CodeAt t i ∧ exec i t = .next v ∧ v.waited = false :=
  ⟨splitState, splitTurned, { splitTurned with cur := .bank 0 0 }, _, 0, 0, [1, 2, 3, 4, 5, 6, 7], [], .add (fR 3 1 2 0), by decide +kernel, by decide +kernel, by decide +kernel, by decide +kernel, by decide +kernel, by decide +kernel, .inl ⟨addWord, 8, by decide +kernel, okIs_eq (by decide +kernel)⟩, rfl, by decide +kernel⟩
theorem test_step_runs_add : (match step (stepState (.hart 0)) with
    | .next t => ((hartOf t 0).get 3, (hartOf t 0).pc)
    | _ => (0, 0)) = (11, 8) := by decide +kernel
theorem test_step_from_reset : (match step (State.reset.withFetchWord 64 (wordI 0x02 9 7 0 4)) with
    | .next t => ((hartOf t 0).get 4, (hartOf t 0).pc)
    | _ => (0, 0)) = (7, 8) := by decide +kernel
theorem witness_DecodeOfEncode : ∃ i w rest, encodeWord i = some w ∧ encode i ≠ [] ∧ rest ≠ ([] : List Byte) :=
  ⟨.add (fR 3 1 2 0), BitVec.ofNat 64 addWord, [0], by decide, by decide, by decide⟩
theorem witness_DecodeOfEncode_word : ∃ w i, decodeWord w = .ok i := ⟨BitVec.ofNat 64 addWord, .add (fR 3 1 2 0), rfl⟩
theorem witness_MemoryStaysCanonical : ∃ s t, Memory.wf s.mem = true ∧ step s = .next t :=
  ⟨State.reset, _, by decide, rfl⟩

end Sys2Proof.Tests
end

section
/-! ## Memory stays canonical under every step (O59, 03_memory_spaces.md R7)

`writeBytes` is the only function of the model that changes a memory it is given (`writeBytes_wf` says that it keeps the form), and a start
begins with an empty one. Everything else that a step does is a composition of functions that end in these two or leave memory alone, through
conditionals, folds, `do` blocks that may stop with a state of their own, and answers that may hold a state.

So the development has one lemma for each function of the model and none that looks inside two of them. `CanonMem s` says that the memory
of `s` is canonical; the lemma for a function `f` is `CanonMem.f : CanonMem s → CanonMem (f s)`. For a computation in `M` it is `Ends.f`, which
says the same of the state it ends in and of the one that a stop carries; `Stop.Canon`, `CanonOk`, `Got.Canon`, `UnitRead.Canon`,
`UnitOut.Canon`, `Retry.Canon` and `Result.Canon` say it of the other kinds of answer. A proof then has the shape of the function's own body:
`.ite` for a conditional, `.when` for one that may change the state it goes on with, `.foldl` for a fold, `.bind` for a `do` step that
brings a state and `.check` for one that does not, and `split` where the body matches. The lemmas stand in the order of the model's files. -/
namespace Sys2Proof.Machine

/-- The memory of a state is in its canonical form. -/
def CanonMem (s : State) : Prop := Memory.wf s.mem = true

namespace CanonMem
theorem of_eq {s t : State} (h : CanonMem s) (e : t.mem = s.mem) : CanonMem t := by
  rw [CanonMem, e]; exact h

protected theorem ite {c : Prop} {_ : Decidable c} {a b : State} (ha : CanonMem a) (hb : CanonMem b) : CanonMem (if c then a else b) :=
  ite_keeps CanonMem ha hb

/-- The shape of `let s := if c then f s else s`. -/
protected theorem when {c : Prop} {_ : Decidable c} {t u : State} (ht : CanonMem t) (hu : CanonMem t → CanonMem u) :
    CanonMem (if c then u else t) := .ite (hu ht) ht

protected theorem whenNot {c : Prop} {_ : Decidable c} {t u : State} (ht : CanonMem t) (hu : CanonMem t → CanonMem u) :
    CanonMem (if c then t else u) := .ite ht (hu ht)

protected theorem ite_fst {α : Type} {c : Prop} {_ : Decidable c} {x y : State × α} (hx : CanonMem x.1) (hy : CanonMem y.1) :
    CanonMem (if c then x else y).1 := ite_keeps (fun r : State × α => CanonMem r.1) hx hy

protected theorem ite_snd {α : Type} {c : Prop} {_ : Decidable c} {x y : α × State} (hx : CanonMem x.2) (hy : CanonMem y.2) :
    CanonMem (if c then x else y).2 := ite_keeps (fun r : α × State => CanonMem r.2) hx hy

protected theorem foldl {α : Type} {f : State → α → State} {l : List α} {s : State} (hf : ∀ t a, CanonMem t → CanonMem (f t a))
    (h : CanonMem s) : CanonMem (l.foldl f s) := foldl_keeps CanonMem f hf l s h

protected theorem foldl_fst {α β : Type} {f : State × β → α → State × β} {l : List α} {x : State × β}
    (hf : ∀ r a, CanonMem r.1 → CanonMem (f r a).1) (h : CanonMem x.1) : CanonMem (l.foldl f x).1 :=
  foldl_keeps (fun r : State × β => CanonMem r.1) f hf l x h

protected theorem foldl_snd {α β : Type} {f : β × State → α → β × State} {l : List α} {x : β × State}
    (hf : ∀ r a, CanonMem r.2 → CanonMem (f r a).2) (h : CanonMem x.2) : CanonMem (l.foldl f x).2 :=
  foldl_keeps (fun r : β × State => CanonMem r.2) f hf l x h
end CanonMem

/-- A stopped computation leaves memory canonical in the state that it carries, if it carries one. -/
def Stop.Canon : Stop → Prop
  | .trap _ _ => True
  | .banks _ => True
  | .after s _ _ => CanonMem s
  | .drain s _ _ => CanonMem s
  | .banksAfter s _ => CanonMem s
  | .wait s _ => CanonMem s
  | .part s _ _ _ => CanonMem s

namespace Stop.Canon
variable {s : State} {code : BitVec 8} {info : Word}
protected theorem trap : (Stop.trap code info).Canon := trivial
protected theorem banks {own : List (Nat × BitVec 8 × Word)} : (Stop.banks own).Canon := trivial
protected theorem after (h : CanonMem s) : (Stop.after s code info).Canon := h
protected theorem drain (h : CanonMem s) : (Stop.drain s code info).Canon := h
protected theorem banksAfter {own : List (Nat × BitVec 8 × Word)} (h : CanonMem s) : (Stop.banksAfter s own).Canon := h
protected theorem wait {b : Bool} (h : CanonMem s) : (Stop.wait s b).Canon := h
protected theorem part {engine : BitVec 3} (h : CanonMem s) : (Stop.part s code engine info).Canon := h
end Stop.Canon

/-- A computation ends in a value with the property `P`, or stopped with memory canonical. -/
inductive Ends {α : Type} (P : α → Prop) : M α → Prop
  | ok {a : α} (h : P a) : Ends P (.ok a)
  | error {e : Stop} (h : e.Canon) : Ends P (.error e)

namespace Ends
variable {α β : Type} {P : α → Prop} {Q : β → Prop}

protected theorem ite {c : Prop} {_ : Decidable c} {x y : M α} (hx : Ends P x) (hy : Ends P y) : Ends P (if c then x else y) :=
  ite_keeps (Ends P) hx hy

protected theorem bind {x : M α} {f : α → M β} (hx : Ends P x) (hf : ∀ a, P a → Ends Q (f a)) : Ends Q (x >>= f) := by
  cases hx with
  | ok h => exact hf _ h
  | error h => exact .error h

protected theorem check {x : M α} {f : α → M β} (hx : Ends (fun _ => True) x) (hf : ∀ a, Ends Q (f a)) : Ends Q (x >>= f) :=
  .bind hx fun a _ => hf a

/-- The shape of a `do` block that goes on in the same way after either branch. -/
protected theorem checkIte {c : Prop} {_ : Decidable c} {x y : M α} {f : α → M β} (hx : Ends (fun _ => True) x)
    (hy : Ends (fun _ => True) y) (hf : ∀ a, Ends Q (f a)) : Ends Q (if c then x >>= f else y >>= f) :=
  .ite (.check hx hf) (.check hy hf)

protected theorem when {c : Prop} {_ : Decidable c} {x : M Unit} {f : Unit → M β} (hx : Ends (fun _ => True) x) (hf : ∀ u, Ends Q (f u)) :
    Ends Q (if c then x >>= f else Except.ok () >>= f) := .checkIte hx (.ok trivial) hf

protected theorem whenNot {c : Prop} {_ : Decidable c} {x : M Unit} {f : Unit → M β} (hx : Ends (fun _ => True) x)
    (hf : ∀ u, Ends Q (f u)) : Ends Q (if c then Except.ok () >>= f else x >>= f) := .checkIte (.ok trivial) hx hf

theorem of_ok {x : M α} {a : α} (hx : Ends P x) (e : x = .ok a) : P a := by
  subst e; cases hx; assumption

theorem of_error {x : M α} {e : Stop} (hx : Ends P x) (he : x = .error e) : e.Canon := by
  subst he; cases hx; assumption

protected theorem foldlM {γ : Type} {f : State → γ → M State} (hf : ∀ t a, CanonMem t → Ends CanonMem (f t a)) :
    ∀ {l : List γ} {s : State}, CanonMem s → Ends CanonMem (l.foldlM f s)
  | [], _, h => .ok h
  | a :: _, s, h => .bind (hf s a h) fun _ ht => Ends.foldlM hf ht

protected theorem forM {γ : Type} {f : γ → M PUnit} (hf : ∀ a, Ends (fun _ => True) (f a)) : ∀ {l : List γ}, Ends (fun _ => True) (l.forM f)
  | [] => .ok trivial
  | a :: _ => .check (hf a) fun _ => Ends.forM hf
end Ends

/-- An answer that is a state leaves memory canonical. -/
def CanonOk {ε : Type} : Except ε State → Prop
  | .ok s => CanonMem s
  | .error _ => True

namespace CanonOk
variable {ε : Type} {r : Except ε State} {s : State}
protected theorem ite {c : Prop} {_ : Decidable c} {x y : Except ε State} (hx : CanonOk x) (hy : CanonOk y) :
    CanonOk (if c then x else y) := ite_keeps CanonOk hx hy

theorem of_ok (h : CanonOk r) (e : r = .ok s) : CanonMem s := by subst e; exact h
end CanonOk

theorem CanonMem.foldlM_ok {α ε : Type} {f : State → α → Except ε State} (hf : ∀ t a u, CanonMem t → f t a = .ok u → CanonMem u) :
    ∀ {l : List α} {s u : State}, CanonMem s → l.foldlM f s = .ok u → CanonMem u
  | [], _, _, h, e => by cases e; exact h
  | a :: l, s, u, h, e => by
    rw [List.foldlM_cons] at e
    cases ht : f s a with
    | error x => rw [ht] at e; cases e
    | ok t => rw [ht] at e; exact foldlM_ok hf (hf s a t h ht) e

/-- What a source brings leaves memory canonical. -/
def Got.Canon : Got → Prop
  | .bytes _ s => CanonMem s
  | .wait s => CanonMem s
  | .poison _ => True

namespace Got.Canon
variable {g : Got} {s : State}
theorem of_bytes {l : List (Option Byte)} (h : g.Canon) (e : g = .bytes l s) : CanonMem s := by subst e; exact h

theorem of_wait (h : g.Canon) (e : g = .wait s) : CanonMem s := by subst e; exact h
end Got.Canon

/-- What the reads of a load unit bring leaves memory canonical. -/
def UnitRead.Canon : UnitRead → Prop
  | .bytes _ s => CanonMem s
  | .late _ s => CanonMem s
  | .wait s => CanonMem s

namespace UnitRead.Canon
variable {u : UnitRead} {s : State}
theorem of_bytes {l : List Byte} (h : u.Canon) (e : u = .bytes l s) : CanonMem s := by subst e; exact h

theorem of_late {c : BitVec 8} (h : u.Canon) (e : u = .late c s) : CanonMem s := by subst e; exact h

theorem of_wait (h : u.Canon) (e : u = .wait s) : CanonMem s := by subst e; exact h
end UnitRead.Canon

/-- What a unit comes to leaves memory canonical. -/
def UnitOut.Canon : UnitOut → Prop
  | .done s => CanonMem s
  | .bad _ => True
  | .late _ s => CanonMem s
  | .wait s => CanonMem s

namespace UnitOut.Canon
variable {u : UnitOut} {s : State}
theorem of_done (h : u.Canon) (e : u = .done s) : CanonMem s := by subst e; exact h

theorem of_late {c : BitVec 8} (h : u.Canon) (e : u = .late c s) : CanonMem s := by subst e; exact h

theorem of_wait (h : u.Canon) (e : u = .wait s) : CanonMem s := by subst e; exact h
end UnitOut.Canon

/-- What a retry of the replay queue comes to leaves memory canonical. -/
def Retry.Canon : Retry → Prop
  | .done s => CanonMem s
  | .failed s _ => CanonMem s
  | .wait s => CanonMem s

namespace Retry.Canon
variable {r : Retry} {s : State}
theorem of_done (h : r.Canon) (e : r = .done s) : CanonMem s := by subst e; exact h

theorem of_failed {x : ReplayEntry} (h : r.Canon) (e : r = .failed s x) : CanonMem s := by subst e; exact h

theorem of_wait (h : r.Canon) (e : r = .wait s) : CanonMem s := by subst e; exact h
end Retry.Canon

namespace CanonMem
variable {s : State}
protected theorem setCur {a : Agent} (h : CanonMem s) : CanonMem { s with cur := a } := h
protected theorem setCores {l : Tbl Core} (h : CanonMem s) : CanonMem { s with cores := l } := h
protected theorem setCurWaited {a : Agent} {b : Bool} (h : CanonMem s) : CanonMem { s with cur := a, waited := b } := h
protected theorem setWaited {b : Bool} (h : CanonMem s) : CanonMem { s with waited := b } := h
protected theorem setWaiting {l : List BlockRef} (h : CanonMem s) : CanonMem { s with waiting := l } := h
protected theorem setSuspendCount {n : Nat} (h : CanonMem s) : CanonMem { s with suspendCount := n } := h
protected theorem setScopeCount {n : Nat} (h : CanonMem s) : CanonMem { s with scopeCount := n } := h
protected theorem setFreeCount {n : Nat} (h : CanonMem s) : CanonMem { s with freeCount := n } := h
protected theorem setToRetire {r : BitVec 1152} (h : CanonMem s) : CanonMem { s with toRetire := r } := h
protected theorem setBaseTimes {b : Tbl Word} (h : CanonMem s) : CanonMem { s with baseTimes := b } := h
protected theorem setRemappedUpsetsSofts {r : Tbl Bool} {u c : Tbl (List (BitVec 128))} (h : CanonMem s) :
    CanonMem { s with remapped := r, upsets := u, softs := c } := h
end CanonMem

section
variable {s : State}

/-! ### Places, traps and the end of an instruction (Machine/Ops) -/

protected theorem Ends.need {ok : Bool} {code : BitVec 8} {info : Word} : Ends (fun _ => True) (need ok code info) := by
  unfold need
  exact .ite (.ok trivial) (.error .trap)

protected theorem CanonMem.modHart {id : Nat} {f : Hart → Hart} (h : CanonMem s) : CanonMem (modHart s id f) := h

protected theorem CanonMem.modCore {c : Nat} {f : Core → Core} (h : CanonMem s) : CanonMem (modCore s c f) := h

protected theorem CanonMem.modPav {p : Nat} {f : Pavilion → Pavilion} (h : CanonMem s) : CanonMem (modPav s p f) := h

protected theorem CanonMem.modWing {w : Nat} {f : Wing → Wing} (h : CanonMem s) : CanonMem (modWing s w f) := h

protected theorem CanonMem.modPer {g : Nat} {f : Pergola → Pergola} (h : CanonMem s) : CanonMem (modPer s g f) := h

protected theorem CanonMem.modBank {g b : Nat} {f : Bank → Bank} (h : CanonMem s) : CanonMem (modBank s g b f) := by
  unfold modBank
  exact .modPer h

protected theorem CanonMem.modLayer {l : Nat} {f : Layer → Layer} (h : CanonMem s) : CanonMem (modLayer s l f) := h

protected theorem CanonMem.modHalt {c : BitVec 16} {f : HaltStat → HaltStat} (h : CanonMem s) : CanonMem (modHalt s c f) := h

protected theorem CanonMem.modClockOfHart {id : Nat} {f : Clock → Clock} (h : CanonMem s) : CanonMem (modClockOfHart s id f) := by
  unfold modClockOfHart
  exact .ite (.modPav h) (.ite (.modWing h) (.modPer h))

protected theorem Ends.ownFaults {check : Nat → Option (BitVec 8 × Word)} : Ends (fun _ => True) (ownFaults s check) := by
  unfold ownFaults
  split
  · exact .ok trivial
  · exact .ite (.error .banks) (.error .trap)

protected theorem Ends.needOwn {ok : Bool} {code : BitVec 8} {info : Word} : Ends (fun _ => True) (needOwn s ok code info) := by
  unfold needOwn
  exact .ownFaults

protected theorem CanonMem.modHarts {ids : List Nat} {f : Hart → Hart} (h : CanonMem s) : CanonMem (modHarts s ids f) :=
  h.of_eq (modHarts_mem f ids s)

protected theorem CanonMem.modPerformers {f : Hart → Hart} (h : CanonMem s) : CanonMem (modPerformers s f) := by
  unfold modPerformers
  exact .modHarts h

protected theorem CanonMem.xWrite {o : Opnd} {v : Word} (h : CanonMem s) : CanonMem (xWrite s o v) := by
  unfold xWrite
  exact .modHart h

protected theorem CanonMem.setCtl {c : Ctl} (h : CanonMem s) : CanonMem (setCtl s c) := by
  unfold setCtl
  split
  · exact .modHart h
  · exact .modHarts h
  · exact .modPer h
  · exact h

protected theorem CanonMem.markBoundary (h : CanonMem s) : CanonMem (markBoundary s) := by
  unfold markBoundary
  exact .modHarts h

protected theorem CanonMem.advanceBy {len : Word} (h : CanonMem s) : CanonMem (advanceBy len s) := by
  unfold advanceBy
  exact .when (.setCtl h) .markBoundary

protected theorem CanonMem.advance (h : CanonMem s) : CanonMem (advance s) := by
  unfold advance
  exact .advanceBy h

protected theorem CanonMem.jumpTo {target : Word} (h : CanonMem s) : CanonMem (jumpTo target s) := by
  unfold jumpTo
  exact .when (.setCtl h) .markBoundary

protected theorem CanonMem.freeBytes {n : Nat} (h : CanonMem s) : CanonMem (freeBytes s n).2 := h

protected theorem CanonMem.freeWord (h : CanonMem s) : CanonMem (freeWord s).2 := h

protected theorem CanonMem.logError {kind : BitVec 8} {location : Word} {context hart : BitVec 16} {cause : BitVec 8} {count : Nat}
    (h : CanonMem s) : CanonMem (logError s kind location context hart cause count) := h

protected theorem CanonMem.logSched {address : Word} {context hart : BitVec 16} {reason : BitVec 8} {detail : Word} (h : CanonMem s) :
    CanonMem (logSched s address context hart reason detail) := h

protected theorem CanonMem.noteFault {unit : UnitRef} {f : FaultRec} (h : CanonMem s) : CanonMem (noteFault s unit f) := by
  unfold noteFault
  split
  · exact .modCore h
  · exact .modPer h

protected theorem CanonMem.assertHalt {c : BitVec 16} {origin : BitVec 16} {cause : BitVec 8} {engine : BitVec 3} {pwr : Bool}
    (h : CanonMem s) : CanonMem (assertHalt s c origin cause engine pwr) := by
  unfold assertHalt
  exact .modHalt h

protected theorem CanonMem.partitionFault {id : Nat} {f : FaultRec} (h : CanonMem s) : CanonMem (partitionFault s id f) := by
  unfold partitionFault
  exact .assertHalt (.noteFault h)

protected theorem CanonMem.docentStop {wing : Nat} {cause : BitVec 8} {chain : BitVec 6} {addr : BitVec 48} (h : CanonMem s) :
    CanonMem (docentStop s wing cause chain addr) := by
  unfold docentStop
  exact .modHart (.modWing h)

protected theorem CanonMem.trapHart {id : Nat} {pc : Word} {code : BitVec 8} {info : Word} {late redeliver : Bool} (h : CanonMem s) :
    CanonMem (trapHart s id pc code info late redeliver) := by
  unfold trapHart
  exact .ite (.docentStop h) (.ite (.partitionFault h) (.modHart h))

protected theorem CanonMem.trapGang {pc : Word} {own : List (Nat × BitVec 8 × Word)} (h : CanonMem s) : CanonMem (trapGang s pc own) := by
  unfold trapGang
  exact .ite (.partitionFault h) (.setCtl (.foldl (fun _ _ => .modHart) h))

protected theorem CanonMem.takeTrap {pc : Word} {code : BitVec 8} {info : Word} {late redeliver : Bool} (h : CanonMem s) :
    CanonMem (takeTrap s pc code info late redeliver) := by
  unfold takeTrap
  exact .ite (.trapGang h) (.trapHart h)

protected theorem CanonMem.returnFromTrap (h : CanonMem s) : CanonMem (returnFromTrap s) := by
  unfold returnFromTrap
  exact .modHarts (.setCtl h)

/-! ### Fetching (Machine/Fetch) -/

protected theorem CanonMem.modOverlay {n : Nat} {f : Tbl OvlBlock → Tbl OvlBlock} (h : CanonMem s) : CanonMem (modOverlay s n f) := by
  unfold modOverlay
  exact .ite (.modPav h) (.ite (.modPer h) (.modWing h))

/-! ### Writing, freeing and translating memory (Machine/Memory) -/

protected theorem CanonMem.triggerMonitors {pa n : Nat} (h : CanonMem s) : CanonMem (triggerMonitors s pa n) := h

protected theorem CanonMem.writeBytes {pa : Nat} {bytes : List Byte} (h : CanonMem s) : CanonMem (writeBytes s pa bytes) :=
  writeBytes_wf h pa bytes

protected theorem CanonMem.writeNat {pa n v : Nat} (h : CanonMem s) : CanonMem (writeNat s pa n v) := by
  unfold writeNat
  exact .writeBytes h

protected theorem CanonMem.setPoison {pa n : Nat} {b : Bool} (h : CanonMem s) : CanonMem (setPoison s pa n b) := h

protected theorem CanonMem.writePlace {p : Place} {bytes : List Byte} (h : CanonMem s) : CanonMem (writePlace s p bytes) := writePlace_wf h p bytes

protected theorem CanonMem.commit {r : Resolved} (h : CanonMem s) : CanonMem (commit s r) := commit_wf h r

protected theorem CanonMem.logUe {s t : State} {id : Nat} {info : Word} {row : Bool} (ht : CanonMem t) :
    CanonMem (logUe s t id info row) := by
  unfold logUe
  exact .logError ht

protected theorem Ends.lift {α : Type} {c : Chk α} : Ends (fun _ => True) (lift c) := by
  unfold lift
  split
  · exact .ok trivial
  · exact .error .trap

protected theorem CanonMem.commitAll {l : List Resolved} (h : CanonMem s) : CanonMem (commitAll s l) := by
  unfold commitAll
  exact .foldl (fun _ _ => .commit) h

/-! ### Partition faults (Machine/PartFault) -/

protected theorem CanonMem.putFault {i : StepInfo} {at' : Nat} {f : FaultRec} (h : CanonMem s) : CanonMem (putFault s i at' f) := by
  unfold putFault
  exact .ite (.writeNat h) h

protected theorem CanonMem.recordFault {unit : UnitRef} {f : FaultRec} (h : CanonMem s) : CanonMem (recordFault s unit f) := by
  unfold recordFault
  split
  · split
    · exact .ite (.putFault (.modCore h)) (.noteFault h)
    · exact h
  · split
    · exact .ite (.putFault (.modPer h)) (.noteFault h)
    · exact h

protected theorem CanonMem.unitFault {c : BitVec 16} {unit : UnitRef} {f : FaultRec} (h : CanonMem s) :
    CanonMem (unitFault s c unit f) := by
  unfold unitFault
  exact .recordFault (.assertHalt h)

protected theorem CanonMem.savedFault {k : Nat} {u : Suspended} {f : FaultRec} (h : CanonMem s) : CanonMem (savedFault s k u f) := by
  unfold savedFault
  exact .putFault (.modCore (.assertHalt h))

protected theorem CanonMem.contextFault {c : BitVec 16} {f : FaultRec} (h : CanonMem s) : CanonMem (contextFault s c f) := by
  unfold contextFault
  dsimp only
  split
  · exact .recordFault (.assertHalt h)
  · exact .assertHalt h

protected theorem CanonMem.logPoison {pa : Nat} {c : BitVec 16} {id : BitVec 16} (h : CanonMem s) : CanonMem (logPoison s pa c id) := by
  unfold logPoison
  exact .logError h

protected theorem CanonMem.walkerPoison {c : BitVec 16} {hart : Nat} {info : Word} (h : CanonMem s) :
    CanonMem (walkerPoison s c hart info) := by
  unfold walkerPoison
  exact .contextFault (.logPoison h)

protected theorem CanonMem.devicePoison {c : BitVec 16} {engine : BitVec 3} {pa : Nat} {info : Word} (h : CanonMem s) :
    CanonMem (devicePoison s c engine pa info) := by
  unfold devicePoison
  exact .contextFault (.logPoison h)

/-! ### Scopes and what they own (Machine/Scope) -/

protected theorem CanonMem.deviceTouch {c : AddrCtx} {va : Nat} (h : CanonMem s) : CanonMem (deviceTouch s c va) := by
  unfold deviceTouch
  split
  · exact .commit h
  · exact h

protected theorem CanonMem.modRecord {pa : Nat} {f : Nat → Nat} (h : CanonMem s) : CanonMem (modRecord s pa f) := by
  unfold modRecord
  exact .ite h (.writeNat h)

protected theorem CanonMem.metRecord {c : BitVec 16} {pa : Nat} {va : Word} (h : CanonMem s) : CanonMem (metRecord s c pa va) := by
  unfold metRecord
  exact .ite (.devicePoison h) h

protected theorem CanonMem.countRecord {pa lo w n : Nat} (h : CanonMem s) : CanonMem (countRecord s pa lo w n) := by
  unfold countRecord
  exact .ite h (.modRecord h)

protected theorem CanonMem.addKillSteps {pa n : Nat} (h : CanonMem s) : CanonMem (addKillSteps s pa n) := by
  unfold addKillSteps
  exact .countRecord h

protected theorem CanonMem.addKillHarts {pa n : Nat} (h : CanonMem s) : CanonMem (addKillHarts s pa n) := by
  unfold addKillHarts
  exact .countRecord h

protected theorem CanonMem.addRowsDrop {pa n : Nat} (h : CanonMem s) : CanonMem (addRowsDrop s pa n) := by
  unfold addRowsDrop
  exact .countRecord h

protected theorem CanonMem.addSlotsDrop {pa n : Nat} (h : CanonMem s) : CanonMem (addSlotsDrop s pa n) := by
  unfold addSlotsDrop
  exact .countRecord h

protected theorem CanonMem.setOwned {pa : Nat} {o : Owned} (h : CanonMem s) : CanonMem (setOwned s pa o) := h

protected theorem CanonMem.chainTouch {c : AddrCtx} {target : Nat} : ∀ {fuel : Nat} {s : State} {va : Nat}, CanonMem s →
    CanonMem (chainTouch c target fuel s va)
  | 0, _, _, h => h
  | fuel + 1, s, va, h => by
    unfold Machine.chainTouch
    split
    · exact h
    · exact .ite (.commit h) (CanonMem.chainTouch (.commit h))

protected theorem CanonMem.quiesce {c : BitVec 16} (h : CanonMem s) : CanonMem (quiesce s c) := by
  unfold quiesce
  exact .foldl (fun _ _ ht => .setOwned (.modRecord ht)) h

protected theorem CanonMem.ownScopes {c : AddrCtx} {pa : Nat} (h : CanonMem s) : CanonMem (ownScopes s c pa) := by
  unfold ownScopes
  exact .foldl (fun _ _ ht => .ite (.setOwned ht) ht) h

protected theorem CanonMem.enterScope {c : BitVec 16} {va : Word} {n : Nat} (h : CanonMem s) : CanonMem (enterScope s c va n) := by
  unfold enterScope
  split
  · exact .metRecord (.modRecord h)
  · exact h

protected theorem CanonMem.leaveScope {c : BitVec 16} {va : Word} {n : Nat} (h : CanonMem s) : CanonMem (leaveScope s c va n) := by
  unfold leaveScope
  split
  · exact .metRecord (.quiesce (.modRecord h))
  · exact h

protected theorem CanonMem.departBarriers {c : BitVec 16} {members : List Member} (h : CanonMem s) :
    CanonMem (departBarriers s c members) := by
  unfold departBarriers
  refine .foldl (fun _ _ ht => ?_) h
  split
  · exact .ite (.writeNat ht) ht
  · exact ht

protected theorem CanonMem.dropSlots {c : BitVec 16} {ids : List Nat} (h : CanonMem s) : CanonMem (dropSlots s c ids).1 := by
  unfold dropSlots
  dsimp only
  exact .foldl (fun _ _ => .writeBytes) (.setCores h)

/-! ### Launch blocks (Machine/Blocks) -/

protected theorem CanonMem.putControl {b : Block} {state : Nat} {dead : Bool} (h : CanonMem s) : CanonMem (putControl s b state dead) := by
  unfold putControl
  exact .writeBytes h

protected theorem CanonMem.putDeps {b : Block} {n : Nat} (h : CanonMem s) : CanonMem (putDeps s b n) := by
  unfold putDeps
  exact .writeNat h

protected theorem CanonMem.putNext {b : Block} {n : Nat} (h : CanonMem s) : CanonMem (putNext s b n) := by
  unfold putNext
  exact .writeNat h

protected theorem CanonMem.putEnded {b : Block} {n : Nat} (h : CanonMem s) : CanonMem (putEnded s b n) := by
  unfold putEnded
  exact .writeNat h

protected theorem CanonMem.ownBlock {b : Block} {o : Owned} (h : CanonMem s) : CanonMem (ownBlock s b o) := by
  unfold ownBlock
  exact .foldl (fun _ _ => .setOwned) h

protected theorem CanonMem.enqueue {b : Block} {r : BlockRef} (h : CanonMem s) : CanonMem (enqueue s b r) := by
  unfold enqueue
  exact .foldl (fun _ _ ht => .ite (.modWing ht) ht) h

protected theorem CanonMem.dequeue {r : BlockRef} (h : CanonMem s) : CanonMem (dequeue s r) := by
  unfold dequeue
  exact .foldl (fun _ _ => .modWing) h

protected theorem CanonMem.rejectBlock {c : AddrCtx} {r : BlockRef} {b : Option Block} {wing : Nat} {reason : BitVec 8} {detail : Word}
    {context : BitVec 16} (h : CanonMem s) : CanonMem (rejectBlock s c r b wing reason detail context) := by
  unfold rejectBlock
  refine .setWaiting (.logSched ?_)
  split
  · refine .ownBlock ?_
    split
    · exact .writeBytes h
    · exact h
  · split
    · exact .writeBytes h
    · exact h

protected theorem CanonMem.killBlock {r : BlockRef} {b : Block} (h : CanonMem s) : CanonMem (killBlock s r b) := by
  unfold killBlock
  exact .setWaiting (.ownBlock (.putControl h))

protected theorem CanonMem.addEnded {c : AddrCtx} {va : Word} {n : Nat} (h : CanonMem s) : CanonMem (addEnded s c va n) := by
  unfold addEnded
  split
  · exact h
  · exact .when (.putEnded h) fun ht => .ownBlock (.putControl ht)

protected theorem CanonMem.served {g : Nat} {r : BlockRef} (h : CanonMem s) : CanonMem (served s g r) := by
  unfold served
  exact .modPer h

protected theorem CanonMem.trimGrants (h : CanonMem s) : CanonMem (trimGrants s) := h

protected theorem CanonMem.requestPreempt {w : Nat} (h : CanonMem s) : CanonMem (requestPreempt s w) := by
  unfold requestPreempt
  exact .foldl (fun _ _ ht => .ite ht (.modCore ht)) h

protected theorem CanonMem.blockReady {c : AddrCtx} {r : BlockRef} {b : Block} (h : CanonMem s) : CanonMem (blockReady s c r b) := by
  unfold blockReady
  split
  · exact .rejectBlock h
  · refine .ite (.putControl h) (.whenNot ?_ fun ht => .foldl (fun _ _ hu => .ite (.requestPreempt hu) hu) ht)
    split
    · exact .ownScopes (.enqueue (.ownBlock (.putControl h)))
    · exact .enqueue (.ownBlock (.putControl h))

protected theorem CanonMem.decrement {c : AddrCtx} {va : Word} (h : CanonMem s) : CanonMem (decrement s c va) := by
  unfold decrement
  split
  · exact .rejectBlock h
  · refine .ite h (.ite (.killBlock h) (.ite ?_ (.setWaiting (.putDeps h))))
    split
    · exact .blockReady (.putDeps h)
    · exact .putDeps h

/-! ### Kills (Machine/Kill) -/

protected theorem CanonMem.countKill {i : StepInfo} {f : State → Nat → State} (h : CanonMem s) (hf : ∀ t a, CanonMem t → CanonMem (f t a)) :
    CanonMem (countKill s i f) := by
  unfold countKill
  split
  · exact .metRecord (hf _ _ h)
  · exact h

protected theorem CanonMem.writeCells {coord : Nat} {data : Row} {poison : BitVec 128} (h : CanonMem s) :
    CanonMem (writeCells s coord data poison) := by
  unfold writeCells
  exact .foldl (fun _ _ ht => .ite (.setPoison ht) ht) (.writeNat h)

protected theorem CanonMem.finishWrites {g b : Nat} (h : CanonMem s) : CanonMem (finishWrites s g b) := by
  unfold finishWrites
  exact .foldl (fun _ _ ht => .ite (.writeCells ht) ht) h

protected theorem CanonMem.dropRows {g b : Nat} {i : StepInfo} (h : CanonMem s) : CanonMem (dropRows s g b i) := by
  unfold dropRows
  exact .modBank (.countKill (.finishWrites h) (fun _ _ => .addRowsDrop))

protected theorem CanonMem.endKilledStep {i : StepInfo} (h : CanonMem s) : CanonMem (endKilledStep s i) := by
  unfold endKilledStep
  exact .addEnded (.countKill h (fun _ _ => .addKillSteps))

protected theorem CanonMem.leaveStep {i : StepInfo} {n : Nat} (h : CanonMem s) : CanonMem (leaveStep s i n) := by
  unfold leaveStep
  exact .leaveScope h

protected theorem CanonMem.killCompute {id : Nat} {i : StepInfo} (h : CanonMem s) : CanonMem (killCompute s id i) := by
  unfold killCompute
  exact .ite (.modHart h) (.leaveStep (.whenNot (.modHart (.countKill (.departBarriers h) (fun _ _ => .addKillHarts))) fun ht => .modCore
      (.endKilledStep ht)))

protected theorem CanonMem.killBank {g b : Nat} {i : StepInfo} (h : CanonMem s) : CanonMem (killBank s g b i) := by
  unfold killBank
  exact .leaveStep (.whenNot (.modHart (.countKill (.dropRows h) (fun _ _ => .addKillHarts))) fun ht => .modPer (.endKilledStep ht))

protected theorem CanonMem.killCur (h : CanonMem s) : CanonMem (killCur s) := by
  unfold killCur
  split
  · split
    · exact .ite (.killCompute h) h
    · exact h
  · refine .foldl (fun _ _ ht => ?_) h
    split
    · exact .ite (.killBank ht) ht
    · exact ht
  · refine .foldl (fun _ _ ht => ?_) h
    split
    · exact .ite (.killBank ht) ht
    · exact ht
  · exact h

/-! ### The frame of every instruction (Machine/Perform) -/

protected theorem CanonMem.clearDue {g : Nat} {banks : List Nat} (h : CanonMem s) : CanonMem (clearDue s g banks) := by
  unfold clearDue
  exact .foldl (fun _ _ => .modBank) h

protected theorem Stop.Canon.replayStop {id : Nat} (h : CanonMem s) : (replayStop s id).Canon := by
  unfold replayStop
  split
  · exact .wait h
  · exact .drain h

protected theorem CanonMem.trapBanks {own : List (Nat × BitVec 8 × Word)} {late : Bool} (h : CanonMem s) :
    CanonMem (trapBanks s own late) := by
  unfold trapBanks
  exact .ite (.trapGang h) (.takeTrap h)

protected theorem CanonMem.logged {i : Option Instr} {st : Stop} {t : State} (ht : CanonMem t) : CanonMem (logged s i st t) := by
  unfold logged
  dsimp only
  split
  · exact .ite (.logUe ht) ht
  · exact .ite (.logUe ht) ht
  · exact .ite (.logUe ht) ht
  · exact .ite (.logUe ht) ht
  · exact .foldl (fun _ _ ht => .ite (.logUe ht) ht) ht
  · exact .foldl (fun _ _ ht => .ite (.logUe ht) ht) ht
  · exact ht

protected theorem CanonMem.finish {i : Option Instr} {late : Bool} {r : M State} (h : CanonMem s) (hr : Ends CanonMem r) :
    CanonMem (finish s i late r) := by
  cases hr with
  | ok ht => exact ht
  | @error st hr =>
    refine .ite (.killCur h) (.logged ?_)
    cases st with
    | trap code info => exact .takeTrap h
    | banks own => exact .trapBanks h
    | after t code info => exact .takeTrap hr
    | drain t code info => exact .takeTrap hr
    | banksAfter t own => exact .trapBanks hr
    | wait t blocking => exact .setWaited (.ite (.modHarts hr) hr)
    | part t code engine info => exact .partitionFault hr

protected theorem CanonMem.refdueSaid {own : List (Nat × BitVec 8 × Word)} (h : CanonMem s) : CanonMem (refdueSaid s own) := by
  unfold refdueSaid
  exact .clearDue h

protected theorem Stop.Canon.refdueStop {other : Nat → Option (BitVec 8 × Word)} (h : CanonMem s) : (refdueStop s other).Canon := by
  unfold refdueStop
  exact .banksAfter (.refdueSaid h)

protected theorem Ends.passOver {i : Instr} (h : CanonMem s) : Ends CanonMem (passOver i s) := by
  unfold passOver
  split
  · exact .error .trap
  · exact .ok (.advance h)

protected theorem Ends.carryOut {i : Instr} {body : State → M State} (h : CanonMem s) (hb : Ends CanonMem (body s)) :
    Ends CanonMem (carryOut i s body) := .ite (.passOver h) (.ite hb (.error (.wait h)))

/-! ### Scalar arithmetic (Machine/Scalar) -/

protected theorem Ends.scalar1 {f : FmtR} {op : Word → Word} (h : CanonMem s) : Ends CanonMem (scalar1 f op s) := by
  unfold scalar1
  exact .ok (.advance (.modPerformers h))

protected theorem Ends.scalar2 {f : FmtR} {op : Word → Word → Word} (h : CanonMem s) : Ends CanonMem (scalar2 f op s) := by
  unfold scalar2
  exact .ok (.advance (.modPerformers h))

protected theorem Ends.scalar3 {f : FmtR} {op : Word → Word → Word → Word} (h : CanonMem s) : Ends CanonMem (scalar3 f op s) := by
  unfold scalar3
  exact .ok (.advance (.modPerformers h))

protected theorem Ends.scalarImm {f : FmtI} {op : Word → Word} (h : CanonMem s) : Ends CanonMem (scalarImm f op s) := by
  unfold scalarImm
  exact .ok (.advance (.modPerformers h))

protected theorem Ends.shiftImm {i : Instr} {f : FmtI} {op : Word → Word} (h : CanonMem s) : Ends CanonMem (shiftImm i f op s) := by
  unfold shiftImm
  exact .check .needOwn fun _ => .scalarImm h

/-! ### Branches, jumps and hardware loops (Machine/Control) -/

protected theorem Ends.branch {f : FmtB} {cond : Word → Word → Bool} (h : CanonMem s) : Ends CanonMem (branch f cond s) := by
  unfold branch
  exact .ok (.ite (.jumpTo h) (.advance h))

protected theorem Ends.branchFlag {f : FmtB} {want : Bool} (h : CanonMem s) : Ends CanonMem (branchFlag f want s) := by
  unfold branchFlag
  exact .ok (.ite (.jumpTo h) (.advance h))

protected theorem CanonMem.writeLink {d : Opnd} {link : Word} (h : CanonMem s) : CanonMem (writeLink d link s) := by
  unfold writeLink
  exact .modHarts h

protected theorem Ends.jumpReg {target : Word} (h : CanonMem s) : Ends CanonMem (jumpReg target s) := by
  unfold jumpReg
  exact .check .need fun _ => .ok (.jumpTo h)

protected theorem Ends.callReg {d : Opnd} {target : Word} (h : CanonMem s) : Ends CanonMem (callReg d target s) := by
  unfold callReg
  exact .check .need fun _ => .ok (.jumpTo (.writeLink h))

protected theorem Ends.fenced {target : Word} (h : CanonMem s) : Ends (fun _ => True) (fenced target s) := by
  unfold fenced
  exact .ite (.error (.wait h)) (.ite (.error .trap) .need)

protected theorem Ends.readTable {off n : Nat} : Ends (fun _ => True) (readTable s off n) := by
  unfold readTable
  split
  · exact .ok trivial
  · exact .error .trap

protected theorem Ends.jumpTable {f : FmtJ} (h : CanonMem s) : Ends CanonMem (jumpTable f s) := by
  unfold jumpTable
  exact .check .readTable fun _ => .checkIte .readTable (.ok trivial) fun _ => .ok (.jumpTo h)

protected theorem Ends.loopPush {end24 : BitVec 24} {count : Word} (h : CanonMem s) : Ends CanonMem (loopPush end24 count s) := by
  unfold loopPush
  exact .check .need fun _ => .ite (.ok (.setCtl h)) (.check .need fun _ => .ok (.setCtl h))

protected theorem Ends.loopBreak {f : FmtR} (h : CanonMem s) : Ends CanonMem (loopBreak f s) := by
  unfold loopBreak
  dsimp only
  split
  · exact .error .trap
  · exact .ite (.ok (.when (.setCtl h) .markBoundary)) (.ok (.advance h))

protected theorem Ends.loopIndex {f : FmtI} (h : CanonMem s) : Ends CanonMem (loopIndex f s) := by
  unfold loopIndex
  refine .check .need fun _ => ?_
  split
  · exact .error .trap
  · exact .ok (.advance (.modPerformers h))

/-! ### Waiting for earlier work (Machine/Order) -/

protected theorem Ends.afterStream {id strm : Nat} (h : CanonMem s) : Ends (fun _ => True) (afterStream s id strm) := by
  unfold afterStream
  exact .ite (.error (.wait h)) (.ok trivial)

protected theorem Ends.afterOverlap {id l a n : Nat} (h : CanonMem s) : Ends (fun _ => True) (afterOverlap s id l a n) := by
  unfold afterOverlap
  exact .ite (.error (.wait h)) (.ok trivial)

protected theorem Ends.afterSent {id : Nat} (h : CanonMem s) : Ends (fun _ => True) (afterSent s id) := by
  unfold afterSent
  exact .ite (.error (.wait h)) (.ok trivial)

protected theorem Ends.afterLanding {id : Nat} (h : CanonMem s) : Ends (fun _ => True) (afterLanding s id) := by
  unfold afterLanding
  exact .check (.afterSent h) fun _ => .ite (.error (.wait h)) (.ok trivial)

protected theorem Ends.afterAll {id : Nat} (h : CanonMem s) : Ends (fun _ => True) (afterAll s id) := by
  unfold afterAll
  exact .check (.afterLanding h) fun _ => .ite (.error (.wait h)) (.ok trivial)

/-! ### The two harts of a core, their queues and monitors (Machine/Coord) -/

protected theorem Ends.blockAtState (h : CanonMem s) : Ends CanonMem (blockAtState s) := by
  unfold blockAtState
  exact .error (.wait h)

protected theorem Ends.stall (h : CanonMem s) : Ends CanonMem (stall s) := by
  unfold stall
  exact .error (.wait h)

protected theorem Ends.killFirst (h : CanonMem s) : Ends (fun _ => True) (killFirst s) := by
  unfold killFirst
  exact .ite (.error (.wait h)) (.ok trivial)

protected theorem CanonMem.startAHart {k : Nat} {target : Word} (h : CanonMem s) : CanonMem (startAHart s k target) := by
  unfold startAHart
  dsimp only
  split
  · exact .enterScope (.modCore (.modHart h))
  · exact .modCore (.modHart h)

protected theorem Ends.fork {f : FmtR} (h : CanonMem s) : Ends CanonMem (fork f s) := by
  unfold fork
  exact .check .need fun _ => .check (.afterLanding h) fun _ => .ite (.ok (.advance (.startAHart h))) (.blockAtState h)

protected theorem CanonMem.emptyQueues {k : Nat} (h : CanonMem s) : CanonMem (emptyQueues s k) := by
  unfold emptyQueues
  exact .modCore h

protected theorem Ends.join (h : CanonMem s) : Ends CanonMem (join s) := by
  unfold join
  exact .check (.killFirst h) fun _ => .check (.afterLanding h) fun _ => .ite (.ok (.advance (.emptyQueues h))) (.ok (.modHart h))

protected theorem CanonMem.idleAHart {k : Nat} (h : CanonMem s) : CanonMem (idleAHart s k) := by
  unfold idleAHart
  dsimp only
  split
  · exact .leaveStep (.modHart h)
  · exact .modHart h

protected theorem CanonMem.joinMeet {k : Nat} (h : CanonMem s) : CanonMem (joinMeet s k) := by
  unfold joinMeet
  exact .ite (.advance (.setCur (.modHart (.emptyQueues (.ite (.idleAHart h) h))))) h

protected theorem CanonMem.aStart {k : Nat} (h : CanonMem s) : CanonMem (aStart s k) := by
  unfold aStart
  refine .ite ?_ h
  split
  · split
    next u e => exact .modHart (Ends.of_ok (.fork (.setCur h)) e)
    next => exact h
  · exact h

protected theorem Ends.qpush {f : FmtR} (h : CanonMem s) : Ends CanonMem (qpush f s) := by
  unfold qpush
  exact .check .need fun _ => .check (.afterAll h) fun _ => .ite (.ok (.advance (.modCore h))) (.blockAtState h)

protected theorem Ends.qpop {f : FmtR} (h : CanonMem s) : Ends CanonMem (qpop f s) := by
  unfold qpop
  refine .check .need fun _ => ?_
  split
  · exact .blockAtState h
  · exact .ok (.advance (.xWrite (.modCore h)))

protected theorem Ends.bqpush {f : FmtR} (h : CanonMem s) : Ends CanonMem (bqpush f s) := by
  unfold bqpush
  exact .check .need fun _ => .check (.afterAll h) fun _ => .ite (.ok (.advance (.modCore h))) (.blockAtState h)

protected theorem Ends.bqbr {f : FmtR} (h : CanonMem s) : Ends CanonMem (bqbr f s) := by
  unfold bqbr
  refine .check .need fun _ => ?_
  split
  · exact .blockAtState h
  · exact .ok (.ite (.jumpTo (.modCore h)) (.advance (.modCore h)))

protected theorem Ends.monitor {f : FmtR} (h : CanonMem s) : Ends CanonMem (monitor f s) := by
  unfold monitor
  exact .check .lift fun _ => .ok (.advance (.modHart h))

protected theorem Ends.mwait {f : FmtR} (h : CanonMem s) : Ends CanonMem (mwait f s) := by
  unfold mwait
  refine .check (.killFirst h) fun _ => ?_
  split
  · exact .ok (.advance (.modHart h))
  · exact .blockAtState (.modHart h)

protected theorem CanonMem.endMwait {id : Nat} (h : CanonMem s) : CanonMem (endMwait s id) := by
  unfold endMwait
  refine .ite ?_ h
  split
  · split
    next u e => exact .modHart (Ends.of_ok (.mwait (.setCur h)) e)
    next => exact h
  · exact h

/-! ### The device's own state in memory (Machine/Image) -/

protected theorem CanonMem.memRead {pa n : Nat} (h : CanonMem s) : CanonMem (memRead s pa n).2 := h.of_eq (memRead_mem s pa n)

protected theorem CanonMem.freeInto {pa n : Nat} (h : CanonMem s) : CanonMem (freeInto s pa n) := freeInto_wf h pa n

protected theorem CanonMem.memWrite {pa : Nat} {bytes : List Byte} (h : CanonMem s) : CanonMem (memWrite s pa bytes) := memWrite_wf h pa bytes

/-! ### Step frames and context images (Machine/Frames) -/

protected theorem CanonMem.writeFrame {c : Nat} {i : StepInfo} {hd : Header} {engines : List EngineRec} {frame : Nat} (h : CanonMem s) :
    CanonMem (writeFrame s c i hd engines frame) := by
  unfold writeFrame
  exact .writeBytes (.writeBytes h)

protected theorem CanonMem.readFrame {c : Nat} {i : StepInfo} {frame : Nat} (h : CanonMem s) : CanonMem (readFrame s c i frame) := by
  unfold readFrame
  exact .modCore (.modHart (.modHart h))

protected theorem CanonMem.keepFrame {g frame : Nat} (h : CanonMem s) : CanonMem (keepFrame s g frame) := by
  unfold keepFrame
  exact .modPer h

protected theorem CanonMem.saveRow {g : Nat} {i : StepInfo} {hd : Header} {frame : Nat} (h : CanonMem s) :
    CanonMem (saveRow s g i hd frame) := by
  unfold saveRow
  exact .writeBytes (.keepFrame h)

protected theorem CanonMem.modBanks {g : Nat} {f : Bank → Bank} (h : CanonMem s) : CanonMem (modBanks s g f) := by
  unfold modBanks
  exact .foldl (fun _ _ => .modBank) h

protected theorem CanonMem.dropSent {senders : List Nat} (h : CanonMem s) : CanonMem (dropSent s senders) := by
  unfold dropSent
  exact .ite h h

protected theorem CanonMem.holdLanes {g : Nat} (h : CanonMem s) : CanonMem (holdLanes s g) := by
  unfold holdLanes
  exact .dropSent (.modBanks h)

protected theorem CanonMem.resumeFlags {g b : Nat} (h : CanonMem s) : CanonMem (resumeFlags s g b) := by
  unfold resumeFlags
  exact .ite h (.modBank (.modHart h))

protected theorem CanonMem.memWriteRange {m : RangeMap} {bytes : List Byte} (h : CanonMem s) : CanonMem (memWriteRange s m bytes) := by
  unfold memWriteRange
  refine .foldl_fst (fun _ _ ht => ?_) h
  dsimp only
  split
  · exact .memWrite ht
  · exact ht

protected theorem CanonMem.restartPort {g b : Nat} (h : CanonMem s) : CanonMem (restartPort s g b) := by
  unfold restartPort
  refine .ite h (.ite ?_ (.ite ?_ h))
  · split
    · exact .memWriteRange (.commitAll h)
    · exact h
  · split
    · exact .modBank (.commitAll h)
    · exact h

protected theorem CanonMem.readRowFrame {g : Nat} {i : StepInfo} {frame : Nat} (h : CanonMem s) : CanonMem (readRowFrame s g i frame) := by
  unfold readRowFrame
  exact .modPer (.modBanks (.foldl (fun _ _ ht => .resumeFlags (.restartPort ht)) (.foldl (fun _ _ ht => .modBank (.modHart ht)) h)))

/-! ### Cancellation (Machine/Cancel) -/

protected theorem CanonMem.spoilRange {c : AddrCtx} {lo len : Nat} (h : CanonMem s) : CanonMem (spoilRange s c lo len) := by
  unfold spoilRange
  refine .ite h (.foldl (fun _ _ ht => .ite ht ?_) h)
  split
  · split
    · exact .freeInto ht
    · exact ht
  · exact ht

protected theorem CanonMem.staleHandle {c : AddrCtx} {va : Word} (h : CanonMem s) : CanonMem (staleHandle s c va) := by
  unfold staleHandle
  refine .ite ?_ h
  split
  · split
    · exact .writeNat (.spoilRange h)
    · exact h
  · exact h

protected theorem CanonMem.dropFollow {core : Nat} {e : EngineRec} (h : CanonMem s) : CanonMem (dropFollow s core e) := by
  unfold dropFollow
  exact .foldl (fun _ _ => .modCore) h

protected theorem CanonMem.endSlotLoad {core : Nat} {e : EngineRec} (h : CanonMem s) : CanonMem (endSlotLoad s core e) := by
  unfold endSlotLoad
  exact .ite (.modCore h) h

protected theorem CanonMem.dropEngine {core : Nat} {e : EngineRec} (h : CanonMem s) : CanonMem (dropEngine s core e) := by
  unfold dropEngine
  exact .when (.when (.endSlotLoad h) .staleHandle) .dropFollow

protected theorem CanonMem.dropCaught {i : StepInfo} (h : CanonMem s) : CanonMem (dropCaught s i) := h

protected theorem CanonMem.rejectCaught {i : StepInfo} (h : CanonMem s) : CanonMem (rejectCaught s i) := by
  unfold rejectCaught
  exact .dropCaught (.foldl (fun _ _ ht => .foldl (fun _ _ => .endSlotLoad) ht) h)

protected theorem CanonMem.dropSaved {k : Nat} {i : StepInfo} {frame : Nat} (h : CanonMem s) : CanonMem (dropSaved s k i frame) := by
  unfold dropSaved
  exact .leaveStep (.endKilledStep (.countKill (.ite (.foldl (fun _ _ => .dropEngine) (.dropCaught (.departBarriers h)))
      (.modCore (.dropCaught (.departBarriers h)))) (fun _ _ => .addKillHarts)))

protected theorem CanonMem.dropSavedRow {i : StepInfo} {record : List Byte} (h : CanonMem s) : CanonMem (dropSavedRow s i record) := by
  unfold dropSavedRow
  exact .leaveStep (.endKilledStep (.countKill h (fun _ _ => .addKillHarts)))

protected theorem CanonMem.markBlock {marked : List Nat} {count : Nat} {r : BlockRef} (h : CanonMem s) :
    CanonMem (markBlock s marked count r) := by
  unfold markBlock
  dsimp only
  split
  · exact h
  · exact .ite h (.ite (.killBlock (.dequeue h)) (.addEnded (.addKillSteps (.putControl (.dequeue h)))))

protected theorem CanonMem.requestKill {ids : List Nat} (h : CanonMem s) : CanonMem (requestKill s ids) := by
  unfold requestKill
  exact .modHarts h

protected theorem CanonMem.markCore {marked : List Nat} {count : Nat} {k : Nat} (h : CanonMem s) :
    CanonMem (markCore s marked count k) := by
  unfold markCore
  refine .foldl (fun _ _ ht => .ite (.dropSaved (.modCore ht)) ht) ?_
  split
  · exact h
  · refine .ite h ?_
    dsimp only
    split
    · exact .modCore (.endKilledStep h)
    · exact .modCore (.dropSaved h)
    · exact .requestKill (.modCore h)

protected theorem CanonMem.markPergola {marked : List Nat} {count : Nat} {g : Nat} (h : CanonMem s) :
    CanonMem (markPergola s marked count g) := by
  unfold markPergola
  refine .foldl (fun _ _ ht => .ite (.dropSavedRow (.modPer ht)) ht) ?_
  split
  · exact h
  · refine .ite h ?_
    dsimp only
    split
    · exact .modPer (.endKilledStep h)
    · exact .modPer (.dropSavedRow h)
    · exact .requestKill (.modPer h)

protected theorem CanonMem.markClaims {marked : List Nat} {count : Nat} (h : CanonMem s) : CanonMem (markClaims s marked count) := by
  unfold markClaims
  refine .foldl (fun _ _ ht => .foldl (fun _ _ hu => ?_) ht) h
  split
  · exact .ite (.addEnded (.addKillSteps (.modWing hu))) hu
  · exact hu

protected theorem CanonMem.cancelScope {c : BitVec 16} {pa : Nat} {canceller : BitVec 16} (h : CanonMem s) :
    CanonMem (cancelScope s c pa canceller) := by
  unfold cancelScope
  refine .ite h ?_
  extract_lets -underBinder _ _ _ _ _ _ _ _ _ t
  have ht : CanonMem t := .trimGrants (.quiesce (.addSlotsDrop (.dropSlots (.foldl (fun _ _ => .markPergola)
    (.foldl (fun _ _ => .markCore) (.markClaims (.foldl (fun _ _ hu => .when hu .markBlock)
        (.foldl (fun _ _ => .modRecord) (.setOwned h)))))))))
  split
  · exact ht
  · exact .devicePoison ht

/-! ### Where the bytes of a command lie (Machine/Command) -/

protected theorem Ends.afterCopies {id l strm : Nat} (h : CanonMem s) : Ends (fun _ => True) (afterCopies s id l strm) := by
  unfold afterCopies
  exact .ite (.error (.wait h)) (.ok trivial)

/-! ### Overlays and segment fetch (Machine/Overlay) -/

protected theorem CanonMem.segmentFetch {harts : List Nat} {context : BitVec 16} {n : Nat} {source : Word} {off len : Nat} {m : RangeMap}
    {mark : Option (Nat × Nat × Nat)} (h : CanonMem s) : CanonMem (segmentFetch s harts context n source off len m mark) := by
  unfold segmentFetch
  exact .modOverlay h

protected theorem CanonMem.settleReissue {n : Nat} {mark : Option (Nat × Nat × Nat)} (h : CanonMem s) :
    CanonMem (settleReissue s n mark) := by
  unfold settleReissue
  exact .ite h (.modOverlay h)

protected theorem CanonMem.passReissue {n : Nat} {b : OvlBlock} {pa : Nat} (h : CanonMem s) : CanonMem (passReissue s n b pa) := by
  unfold passReissue
  exact .logError (.modOverlay h)

protected theorem CanonMem.landBlock {n k : Nat} (h : CanonMem s) : CanonMem (landBlock s n k) := by
  unfold landBlock
  refine .ite h ?_
  dsimp only
  split
  · exact .settleReissue (.modOverlay h)
  · split
    · exact .settleReissue (.modOverlay (.memRead h))
    · exact .ite (.passReissue h) (.ite (.unitFault (.logError (.settleReissue (.modOverlay h))))
        (.docentStop (.logError (.settleReissue (.modOverlay h)))))

protected theorem CanonMem.noteSegment {id : Nat} {r : SegRange} (h : CanonMem s) : CanonMem (noteSegment s id r) := by
  unfold noteSegment
  exact .ite (.modCore h) (.ite h (.modPer h))

protected theorem CanonMem.dropRange {c : AddrCtx} {n : Nat} {r : SegRange} (h : CanonMem s) : CanonMem (dropRange s c n r) := by
  unfold dropRange
  exact .modOverlay h

protected theorem CanonMem.passRange {c : AddrCtx} {hart n : Nat} {r : SegRange} {pa : Nat} (h : CanonMem s) :
    CanonMem (passRange s c hart n r pa) := by
  unfold passRange
  exact .logError (.dropRange h)

protected theorem CanonMem.reissueSegments {c : AddrCtx} {hart n : Nat} {i : StepInfo} (h : CanonMem s) :
    CanonMem (reissueSegments s c hart n i) := by
  unfold reissueSegments
  refine .foldl (fun _ _ ht => ?_) h
  split
  · split
    · exact .passRange ht
    · exact .segmentFetch (.commitAll ht)
  · exact .ite (.dropRange ht) ht

/-! ### Halts (Machine/Halt) -/

protected theorem CanonMem.haltHart {id : Nat} (h : CanonMem s) : CanonMem (haltHart s id) := by
  unfold haltHart
  refine .ite ?_ (.modHart h)
  split
  · exact .setCur (.advance (.setCur (.modHart h)))
  · exact h

protected theorem CanonMem.badFrame {c : BitVec 16} {id : Nat} {unit : UnitRef} (h : CanonMem s) : CanonMem (badFrame s c id unit) := by
  unfold badFrame
  exact .unitFault h

theorem CanonMem.of_frameFault {c : BitVec 16} {id frame n : Nat} {x : State × FaultRec} (h : CanonMem s)
    (e : frameFault s c id frame n = some x) : CanonMem x.1 := by
  unfold frameFault at e
  split at e
  · cases e
    exact h
  · obtain ⟨pa, -, rfl⟩ := Option.map_eq_some_iff.1 e
    exact .logPoison h

protected theorem CanonMem.stopPergola {g : Nat} (h : CanonMem s) : CanonMem (stopPergola s g) := by
  unfold stopPergola
  split
  · exact h
  · exact .ite h (.modHalt (.modPer (.holdLanes (.ite (.saveRow (.modHarts h)) (.badFrame (.modHarts h))))))

protected theorem CanonMem.haltComplete {c : BitVec 16} (h : CanonMem s) : CanonMem (haltComplete s c) := by
  unfold haltComplete
  exact .ite (.modHalt h) h

protected theorem CanonMem.haltctlHalt {c : BitVec 16} (h : CanonMem s) : CanonMem (haltctlHalt s c) := by
  unfold haltctlHalt
  exact .ite (.assertHalt h) (.contextFault h)

protected theorem CanonMem.rejectRecord {i : StepInfo} {frame wing : Nat} (h : CanonMem s) : CanonMem (rejectRecord s i frame wing) := by
  unfold rejectRecord
  exact .addEnded (.logSched (.rejectCaught h))

protected theorem CanonMem.resumeCore {c : BitVec 16} {k : Nat} (h : CanonMem s) : CanonMem (resumeCore s c k) := by
  unfold resumeCore
  split
  · exact h
  · exact .ite h (.modCore (.setSuspendCount (.modHarts h)))

theorem CanonMem.of_restoreSegments {g : Nat} {i : StepInfo} {t : State} (h : CanonMem s) (e : restoreSegments s g i = .ok t) : CanonMem t := by
  unfold restoreSegments at e
  dsimp only [bind, Except.bind] at e
  split at e
  · cases e
  · split at e
    · cases e
    · cases e
      exact .reissueSegments (.segmentFetch (.commitAll h))

protected theorem CanonMem.dropRowStep {g : Nat} (h : CanonMem s) : CanonMem (dropRowStep s g) := by
  unfold dropRowStep
  exact .modHarts (.modPer h)

protected theorem CanonMem.rejectStep {r : BlockRef} {wing : Nat} {reason : BitVec 8} {detail : Word} (h : CanonMem s) :
    CanonMem (rejectStep s r wing reason detail) := by
  unfold rejectStep
  exact .addEnded (.logSched h)

protected theorem CanonMem.restartRow {g : Nat} {i : StepInfo} (h : CanonMem s) : CanonMem (restartRow s g i) := by
  unfold restartRow
  split
  next t e => exact h.of_restoreSegments e
  next => exact .ite (.unitFault (.logPoison (.modPer h))) (.leaveStep (.rejectStep (.dropRowStep h)))

protected theorem CanonMem.resumePergola {c : BitVec 16} {g : Nat} (h : CanonMem s) : CanonMem (resumePergola s c g) := by
  unfold resumePergola
  split
  · exact h
  · exact .ite h (.restartRow (.modPer h))

protected theorem CanonMem.haltctlResume {c : BitVec 16} (h : CanonMem s) : CanonMem (haltctlResume s c) := by
  unfold haltctlResume
  exact .ite h (.foldl (fun _ _ => .resumePergola) (.foldl (fun _ _ => .resumeCore) (.modHalt h)))

protected theorem CanonMem.killStopped {c : BitVec 16} {k : Nat} (h : CanonMem s) : CanonMem (killStopped s c k) := by
  unfold killStopped
  split
  · exact h
  · exact .ite h (.killCur (.setCur (.killCur (.setCur (.dropCaught (.leaveStep (.foldl (fun _ _ => .dropEngine) h)))))))

protected theorem CanonMem.fillTiles {w : MatrixWork} (h : CanonMem s) : CanonMem (fillTiles s w) := by
  unfold fillTiles
  exact .foldl (fun _ _ => .modCore) h

protected theorem CanonMem.killEngines {c : BitVec 16} {k : Nat} (h : CanonMem s) : CanonMem (killEngines s c k) := by
  unfold killEngines
  exact .foldl (fun _ _ ht => .leaveStep (.dropEngine ht)) (.foldl (fun _ _ => .fillTiles) (.modCore h))

protected theorem CanonMem.killSuspended {c : BitVec 16} {k : Nat} (h : CanonMem s) : CanonMem (killSuspended s c k) := by
  unfold killSuspended
  exact .foldl (fun _ _ ht => .dropSaved (.modCore ht)) h

protected theorem CanonMem.killStoppedRow {c : BitVec 16} {g : Nat} (h : CanonMem s) : CanonMem (killStoppedRow s c g) := by
  unfold killStoppedRow
  split
  · exact h
  · exact .ite h (.killCur h)

protected theorem CanonMem.killDone {c : BitVec 16} (h : CanonMem s) : CanonMem (killDone s c) := by
  unfold killDone
  exact .ite (.modHalt h) h

protected theorem CanonMem.haltctlKill {c : BitVec 16} (h : CanonMem s) : CanonMem (haltctlKill s c) := by
  unfold haltctlKill
  exact .ite h (.setCur (.killDone (.quiesce (.foldl (fun _ _ ht => .killSuspended (.killEngines ht))
      (.foldl (fun _ _ => .killStoppedRow) (.foldl (fun _ _ => .killStopped) (.foldl (fun _ _ => .cancelScope) (.modHalt h))))))))

protected theorem CanonMem.powerEmergency (h : CanonMem s) : CanonMem (powerEmergency s) := by
  unfold powerEmergency
  exact .foldl (fun _ _ => .assertHalt) h

/-! ### The scheduler (Machine/Sched) -/

protected theorem CanonMem.claim {r : BlockRef} {b : Block} (h : CanonMem s) : CanonMem (claim s r b) := by
  unfold claim
  exact .ite (.dequeue (.when (.putNext h) .putControl)) (.foldl (fun _ _ => .modWing) (.when (.putNext h) .putControl))

protected theorem CanonMem.ungate (h : CanonMem s) : CanonMem (ungate s) := h

protected theorem CanonMem.dispatchCore {k : Nat} {r : BlockRef} {b : Block} (h : CanonMem s) : CanonMem (dispatchCore s k r b) := by
  unfold dispatchCore
  refine .ite (.rejectStep (.claim h)) ?_
  split
  · exact .rejectStep (.claim h)
  · exact .modCore (.ungate (.modHarts (.segmentFetch (.commitAll (.claim h)))))

protected theorem CanonMem.startCore {k : Nat} {i : StepInfo} {b : Block} (h : CanonMem s) : CanonMem (startCore s k i b) := by
  unfold startCore
  exact .enterScope (.modCore (.modHart h))

protected theorem CanonMem.suspend {k : Nat} (h : CanonMem s) : CanonMem (suspend s k) := by
  unfold suspend
  split
  · exact h
  · exact .ite h (.ite (.setCur (.killCur (.setCur (.killCur h)))) (.ite (.badFrame (.modHarts h))
      (.modCore (.setSuspendCount (.modHarts (.writeFrame (.modHarts h)))))))

protected theorem CanonMem.rejectSaved {k : Nat} {u : Suspended} {code : BitVec 8} (h : CanonMem s) :
    CanonMem (rejectSaved s k u code) := by
  unfold rejectSaved
  exact .leaveStep (.rejectStep (.rejectCaught h))

protected theorem CanonMem.resumeStep {k : Nat} {u : Suspended} (h : CanonMem s) : CanonMem (resumeStep s k u) := by
  unfold resumeStep
  dsimp only
  split
  next x e => exact .savedFault (h.of_frameFault e)
  next =>
    refine .ite (.leaveStep (.rejectRecord (.modCore h))) ?_
    split
    · exact .ite (.savedFault (.logPoison h)) (.rejectSaved (.modCore h))
    · split
      · exact .rejectSaved (.modCore h)
      · exact .modHart (.modHart (.modCore (.ungate (.reissueSegments (.segmentFetch (.commitAll (.modCore h)))))))

protected theorem CanonMem.reloadCore {k : Nat} {i : StepInfo} (h : CanonMem s) : CanonMem (reloadCore s k i) := by
  unfold reloadCore
  exact .modHart (.modHart (.readFrame h))

theorem CanonMem.of_moveFault {j k : Nat} {u : Suspended} {x : State × FaultRec} (h : CanonMem s) (e : moveFault s j k u = some x) :
    CanonMem x.1 := by
  unfold moveFault at e
  rcases (Option.orElse_eq_some _ _ _).1 e with e | ⟨-, e⟩
  · exact h.of_frameFault e
  · split at e
    · cases e
      exact h
    · split at e
      · cases e
        exact h
      · obtain ⟨pa, -, rfl⟩ := Option.map_eq_some_iff.1 e
        exact .logPoison h

protected theorem CanonMem.moveWork {j k : Nat} {i : StepInfo} (h : CanonMem s) : CanonMem (moveWork s j k i) := by
  unfold moveWork
  exact .modCore (.modCore h)

protected theorem CanonMem.migrate {j k : Nat} {u : Suspended} (h : CanonMem s) : CanonMem (migrate s j k u).1 := by
  unfold migrate
  exact .moveWork (.modCore (.modCore (.foldl (fun _ _ ht => .modCore (.writeBytes (.writeNat ht))) (.writeBytes (.writeBytes h)))))

protected theorem CanonMem.grantWing {w p : Nat} (h : CanonMem s) : CanonMem (grantWing s w p) := by
  unfold grantWing
  exact .trimGrants (.modWing h)

protected theorem CanonMem.takeBlock {w k p : Nat} {r : BlockRef} (h : CanonMem s) : CanonMem (takeBlock s w k p r) := by
  unfold takeBlock
  split
  · exact .grantWing (.dispatchCore h)
  · exact .dequeue h

protected theorem CanonMem.takeMoved {w k p : Nat} {x : Nat × Suspended} (h : CanonMem s) : CanonMem (takeMoved s w k p x) := by
  unfold takeMoved
  refine .ite (.ite h (.modCore h)) (.ite h ?_)
  split
  next f e => exact .savedFault (h.of_moveFault e)
  next => exact .grantWing (.resumeStep (.migrate h))

protected theorem CanonMem.setTurn {w p : Nat} {b : Bool} (h : CanonMem s) : CanonMem (setTurn s w p b) := by
  unfold setTurn
  exact .modWing h

protected theorem CanonMem.ruleOne {w k p : Nat} (h : CanonMem s) : CanonMem (ruleOne s w k p) := by
  unfold ruleOne
  dsimp only
  split
  · exact .grantWing (.resumeStep (.ite (.setTurn h) h))
  · split
    · exact .ite (.takeBlock (.setTurn h)) (.ite (.takeMoved h) (.takeMoved (.setTurn h)))
    · exact .takeBlock h
    · exact .takeMoved h
    · exact h

protected theorem CanonMem.ruleTwo {w k : Nat} (h : CanonMem s) : CanonMem (ruleTwo s w k) := by
  unfold ruleTwo
  split
  · split
    · exact .grantWing (.resumeStep h)
    · split
      · exact .takeBlock h
      · exact h
  · dsimp only
    split
    · exact .ite h (.takeMoved h)
    · exact h

protected theorem CanonMem.selectCore {k : Nat} (h : CanonMem s) : CanonMem (selectCore s k) := by
  unfold selectCore
  refine .ite h ?_
  dsimp only
  split
  · exact .walkerPoison h
  · split
    · exact .ruleOne h
    · exact .ruleTwo h

protected theorem CanonMem.walkerRequests {w : Nat} (h : CanonMem s) : CanonMem (walkerRequests s w) := by
  unfold walkerRequests
  exact .ite h (.requestPreempt h)

protected theorem CanonMem.dispatchRow {g : Nat} {r : BlockRef} {b : Block} {n : Nat} (h : CanonMem s) :
    CanonMem (dispatchRow s g r b n) := by
  unfold dispatchRow
  refine .ite (.rejectStep h) (.ite (.rejectStep h) ?_)
  split
  · exact .rejectStep h
  · exact .modPer (.ungate (.modHarts (.segmentFetch (.commitAll h))))

protected theorem CanonMem.startPergola {g : Nat} {i : StepInfo} {b : Block} (h : CanonMem s) : CanonMem (startPergola s g i b) := by
  unfold startPergola
  exact .enterScope (.modPer (.foldl (fun _ _ => .modHart) h))

protected theorem CanonMem.claimAhead {g : Nat} {r : BlockRef} : ∀ {fuel : Nat} {s : State}, CanonMem s → CanonMem (claimAhead s g r fuel)
  | 0, _, h => h
  | fuel + 1, s, h => by
    unfold Machine.claimAhead
    split
    · exact h
    · split
      · exact h
      · refine .ite h ?_
        split
        · exact h
        · exact .ite h (CanonMem.claimAhead (.modWing (.claim h)))

protected theorem CanonMem.grantPer {g p : Nat} (h : CanonMem s) : CanonMem (grantPer s g p) := by
  unfold grantPer
  exact .trimGrants (.modPer h)

protected theorem CanonMem.resumeRow {g : Nat} {u : RowSuspended} (h : CanonMem s) : CanonMem (resumeRow s g u) := by
  unfold resumeRow
  exact .restartRow (.modPer (.ungate (.whenNot (.modPer h) fun ht => .writeBytes (.keepFrame ht))))

theorem CanonMem.of_selectRowAt {g p : Nat} {may : BitVec 16 → Nat → Bool} {t : State} (h : CanonMem s) (e : selectRowAt s g may p = some t) :
    CanonMem t := by
  unfold selectRowAt at e
  split at e
  · cases e
    exact .grantPer (.resumeRow h)
  · obtain ⟨x, -, e⟩ := List.exists_of_findSome?_eq_some e
    have h1 : CanonMem (claimAhead s g x.1 (blkOctn x.2.1)) := .claimAhead h
    dsimp only at e
    split at e
    · cases e
    · split at e
      · cases e
      · split at e
        · split at e
          · cases e
            exact .grantPer (.dispatchRow (.claim (.served h1)))
          · cases e
        · split at e
          · cases e
          · cases e
            exact .trimGrants (.rejectStep (.claim (.served h1)))

theorem CanonMem.of_selectRowFor {g : Nat} {may : BitVec 16 → Nat → Bool} {t : State} (h : CanonMem s) (e : selectRowFor s g may = some t) :
    CanonMem t := by
  unfold selectRowFor at e
  split at e
  · split at e
    · cases e
      exact .grantPer (.dispatchRow (.served (.modWing h)))
    · cases e
  · obtain ⟨p, -, e⟩ := List.exists_of_findSome?_eq_some e
    exact h.of_selectRowAt e

protected theorem CanonMem.selectRow {g : Nat} (h : CanonMem s) : CanonMem (selectRow s g) := by
  unfold selectRow
  refine .ite h ?_
  split
  · exact .walkerPoison h
  · cases e : selectRowFor s g fun _ _ => true with
    | none => exact h
    | some t => exact h.of_selectRowFor e

protected theorem CanonMem.startOnCore {k : Nat} (h : CanonMem s) : CanonMem (startOnCore s k) := by
  unfold startOnCore
  split
  · exact h
  · dsimp only
    split
    · exact h
    · refine .ite h (.ite (.startCore h) (.ite ?_ h))
      split
      next x e => exact .unitFault (.modCore (h.of_frameFault e))
      next => exact .reloadCore h

protected theorem CanonMem.startOnPergola {g : Nat} (h : CanonMem s) : CanonMem (startOnPergola s g) := by
  unfold startOnPergola
  split
  · exact h
  · split
    · exact h
    · refine .ite h (.ite (.leaveStep (.rejectStep (.dropRowStep h))) (.ite (.startPergola h) (.ite ?_ h)))
      split
      next x e => exact .unitFault (.modPer (h.of_frameFault e))
      next => exact .ite (.readRowFrame h) (.leaveStep (.dropRowStep (.rejectRecord h)))

protected theorem CanonMem.stepStart {u : UnitRef} (h : CanonMem s) : CanonMem (stepStart s u) := by
  unfold stepStart
  split
  · exact .startOnCore h
  · exact .startOnPergola h

protected theorem CanonMem.intakeFault {n : Nat} {c : AddrCtx} {e : BitVec 8 × Word} (h : CanonMem s) : CanonMem (intakeFault s n c e) := by
  unfold intakeFault
  exact .docentStop (.ite (.logError h) h)

protected theorem CanonMem.intakeBlock {n : Nat} {c : AddrCtx} {k : BitVec 16} {va : Word} (h : CanonMem s) :
    CanonMem (intakeBlock s n c k va) := by
  unfold intakeBlock
  dsimp only
  split
  · exact .rejectBlock h
  · split
    · exact .ite (.rejectBlock h) (.ite (.rejectBlock h) (.decrement h))
    · exact .ite (.rejectBlock h) (.ite (.rejectBlock h) (.decrement h))

protected theorem CanonMem.intakeTake {n : Nat} (h : CanonMem s) : CanonMem (intakeTake s n) := by
  unfold intakeTake
  split
  · exact h
  · refine .ite h ?_
    dsimp only
    split
    · exact .ite (.intakeFault h) h
    · refine .ite h ?_
      split
      · exact .intakeFault h
      · refine .ite h ?_
        split
        · exact .walkerPoison h
        · exact .writeNat (.intakeBlock h)

protected theorem CanonMem.docctlRestart {w : Nat} (h : CanonMem s) : CanonMem (docctlRestart s w) := by
  unfold docctlRestart
  exact .ite (.modHart (.modWing h)) h

/-! ### Device registers (Machine/DevReg) -/

protected theorem CanonMem.devRead {off : Nat} (h : CanonMem s) : CanonMem (devRead s off).2 := by
  unfold devRead
  split
  · exact h
  · exact .freeWord h

protected theorem CanonMem.modCtx {c : Nat} {f : CtxEntry → CtxEntry} (h : CanonMem s) : CanonMem (modCtx s c f) := h

protected theorem CanonMem.ctxInvalidate {c : Nat} (h : CanonMem s) : CanonMem (ctxInvalidate s c) := by
  unfold ctxInvalidate
  exact .modCtx h

protected theorem CanonMem.ctxWrite {c k : Nat} {v : Word} (h : CanonMem s) : CanonMem (ctxWrite s c k v) := by
  unfold ctxWrite
  exact .ite (.ite (.ctxInvalidate h) h) (.modCtx h)

protected theorem CanonMem.modPort {p : Nat} {f : Port → Port} (h : CanonMem s) : CanonMem (modPort s p f) := h

protected theorem CanonMem.linkerrClear {p : Nat} (h : CanonMem s) : CanonMem (linkerrClear s p) := by
  unfold linkerrClear
  exact .modPort h

protected theorem CanonMem.bundleAck (h : CanonMem s) : CanonMem (bundleAck s) := by
  unfold bundleAck
  exact .ite h h

protected theorem CanonMem.restripeComplete (h : CanonMem s) : CanonMem (restripeComplete s) := by
  unfold restripeComplete
  exact .ite h h

protected theorem CanonMem.haltctl {c : BitVec 16} {v : Word} (h : CanonMem s) : CanonMem (haltctl s c v) := by
  unfold haltctl
  split
  · exact .haltctlHalt h
  · exact .haltctlResume h
  · exact .haltctlKill h
  · exact h

protected theorem CanonMem.devEffect {off : Nat} {v : Word} (h : CanonMem s) : CanonMem (devEffect s off v) := by
  unfold devEffect
  exact .ite (.ctxWrite h) (.ite (.ite (.haltctl h) h) (.ite (.ite (.docctlRestart h) h)
      (.ite (.linkerrClear h) (.ite (.ite (.bundleAck h) h) h))))

protected theorem CanonMem.devWrite {off : Nat} {v : Word} (h : CanonMem s) : CanonMem (devWrite s off v) := by
  unfold devWrite
  exact .triggerMonitors (.devEffect h)

protected theorem CanonMem.devReadBytes {off n : Nat} (h : CanonMem s) : CanonMem (devReadBytes s off n).2 := by
  unfold devReadBytes
  exact .devRead h

protected theorem CanonMem.devWriteBytes {off : Nat} {bytes : List Byte} (h : CanonMem s) : CanonMem (devWriteBytes s off bytes) := by
  unfold devWriteBytes
  exact .devWrite h

/-! ### Links and packets (Machine/Links) -/

protected theorem CanonMem.markRefused {p : Packet} (h : CanonMem s) : CanonMem (markRefused s p) := by
  unfold markRefused
  refine .ite (.modHart h) ?_
  split
  · exact .modHart h
  · exact h

protected theorem CanonMem.noteRefusal {p : Packet} {code : BitVec 8} (h : CanonMem s) : CanonMem (noteRefusal s p code) := by
  unfold noteRefusal
  exact .whenNot (.modPort h) .markRefused

protected theorem CanonMem.sendPacket {p : Packet} (h : CanonMem s) : CanonMem (sendPacket s p) := by
  unfold sendPacket
  exact .ite (.noteRefusal h) h

protected theorem Ends.peerValue {id k : Nat} {p : Packet} (h : CanonMem s) : Ends (fun r => CanonMem r.2) (peerValue s id k p) := by
  unfold peerValue
  split
  · exact .ok h
  · exact .ite (.error (.wait h)) (.ite (.ok (.sendPacket h)) (.error (.wait (.modHart (.sendPacket h)))))

protected theorem CanonMem.dropReplies {id : Nat} (h : CanonMem s) : CanonMem (dropReplies s id) := by
  unfold dropReplies
  exact .ite h (.modHart h)

protected theorem Ends.remote {id : Nat} {r : M State} (hr : Ends CanonMem r) (h : CanonMem s) : Ends CanonMem (remote id r s) := by
  cases hr with
  | ok ht => exact .ok (.dropReplies ht)
  | @error st hr =>
    cases st with
    | trap code info => exact .error (.after (.dropReplies h))
    | after t code info => exact .error (.after (.dropReplies hr))
    | drain t code info => exact .error (.drain (.dropReplies hr))
    | banks own => exact .error .banks
    | banksAfter t own => exact .error (.banksAfter hr)
    | wait t blocking => exact .error (.wait hr)
    | part t code engine info => exact .error (.part hr)

protected theorem CanonMem.deliverHart {n : Nat} {p : Packet} {r : Reply} (h : CanonMem s) : CanonMem (deliverHart s n p r) := by
  unfold deliverHart
  exact .ite (.modHart h) h

protected theorem CanonMem.deliverCopy {n : Nat} {line : List Byte × Bool} (h : CanonMem s) : CanonMem (deliverCopy s n line) := h

protected theorem CanonMem.acknowledged {n : Nat} {data : List Byte} {poison : Bool} (h : CanonMem s) :
    CanonMem (acknowledged s n data poison) := by
  unfold acknowledged
  split
  · exact h
  · exact .whenNot h fun ht => .ite (.deliverCopy ht) (.deliverHart ht)

protected theorem CanonMem.refusalReturn {n : Nat} {code : BitVec 8} (h : CanonMem s) : CanonMem (refusalReturn s n code) := by
  unfold refusalReturn
  split
  · exact h
  · exact .whenNot (.noteRefusal h) fun ht => .ite (.deliverCopy ht) (.deliverHart ht)

protected theorem CanonMem.flitReplay {port : Nat} (h : CanonMem s) : CanonMem (flitReplay s port) := by
  unfold flitReplay
  exact .ite h (.ite (.modPort h) (.modPort h))

protected theorem CanonMem.flitPassed {port : Nat} (h : CanonMem s) : CanonMem (flitPassed s port) := by
  unfold flitPassed
  exact .ite (.modPort h) h

protected theorem CanonMem.dropPort {port : Nat} (h : CanonMem s) : CanonMem (dropPort s port) := by
  unfold dropPort
  exact .foldl (fun _ _ => .refusalReturn) h

protected theorem CanonMem.recordPort {port : Nat} {rate : BitVec 8} (h : CanonMem s) : CanonMem (recordPort s port rate) := h

protected theorem CanonMem.retrainEnd {port : Nat} {passed : Bool} (h : CanonMem s) : CanonMem (retrainEnd s port passed) := by
  unfold retrainEnd
  exact .ite h (.ite (.modPort h) (.ite (.modPort h) (.dropPort (.recordPort (.modPort h)))))

/-! ### Loads, stores, atomics and fences (Machine/MemInstr) -/

protected theorem CanonMem.devReadSpan {off n : Nat} (h : CanonMem s) : CanonMem (devReadSpan s off n).2 := by
  unfold devReadSpan
  refine .foldl_snd (fun _ _ ht => .ite_snd ?_ ht) h
  dsimp only
  exact .devReadBytes ht

protected theorem CanonMem.devWriteSpan {off : Nat} {bytes : List Byte} (h : CanonMem s) : CanonMem (devWriteSpan s off bytes) := by
  unfold devWriteSpan
  exact .foldl (fun _ _ ht => .ite (.devWriteBytes ht) ht) h

protected theorem CanonMem.progRead {p : Place} {n : Nat} (h : CanonMem s) : CanonMem (progRead s p n).2 := by
  unfold progRead
  split
  · exact .memRead h
  · exact .devReadSpan h
  · exact h

protected theorem CanonMem.progWrite {p : Place} {bytes : List Byte} (h : CanonMem s) : CanonMem (progWrite s p bytes) := by
  unfold progWrite
  split
  · exact .memWrite h
  · exact .devWriteSpan h
  · exact .writePlace h

protected theorem CanonMem.progReadRange {m : RangeMap} (h : CanonMem s) : CanonMem (progReadRange s m).2 := by
  unfold progReadRange
  refine .foldl_snd (fun _ _ ht => ?_) h
  exact .progRead ht

protected theorem CanonMem.progWriteRange {m : RangeMap} {bytes : List Byte} (h : CanonMem s) : CanonMem (progWriteRange s m bytes) := by
  unfold progWriteRange
  refine .foldl_fst (fun _ _ ht => ?_) h
  exact .progWrite ht

protected theorem Ends.beforePeer {id strm : Nat} {p : Place} {n : Nat} {write : Bool} (h : CanonMem s) :
    Ends (fun _ => True) (beforePeer s id strm p n write) := by
  unfold beforePeer
  split
  · exact .check (.afterOverlap h) fun _ => .ite (.afterCopies h) (.ok trivial)
  · exact .ok trivial

protected theorem Ends.readValue {l : List Resolved} {id strm k : Nat} {va : Word} {p : Place} {n : Nat} (h : CanonMem s) :
    Ends (fun r => CanonMem r.2) (readValue s l id strm k va p n) := by
  unfold readValue
  split
  · refine .bind (.peerValue h) fun _ ht => ?_
    split
    · exact .ite (.error (.after ht)) (.ok (.commitAll ht))
    · exact .error (.after ht)
  · split
    · exact .error .trap
    · exact .ok (.progRead (.commitAll h))

protected theorem CanonMem.writeValue {id strm : Nat} {va : Word} {p : Place} {bytes : List Byte} (h : CanonMem s) :
    CanonMem (writeValue s id strm va p bytes) := by
  unfold writeValue
  split
  · exact .sendPacket h
  · exact .progWrite h

protected theorem Ends.load {f : FmtM} (h : CanonMem s) : Ends CanonMem (load f s) := by
  unfold load
  exact .remote (.check (.afterStream h) fun _ => .check .lift fun _ => .check (.beforePeer h) fun _ => .bind (.readValue h) fun _ ht =>
      .ok (.advance (.xWrite ht))) h

protected theorem Ends.store {f : FmtM} {release : Bool} (h : CanonMem s) : Ends CanonMem (store f release s) := by
  unfold store
  exact .checkIte (.afterAll h) (.afterStream h) fun _ => .check .lift fun _ => .check (.beforePeer h) fun _ => .ok
      (.advance (.writeValue (.commitAll h)))

protected theorem Ends.amoPlace {va : Word} {p : Place} {n sub b c : Nat} (h : CanonMem s) :
    Ends (fun r => CanonMem r.2.1) (amoPlace s va p n sub b c) := by
  unfold amoPlace
  split
  · exact .error .trap
  · refine .ok ?_
    split
    · exact .progWrite (.progRead h)
    · exact .progRead h

protected theorem Ends.amoPeer {l : List Resolved} {f : FmtR} {sub link a b c : Nat} {va : Word} (h : CanonMem s) :
    Ends CanonMem (amoPeer s l f sub link a b c va) := by
  unfold amoPeer
  refine .ite (.ok (.advance (.sendPacket (.commitAll h)))) (.bind (.peerValue h) fun _ ht => ?_)
  split
  · exact .ite (.error (.after ht)) (.ok (.advance (.modHart (.commitAll ht))))
  · exact .error (.after ht)

protected theorem Ends.atomic {i : Instr} {f : FmtR} {sub : Nat} (h : CanonMem s) : Ends CanonMem (atomic i f sub s) := by
  unfold atomic
  refine .remote (.check .need fun _ => .checkIte (.afterAll h) (.afterStream h) fun _ => .check .lift fun _ => .check (.beforePeer h)
      fun _ => ?_) h
  split
  · exact .amoPeer h
  · exact .bind (.amoPlace (.commitAll h)) fun _ ht => .ok (.advance (.modHart ht))

protected theorem Ends.followReport {sel : FollowFail → Bool} (h : CanonMem s) : Ends (fun _ => True) (followReport s sel) := by
  unfold followReport
  dsimp only
  split
  · exact .ok trivial
  · exact .error (.after (.modCore h))

protected theorem Ends.refusedReport (h : CanonMem s) : Ends (fun _ => True) (refusedReport s) := by
  unfold refusedReport
  dsimp only
  split
  · exact .ok trivial
  · exact .error (.after (.modHart h))

protected theorem Ends.fence {f : FmtR} (h : CanonMem s) : Ends CanonMem (fence f s) := by
  unfold fence
  exact .when (.error (.wait h)) fun _ => .checkIte (.afterAll h) (.afterLanding h) fun _ => .when (.error (.wait h)) fun _ => .when
      (.followReport h) fun _ => .when (.refusedReport h) fun _ => .ok (.advance h)

protected theorem Ends.sbar {f : FmtI} (h : CanonMem s) : Ends CanonMem (sbar f s) := by
  unfold sbar
  exact .ite (.stall h) (.ok (.advance h))

protected theorem Ends.waitv {f : FmtR} (h : CanonMem s) : Ends CanonMem (waitv f s) := by
  unfold waitv
  exact .remote (.check (.killFirst h) fun _ => .check (.afterStream h) fun _ => .check .lift fun _ => .check (.beforePeer h) fun _ =>
      .bind (.readValue h) fun _ ht => .ite (.ok (.advance (.xWrite ht))) (.error (.wait (.dropReplies ht)))) h

protected theorem CanonMem.endWaitv {id : Nat} (h : CanonMem s) : CanonMem (endWaitv s id) := by
  unfold endWaitv
  refine .ite ?_ h
  split
  · split
    next u e => exact .modHart (Ends.of_ok (.waitv (.setCur h)) e)
    next => exact h
  · exact h

/-! ### The catalogue (Machine/Catalogue) -/

protected theorem Ends.catLift {α : Type} {name : Word} {c : Chk α} : Ends (fun _ => True) (catLift name c) := by
  unfold catLift
  exact .lift

protected theorem Ends.catDesc {name : Word} : Ends (fun _ => True) (catDesc s name) := by
  unfold catDesc
  exact .check .need fun _ => .check .catLift fun _ => .when (.error .trap) fun _ => .check .need fun _ => .check .catLift fun _ => .check
      .catLift fun _ => .ok trivial

protected theorem CanonMem.putCat {d : CatDesc} {k : Catalogue} (h : CanonMem s) : CanonMem (putCat s d k) := by
  unfold putCat
  exact .writeNat (.writeNat h)

theorem CanonMem.of_takeBlock? {d : CatDesc} {k : Catalogue} {b : Nat} {t : State} (h : CanonMem s) (e : takeBlock? s d k = some (b, t)) :
    CanonMem t := by
  unfold takeBlock? at e
  split at e
  · cases e
  · obtain ⟨a, -, he⟩ := Option.map_eq_some_iff.1 e
    cases he
    exact h

protected theorem Ends.catLocation {d : CatDesc} {name : Word} {b : Nat} : Ends (fun _ => True) (catLocation s d name b) := by
  unfold catLocation
  exact .ite (.check .catLift fun _ => .ite (.error .trap) (.ok trivial)) (.ok trivial)

protected theorem Ends.needName {name : Word} : Ends (fun _ => True) (needName name) := by
  unfold needName
  exact .need

protected theorem Ends.catalloc {f : FmtE} (h : CanonMem s) : Ends CanonMem (catalloc f s) := by
  unfold catalloc
  refine .check .catDesc fun _ => .check .needName fun _ => .check .need fun _ => ?_
  split
  next => exact .error .trap
  next b t e =>
    have ht : CanonMem t := h.of_takeBlock? e
    exact .check .catLocation fun _ => .check (.afterAll h) fun _ => .ok (.advance (.xWrite (.putCat (.commitAll ht))))

protected theorem Ends.catCopy {d : CatDesc} {name : Word} {k : Catalogue} {old : Nat} (h : CanonMem s) :
    Ends (fun r => CanonMem r.2.1) (catCopy s d name k old) := by
  unfold catCopy
  split
  next => exact .error .trap
  next b t e =>
    have ht : CanonMem t := h.of_takeBlock? e
    exact .check .catLift fun _ => .check .catLift fun _ => .ite (.error .trap) (.ok (.progWriteRange (.progReadRange (.commitAll ht))))

protected theorem Ends.catmap {f : FmtE} (h : CanonMem s) : Ends CanonMem (catmap f s) := by
  unfold catmap
  refine .check .catDesc fun _ => .check .needName fun _ => .check (.afterStream h) fun _ => ?_
  split
  · exact .error .trap
  · exact .ite (.check .need fun _ => .bind (.catCopy h) fun _ ht => .check .catLocation fun _ => .ok
      (.advance (.xWrite (.putCat (.commitAll ht))))) (.check .catLocation fun _ => .ok (.advance (.xWrite (.commitAll h))))

protected theorem Ends.catshare {f : FmtE} (h : CanonMem s) : Ends CanonMem (catshare f s) := by
  unfold catshare
  refine .check .catDesc fun _ => .check .needName fun _ => .check .need fun _ => .check .need fun _ => ?_
  dsimp only
  split
  · exact .error .trap
  · exact .check (.afterAll h) fun _ => .ok (.advance (.putCat (.commitAll h)))

protected theorem Ends.catfree {f : FmtE} (h : CanonMem s) : Ends CanonMem (catfree f s) := by
  unfold catfree
  refine .check .catDesc fun _ => .check .needName fun _ => ?_
  dsimp only
  split
  · exact .error .trap
  · exact .check (.afterAll h) fun _ => .ok (.advance (.putCat (.commitAll h)))

/-! ### Late faults and the vector queue (Machine/Late) -/

protected theorem CanonMem.held (h : CanonMem s) : CanonMem (held s) := h

protected theorem CanonMem.runAhead {s t : State} {k : Nat} (h : CanonMem s) (ht : CanonMem t) : CanonMem (runAhead s t k) := by
  unfold runAhead
  exact .ite (.held h) (.modCore ht)

protected theorem CanonMem.queueUp {k : Nat} {i : Instr} (h : CanonMem s) : CanonMem (queueUp s k i) := by
  unfold queueUp
  exact .ite (.held h) (.modCore (.advance h))

protected theorem CanonMem.headState {k : Nat} (h : CanonMem s) : CanonMem (headState s k) := by
  unfold headState
  exact .modHart (.modCore h)

protected theorem CanonMem.mergeHead {s s0 t : State} {k : Nat} (ht : CanonMem t) : CanonMem (mergeHead s s0 t k) := by
  unfold mergeHead
  exact .modCore (.modHart ht)

protected theorem CanonMem.rewindQueue {k : Nat} (h : CanonMem s) : CanonMem (rewindQueue s k) := by
  unfold rewindQueue
  exact .modCore (.modHart h)

protected theorem CanonMem.lateFault {k : Nat} {code : BitVec 8} {info : Word} (h : CanonMem s) : CanonMem (lateFault s k code info) := by
  unfold lateFault
  dsimp only
  split
  · exact h
  · exact .ite h (.ite (.setCur (.killCur (.setCur (.rewindQueue h)))) (.trapHart (.rewindQueue h)))

/-! ### The vector unit (Machine/Vector) -/

protected theorem CanonMem.vPut {n : Nat} {v : VReg} {bytes : Nat} (h : CanonMem s) : CanonMem (vPut s n v bytes) := by
  unfold vPut
  exact .modCore h

protected theorem CanonMem.vPutMask {n : Nat} {v : VReg} {bytes : Nat} (h : CanonMem s) : CanonMem (vPutMask s n v bytes) := by
  unfold vPutMask
  exact .modCore h

protected theorem CanonMem.endVector (h : CanonMem s) : CanonMem (endVector s) := by
  unfold endVector
  exact .modCore h

protected theorem Ends.vGo {srcs : List Opnd} {plain dst : List Nat} {run : State → M State} (h : CanonMem s)
    (hrun : ∀ t, CanonMem t → Ends CanonMem (run t)) : Ends CanonMem (vGo s srcs plain dst run) := by
  unfold vGo
  dsimp only
  split
  · exact .error .trap
  · exact .ite (.ok (.advance (.endVector h))) (.ite (.stall h) (hrun _ h))

protected theorem Ends.needI {i : Instr} {c : Bool} {code : BitVec 8} : Ends (fun _ => True) (needI i c code) := by
  unfold needI
  exact .need

protected theorem Ends.needPlain {i : Instr} {F : Eff} : Ends (fun _ => True) (needPlain i F) := by
  unfold needPlain
  exact .needI

protected theorem Ends.needMask {i : Instr} {f : FmtV} {srcs : List Nat} : Ends (fun _ => True) (needMask i f srcs) := by
  unfold needMask
  exact .needI

protected theorem CanonMem.vFinish {f : FmtV} {w : Nat} {r : List (Option Elem)} (h : CanonMem s) : CanonMem (vFinish f w r s) := by
  unfold vFinish
  exact .advance (.endVector (.modHart (.when (.vPut h) .vPutMask)))

protected theorem Ends.vElementwise {i : Instr} {f : FmtV} {cls : Nat → Bool} {srcs : List Opnd} {op : Nat → Nat → Nat → Nat → Elem}
    (h : CanonMem s) : Ends CanonMem (vElementwise i f cls srcs op s) := by
  unfold vElementwise
  exact .check .needI fun _ => .check .needPlain fun _ => .check .needMask fun _ => .vGo h (fun _ ht => .ok (.vFinish ht))

protected theorem Ends.vcvt {f : FmtV} (h : CanonMem s) : Ends CanonMem (vcvt f s) := by
  unfold vcvt
  exact .check .needI fun _ => .check .needI fun _ => .check .needI fun _ => .check .needI fun _ => .check .needI fun _ => .check .needI
      fun _ => .check .needI fun _ => .check .needI fun _ => .check .needMask fun _ => .check .need fun _ => .vGo h
      (fun _ ht => .ok (.advance (.endVector (.modHart (.when (.ite ht (.vPut ht)) .vPutMask)))))

protected theorem Ends.vcmp {f : FmtV} (h : CanonMem s) : Ends CanonMem (vcmp f s) := by
  unfold vcmp
  exact .check .needI fun _ => .check .needPlain fun _ => .vGo h (fun _ ht => .ok (.vFinish (.modHart ht)))

protected theorem Ends.vmerge {f : FmtV} (h : CanonMem s) : Ends CanonMem (vmerge f s) := by
  unfold vmerge
  exact .check .needPlain fun _ => .vGo h (fun _ ht => .ok (.vFinish ht))

protected theorem Ends.vcount {i : Instr} {f : FmtV} {val : List Nat → Word} (h : CanonMem s) : Ends CanonMem (vcount i f val s) := by
  unfold vcount
  exact .check .needPlain fun _ => .vGo h (fun _ ht => .ok (.advance (.endVector (.xWrite ht))))

protected theorem Ends.needGroup {i : Instr} {g : List Nat} : Ends (fun _ => True) (needGroup i g) := by
  unfold needGroup
  exact .needI

protected theorem Ends.needAllot {g : List Nat} : Ends (fun _ => True) (needAllot s g) := by
  unfold needAllot
  split
  · exact .ok trivial
  · exact .error .trap

protected theorem Ends.vcompress {f : FmtV} (h : CanonMem s) : Ends CanonMem (vcompress f s) := by
  unfold vcompress
  exact .check .needPlain fun _ => .check .needGroup fun _ => .check .needI fun _ => .check .needAllot fun _ => .vGo h
      (fun _ ht => .ok (.advance (.endVector (.foldl (fun _ _ => .vPut) (.modCore ht)))))

protected theorem Ends.vgather {f : FmtV} (h : CanonMem s) : Ends CanonMem (vgather f s) := by
  unfold vgather
  exact .check .needPlain fun _ => .check .needGroup fun _ => .check .needI fun _ => .check .needAllot fun _ => .vGo h
      (fun _ ht => .ok (.vFinish ht))

protected theorem Ends.vslide {f : FmtV} (h : CanonMem s) : Ends CanonMem (vslide f s) := by
  unfold vslide
  exact .check .needPlain fun _ => .check .needI fun _ => .vGo h (fun _ ht => .ok (.vFinish ht))

protected theorem Ends.vred {f : FmtV} (h : CanonMem s) : Ends CanonMem (vred f s) := by
  unfold vred
  exact .check .needPlain fun _ => .check .needI fun _ => .vGo h (fun _ ht => .ok (.advance (.endVector (.modHart (.vPut ht)))))

protected theorem Ends.vtopk {f : FmtV} (h : CanonMem s) : Ends CanonMem (vtopk f s) := by
  unfold vtopk
  exact .check .needI fun _ => .vGo h (fun _ ht => .ok (.advance (.endVector (.vPut ht))))

protected theorem Ends.viota {f : FmtV} (h : CanonMem s) : Ends CanonMem (viota f s) := by
  unfold viota
  exact .check .needI fun _ => .check .needPlain fun _ => .vGo h (fun _ ht => .ok (.vFinish ht))

protected theorem Ends.vbcast {f : FmtV} (h : CanonMem s) : Ends CanonMem (vbcast f s) := by
  unfold vbcast
  exact .check .needPlain fun _ => .vGo h (fun _ ht => .ok (.vFinish ht))

protected theorem Ends.vext {f : FmtV} (h : CanonMem s) : Ends CanonMem (vext f s) := by
  unfold vext
  exact .check .needPlain fun _ => .vGo h (fun _ ht => .ok (.advance (.endVector (.xWrite ht))))

protected theorem Ends.vsetvl {f : FmtV} (h : CanonMem s) : Ends CanonMem (vsetvl f s) := by
  unfold vsetvl
  exact .ok (.advance (.xWrite (.modCore h)))

protected theorem Ends.vsettype {f : FmtV} (h : CanonMem s) : Ends CanonMem (vsettype f s) := by
  unfold vsettype
  exact .check .needI fun _ => .ok (.advance (.xWrite (.modCore h)))

protected theorem Ends.vallot {f : FmtV} (h : CanonMem s) : Ends CanonMem (vallot f s) := by
  unfold vallot
  exact .ite (.ite (.stall h) (.ok (.advance (.xWrite (.modCore h))))) (.error (.after (.freeWord h)))

protected theorem CanonMem.vectorComplete {c n : Nat} (h : CanonMem s) : CanonMem (vectorComplete s c n) := by
  unfold vectorComplete
  exact .ite (.modCore h) h

/-! ### Matrix slots (Machine/Slots) -/

protected theorem CanonMem.modSlot {c n : Nat} {f : Slot → Slot} (h : CanonMem s) : CanonMem (modSlot s c n f) := by
  unfold modSlot
  exact .modCore h

protected theorem CanonOk.serveMiss {c n : Nat} {ctx : BitVec 16} {base : Word} (h : CanonMem s) :
    CanonOk (serveMiss s c n ctx base) := by
  have spilled {a b m v : Nat} {d x : Bool} {l : List Byte} :
      CanonMem (if x then (if d then writeBytes (writeNat s a m v) b l else writeNat s a m v) else s) :=
    .ite (.ite (.writeBytes (.writeNat h)) (.writeNat h)) h
  refine .ite h (.ite trivial ?_)
  split
  · trivial
  · exact .ite (CanonMem.modSlot (.writeBytes spilled)) (CanonMem.modSlot spilled)

protected theorem Ends.ownSlot {c n id : Nat} (h : CanonMem s) : Ends CanonMem (ownSlot s c n id) := by
  unfold ownSlot
  dsimp only
  split
  next t e => exact .ok ((CanonOk.serveMiss h).of_ok e)
  next => exact .error (.part h)

protected theorem Ends.onSlot {n : Nat} {writer : Bool} {run : State → M State} (h : CanonMem s)
    (hrun : ∀ t, CanonMem t → Ends CanonMem (run t)) : Ends CanonMem (onSlot s n writer run) := by
  unfold onSlot
  exact .ite (.stall h) (.bind (.ownSlot h) fun _ ht => hrun _ ht)

protected theorem Ends.matrixRoom (h : CanonMem s) : Ends (fun _ => True) (matrixRoom s) := by
  unfold matrixRoom
  exact .ite (.error (.wait h)) (.ok trivial)

protected theorem CanonMem.slotWritten {c n : Nat} {f : Slot → Slot} (h : CanonMem s) : CanonMem (slotWritten s c n f) := by
  unfold slotWritten
  exact .modCore (.modSlot h)

protected theorem CanonMem.missService {c n : Nat} {ctx : BitVec 16} (h : CanonMem s) : CanonMem (missService s c n ctx) := by
  unfold missService
  refine .ite ?_ h
  split
  next t e => exact (CanonOk.serveMiss h).of_ok e
  next => exact .partitionFault (.ite (.logPoison h) h)

/-! ### The matrix engine (Machine/Matrix) -/

protected theorem CanonMem.addWork {c : Nat} {w : MatrixWork} (h : CanonMem s) : CanonMem (addWork s c w) := by
  unfold addWork
  exact .modCore h

protected theorem CanonMem.runProduct {c : Nat} {p : Prod} {from' : Nat} {e : EngineRec} {follow : Bool} (h : CanonMem s) :
    CanonMem (runProduct s c p from' e follow) := by
  unfold runProduct
  exact .addWork (.foldl (fun _ _ => .modSlot) h)

protected theorem Ends.product {i : Instr} {f : FmtX} {sparse : Bool} (h : CanonMem s) : Ends CanonMem (product i f sparse s) := by
  unfold product
  exact .check .needI fun _ => .ite (.stall h) (.check .lift fun _ => .check (.matrixRoom h) fun _ => .ite (.stall h)
    (.bind (.foldlM (fun _ _ => .ownSlot) h) fun _ ht => .ok (.advance (.runProduct ht))))

protected theorem Ends.mzero {f : FmtX} (h : CanonMem s) : Ends CanonMem (mzero f s) := by
  unfold mzero
  exact .onSlot h (fun _ ht => .ok (.advance (.slotWritten ht)))

protected theorem CanonMem.addEngine {e : EngineRec} (h : CanonMem s) : CanonMem (addEngine s e) := by
  unfold addEngine
  exact .enterScope (.modCore h)

protected theorem Ends.spillFail {α : Type} {r : Except (BitVec 8 × Word) α} (h : CanonMem s) : Ends (fun _ => True) (spillFail s r) := by
  unfold spillFail
  split
  · exact .ok trivial
  · exact .error (.part h)

protected theorem CanonMem.liveScopeReads {id : Nat} {va : Word} (h : CanonMem s) : CanonMem (liveScopeReads s id va) := by
  unfold liveScopeReads
  split
  · exact .chainTouch h
  · exact h

protected theorem Ends.mpin {f : FmtX} (h : CanonMem s) : Ends CanonMem (mpin f s) := by
  unfold mpin
  dsimp only
  split
  · exact .error .trap
  · exact .onSlot h (fun _ ht => .ite (.error (.after ht)) (.check (.spillFail ht) fun _ => .ite (.error (.after ht))
      (.ok (.advance (.modSlot (.liveScopeReads ht))))))

protected theorem Ends.munpin {f : FmtX} (h : CanonMem s) : Ends CanonMem (munpin f s) := by
  unfold munpin
  exact .onSlot h (fun _ ht => .ite (.ok (.advance (.modSlot ht))) (.error (.after ht)))

protected theorem Ends.mxfl {f : FmtX} (h : CanonMem s) : Ends CanonMem (mxfl f s) := by
  unfold mxfl
  exact .onSlot h (fun _ ht => .ok (.advance (.when (.xWrite ht) .modSlot)))

protected theorem Ends.mfind {f : FmtX} (h : CanonMem s) : Ends CanonMem (mfind f s) := by
  unfold mfind
  exact .check (.spillFail h) fun _ => .ok (.advance (.xWrite h))

protected theorem CanonMem.putGroup {base : Nat} {out : List Nat} (h : CanonMem s) : CanonMem (putGroup s base out) := by
  unfold putGroup
  exact .foldl (fun _ _ => .vPut) h

protected theorem Ends.fastCheck {i : Instr} {f : FmtX} {d : Fast} {ins outs : List Nat} {extra : Bool} :
    Ends (fun _ => True) (fastCheck i s f d ins outs extra) := by
  unfold fastCheck
  exact .check .needI fun _ => .needAllot

protected theorem CanonMem.runDelta {c n : Nat} {d : Fast} {e : EngineRec} (h : CanonMem s) : CanonMem (runDelta s c n d e) := by
  unfold runDelta
  exact .addWork (.putGroup (.modSlot h))

protected theorem Ends.mdelta {f : FmtX} (h : CanonMem s) : Ends CanonMem (mdelta f s) := by
  unfold mdelta
  exact .check .fastCheck fun _ => .ite (.stall h) (.check (.matrixRoom h) fun _ => .onSlot h
      (fun _ ht => .ite (.error (.after ht)) (.ok (.advance (.runDelta ht)))))

protected theorem Ends.mread {f : FmtX} (h : CanonMem s) : Ends CanonMem (mread f s) := by
  unfold mread
  exact .check .fastCheck fun _ => .ite (.stall h) (.onSlot h (fun _ ht => .ite (.error (.after ht))
      (.ok (.advance (.putGroup (.modSlot ht))))))

protected theorem CanonMem.tileDone {k j c n : Nat} (h : CanonMem s) : CanonMem (tileDone s k j c n) := by
  unfold tileDone
  exact .modSlot (.modCore h)

protected theorem CanonMem.engineFault {core : Nat} {e : EngineRec} {code : BitVec 8} {info : Word} (h : CanonMem s) :
    CanonMem (engineFault s core e code info) := by
  unfold engineFault
  refine .assertHalt (.when ?_ .logUe)
  split
  · exact .ite (.recordFault h) h
  · exact h

protected theorem CanonMem.reissue {k j : Nat} (h : CanonMem s) : CanonMem (reissue s k j) := by
  unfold reissue
  split
  · exact h
  · refine .ite h (.ite h ?_)
    split
    · exact .engineFault h
    next t e =>
      have ht : CanonMem t := CanonMem.foldlM_ok (fun _ _ _ hu => (CanonOk.serveMiss hu).of_ok) h e
      dsimp only
      split
      · exact .runProduct (.modCore ht)
      · exact .setCur (.runDelta (.setCur (.modCore ht)))

protected theorem CanonMem.matrixComplete {c n : Nat} (h : CanonMem s) : CanonMem (matrixComplete s c n) := by
  unfold matrixComplete
  refine .ite (.modCore h) ?_
  split
  · exact .tileDone h
  · split
    · exact .reissue h
    · exact h

/-! ### The copy and tile engines (Machine/Engine) -/

protected theorem CanonMem.lowerToken {i : StepInfo} {t : Nat} (h : CanonMem s) : CanonMem (lowerToken s i t).2 := by
  unfold lowerToken
  dsimp only
  split
  · exact .ite_snd (.writeBytes h) (.modCore h)
  · exact .writeBytes h
  · exact h

protected theorem CanonMem.modTiles {i : StepInfo} {f : Tbl Tile → Tbl Tile} (h : CanonMem s) : CanonMem (modTiles s i f) := by
  unfold modTiles
  split
  · exact .modCore h
  · exact .modCore h
  · exact h

protected theorem CanonMem.modEngine {core n : Nat} {f : EngineRec → EngineRec} (h : CanonMem s) : CanonMem (modEngine s core n f) := by
  unfold modEngine
  exact .modCore h

protected theorem CanonMem.putDest {core : Nat} {e : EngineRec} {d : Dest} {va : Word} {bytes : List Byte} (h : CanonMem s) :
    CanonMem (putDest s core e d va bytes) := by
  unfold putDest
  split
  · exact .sendPacket h
  · exact .progWrite h
  · exact .modCore h
  · exact .modSlot h

protected theorem CanonMem.putSome {core : Nat} {e : EngineRec} {d : Dest} {va : Word} {bytes : List (Option Byte)} (h : CanonMem s) :
    CanonMem (putSome s core e d va bytes) := by
  unfold putSome
  refine .ite (.putDest h) ?_
  split
  · exact .ite h (.sendPacket h)
  · refine .foldl (fun _ _ ht => ?_) h
    split
    · exact ht
    · exact .putDest ht

protected theorem Got.Canon.getSource {core n : Nat} {e : EngineRec} {p : Place} {va : Word} {len : Nat} (h : CanonMem s) :
    (getSource s core n e p va len).Canon := by
  unfold Machine.getSource
  split
  · split
    · exact ite_keeps Got.Canon trivial (CanonMem.modEngine h)
    · exact ite_keeps Got.Canon h (ite_keeps Got.Canon (CanonMem.sendPacket h) (CanonMem.modEngine (.sendPacket h)))
  · split
    · trivial
    · exact CanonMem.progRead h

protected theorem CanonMem.putCopied {core : Nat} {e : EngineRec} {d : Dest} {va : Word} {bytes : List (Option Byte)} (h : CanonMem s) :
    CanonMem (putCopied s core e d va bytes) := by
  unfold putCopied
  exact .putSome h

protected theorem CanonMem.spoilOverlap {core : Nat} {e : EngineRec} (h : CanonMem s) : CanonMem (spoilOverlap s core e) := by
  unfold spoilOverlap
  dsimp only
  split
  · exact h
  · refine .ite h (.foldl (fun _ _ ht => ?_) h)
    split
    · exact .ite (.putDest (.freeBytes ht)) ht
    · exact ht

protected theorem CanonMem.fillBuffer {core n want : Nat} : ∀ {fuel : Nat} {s : State}, CanonMem s → CanonMem (fillBuffer core n want fuel s)
  | 0, _, h => h
  | fuel + 1, s, h => by
    unfold Machine.fillBuffer
    split
    · exact h
    · refine .ite h ?_
      dsimp only
      split
      · exact .engineFault h
      · split
        next t he => exact (Got.Canon.getSource h).of_wait he
        next => exact .engineFault h
        next l t he => exact CanonMem.fillBuffer (.modEngine ((Got.Canon.getSource h).of_bytes he))

protected theorem CanonMem.linearGroup {core n : Nat} {e : EngineRec} (h : CanonMem s) : CanonMem (linearGroup s core n e) := by
  unfold linearGroup
  dsimp only
  split
  · exact .engineFault h
  · split
    · exact .engineFault h
    · refine .ite h (.ite (.when (.modEngine (.putCopied h)) .spoilOverlap) ?_)
      split
      · exact .fillBuffer h
      · exact .when (.fillBuffer h) fun ht => .when (.modEngine (.putCopied ht)) .spoilOverlap

protected theorem Got.Canon.sourceByte {core n : Nat} {e : EngineRec} {p : Place} {va : Word} (h : CanonMem s) :
    (sourceByte s core n e p va).Canon := by
  unfold Machine.sourceByte
  dsimp only
  split
  · exact h
  · split
    next l t he => exact CanonMem.modEngine ((Got.Canon.getSource h).of_bytes he)
    next => trivial
    next t he => exact (Got.Canon.getSource h).of_wait he

protected theorem Got.Canon.placeBytes {core n : Nat} {va : Word} : ∀ {l : List Place} {got : List (Option Byte)} {s : State}, CanonMem s →
    (placeBytes core n va l got s).Canon
  | [], _, _, h => h
  | p :: rest, got, s, h => by
    unfold Machine.placeBytes
    split
    · exact h
    · split
      next l t he => exact Got.Canon.placeBytes ((Got.Canon.sourceByte h).of_bytes he)
      next => trivial
      next t he => exact (Got.Canon.sourceByte h).of_wait he

protected theorem CanonMem.flushUnit {core n : Nat} {u : Nat × Nat} (h : CanonMem s) : CanonMem (flushUnit s core n u) := by
  unfold flushUnit
  split
  · exact h
  · split
    · exact h
    · dsimp only
      split
      · exact .modEngine h
      · exact .ite h (.putSome (.modEngine h))

protected theorem CanonMem.flushOut {core n : Nat} (h : CanonMem s) : CanonMem (flushOut s core n) := by
  unfold flushOut
  split
  · exact h
  · exact .foldl (fun _ _ ht => .ite ht (.flushUnit ht)) h

protected theorem CanonMem.putElem {core n : Nat} {e : EngineRec} {off : Nat} {bytes : List (Option Byte)} {pad : Bool} (h : CanonMem s) :
    CanonMem (putElem s core n e off bytes pad) := by
  unfold putElem
  exact .modEngine h

protected theorem CanonMem.mapElem {core n : Nat} {e : EngineRec} {t : Nat × List Nat} (h : CanonMem s) :
    CanonMem (mapElem s core n e t) := by
  unfold mapElem
  dsimp only
  split
  · exact .flushOut (.modEngine (.putElem h))
  · split
    · exact .engineFault h
    · split
      next u he => exact (Got.Canon.placeBytes h).of_wait he
      next => exact .engineFault h
      next l u he => exact .flushOut (.modEngine (.putElem ((Got.Canon.placeBytes h).of_bytes he)))

protected theorem CanonMem.loadMap {core n : Nat} {e : EngineRec} (h : CanonMem s) : CanonMem (loadMap s core n e) := by
  unfold loadMap
  dsimp only
  split
  · exact .engineFault h
  · split
    · exact .engineFault h
    · split
      · exact .engineFault (.progReadRange h)
      · split
        · exact .engineFault (.progReadRange h)
        · exact .modEngine (.progReadRange (.progReadRange h))

protected theorem CanonMem.mapGroup {core n : Nat} : ∀ {fuel : Nat} {s : State}, CanonMem s → CanonMem (mapGroup s core n fuel)
  | 0, _, h => h
  | fuel + 1, s, h => by
    unfold Machine.mapGroup
    split
    · exact h
    · split
      · exact .loadMap h
      · refine .ite h ?_
        dsimp only
        split
        · exact .ite (.mapElem h) (CanonMem.mapGroup (.mapElem h))
        · exact .mapElem h

protected theorem CanonMem.groupArrival {core n : Nat} (h : CanonMem s) : CanonMem (groupArrival s core n) := by
  unfold groupArrival
  split
  · exact h
  · exact .ite h (.ite (.flushOut h) (.ite (.mapGroup h) (.linearGroup h)))

protected theorem CanonMem.engineComplete {core n : Nat} (h : CanonMem s) : CanonMem (engineComplete s core n) := by
  unfold engineComplete
  split
  · exact h
  · refine .ite h (.leaveStep (.whenNot ?_ fun ht => .when (.lowerToken ht) .modTiles))
    split
    · exact .modSlot (.when (.modCore h) .staleHandle)
    · exact .modTiles (.when (.modCore h) .staleHandle)
    · exact .when (.modCore h) .staleHandle

protected theorem CanonMem.followFail {core n : Nat} {e : EngineRec} {code : BitVec 8} {info : Word} (h : CanonMem s) :
    CanonMem (followFail s core n e code info) := by
  unfold followFail
  dsimp only
  split
  · exact .modCore (.foldl (fun _ _ => .modSlot) (.modEngine h))
  · exact .modCore (.foldl (fun _ _ => .modSlot) (.modEngine h))
  · exact .foldl (fun _ _ => .modSlot) (.modEngine h)

protected theorem CanonMem.followIssue {core n : Nat} (h : CanonMem s) : CanonMem (followIssue s core n) := by
  unfold followIssue
  dsimp only
  split
  · exact h
  next e _ =>
    have taken {f : Core → Core} : CanonMem (modCore s core f) := .modCore h
    refine .ite h (.ite (.dropFollow (.modEngine taken)) ?_)
    split
    · exact .followFail taken
    · refine .ite h ?_
      split
      · exact .followFail taken
      · refine .ite h ?_
        split
        · exact .engineFault h
        next t he => exact .modEngine (.runProduct (CanonMem.foldlM_ok (fun _ _ _ hu => (CanonOk.serveMiss hu).of_ok) taken he))

protected theorem Ends.mapIssue {i : Instr} {e : EngineRec} (h : CanonMem s) : Ends (fun r => CanonMem r.1) (mapIssue i s e) := by
  unfold mapIssue
  refine .check .lift fun _ => ?_
  extract_lets -underBinder +onlyGivenNames map
  have mapped (u : Unit) : Ends (fun r => CanonMem r.1) (map u) := by
    refine .check .needI fun _ => .check .needI fun _ => .check .lift fun _ => ?_
    split
    · exact .check (.error (.part h)) fun _ => .check .lift fun _ => .ok (.progReadRange (.progReadRange h))
    · exact .check (.ok trivial) fun _ => .check .lift fun _ => .ok (.progReadRange (.progReadRange h))
  split
  · exact .check (.error (.part h)) mapped
  · exact .check (.ok trivial) mapped

protected theorem Ends.followInstr {i : Instr} : Ends (fun _ => True) (followInstr i s) := by
  unfold followInstr
  refine .ite (.ok trivial) ?_
  split
  · exact .error .trap
  · split
    · exact .ite (.ite (.ok trivial) (.error .trap)) (.error .trap)
    · exact .ite (.ite (.ok trivial) (.error .trap)) (.error .trap)
    · exact .error .trap
  · exact .error .trap

protected theorem CanonMem.issueEngine {e : EngineRec} {len : Word} (h : CanonMem s) : CanonMem (issueEngine s e len) := by
  unfold issueEngine
  exact .groupArrival (.advanceBy (.modCore (.addEngine h)))

protected theorem Ends.engineRoom {token : Nat} (h : CanonMem s) : Ends (fun _ => True) (engineRoom s token) := by
  unfold engineRoom
  exact .ite (.error (.wait h)) (.ok trivial)

protected theorem Ends.pledgeSlots {id : Nat} {cores : List Nat} {n : Nat} (h : CanonMem s) : Ends CanonMem (pledgeSlots s id cores n) := by
  unfold pledgeSlots
  exact .bind (.foldlM (fun _ _ => .ownSlot) h) fun _ ht => .ok (.foldl (fun _ _ => .modSlot) ht)

protected theorem Ends.copy {i : Instr} {f : FmtE} {wbuf : Bool} (h : CanonMem s) : Ends CanonMem (copy i f wbuf s) := by
  unfold copy
  refine .check .needI fun _ => .check .followInstr fun fol => .check .needI fun _ => ?_
  extract_lets -underBinder +onlyGivenNames issue
  have issued {got : State × EngineRec} (hg : CanonMem got.1) : Ends CanonMem (issue got) := by
    refine .whenNot .lift fun _ => .check (.afterStream h) fun _ => .check (.engineRoom h) fun _ => ?_
    split
    · exact .ite (.ok (.advance hg)) (.ok (.issueEngine hg))
    · exact .ite (.stall h) (.bind (.pledgeSlots hg) fun _ ht => .ok (.issueEngine ht))
  clear_value issue
  exact .ite (.bind (.mapIssue h) fun _ ht => issued (.commitAll ht))
    (.check .lift fun _ => .checkIte .lift .lift fun _ => issued (.commitAll h))

protected theorem Ends.tfetch {f : FmtE} (h : CanonMem s) : Ends CanonMem (tfetch f s) := by
  unfold tfetch
  exact .check .needI fun _ => .bind (.mapIssue h) fun _ ht => .check (.afterStream h) fun _ => .check (.engineRoom h) fun _ => .ite
      (.stall h) (.ok (.issueEngine (.modCore (.commitAll ht))))

protected theorem Ends.tfrel {f : FmtE} (h : CanonMem s) : Ends CanonMem (tfrel f s) := by
  unfold tfrel
  exact .check .needI fun _ => .ite (.stall h) (.ok (.advance (.modCore h)))

protected theorem Ends.prefb {f : FmtE} (h : CanonMem s) : Ends CanonMem (prefb f s) := by
  unfold prefb
  exact .check .needI fun _ => .check .lift fun _ => .check (.afterStream h) fun _ => .ite (.ok (.advance h))
      (.check (.engineRoom h) fun _ => .ok (.issueEngine (.commitAll h)))

protected theorem Ends.tiermv {f : FmtE} (h : CanonMem s) : Ends CanonMem (tiermv f s) := by
  unfold tiermv
  exact .check .needI fun _ => .check .need fun _ => .check .lift fun _ => .check .lift fun _ => .whenNot .lift fun _ => .check
      (.afterStream h) fun _ => .ite (.ok (.advance h)) (.check (.engineRoom h) fun _ => .ok (.issueEngine (.commitAll h)))

protected theorem Ends.slotMove {i : Instr} {f : FmtX} {load : Bool} (h : CanonMem s) : Ends CanonMem (slotMove i f load s) := by
  unfold slotMove
  exact .check .lift fun _ => .check (.afterStream h) fun _ => .onSlot h (fun _ ht => .ite (.stall ht)
      (.ok (.groupArrival (.advance (.when (.addEngine (.commitAll ht)) .modSlot)))))

protected theorem Ends.shadow {f : FmtE} (h : CanonMem s) : Ends CanonMem (shadow f s) := by
  unfold shadow
  exact .check .lift fun _ => .check (.afterStream h) fun _ => .ok (.advance (.whenNot (.commit h) .writeNat))

protected theorem Ends.publish {f : FmtE} (h : CanonMem s) : Ends CanonMem (publish f s) := by
  unfold publish
  exact .check .lift fun _ => .check .need fun _ => .when (.error (.wait h)) fun _ => .check (.afterAll h) fun _ => .ok
      (.advance (.writeNat (.commit h)))

protected theorem CanonMem.publishSwap {id : Nat} {handle : Word} (h : CanonMem s) : CanonMem (publishSwap s id handle) := by
  unfold publishSwap
  refine .ite ?_ h
  split
  · refine .ite ?_ h
    split
    next u e => exact .modHart (Ends.of_ok (.publish (.setCur h)) e)
    next => exact h
  · exact h

protected theorem Ends.tokwait {f : FmtE} (h : CanonMem s) : Ends CanonMem (tokwait f s) := by
  unfold tokwait
  exact .check (.killFirst h) fun _ => .whenNot (.error (.wait h)) fun _ => .check (.followReport h) fun _ => .ok (.advance h)

/-! ### Leases of octets (Machine/Lease) -/

protected theorem CanonMem.unsend {g b : Nat} (h : CanonMem s) : CanonMem (unsend s g b) := by
  unfold unsend
  exact .foldl (fun _ _ => .modBank) h

protected theorem CanonMem.leaseReset {g : Nat} (h : CanonMem s) : CanonMem (leaseReset s g) := by
  unfold leaseReset
  exact .foldl (fun _ _ ht => .modBank (.finishWrites (.unsend ht))) h

protected theorem CanonMem.grantLease {g : Nat} {c : BitVec 16} {d : Nat} {dual : Bool} (h : CanonMem s) :
    CanonMem (grantLease s g c d dual) := by
  unfold grantLease
  exact .modPer (.modHarts (.leaseReset h))

protected theorem CanonMem.endLease {g : Nat} (h : CanonMem s) : CanonMem (endLease s g) := by
  unfold endLease
  exact .modPer (.leaseReset h)

protected theorem CanonMem.endUnderStep {g : Nat} {i : StepInfo} {r : LeaseEnd} (h : CanonMem s) : CanonMem (endUnderStep s g i r) := by
  unfold endUnderStep
  exact .logError (.leaveStep (.addEnded (.modPer (.modHarts (.endLease (.ite (.saveRow (.assertHalt h)) (.badFrame (.assertHalt h))))))))

protected theorem CanonMem.leaseOver {g : Nat} {r : LeaseEnd} (h : CanonMem s) : CanonMem (leaseOver s g r) := by
  unfold leaseOver
  split
  · exact .endUnderStep h
  · exact .when (.endLease h) .logError

protected theorem CanonMem.remainExpiry {g : Nat} (h : CanonMem s) : CanonMem (remainExpiry s g) := by
  unfold remainExpiry
  exact .ite (.leaseOver h) h

protected theorem CanonMem.watchdogExpiry {g : Nat} (h : CanonMem s) : CanonMem (watchdogExpiry s g) := by
  unfold watchdogExpiry
  exact .ite (.leaseOver h) h

/-! ### Vector memory instructions (Machine/VecMem) -/

protected theorem CanonMem.putUnit {core : Nat} {e : ReplayEntry} {v : Nat} (h : CanonMem s) : CanonMem (putUnit s core e v) := by
  unfold putUnit
  exact .modCore h

protected theorem UnitRead.Canon.unitBytes {id : Nat} {e : ReplayEntry} : ∀ {l : List (Place × Nat)} {k : Nat} {va : Word} {got : List Byte}
    {s : State}, CanonMem s → (unitBytes id e l k va got s).Canon
  | [], _, _, _, _, h => h
  | (p, n) :: rest, k, va, got, s, h => by
    have hp (pk : Packet) : Ends (fun r => CanonMem r.2) (peerValue s id k pk) := .peerValue h
    unfold Machine.unitBytes
    split
    · split
      next t _ he => exact (hp _).of_error he
      next => exact h
      next v poison t he =>
        have ht : CanonMem t := (hp _).of_ok he
        exact ite_keeps UnitRead.Canon ht (UnitRead.Canon.unitBytes ht)
      next c t he => exact (hp _).of_ok he
    · split
      · exact h
      · exact UnitRead.Canon.unitBytes (.progRead h)

protected theorem UnitOut.Canon.runUnit {id k : Nat} {e : ReplayEntry} {va : Word} (h : CanonMem s) : (runUnit s id k e va).Canon := by
  unfold Machine.runUnit
  dsimp only
  split
  · trivial
  next m _ =>
    have h1 : CanonMem (commitAll s m.commits) := .commitAll h
    refine ite_keeps UnitOut.Canon ?_ ?_
    · split
      · exact CanonMem.sendPacket h1
      · exact ite_keeps UnitOut.Canon h (CanonMem.progWriteRange h1)
    · have hr {t : State} (ht : CanonMem t) : (unitBytes id e m.pieces k va [] t).Canon := .unitBytes ht
      split
      · split
        next l t he => exact CanonMem.putUnit ((hr h1).of_bytes he)
        next c t he => exact (hr h1).of_late he
        next t he => exact (hr h1).of_wait he
      next c t he => exact (hr h).of_late he
      next t he => exact (hr h).of_wait he

protected theorem CanonMem.fillRegister {id : Nat} {e : ReplayEntry} (h : CanonMem s) : CanonMem (fillRegister s id e) := by
  unfold fillRegister
  exact .ite h (.modCore h)

protected theorem CanonMem.discardReplay {id : Nat} (h : CanonMem s) : CanonMem (discardReplay s id) := by
  unfold discardReplay
  exact .foldl (fun _ _ => .fillRegister) (.modHart h)

protected theorem Retry.Canon.retryReplay {id : Nat} : ∀ {fuel : Nat} {s : State}, CanonMem s → (retryReplay s id fuel).Canon
  | 0, _, h => h
  | fuel + 1, s, h => by
    unfold Machine.retryReplay
    split
    · exact h
    · split
      next t he => exact Retry.Canon.retryReplay (.fillRegister (.modHart (.dropReplies ((UnitOut.Canon.runUnit h).of_done he))))
      next t he => exact (UnitOut.Canon.runUnit h).of_wait he
      next => exact CanonMem.modHart h
      next c t he => exact CanonMem.modHart (.dropReplies ((UnitOut.Canon.runUnit h).of_late he))

protected theorem CanonMem.unitRoom {id : Nat} (h : CanonMem s) : CanonMem (unitRoom s id) := by
  unfold unitRoom
  dsimp only
  split
  · exact h
  · refine .ite h ?_
    split
    next t he => exact .fillRegister (.modHart (.dropReplies ((UnitOut.Canon.runUnit h).of_done he)))
    next t he => exact (UnitOut.Canon.runUnit h).of_wait he
    next => exact .modHart (.modHart (.dropReplies h))
    next c t he => exact .modHart (.modHart (.dropReplies ((UnitOut.Canon.runUnit h).of_late he)))

protected theorem CanonMem.unitOrder {id : Nat} {l : List VUnit} (h : CanonMem s) : CanonMem (unitOrder s id l).2 := by
  unfold unitOrder
  exact .ite_snd h h

protected theorem CanonMem.runOne {id : Nat} {r : VRun} {u : VUnit} (h : CanonMem r.s) : CanonMem (runOne id r u).s := by
  have hu : (runUnit r.s id 0 u.entry u.va).Canon := .runUnit h
  unfold Machine.runOne
  dsimp only
  split
  · exact h
  · split
    · exact h
    · split
      · exact h
      · split
        next t he => exact CanonMem.modHart (hu.of_done he)
        next t he => exact hu.of_wait he
        next c he =>
          split
          · exact CanonMem.modHart (.modHart h)
          · exact h
        next c t he =>
          have ht : CanonMem t := hu.of_late he
          split
          · exact CanonMem.modHart (.modHart ht)
          · exact CanonMem.modHart (.modHart ht)

protected theorem CanonMem.runAll {id : Nat} {l : List VUnit} (h : CanonMem s) : CanonMem (runAll s id l).s :=
  foldl_keeps (fun r : VRun => CanonMem r.s) _ (fun _ _ hr => .runOne hr) _ _ (.unitOrder h)

protected theorem CanonMem.endLoad {id reg bytes : Nat} {whole : Bool} (h : CanonMem s) : CanonMem (endLoad s id reg bytes whole) := by
  unfold endLoad
  exact .modCore h

protected theorem Ends.runUnits {f : FmtR} {load : Bool} {l : List VUnit} {bytes : Nat} (h : CanonMem s) :
    Ends CanonMem (runUnits s f load l bytes) := by
  unfold runUnits
  have hr : CanonMem (runAll s (leadHart s) l).s := .runAll h
  have he (complete : Bool) : CanonMem (if load then endLoad (runAll s (leadHart s) l).s (leadHart s) f.d.num.toNat bytes complete
      else (runAll s (leadHart s) l).s) := .ite (.endLoad hr) hr
  exact .remote (.ite (.error (.replayStop (.modCore (he false)))) (.ite (.error (.wait hr)) (.ok (.advance (.endVector (he true)))))) h

protected theorem Ends.vecMem {f : FmtR} {load : Bool} {srcs : List Opnd} {plain : List Nat} {l : State → List VUnit} {bytes : Nat}
    (h : CanonMem s) : Ends CanonMem (vecMem s f load srcs plain l bytes) := by
  unfold vecMem
  exact .when (.error (.replayStop h)) fun _ => .check (.afterStream h) fun _ => .vGo h
      (fun _ ht => .ite (.error (.replayStop ht)) (.ite (.stall ht) (.runUnits ht)))

protected theorem Ends.needFmt {i : Instr} {f : FmtR} : Ends (fun _ => True) (needFmt i s f) := by
  unfold needFmt
  exact .needI

protected theorem Ends.vUnitStride {i : Instr} {f : FmtR} {load : Bool} (h : CanonMem s) : Ends CanonMem (vUnitStride i f load s) := by
  unfold vUnitStride
  exact .check .needFmt fun _ => .vecMem h

protected theorem Ends.vStrided {i : Instr} {f : FmtR} {load : Bool} (h : CanonMem s) : Ends CanonMem (vStrided i f load s) := by
  unfold vStrided
  exact .check .needFmt fun _ => .vecMem h

protected theorem Ends.vIndexed {i : Instr} {f : FmtR} {load : Bool} (h : CanonMem s) : Ends CanonMem (vIndexed i f load s) := by
  unfold vIndexed
  exact .check .needFmt fun _ => .check .needI fun _ => .check .needAllot fun _ => .vecMem h

protected theorem Ends.vScales {i : Instr} {f : FmtR} (h : CanonMem s) : Ends CanonMem (vScales i f s) := by
  unfold vScales
  exact .check .needI fun _ => .vecMem h

/-! ### System instructions (Machine/System) -/

protected theorem Stop.Canon.freeInfo {code : BitVec 8} (h : CanonMem s) : (freeInfo s code).Canon := by
  unfold freeInfo
  exact ite_keeps Stop.Canon (.banksAfter h) (.after (.freeWord h))

protected theorem CanonMem.csrPut {id a : Nat} {v : Word} (h : CanonMem s) : CanonMem (csrPut s id a v) := by
  unfold csrPut
  split
  · exact .modHart h
  · exact .modHart h
  · exact .modBank h
  · exact .modHart h
  · exact .modHart h
  · exact .modHart h
  · exact .modHart h
  · exact .modHart h
  · exact .modHart h
  · exact .modHart h
  · exact .modHart h
  · exact .modHart h
  · exact .modHart h
  · exact h

protected theorem CanonMem.droopClear {id : Nat} (h : CanonMem s) : CanonMem (droopClear s id) := by
  unfold droopClear
  exact .modClockOfHart h

protected theorem CanonMem.tlbDrop {v : Word} (h : CanonMem s) : CanonMem (tlbDrop s v) := h

protected theorem Ends.csrCheck {i : Instr} {a : Nat} {wr : Bool} (h : CanonMem s) : Ends (fun _ => True) (csrCheck i a wr s) := by
  unfold csrCheck
  exact .check .needOwn fun _ => .ite (.error (.freeInfo h)) (.ok trivial)

protected theorem Ends.csrr {f : FmtI} (h : CanonMem s) : Ends CanonMem (csrr f s) := by
  unfold csrr
  exact .check (.csrCheck h) fun _ => .ok (.advance (.foldl (fun _ _ => .modHart) h))

protected theorem CanonMem.csrWrite {id a : Nat} {v : Word} (h : CanonMem s) : CanonMem (csrWrite s id a v) := by
  unfold csrWrite
  exact .ite (.ite (.droopClear h) h) (.ite (.tlbDrop h) (.when (.csrPut h) .discardReplay))

protected theorem Ends.csrw {f : FmtI} (h : CanonMem s) : Ends CanonMem (csrw f s) := by
  unfold csrw
  exact .check (.csrCheck h) fun _ => .check .ownFaults fun _ => .ite (.error (.wait h)) (.ok (.advance (.foldl (fun _ _ => .csrWrite) h)))

protected theorem Ends.softTrap {code : BitVec 8} {info : Hart → Word} (h : CanonMem s) : Ends CanonMem (softTrap code info s) := by
  unfold softTrap
  exact .ite (.error (.banksAfter (.advance h))) (.error (.after (.advance h)))

protected theorem Ends.rft {f : FmtR} (h : CanonMem s) : Ends CanonMem (rft f s) := by
  unfold rft
  refine .check .need fun _ => .ite (.error (.wait h)) ?_
  split
  next t he => exact .ok (.returnFromTrap ((Retry.Canon.retryReplay h).of_done he))
  next t he => exact .error (.wait ((Retry.Canon.retryReplay h).of_wait he))
  next t _ he =>
    have ht : CanonMem t := (Retry.Canon.retryReplay h).of_failed he
    exact .ite (.error .trap) (.ok (.trapHart (.ite (.logUe ht) ht)))

protected theorem CanonMem.fetchSegment {harts : List Nat} {id : Nat} {r : SegRange} (h : CanonMem s) :
    CanonMem (fetchSegment s harts id r) := by
  unfold fetchSegment
  split
  · exact h
  · exact .noteSegment (.segmentFetch (.commitAll h))

protected theorem Ends.cfetch {f : FmtR} (h : CanonMem s) : Ends CanonMem (cfetch f s) := by
  unfold cfetch
  exact .check (.afterSent h) fun _ => .check .ownFaults fun _ => .ok (.advance (.foldl (fun _ _ => .fetchSegment) h))

protected theorem Ends.cseg {f : FmtR} (h : CanonMem s) : Ends CanonMem (cseg f s) := by
  unfold cseg
  exact .check .ownFaults fun _ => .ok (.advance (.foldl (fun _ _ => .modHart) h))

protected theorem Ends.ifence (h : CanonMem s) : Ends CanonMem (ifence s) := by
  unfold ifence
  exact .ite (.error (.wait h)) (.ok (.advance h))

protected theorem Ends.setAside {g : Nat} {c : BitVec 16} {d : Nat} {dual : Bool} (h : CanonMem s) :
    Ends CanonMem (setAside g c d dual s) := by
  unfold setAside
  exact .ite (.ite (.ok h) (.ite (.error (.wait h)) (.ok (.grantLease h)))) (.ite (.error (.freeInfo h))
      (.ite (.ok (.leaseOver h)) (.ite (.error (.freeInfo h)) (.ok (.modPer h)))))

protected theorem Ends.setaside {f : FmtR} (h : CanonMem s) : Ends CanonMem (setaside f s) := by
  unfold setaside
  exact .check .need fun _ => .ite (.error (.freeInfo h)) (.bind (.setAside h) fun _ ht => .ok (.advance ht))

protected theorem Ends.rowwd {f : FmtR} (h : CanonMem s) : Ends CanonMem (rowwd f s) := by
  unfold rowwd
  exact .check .need fun _ => .ite (.error (.freeInfo h)) (.ite (.error (.freeInfo h)) (.ok (.advance (.modPer h))))

/-! ### Rows: activation, precharge, write-back (Machine/Rows) -/

protected theorem CanonMem.modReg {g b n : Nat} {f : RowReg → RowReg} (h : CanonMem s) : CanonMem (modReg s g b n f) := by
  unfold modReg
  exact .modBank h

protected theorem CanonMem.modSag {g b n : Nat} {f : Sag → Sag} (h : CanonMem s) : CanonMem (modSag s g b n f) := by
  unfold modSag
  exact .modBank h

protected theorem CanonMem.logRow {g b : Nat} {kind : BitVec 8} {r : Nat} {segs : BitVec 128} {count : Nat} (h : CanonMem s) :
    CanonMem (logRow s g b kind r segs count) := by
  unfold logRow
  exact .logError h

protected theorem CanonMem.countCorrected {g b r n : Nat} (h : CanonMem s) : CanonMem (countCorrected s g b r n) := by
  unfold countCorrected
  exact .whenNot (.modBank h) .logRow

protected theorem CanonMem.newSuspect {g b r : Nat} {segs : BitVec 128} (h : CanonMem s) : CanonMem (newSuspect s g b r segs) := by
  unfold newSuspect
  refine .modBank (.logRow ?_)
  split
  · exact .ite h (.logRow h)
  · exact h

protected theorem CanonMem.clearSuspect {g b : Nat} (h : CanonMem s) : CanonMem (clearSuspect s g b) := by
  unfold clearSuspect
  exact .modBank h

protected theorem CanonMem.judgeRow {g b r : Nat} {found : BitVec 128} (h : CanonMem s) : CanonMem (judgeRow s g b r found).1 := by
  unfold judgeRow
  exact .ite_fst (.ite_fst (.whenNot (.logRow (.clearSuspect h)) .newSuspect) (.clearSuspect h)) (.ite h (.newSuspect h))

protected theorem CanonMem.lostSegments {found : BitVec 128} {row : Row} (h : CanonMem s) : CanonMem (lostSegments s found row).2 := by
  unfold lostSegments
  exact .ite_snd h (.freeBytes h)

protected theorem CanonMem.activate {g b n r at' : Nat} (h : CanonMem s) : CanonMem (activate s g b n r at') := by
  unfold activate
  exact .modReg (.lostSegments (.judgeRow (.whenNot h .countCorrected)))

protected theorem CanonMem.retireRow {g b n : Nat} (h : CanonMem s) : CanonMem (retireRow s g b n) := by
  unfold retireRow
  exact .ite (.logRow (.setToRetire (.modReg h))) (.logRow (.modSag (.writeCells (.setRemappedUpsetsSofts (.modReg h)))))

protected theorem CanonMem.noteAct {g b later : Nat} (h : CanonMem s) : CanonMem (noteAct s g b later) := by
  unfold noteAct
  exact .modBank (.modLayer h)

protected theorem CanonMem.reopen {g b n later : Nat} (h : CanonMem s) : CanonMem (reopen s g b n later) := by
  unfold reopen
  exact .ite (.modReg (.noteAct h)) (.activate (.noteAct h))

protected theorem CanonMem.reopenAll {g : Nat} {l : List (Nat × Nat)} (h : CanonMem s) : CanonMem (reopenAll s g l) := by
  unfold reopenAll
  exact .foldl (fun _ _ => .reopen) h

protected theorem CanonMem.logMismatch {own : List (Nat × BitVec 8 × Word)} (h : CanonMem s) : CanonMem (logMismatch s own) := by
  unfold logMismatch
  exact .foldl (fun _ _ => .logError) h

protected theorem Stop.Canon.rowTrap {named : Nat → List (Nat × Nat)} {own : List (Nat × BitVec 8 × Word)} (h : CanonMem s) :
    (rowTrap s named own).Canon := by
  unfold rowTrap
  exact ite_keeps Stop.Canon (.banksAfter (.refdueSaid (.logMismatch (.reopenAll h)))) (.wait h)

protected theorem Ends.rowInstr {named : Nat → List (Nat × Nat)} {check : Nat → RowFault} {ready : Nat → Bool} {content : Nat → RowFault}
    {run : State → M State} (hrun : ∀ t, CanonMem t → Ends CanonMem (run t)) (h : CanonMem s) :
    Ends CanonMem (rowInstr named check ready content run s) := by
  unfold rowInstr
  exact .ite (.error (.wait h)) (.ite (.error (.rowTrap h)) (.ite (.error (.wait h)) (.ite (.error (.rowTrap h)) (hrun _ h))))

protected theorem CanonMem.laneMark {s t : State} {i : Instr} {g b time : Nat} {u : RowUse} (ht : CanonMem t) :
    CanonMem (laneMark s t i g b time u) := by
  unfold laneMark
  exact .modBank (.foldl (fun _ _ => .modReg) ht)

protected theorem CanonMem.noteGroups {t : State} {g b time : Nat} {l : List Flg} (h : CanonMem t) :
    CanonMem (noteGroups t g b time l) := by
  unfold noteGroups
  exact .modBank h

protected theorem Ends.laneInstrIf {more : Nat → Bool} {i : Instr} {use : Nat → RowUse} {field late : Nat → RowFault} {time : Nat → Nat}
    {run : State → State → Nat → State} (hrun : ∀ t u a, CanonMem t → CanonMem u → CanonMem (run t u a)) (h : CanonMem s) :
    Ends CanonMem (laneInstrIf more i use field late time run s) := by
  unfold laneInstrIf
  exact .rowInstr (fun _ ht => .ok (.advance (.foldl (fun _ _ hu => .laneMark (hrun _ _ _ ht (.modBank hu))) ht))) h

protected theorem Ends.laneInstr {i : Instr} {use : Nat → RowUse} {field late : Nat → RowFault} {time : Nat → Nat}
    {run : State → State → Nat → State} (hrun : ∀ t u a, CanonMem t → CanonMem u → CanonMem (run t u a)) (h : CanonMem s) :
    Ends CanonMem (laneInstr i use field late time run s) := by
  unfold laneInstr
  exact .laneInstrIf (fun _ _ _ ht hu => hrun _ _ _ ht hu) h

protected theorem CanonMem.settlePair {g b n : Nat} (h : CanonMem s) : CanonMem (settlePair s g b n) := by
  unfold settlePair
  exact .ite h (.logRow (.modReg (.modReg h)))

protected theorem CanonMem.actOne {f : FmtW} {g b : Nat} (h : CanonMem s) : CanonMem (actOne f g b s) := by
  unfold actOne
  exact .foldl (fun _ _ ht => .activate (.noteAct ht)) h

protected theorem Ends.act {f : FmtW} (h : CanonMem s) : Ends CanonMem (act f s) := by
  unfold act
  extract_lets -underBinder _ _ _ _ go
  have hgo {t : State} (ht : CanonMem t) : Ends CanonMem (go t) := by
    dsimp only [go]
    split
    · exact .ok (.advance (.modPer ht))
    · exact .ite (.ite (.ok (.modPer (.actOne ht))) (.ok (.advance (.modPer (.actOne ht))))) (.error (.wait ht))
  exact .ite (.rowInstr (fun _ => hgo) h) (hgo h)

protected theorem CanonMem.closeReg {g b n : Nat} (h : CanonMem s) : CanonMem (closeReg s g b n) := by
  unfold closeReg
  exact .modBank h

protected theorem Ends.pre {f : FmtW} (h : CanonMem s) : Ends CanonMem (pre f s) := by
  unfold pre
  exact .rowInstr (fun _ ht => .ok (.advance (.foldl (fun _ _ hu => .ite hu (.closeReg hu)) ht))) h

protected theorem Ends.writeBack {f : FmtW} {close : Bool} (h : CanonMem s) : Ends CanonMem (writeBack f close s) := by
  unfold writeBack
  exact .rowInstr (fun _ ht => .ok (.advance (.foldl (fun _ _ hu => .modReg (.settlePair hu)) ht))) h

protected theorem Ends.ref {f : FmtW} (h : CanonMem s) : Ends CanonMem (ref f s) := by
  unfold ref
  exact .rowInstr (fun _ ht => .ok (.advance (.foldl (fun _ _ => .modSag) ht))) h

protected theorem CanonMem.putReg {t : State} {g b n : Nat} {data : Row} {poison : BitVec 128} (h : CanonMem t) :
    CanonMem (putReg t g b n data poison) := by
  unfold putReg
  exact .modReg h

protected theorem Ends.rcopy {f : FmtW} (h : CanonMem s) : Ends CanonMem (rcopy f s) := by
  unfold rcopy
  exact .laneInstr (fun _ _ _ _ => .putReg) h

/-! ### Row arithmetic (Machine/RowArith) -/

protected theorem CanonMem.rowFinish {f : FmtW} {time w : Nat} {r : List (Option Elem)} {pz : List Bool} {s t : State} {g b : Nat}
    (ht : CanonMem t) : CanonMem (rowFinish f time w r pz s t g b) := by
  unfold rowFinish
  exact .noteGroups (.modHart (.when (.putReg ht) .putReg))

protected theorem Ends.rowElementwise {i : Instr} {f : FmtW} {ob fused : Bool} {mul : Bool} {extra : Nat → Eff → RowFault}
    {op : Hart → Nat → Nat → Nat → Nat → Elem} (h : CanonMem s) : Ends CanonMem (rowElementwise i f ob fused mul extra op s) := by
  unfold rowElementwise
  exact .laneInstr (fun _ _ _ _ => .rowFinish) h

protected theorem Ends.rcmp {f : FmtW} (h : CanonMem s) : Ends CanonMem (rcmp f s) := by
  unfold rcmp
  exact .laneInstr (fun _ _ _ _ hu => .modBank (.modHart (.rowFinish hu))) h

protected theorem Ends.rsel {f : FmtW} (h : CanonMem s) : Ends CanonMem (rsel f s) := by
  unfold rsel
  exact .laneInstr (fun _ _ _ _ => .putReg) h

protected theorem Ends.rcvt {f : FmtW} (h : CanonMem s) : Ends CanonMem (rcvt f s) := by
  unfold rcvt
  exact .laneInstr (fun _ _ _ _ hu => .noteGroups (.rowFinish hu)) h

/-! ### Row tables and accumulators (Machine/RowLut) -/

protected theorem Ends.ldlut {f : FmtW} (h : CanonMem s) : Ends CanonMem (ldlut f s) := by
  unfold ldlut
  exact .laneInstr (fun _ _ _ _ => .modBank) h

protected theorem Ends.ldsc {f : FmtW} (h : CanonMem s) : Ends CanonMem (ldsc f s) := by
  unfold ldsc
  exact .laneInstr (fun _ _ _ _ => .modBank) h

protected theorem CanonMem.latchRun {f : FmtW} {g time : Nat} {upd : State → Nat → QLatch → QLatch × List Flg} {s t : State} {b : Nat}
    (ht : CanonMem t) : CanonMem (latchRun f g time upd s t b) := by
  unfold latchRun
  exact .noteGroups (.modHart (.modBank ht))

protected theorem Ends.lutdot {f : FmtW} (h : CanonMem s) : Ends CanonMem (lutdot f s) := by
  unfold lutdot
  exact .laneInstrIf (fun _ _ _ _ => .latchRun) h

protected theorem Ends.rdot {f : FmtW} (h : CanonMem s) : Ends CanonMem (rdot f s) := by
  unfold rdot
  exact .laneInstrIf (fun _ _ _ _ => .latchRun) h

protected theorem Ends.rsum {f : FmtW} (h : CanonMem s) : Ends CanonMem (rsum f s) := by
  unfold rsum
  exact .laneInstrIf (fun _ _ _ _ => .latchRun) h

protected theorem Ends.qclr {f : FmtW} (h : CanonMem s) : Ends CanonMem (qclr f s) := by
  unfold qclr
  exact .laneInstr (fun _ _ _ _ => .latchRun) h

protected theorem CanonMem.settleLatch {s t : State} {g b q c rm od off : Nat} (ht : CanonMem t) :
    CanonMem (settleLatch s t g b q c rm od off) := by
  unfold settleLatch
  exact .when (.modBank ht) .logRow

protected theorem Ends.qst {f : FmtW} (h : CanonMem s) : Ends CanonMem (qst f s) := by
  unfold qst
  exact .laneInstrIf (fun _ _ _ _ hu => .noteGroups (.rowFinish (.settleLatch hu))) h

protected theorem Ends.rtopk {f : FmtW} (h : CanonMem s) : Ends CanonMem (rtopk f s) := by
  unfold rtopk
  exact .laneInstrIf (fun _ _ _ _ => .putReg) h

/-! ### Moving rows (Machine/RowMove) -/

protected theorem Ends.shfl {f : FmtW} (h : CanonMem s) : Ends CanonMem (shfl f s) := by
  unfold shfl
  exact .laneInstr (fun _ _ _ _ => .putReg) h

protected theorem CanonMem.shrxSend {f : FmtW} {g : Nat} {s t : State} {b : Nat} (ht : CanonMem t) : CanonMem (shrxSend f g s t b) := by
  unfold shrxSend
  exact .modBank (.foldl (fun _ _ => .modBank) (.settlePair ht))

protected theorem Ends.shrx {f : FmtW} (h : CanonMem s) : Ends CanonMem (shrx f s) := by
  unfold shrx
  exact .ite (.ite (.ok (.advance (.foldl (fun _ _ => .modBank) h))) (.error (.wait h)))
      (.rowInstr (fun _ ht => .ok (.foldl (fun _ _ hu => .laneMark (.shrxSend hu)) ht)) h)

protected theorem CanonMem.shrxDeliver {g b : Nat} (h : CanonMem s) : CanonMem (shrxDeliver s g b) := by
  unfold shrxDeliver
  dsimp only
  split
  · exact .modBank (.modBank (.modBank h))
  · exact .modBank h

protected theorem CanonMem.noteVa {g b : Nat} {va : Word} (h : CanonMem s) : CanonMem (noteVa s g b va) := by
  unfold noteVa
  exact .modBank h

protected theorem Ends.rcast {f : FmtW} (h : CanonMem s) : Ends CanonMem (rcast f s) := by
  unfold rcast
  dsimp only
  split
  · exact .ite (.error (.rowTrap h)) (.error (.wait h))
  · exact .laneInstrIf (fun _ _ _ _ hu => .noteVa (.putReg (.commitAll hu))) h

protected theorem Ends.rout {f : FmtW} (h : CanonMem s) : Ends CanonMem (rout f s) := by
  unfold rout
  refine .laneInstrIf (fun _ _ _ ht hu => .whenNot (.noteVa (.settlePair hu)) fun hv => ?_) h
  split
  · exact .progWriteRange (.commitAll hv)
  · exact hv

protected theorem Ends.rred {f : FmtW} (h : CanonMem s) : Ends CanonMem (rred f s) := by
  unfold rred
  exact .laneInstrIf (fun _ _ _ _ hu => .modBank (.rowFinish hu)) h

/-! ### Gang and split mode (Machine/Modes) -/

protected theorem CanonMem.yieldPergola {g : Nat} (h : CanonMem s) : CanonMem (yieldPergola s g) := by
  unfold yieldPergola
  split
  · exact h
  · refine .ite h (.ite (.ite (.badFrame h) h) ?_)
    dsimp only
    split
    next => exact h
    next t e =>
      have ht : CanonMem t := CanonMem.of_selectRowFor (.modPer (.saveRow h)) e
      exact .ite (.modPer ht) (.modHarts (.modPer ht))

protected theorem CanonMem.byieldGang (h : CanonMem s) : CanonMem (byieldGang s) := by
  unfold byieldGang
  exact .yieldPergola (.advance h)

protected theorem Ends.arriveGang (h : CanonMem s) : Ends CanonMem (arriveGang s) := by
  unfold arriveGang
  exact .ok (.modHarts h)

protected theorem CanonMem.splitGang (h : CanonMem s) : CanonMem (splitGang s) := by
  unfold splitGang
  exact .modPer (.modHarts (.advance h))

protected theorem CanonMem.gangMeet {g : Nat} (h : CanonMem s) : CanonMem (gangMeet s g) := by
  unfold gangMeet
  split
  · exact h
  · exact .ite h (.setCur (.ite (.byieldGang (.setCur (.modPer (.modHarts h)))) (.advance (.setCur (.modPer (.modHarts h))))))

protected theorem Ends.bmask {f : FmtW} (h : CanonMem s) : Ends CanonMem (bmask f s) := by
  unfold bmask
  exact .check .need fun _ => .ok (.advance (.foldl (fun _ _ => .modHart) h))

protected theorem Ends.rgete {f : FmtW} (h : CanonMem s) : Ends CanonMem (rgete f s) := by
  unfold rgete
  exact .laneInstr (fun _ _ _ _ hu => .modBank (.modHart hu)) h

protected theorem Ends.rsete {f : FmtW} (h : CanonMem s) : Ends CanonMem (rsete f s) := by
  unfold rsete
  exact .laneInstr (fun _ _ _ _ => .putReg) h

/-! ### Requests from outside (Machine/Remote) -/

protected theorem CanonMem.sendBack {data : List Byte} {poison : Bool} {code : BitVec 8} (h : CanonMem s) :
    CanonMem (sendBack s data poison code) := h

protected theorem CanonMem.remoteRead {pa n : Nat} (h : CanonMem s) : CanonMem (remoteRead s pa n) := by
  unfold remoteRead
  split
  · exact .sendBack h
  · exact .sendBack (.progRead h)

protected theorem CanonMem.remoteWrite {pa : Nat} {bytes : List Byte} (h : CanonMem s) : CanonMem (remoteWrite s pa bytes) := by
  unfold remoteWrite
  split
  · exact .sendBack h
  · exact .sendBack (.progWrite h)

protected theorem CanonMem.remoteAtomic {sub pa n b c : Nat} {wants : Bool} (h : CanonMem s) :
    CanonMem (remoteAtomic s sub pa n b c wants) := by
  unfold remoteAtomic
  split
  · exact .sendBack h
  · refine .sendBack ?_
    split
    · exact .progWrite (.progRead h)
    · exact .progRead h

protected theorem CanonMem.poisonRange {pa n : Nat} (h : CanonMem s) : CanonMem (poisonRange s pa n) :=
  of_eq (s := setPoison (freeInto s pa n) pa n true) (.setPoison (.freeInto h)) (spoilImages_mem _ pa n)

protected theorem CanonMem.hostMemWrite {pa : Nat} {bytes : List Byte} {poison : Bool} (h : CanonMem s) :
    CanonMem (hostMemWrite s pa bytes poison) := by
  unfold hostMemWrite
  exact .ite h (.ite (.poisonRange h) (.progWrite h))

protected theorem CanonMem.hostMemRead {pa n : Nat} (h : CanonMem s) : CanonMem (hostMemRead s pa n) := by
  unfold hostMemRead
  exact .ite h (.sendBack (.progRead h))

protected theorem CanonMem.dropMonitors {line : Nat} (h : CanonMem s) : CanonMem (dropMonitors s line) := h

protected theorem CanonMem.cacheSnoop {line : Nat} {data : List Byte} (h : CanonMem s) : CanonMem (cacheSnoop s line data) := by
  unfold cacheSnoop
  exact .ite h (.ite (.dropMonitors h) (.progWrite h))

protected theorem CanonMem.stackPortReplay {stack granule : Nat} (h : CanonMem s) : CanonMem (stackPortReplay s stack granule) := by
  unfold stackPortReplay
  exact .ite h (.ite h (.logError (.poisonRange h)))

protected theorem CanonMem.stackFlitPassed {stack : Nat} (h : CanonMem s) : CanonMem (stackFlitPassed s stack) := h

protected theorem CanonMem.realign {l : Nat} (h : CanonMem s) : CanonMem (realign s l) := by
  unfold realign
  exact .modLayer h

protected theorem CanonMem.realignmentRequest {l : Nat} (h : CanonMem s) : CanonMem (realignmentRequest s l) := by
  unfold realignmentRequest
  exact .ite h (.ite (.modLayer h) (.realign (.modLayer h)))

protected theorem CanonMem.deferralEnds {l : Nat} (h : CanonMem s) : CanonMem (deferralEnds s l) := by
  unfold deferralEnds
  exact .ite (.realign h) h

protected theorem CanonMem.narrow {l : Nat} (h : CanonMem s) : CanonMem (narrow s l) := h

protected theorem CanonMem.nextNarrowing (h : CanonMem s) : CanonMem (nextNarrowing s) := by
  unfold nextNarrowing
  split
  · exact h
  · exact .ite h (.narrow h)

protected theorem CanonMem.retireBundle {l : Nat} (h : CanonMem s) : CanonMem (retireBundle s l) := by
  unfold retireBundle
  exact .whenNot (.modLayer h) fun ht => .ite ht (.narrow ht)

protected theorem CanonMem.realignmentEnd {l : Nat} {fails : Bool} (h : CanonMem s) : CanonMem (realignmentEnd s l fails) := by
  unfold realignmentEnd
  exact .ite h (.when (.modLayer h) .retireBundle)

/-! ### The Ndetrief: commands, power and the start (Machine/Ndetrief) -/

protected theorem CanonMem.modNd {f : Ndetrief → Ndetrief} (h : CanonMem s) : CanonMem (modNd s f) := h

protected theorem CanonMem.takeSample (h : CanonMem s) : CanonMem (takeSample s) := by
  unfold takeSample
  exact .when (.modNd h) .powerEmergency

protected theorem CanonMem.governorSample {compute row fixed flow temp : Nat} (h : CanonMem s) :
    CanonMem (governorSample s compute row fixed flow temp) := by
  unfold governorSample
  exact .when (.modNd h) .takeSample

protected theorem CanonMem.stepDelivery (h : CanonMem s) : CanonMem (stepDelivery s) := by
  unfold stepDelivery
  exact .foldl (fun _ _ => .modPav) (.whenNot (.modNd h) fun ht => .foldl (fun _ _ => .modPer) (.modNd ht))

protected theorem CanonMem.droopStretch {u : UnitRef} (h : CanonMem s) : CanonMem (droopStretch s u) := by
  unfold droopStretch
  split
  · exact .modPav h
  · exact .modPer h

protected theorem CanonMem.clockGating (h : CanonMem s) : CanonMem (clockGating s) := by
  unfold clockGating
  exact .ite (.foldl (fun _ _ => .modPav) h) h

protected theorem CanonMem.passTime {due : State → State} {wait : State → Nat → Nat} {advance : Nat → State → State}
    (hdue : ∀ t, CanonMem t → CanonMem (due t)) (hadvance : ∀ a t, CanonMem t → CanonMem (advance a t)) :
    ∀ {fuel n : Nat} {s : State}, CanonMem s → CanonMem (passTime due wait advance fuel n s)
  | 0, _, _, h => hadvance _ _ h
  | _ + 1, _, _, h => .ite (hdue _ h) (CanonMem.passTime hdue hadvance (hadvance _ _ (hdue _ h)))

protected theorem CanonMem.ndDue (h : CanonMem s) : CanonMem (ndDue s) := by
  unfold ndDue
  exact .when (.when (.foldl (fun _ _ ht => .ite (.retrainEnd ht) ht) (.when (.nextNarrowing h) .stepDelivery)) .takeSample) .clockGating

protected theorem CanonMem.ndAdvance {n : Nat} (h : CanonMem s) : CanonMem (ndAdvance n s) := by
  unfold ndAdvance
  exact .modNd h

protected theorem CanonMem.ndPasses {n : Nat} (h : CanonMem s) : CanonMem (ndPasses n s) := by
  unfold ndPasses
  exact .passTime (fun _ => .ndDue) (fun _ _ => .ndAdvance) h

protected theorem CanonMem.baseDue {k : Nat} (h : CanonMem s) : CanonMem (baseDue k s) := by
  unfold baseDue
  exact .foldl (fun _ _ ht => .when (.ite (.deferralEnds ht) ht) .realignmentEnd) h

protected theorem CanonMem.basePasses {k n : Nat} (h : CanonMem s) : CanonMem (basePasses k n s) := by
  unfold basePasses
  exact .passTime (fun _ => .baseDue) (fun _ _ => .setBaseTimes) h

protected theorem CanonMem.endCommand {status : BitVec 16} (h : CanonMem s) : CanonMem (endCommand s status) := by
  unfold endCommand
  exact .modNd h

protected theorem CanonMem.command {cmd : BitVec 8} {a0 a1 : Word} {safeToo : Bool} {run : State → State} (h : CanonMem s)
    (hrun : ∀ t, CanonMem t → CanonMem (run t)) : CanonMem (command s cmd a0 a1 safeToo run) := by
  unfold command
  exact .ite h (.ite (.endCommand (.modNd h)) (hrun _ (.modNd h)))

protected theorem CanonMem.regchain {a0 a1 : Word} (h : CanonMem s) : CanonMem (regchain a0 a1 s) := by
  unfold regchain
  exact .command h (fun _ ht => .ite (.endCommand ht) (.endCommand ht))

protected theorem CanonMem.dropchain {a1 : Word} (h : CanonMem s) : CanonMem (dropchain a1 s) := by
  unfold dropchain
  exact .command h (fun _ ht => .endCommand ht)

protected theorem CanonMem.setshare {a0 a1 : Word} (h : CanonMem s) : CanonMem (setshare a0 a1 s) := by
  unfold setshare
  exact .command h (fun _ ht => .ite (.endCommand ht) (.endCommand (.modNd ht)))

protected theorem CanonMem.ackhalt (h : CanonMem s) : CanonMem (ackhalt s) := by
  unfold ackhalt
  exact .command h (fun _ ht => .endCommand (.modNd ht))

protected theorem CanonMem.readstart {a0 : Word} (h : CanonMem s) : CanonMem (readstart a0 s) := by
  unfold readstart
  exact .command h (fun _ ht => .ite (.endCommand (.modNd ht)) (.endCommand ht))

protected theorem CanonMem.regwrite {a0 a1 : Word} (h : CanonMem s) : CanonMem (regwrite a0 a1 s) := by
  unfold regwrite
  exact .command h (fun _ ht => .ite (.endCommand (.devWrite ht)) (.endCommand ht))

protected theorem CanonMem.regread {a0 : Word} (h : CanonMem s) : CanonMem (regread a0 s) := by
  unfold regread
  exact .command h (fun _ ht => .ite (.endCommand (.modNd (.devRead ht))) (.endCommand ht))

protected theorem CanonMem.mailbox {cmd : BitVec 8} {a0 a1 : Word} {s0 : State} (h : CanonMem s0) : CanonMem (mailbox cmd a0 a1 s0) := by
  unfold mailbox
  have opened {f : Ndetrief → Ndetrief} : CanonMem (if mailboxOpen s0 then modNd s0 f else s0) := .when h .modNd
  dsimp only
  split
  · exact .regchain opened
  · exact .dropchain opened
  · exact .setshare opened
  · exact .ackhalt opened
  · exact .readstart opened
  · exact .regwrite opened
  · exact .regread opened
  · exact .command opened fun _ => .endCommand

protected theorem CanonMem.mbWrite {off : Nat} {v : Word} (h : CanonMem s) : CanonMem (mbWrite off v s) := by
  unfold mbWrite
  refine .ite h ?_
  split
  · exact .modNd h
  · exact .modNd h
  · exact .modNd h
  · exact .modNd h
  · exact .modNd h
  · exact h

protected theorem CanonMem.mbRead {off : Nat} (h : CanonMem s) : CanonMem (mbRead off s) := by
  unfold mbRead
  refine .ite h (.sendBack ?_)
  split
  · exact h
  · exact h
  · exact h
  · exact h
  · exact h
  · exact .freeWord h

protected theorem CanonMem.spdm {index : Nat} (h : CanonMem s) : CanonMem (spdm s index) := by
  unfold spdm
  exact .ite h (.modNd h)

protected theorem CanonMem.startBundles {x : StartInput} (h : CanonMem s) : CanonMem (startBundles x s) := by
  unfold startBundles
  exact .ite (.foldl (fun _ _ => .retireBundle) h) h

protected theorem CanonMem.startFrom {x : StartInput} : CanonMem (startFrom s x) := by
  unfold startFrom
  exact .startBundles (CanonMem.of_eq reset_mem_wf rfl)

protected theorem CanonMem.powerUp : CanonMem (powerUp s) := .startFrom

/-! ### What falls due in the rows (Machine/RowEvents) -/

protected theorem CanonMem.rowOpen {g b n : Nat} (h : CanonMem s) : CanonMem (rowOpen s g b n) := by
  unfold rowOpen
  exact .ite (.modReg h) h

protected theorem CanonMem.rowRestored {g b n : Nat} (h : CanonMem s) : CanonMem (rowRestored s g b n) := by
  unfold rowRestored
  exact .ite (.when (.modReg h) .retireRow) h

protected theorem CanonMem.rowWriterComplete {g b n : Nat} (h : CanonMem s) : CanonMem (rowWriterComplete s g b n) := by
  unfold rowWriterComplete
  exact .ite (.modReg h) h

protected theorem CanonMem.writebackEnd {g b n : Nat} (h : CanonMem s) : CanonMem (writebackEnd s g b n) := by
  unfold writebackEnd
  refine .ite h ?_
  dsimp only
  split
  · exact .closeReg (.modReg (.ite (.writeCells h) h))
  · exact .modReg (.ite (.writeCells h) h)

protected theorem CanonMem.prechargeEnd {g b n : Nat} (h : CanonMem s) : CanonMem (prechargeEnd s g b n) := by
  unfold prechargeEnd
  exact .ite (.modSag h) h

protected theorem CanonMem.refreshEnd {g b n : Nat} (h : CanonMem s) : CanonMem (refreshEnd s g b n) := by
  unfold refreshEnd
  exact .ite (.modSag h) h

protected theorem CanonMem.activationWindowExpiry {l : Nat} (h : CanonMem s) : CanonMem (activationWindowExpiry s l) := by
  unfold activationWindowExpiry
  exact .ite (.modLayer h) h

protected theorem CanonMem.scrub {g b n first : Nat} (h : CanonMem s) : CanonMem (scrub s g b n first) := by
  unfold scrub
  refine .foldl (fun _ _ ht => ?_) h
  dsimp only
  split
  · exact ht
  · exact .countCorrected ht

protected theorem CanonMem.debtRise {g b n : Nat} (h : CanonMem s) : CanonMem (debtRise s g b n) := by
  unfold debtRise
  exact .ite (.modSag (.scrub h)) (.ite (.modSag h) (.ite (.modSag h) (.modSag h)))

protected theorem CanonMem.refreshDebtRise {g : Nat} (h : CanonMem s) : CanonMem (refreshDebtRise s g) := by
  unfold refreshDebtRise
  exact .foldl (fun _ _ ht => .foldl (fun _ _ => .debtRise) ht) h

protected theorem CanonMem.refdue {g b : Nat} (h : CanonMem s) : CanonMem (refdue s g b) := by
  unfold refdue
  exact .ite (.setCur (.finish h (.error (.refdueStop h)))) h

protected theorem CanonMem.rescue {g b n : Nat} (h : CanonMem s) : CanonMem (rescue s g b n) := by
  unfold rescue
  exact .modSag (.modReg (.ite (.writeCells h) h))

protected theorem CanonMem.forcedRefresh {g b n : Nat} (h : CanonMem s) : CanonMem (forcedRefresh s g b n) := by
  unfold forcedRefresh
  exact .ite (.ite (.modSag (.logRow (.modSag h))) (.when (.logRow (.modSag h)) .rescue)) (.ite (.rescue h) h)

protected theorem CanonMem.forcedRefreshDone {g b n : Nat} (h : CanonMem s) : CanonMem (forcedRefreshDone s g b n) := by
  unfold forcedRefreshDone
  exact .ite (.modSag h) h

/-! ### Stopping and saving a unit (Machine/Stop) -/

protected theorem CanonMem.catchWork {k : Nat} {w : MatrixWork} (h : CanonMem s) : CanonMem (catchWork s k w).1 := by
  unfold catchWork
  refine .ite_fst h (.ite_fst (.fillTiles h) ?_)
  split
  · exact .setFreeCount (.foldl (fun _ _ => .modSlot) h)
  · exact .setFreeCount (.foldl (fun _ _ ht => .modCore (.modSlot ht)) h)

protected theorem CanonMem.catchStep {k : Nat} {i : StepInfo} (h : CanonMem s) : CanonMem (catchStep s k i) := by
  unfold catchStep
  exact .foldl (fun _ _ ht => .ite ht (.modCore (.catchWork ht))) h

protected theorem CanonMem.catchFollows {k : Nat} {i : StepInfo} (h : CanonMem s) : CanonMem (catchFollows s k i) := by
  unfold catchFollows
  exact .foldl (fun _ _ ht => .addWork (.fillTiles ht)) h

protected theorem CanonMem.settleOut {core n : Nat} (h : CanonMem s) : CanonMem (settleOut s core n) := by
  unfold settleOut
  split
  · exact h
  · exact .modEngine (.foldl (fun _ _ => .flushUnit) h)

protected theorem CanonMem.settleCopies {k : Nat} {i : StepInfo} (h : CanonMem s) : CanonMem (settleCopies s k i) := by
  unfold settleCopies
  refine .foldl (fun _ _ ht => ?_) h
  split
  · exact .ite (.settleOut ht) ht
  · exact ht

protected theorem CanonMem.stopCore {c : Nat} (h : CanonMem s) : CanonMem (stopCore s c) := by
  unfold stopCore
  split
  · exact h
  · exact .ite h (.modHalt (.modCore (.ite (.writeFrame (.catchFollows (.catchStep
      (.settleCopies (.haltHart (.haltHart (.rewindQueue h)))))))
      (.badFrame (.catchFollows (.catchStep (.settleCopies (.haltHart (.haltHart (.rewindQueue h))))))))))

/-! ### Exit, scopes, barriers and moves of a step (Machine/Task) -/

protected theorem Ends.exitPoison {f : FmtR} {id : Nat} (h : CanonMem s) : Ends (fun _ => True) (exitPoison f id s) := by
  unfold exitPoison
  dsimp only
  split
  · exact .error (.part h)
  · exact .ok trivial

protected theorem CanonMem.exitReads {f : FmtR} {id : Nat} (h : CanonMem s) : CanonMem (exitReads f id s) := by
  unfold exitReads
  refine .foldl (fun _ _ ht => ?_) h
  split
  · exact .chainTouch (.deviceTouch ht)
  · exact ht

protected theorem CanonMem.exitDecrements {f : FmtR} {id : Nat} (h : CanonMem s) : CanonMem (exitDecrements f id s) := by
  unfold exitDecrements
  exact .foldl (fun _ _ => .decrement) (.exitReads h)

protected theorem CanonMem.endCompute {k : Nat} (h : CanonMem s) : CanonMem (endCompute s k) := by
  unfold endCompute
  split
  · exact h
  · exact .leaveStep (.addEnded (.modCore (.modHarts h)))

protected theorem Ends.exitCheck {f : FmtR} {id : Nat} (h : CanonMem s) : Ends (fun _ => True) (exitCheck f id s) := by
  unfold exitCheck
  split
  · exact .error .trap
  · exact .exitPoison h

protected theorem Ends.exitX {f : FmtR} (h : CanonMem s) : Ends CanonMem (exitX f s) := by
  unfold exitX
  refine .check (.exitCheck h) fun _ => .when (.error (.wait h)) fun _ => ?_
  beta_reduce
  extract_lets -underBinder +onlyGivenNames ends
  have ended (u : Unit) : Ends CanonMem (ends u) := .check (.afterAll h) fun _ => .check (.afterAll h) fun _ =>
    .check (.refusedReport h) fun _ => .check (.followReport h) fun _ => .ok (.endCompute (.exitDecrements h))
  split
  · exact .when (.error (.wait h)) ended
  · exact .check (.ok trivial) ended

protected theorem Ends.exitA {f : FmtR} (h : CanonMem s) : Ends CanonMem (exitA f s) := by
  unfold exitA
  exact .check (.exitCheck h) fun _ => .when (.error (.wait h)) fun _ => .check (.afterAll h) fun _ => .check (.refusedReport h) fun _ =>
      .check (.followReport h) fun _ => .ok (.idleAHart (.exitDecrements h))

protected theorem Ends.exitDocent {f : FmtR} (h : CanonMem s) : Ends CanonMem (exitDocent f s) := by
  unfold exitDocent
  dsimp only
  split
  · exact .error .trap
  · refine .check ?_ fun _ => .check (.afterAll h) fun _ => .check (.refusedReport h) fun _ => .ok
      (.advance (.foldl (fun _ _ => .decrement) h))
    split
    · exact .error .trap
    · exact .ok trivial

protected theorem CanonMem.endBanks {g : Nat} {bs : List Nat} (h : CanonMem s) : CanonMem (endBanks s g bs) := by
  unfold endBanks
  split
  · exact h
  · exact .leaveStep (.whenNot (.modHarts h) fun ht => .modPer (.addEnded ht))

protected theorem Ends.exitRow {f : FmtR} (h : CanonMem s) : Ends CanonMem (exitRow f s) := by
  unfold exitRow
  exact .check .ownFaults fun _ => .check (.forM (fun _ => .exitPoison h)) fun _ => .when (.error (.wait h)) fun _ => .ok
      (.endBanks (.foldl (fun _ _ => .exitDecrements) h))

protected theorem Ends.exitStep {f : FmtR} (h : CanonMem s) : Ends CanonMem (exitStep f s) := by
  unfold exitStep
  refine .ite (.ok (.killCur h)) ?_
  split
  · exact .exitX h
  · exact .exitA h
  · exact .exitDocent h
  · exact .exitRow h

protected theorem Ends.openScope {f : FmtR} (h : CanonMem s) : Ends CanonMem (openScope f s) := by
  unfold openScope
  exact .check (.afterAll h) fun _ => .ite (.check .lift fun _ => .ok (.advance (.modHart (.deviceTouch h))))
      (.check .lift fun _ => .when (.error .trap) fun _ => .check .need fun _ => .check .lift fun _ => .check .need fun _ => .ok
      (.advance (.modHart (.setScopeCount (.setOwned (.writeNat (.deviceTouch (.commit h))))))))

protected theorem Ends.docentScope {f : FmtR} (h : CanonMem s) : Ends CanonMem (docentScope f s) := by
  unfold docentScope
  exact .check .need fun _ => .ok (.advance (.xWrite h))

protected theorem Ends.namedScope {v : Word} : Ends (fun _ => True) (namedScope s v) := by
  unfold namedScope
  exact .check .lift fun _ => .check .need fun _ => .ite (.ok trivial) (.check .need fun _ => .check .lift fun _ => .check .need fun _ =>
      .ok trivial)

protected theorem CanonMem.scopeReads {v : Word} (h : CanonMem s) : CanonMem (scopeReads s v) := by
  unfold scopeReads
  exact .whenNot (.deviceTouch h) .chainTouch

protected theorem Ends.cancelInstr {f : FmtR} (h : CanonMem s) : Ends CanonMem (cancelInstr f s) := by
  unfold cancelInstr
  exact .check (.afterAll h) fun _ => .check .namedScope fun _ => .ok (.advance (.cancelScope (.scopeReads h)))

protected theorem Ends.cwait {f : FmtR} (h : CanonMem s) : Ends CanonMem (cwait f s) := by
  unfold cwait
  exact .check (.killFirst h) fun _ => .check (.afterAll h) fun _ => .check .namedScope fun _ => .ite (.ok (.advance (.scopeReads h)))
      (.error (.wait (.scopeReads h)))

protected theorem Ends.barObject {v : Word} {wr : Bool} : Ends (fun _ => True) (barObject s v wr) := by
  unfold barObject
  exact .check .need fun _ => .check .lift fun _ => .ite (.error .trap) (.ok trivial)

protected theorem Ends.barinit {f : FmtR} (h : CanonMem s) : Ends CanonMem (barinit f s) := by
  unfold barinit
  exact .check .need fun _ => .check .need fun _ => .check (.afterAll h) fun _ => .check .lift fun _ => .check .need fun _ => .ok
      (.advance (.ite (.setOwned (.writeNat (.commit h))) (.setOwned (.writeNat (.commit h)))))

protected theorem Ends.bararr {f : FmtR} (h : CanonMem s) : Ends CanonMem (bararr f s) := by
  unfold bararr
  refine .check (.afterAll h) fun _ => .check .barObject fun _ => .check .need fun _ => ?_
  split
  · exact .error .trap
  · exact .ok (.advance (.modHart (.writeNat (.commit h))))

protected theorem Ends.barwait {f : FmtR} (h : CanonMem s) : Ends CanonMem (barwait f s) := by
  unfold barwait
  exact .check (.killFirst h) fun _ => .check (.afterAll h) fun _ => .check .barObject fun _ => .ite (.ok (.advance (.commit h)))
      (.error (.wait (.commit h)))

protected theorem Ends.yieldStep (h : CanonMem s) : Ends CanonMem (yieldStep s) := by
  unfold yieldStep
  split
  · exact .ite (.ok (.byieldGang h)) (.arriveGang h)
  · exact .ok (.advance h)
  · exact .ok (.modHarts (.advance h))

protected theorem CanonMem.bankWord {f : FmtR} {t : State} {id : Nat} (h : CanonMem t) : CanonMem (bankWord f t id) := by
  unfold bankWord
  split
  · exact h
  · exact .modHart (.progRead (.commitAll h))

protected theorem Ends.getpg {f : FmtR} (h : CanonMem s) : Ends CanonMem (getpg f s) := by
  unfold getpg
  exact .ite (.check .ownFaults fun _ => .ok (.advance (.foldl (fun _ _ => .bankWord) h)))
      (.remote (.check .need fun _ => .check (.afterStream h) fun _ => .check .lift fun _ => .bind (.readValue h) fun _ ht => .ok
      (.advance (.xWrite ht))) h)

protected theorem CanonMem.killPoint {id : Nat} (h : CanonMem s) : CanonMem (killPoint s id) := by
  unfold killPoint
  exact .ite (.setCur (.killCur h)) h

/-! ### Which agent moves (Machine/Turn) -/

protected theorem CanonMem.leavePoint (h : CanonMem s) : CanonMem (leavePoint s) := by
  unfold leavePoint
  exact .ite (.modHarts h) h

protected theorem CanonMem.issue (h : CanonMem s) : CanonMem (issue s).1 := by
  unfold issue
  exact .leavePoint h

protected theorem CanonMem.hartIssue {id : Nat} (h : CanonMem s) : CanonMem (hartIssue s id).1 := by
  unfold hartIssue
  split
  · exact .issue h
  · exact h
  · exact h

protected theorem CanonMem.hartTurn {id : Nat} (h : CanonMem s) : CanonMem (hartTurn s id).1 := by
  unfold hartTurn
  refine .ite_fst (.hartIssue h) ?_
  dsimp only
  split
  · exact .hartIssue h
  · split
    · exact h
    · exact h
    · exact h
    · exact .ite_fst (.ite_fst (.hartIssue h) h) (.ite_fst h (.ite_fst h (.hartIssue h)))

protected theorem CanonMem.pergolaIssue {g : Nat} (h : CanonMem s) : CanonMem (pergolaIssue s g).1 := by
  unfold pergolaIssue
  split
  · exact h
  · exact .ite_fst (.ite_fst h (.issue h)) (.ite_fst h h)

protected theorem CanonMem.pergolaTurn {g : Nat} (h : CanonMem s) : CanonMem (pergolaTurn s g).1 := by
  unfold pergolaTurn
  split
  · exact h
  · split
    · exact .ite_fst (.pergolaIssue h) (.ite_fst h h)
    · split
      · exact h
      · exact .ite_fst h (.pergolaIssue h)
      · exact .ite_fst h h

protected theorem CanonMem.agentMove (h : CanonMem s) : CanonMem (agentMove s).1 := by
  unfold agentMove
  split
  · exact .hartTurn h
  · exact .pergolaTurn h
  · exact h
  · exact h
  · exact h
  · exact h
  · exact h

protected theorem CanonMem.nextMove (h : CanonMem s) : CanonMem (nextMove s).1 := by
  unfold nextMove
  refine .ite_fst h (.ite_fst h ?_)
  split
  · exact h
  · split
    · exact h
    · exact .agentMove h

/-! ### Errors of the device's own parts (Machine/Upsets) -/

protected theorem CanonMem.laneError {g b n seg : Nat} {v : BitVec 512} {check : Bool} (h : CanonMem s) :
    CanonMem (laneError s g b n seg v check) := by
  unfold laneError
  exact .ite h (.ite (.modReg h) (.modReg h))

protected theorem CanonMem.latchError {g b q lane : Nat} {v : BitVec 32} {check : Bool} (h : CanonMem s) :
    CanonMem (latchError s g b q lane v check) := by
  unfold latchError
  exact .ite h (.ite (.modBank h) (.modBank h))

protected theorem CanonMem.storeError {id engine store off : Nat} (h : CanonMem s) : CanonMem (storeError s id engine store off) := by
  unfold storeError
  dsimp only
  split
  · exact h
  · exact .ite h (.unitFault (.logPoison h))

protected theorem CanonMem.cellsError {c : Nat} {lost corrected : BitVec 128} (h : CanonMem s) :
    CanonMem (cellsError s c lost corrected) := by
  unfold cellsError
  exact .ite h h

protected theorem CanonMem.lineError {n : Nat} (h : CanonMem s) : CanonMem (lineError s n) := by
  unfold lineError
  exact .ite h (.logError (.poisonRange h))

protected theorem CanonMem.takeUpset {c : Nat} (h : CanonMem s) : CanonMem (takeUpset s c).2 := h

protected theorem CanonMem.retirePortRow {c : Nat} {found : BitVec 128} (h : CanonMem s) : CanonMem (retirePortRow s c found) := by
  unfold retirePortRow
  exact .ite (.logRow h) (.logRow (.modSag h))

protected theorem CanonMem.portRow {c : Nat} {granules : List Nat} (h : CanonMem s) : CanonMem (portRow s c granules) := by
  unfold portRow
  exact .ite h (.whenNot (.takeUpset h) fun ht => .ite (.when (.foldl (fun _ _ hu => .ite (.poisonRange hu) hu) (.judgeRow ht))
      .retirePortRow) (.when (.ite_fst (.judgeRow ht) (.judgeRow (.takeUpset (.judgeRow ht)))) fun hu => .retirePortRow
      (.foldl (fun _ _ hv => .ite (.poisonRange hv) hv) hu)))

/-! ### Time and inputs (Machine/Moves) -/

protected theorem CanonMem.tick {g : Nat} (h : CanonMem s) : CanonMem (tick s g) := by
  unfold tick
  exact .modPer h

protected theorem CanonMem.debtRises {g : Nat} : ∀ {n : Nat} {s : State}, CanonMem s → CanonMem (debtRises g n s)
  | 0, _, h => h
  | n + 1, s, h => by
    unfold Machine.debtRises
    exact CanonMem.debtRises h.refreshDebtRise

protected theorem CanonMem.timePasses {x : Input} (h : CanonMem s) : CanonMem (timePasses x s) := by
  unfold timePasses
  split
  · exact .modPav h
  · exact .modWing h
  · exact .debtRises (.modPer h)
  · exact .basePasses h
  · exact .ndPasses h
  · exact h

protected theorem CanonMem.takeInput {x : Input} (h : CanonMem s) : CanonMem (takeInput x s) := by
  unfold takeInput
  split
  · exact .mailbox h
  · exact .mbWrite h
  · exact .mbRead h
  · exact .flitPassed h
  · exact .stackFlitPassed h
  · exact .laneError h
  · exact .latchError h
  · exact .storeError h
  · exact .portRow h
  · exact .cellsError h
  · exact .lineError h
  · exact .timePasses h

/-! ## Instructions, moves and steps -/

/-- A result leaves memory canonical, if it is a next state. -/
inductive Result.Canon : Result → Prop
  | next {s : State} (h : CanonMem s) : Result.Canon (.next s)
  | fault {e : Fault} : Result.Canon (.fault e)
  | refused {e : Refusal} : Result.Canon (.refused e)

namespace Result.Canon
theorem of_next {r : Result} {t : State} (hr : Canon r) (e : r = .next t) : CanonMem t := by
  subst e; cases hr; assumption

protected theorem ite {c : Prop} {_ : Decidable c} {x y : Result} (hx : Canon x) (hy : Canon y) : Canon (if c then x else y) :=
  ite_keeps Canon hx hy

protected theorem event {c : Bool} (h : CanonMem s) : Canon (event c s) := .ite (.next h) .fault

protected theorem thenDo {r : Result} {f : State → State} (hr : Canon r) (hf : ∀ t, CanonMem t → CanonMem (f t)) : Canon (thenDo r f) := by
  cases hr with
  | next h => exact .next (hf _ h)
  | fault => exact .fault
  | refused => exact .refused
end Result.Canon

theorem Stop.Canon.of_preCheck {k : HartKind} {i : Instr} {st : Stop} (h : CanonMem s) (e : preCheck k i s = some st) : st.Canon := by
  unfold preCheck at e
  split at e
  · cases e
  split at e
  · cases e; exact .trap
  split at e
  · cases e; exact .trap
  split at e
  · cases e; exact .trap
  split at e
  · cases e; exact .trap
  · split at e
    · cases e; exact .replayStop h
    · cases e

/-- An instruction leaves memory canonical if its own meaning does. -/
protected theorem Result.Canon.perform {i : Instr} {body : State → M State} (h : CanonMem s) (hb : Ends CanonMem (body s)) :
    Result.Canon (perform i s body) := by
  unfold Machine.perform
  split
  · exact .fault
  · split
    next st e => exact .next (.finish h (.error (.of_preCheck h e)))
    next => exact .next (.ite (.finish h (.error (.refdueStop h))) (.finish h (.carryOut h hb)))

protected theorem Result.Canon.registerWrite {hart addr : Nat} {v : Word} (h : CanonMem s) :
    Result.Canon (execRegisterWrite hart addr v s) := by
  unfold execRegisterWrite
  split
  · exact .next (.ite (.csrPut h) h)
  · exact .fault

protected theorem Result.Canon.convoyHeader {f : FmtC} (h : CanonMem s) : Result.Canon (execConvoyHeader f s) :=
  .perform h (.ok (.advanceBy (len := 4) h))

/-- Each instruction's arm: `.perform` and the lemma of its own meaning, `.event` or `.next` and that of the device's step. -/
protected theorem Result.Canon.exec {i : Instr} (h : CanonMem s) : Result.Canon (exec i s) :=
  match i with
  | .add _ | .sub _ | .and _ | .or _ | .xor _ | .andn _ | .shl _ | .shr _ | .sra _ | .ror _ | .min _ | .max _ | .minu _ | .maxu _ | .slt _
   | .sltu _ | .seq _ => .perform h (.scalar2 h)
  | .clz _ | .ctz _ | .popc _ | .sext _ | .zext _ => .perform h (.scalar1 h)
  | .bfx _ => .perform h (.scalar2 h)
  | .bfi _ | .sel _ => .perform h (.scalar3 h)
  | .addi _ | .andi _ | .ori _ | .xori _ => .perform h (.scalarImm h)
  | .shli _ | .shri _ | .srai _ => .perform h (.shiftImm h)
  | .slti _ | .sltui _ | .li _ | .lih _ | .addpc _ => .perform h (.scalarImm h)
  | .mul _ | .mulh _ | .mulhu _ | .div _ | .divu _ | .rem _ | .remu _ => .perform h (.scalar2 h)
  | .madd _ => .perform h (.scalar3 h)
  | .beq _ | .bne _ | .blt _ | .bge _ | .bltu _ | .bgeu _ => .perform h (.branch h)
  | .bf _ | .bnf _ => .perform h (.branchFlag h)
  | .jmp _ => .perform h (.ok (.jumpTo h))
  | .jmpr _ => .perform h (.jumpReg h)
  | .call _ => .perform h (.ok (.jumpTo (.writeLink h)))
  | .callr _ => .perform h (.callReg h)
  | .ret _ => .perform h (.jumpReg h)
  | .jtab _ => .perform h (.jumpTable h)
  | .fjmp _ => .perform h (.check (.fenced h) fun _ => .jumpReg h)
  | .fcall _ => .perform h (.check (.fenced h) fun _ => .callReg h)
  | .loop _ | .loopi _ => .perform h (.loopPush h)
  | .lbrk _ => .perform h (.loopBreak h)
  | .lidx _ => .perform h (.loopIndex h)
  | .fork _ => .perform h (.fork h)
  | .join _ => .perform h (.join h)
  | .qpush _ => .perform h (.qpush h)
  | .qpop _ => .perform h (.qpop h)
  | .bqpush _ => .perform h (.bqpush h)
  | .bqbr _ => .perform h (.bqbr h)
  | .monitor _ => .perform h (.monitor h)
  | .mwait _ => .perform h (.mwait h)
  | .ld _ => .perform h (.load h)
  | .st _ => .perform h (.store h)
  | .ldacq _ => .perform h (.load h)
  | .strel _ => .perform h (.store h)
  | .ldnt _ => .perform h (.load h)
  | .amoadd _ | .amoand _ | .amoor _ | .amoxor _ | .amomin _ | .amomax _ | .amoswp _ | .amocas _ | .amofadd _ | .amoinc _ =>
    .perform h (.atomic h)
  | .fence _ => .perform h (.fence h)
  | .sbar _ => .perform h (.sbar h)
  | .waitv _ => .perform h (.waitv h)
  | .act _ => .perform h (.act h)
  | .pre _ => .perform h (.pre h)
  | .wb _ | .wbpre _ => .perform h (.writeBack h)
  | .ref _ => .perform h (.ref h)
  | .refq _ => .perform h (.ok (.advance (.foldl (fun _ _ ht => .modHart ht) h)))
  | .rcopy _ => .perform h (.rcopy h)
  | .radd _ | .rsub _ | .rmul _ | .rfma _ | .rmin _ | .rmax _ | .rand _ | .rbor _ | .rxor _ | .rshr _ => .perform h (.rowElementwise h)
  | .rcmp _ => .perform h (.rcmp h)
  | .rsel _ => .perform h (.rsel h)
  | .rcvt _ => .perform h (.rcvt h)
  | .rscl _ => .perform h (.rowElementwise h)
  | .ldlut _ => .perform h (.ldlut h)
  | .lutdot _ => .perform h (.lutdot h)
  | .ldsc _ => .perform h (.ldsc h)
  | .rdot _ => .perform h (.rdot h)
  | .rsum _ => .perform h (.rsum h)
  | .qclr _ => .perform h (.qclr h)
  | .qst _ => .perform h (.qst h)
  | .rtopk _ => .perform h (.rtopk h)
  | .shfl _ => .perform h (.shfl h)
  | .shrx _ => .perform h (.shrx h)
  | .rcast _ => .perform h (.rcast h)
  | .rout _ => .perform h (.rout h)
  | .rred _ => .perform h (.rred h)
  | .gang _ => .perform h (.ite (.ok (.advance h)) (.arriveGang h))
  | .split _ => .perform h (.ok (.ite (.splitGang h) (.advance h)))
  | .bmask _ => .perform h (.bmask h)
  | .byield _ => .perform h (.ite (.ok (.byieldGang h)) (.arriveGang h))
  | .lease _ => .perform h (.ok (.advance (.foldl (fun _ _ ht => .modHart ht) h)))
  | .rgete _ => .perform h (.rgete h)
  | .rsete _ => .perform h (.rsete h)
  | .vadd _ | .vsub _ | .vmul _ | .vfma _ | .vmin _ | .vmax _ | .vand _ | .vor _ | .vxor _ | .vshl _ | .vshr _ | .vsra _ =>
    .perform h (.vElementwise h)
  | .vcvt _ => .perform h (.vcvt h)
  | .vabs _ | .vneg _ | .vexp2 _ | .vrcp _ | .vrsqrt _ | .vdiv _ | .vsqrt _ => .perform h (.vElementwise h)
  | .vcmp _ => .perform h (.vcmp h)
  | .vmerge _ => .perform h (.vmerge h)
  | .vpopc _ | .vfirst _ => .perform h (.vcount h)
  | .vcompress _ => .perform h (.vcompress h)
  | .vgather _ => .perform h (.vgather h)
  | .vslide _ => .perform h (.vslide h)
  | .vred _ => .perform h (.vred h)
  | .vtopk _ => .perform h (.vtopk h)
  | .viota _ => .perform h (.viota h)
  | .vbcast _ => .perform h (.vbcast h)
  | .vext _ => .perform h (.vext h)
  | .vld _ => .perform h (.vUnitStride h)
  | .vlds _ => .perform h (.vStrided h)
  | .vldx _ => .perform h (.vIndexed h)
  | .vst _ => .perform h (.vUnitStride h)
  | .vsts _ => .perform h (.vStrided h)
  | .vstx _ => .perform h (.vIndexed h)
  | .vldsc _ => .perform h (.vScales h)
  | .vsetvl _ => .perform h (.vsetvl h)
  | .vsettype _ => .perform h (.vsettype h)
  | .vrdhw _ => .perform h (.ok (.advance (.xWrite h)))
  | .vallot _ => .perform h (.vallot h)
  | .mma _ | .mmas _ => .perform h (.product h)
  | .mzero _ => .perform h (.mzero h)
  | .mld _ | .mst _ => .perform h (.slotMove h)
  | .mpin _ => .perform h (.mpin h)
  | .munpin _ => .perform h (.munpin h)
  | .mdelta _ => .perform h (.mdelta h)
  | .mread _ => .perform h (.mread h)
  | .mxfl _ => .perform h (.mxfl h)
  | .mfind _ => .perform h (.mfind h)
  | .cpy _ | .cpyw _ => .perform h (.copy h)
  | .tfetch _ => .perform h (.tfetch h)
  | .tfrel _ => .perform h (.tfrel h)
  | .prefb _ => .perform h (.prefb h)
  | .tiermv _ => .perform h (.tiermv h)
  | .shadow _ => .perform h (.shadow h)
  | .publish _ => .perform h (.publish h)
  | .tokwait _ => .perform h (.tokwait h)
  | .catalloc _ => .perform h (.catalloc h)
  | .catmap _ => .perform h (.catmap h)
  | .catshare _ => .perform h (.catshare h)
  | .catfree _ => .perform h (.catfree h)
  | .exit _ => .perform h (.exitStep h)
  | .scope _ => .perform h (.ite (.docentScope h) (.openScope h))
  | .cancel _ => .perform h (.cancelInstr h)
  | .cwait _ => .perform h (.cwait h)
  | .barinit _ => .perform h (.barinit h)
  | .bararr _ => .perform h (.bararr h)
  | .barwait _ => .perform h (.barwait h)
  | .yield _ => .perform h (.yieldStep h)
  | .getpg _ => .perform h (.getpg h)
  | .csrr _ => .perform h (.csrr h)
  | .csrw _ => .perform h (.csrw h)
  | .trap _ | .brk _ => .perform h (.softTrap h)
  | .rft _ => .perform h (.rft h)
  | .cfetch _ => .perform h (.cfetch h)
  | .cseg _ => .perform h (.cseg h)
  | .ifence _ => .perform h (.ifence h)
  | .setaside _ => .perform h (.setaside h)
  | .rowwd _ => .perform h (.rowwd h)
  | .nop _ => .perform h (.ok (.advance h))
  | .convoyHeader _ => .convoyHeader h
  | .aHartStart _ => .event (.aStart h)
  | .joinRendezvous _ => .event (.joinMeet h)
  | .mwaitTimeout _ => .event (.endMwait h)
  | .monitorLost _ => .event (.endMwait (.modHart h))
  | .waitvSatisfied _ => .event (.endWaitv h)
  | .gangRendezvous _ => .event (.gangMeet h)
  | .vectorComplete _ _ => .event (.ite (.vectorComplete h) h)
  | .replayUnitRoom _ => .event (.unitRoom h)
  | .matrixComplete _ _ => .event (.ite (.matrixComplete h) h)
  | .ownershipMissService _ _ _ => .event (.ite (.missService h) h)
  | .publishSwap _ _ => .event (.publishSwap h)
  | .engineCommandComplete _ _ => .event (.engineComplete h)
  | .followOnIssue _ _ => .event (.followIssue h)
  | .killPointStop _ => .event (.killPoint h)
  | .overlayBlockLand _ _ => .event (.landBlock h)
  | .tlbinvVa _ _ | .tlbinvContext _ | .tlbinvAll => .next (.ite h (.tlbDrop h))
  | .govstatDroopClear _ => .event (.droopClear h)
  | .rcountDiscard _ => .event (.discardReplay h)
  | .registerWrite _ _ _ => .registerWrite h
  | .contextEntryInvalidate _ => .event (.ctxInvalidate h)
  | .lateFault _ _ _ => .event (.lateFault h)
  | .unitStop _ => .event (by split; exacts [.stopCore h, .stopPergola h])
  | .haltComplete _ => .event (.haltComplete h)
  | .haltctlHalt _ => .event (.haltctlHalt h)
  | .haltctlResume _ => .event (.haltctlResume h)
  | .haltctlKill _ => .event (.haltctlKill h)
  | .coreFreeSelect _ => .event (.selectCore h)
  | .rowStepDispatch _ => .event (.selectRow h)
  | .stepStart _ => .event (.stepStart h)
  | .preemptionSave _ => .event (.suspend h)
  | .intakeTake _ => .event (.intakeTake h)
  | .docctlRestart _ => .event (.docctlRestart h)
  | .rowOpen _ _ _ => .event (.rowOpen h)
  | .rowRestored _ _ _ => .event (.rowRestored h)
  | .writebackEnd _ _ _ => .event (.writebackEnd h)
  | .refreshEnd _ _ _ => .event (.refreshEnd h)
  | .rowWriterComplete _ _ _ => .event (.rowWriterComplete h)
  | .refreshDebtRise _ => .event (.refreshDebtRise h)
  | .refdue _ _ => .event (.refdue h)
  | .forcedRefresh _ _ _ => .event (.forcedRefresh h)
  | .forcedRefreshDone _ _ _ => .event (.forcedRefreshDone h)
  | .leaseRemainExpiry _ => .event (.remainExpiry h)
  | .watchdogExpiry _ => .event (.watchdogExpiry h)
  | .vectorLineFetch _ _ => .event h
  | .governorSample _ _ _ _ _ => .next (.governorSample h)
  | .governorStepDelivery => .next (.stepDelivery h)
  | .droopStretch _ => .event (.droopStretch h)
  | .powerEmergency => .next (.powerEmergency h)
  | .clockGating => .next (.clockGating h)
  | .regchain _ _ => .next (.regchain h)
  | .dropchain _ => .next (.dropchain h)
  | .setshare _ _ => .next (.setshare h)
  | .ackhalt => .next (.ackhalt h)
  | .readstart _ => .next (.readstart h)
  | .regwrite _ _ => .next (.regwrite h)
  | .regread _ => .next (.regread h)
  | .hostMemWrite _ _ _ => .next (.hostMemWrite h)
  | .hostMemRead _ _ => .next (.hostMemRead h)
  | .spdmRequest _ => .next (.spdm h)
  | .remoteRead _ _ _ => .event (.remoteRead h)
  | .remoteWrite _ _ _ => .event (.remoteWrite h)
  | .remoteAtomic _ _ _ _ _ _ | .reductionPacket _ _ _ _ _ => .event (.remoteAtomic h)
  | .remoteCopy _ _ _ => .event (.remoteWrite h)
  | .remoteAcknowledgement _ _ _ => .next (.acknowledged h)
  | .refusalReturn _ _ => .next (.refusalReturn h)
  | .linkerrClear _ => .event (.linkerrClear h)
  | .flitCrcReplay _ => .event (.flitReplay h)
  | .retrainEnd _ _ => .event (.retrainEnd h)
  | .stackPortReplay _ _ => .event (.stackPortReplay h)
  | .realignmentRequest _ => .event (.realignmentRequest h)
  | .realignmentDeferralExpiry _ => .event (.deferralEnds h)
  | .realignmentEnd _ _ => .event (.realignmentEnd h)
  | .bundlestatAck => .next (.bundleAck h)
  | .restripeComplete => .next (.restripeComplete h)
  | .powerUp => .next .powerUp
  | .prechargeEnd _ _ _ => .event (.prechargeEnd h)
  | .activationWindowExpiry _ => .event (.activationWindowExpiry h)
  | .shrxDelivery _ _ => .event (.shrxDeliver h)
  | .copyGroupArrival _ _ => .event (.groupArrival h)
  | .illegalEncoding _ | .absentBlockFetch _ => .event (.finish h (.error .trap))
  | .cxlCacheSnoop _ _ => .next (.cacheSnoop h)

namespace Result.Canon

protected theorem issued {r : Result} (hr : Canon r) : Canon (issued s r) := by
  unfold Machine.issued
  split
  · exact .thenDo hr fun _ ht => .tick ht
  · exact hr

protected theorem issueX {k : Nat} {i : Instr} (h : CanonMem s) : Canon (issueX k i s) :=
  .ite (.ite (.next (.queueUp h)) (.thenDo (.exec h) fun _ ht => .ite (.queueUp h) ht))
    (.ite (.exec h) (.ite (.next (.held h)) (.thenDo (.exec h) fun _ ht => .ite ht (.runAhead h ht))))

protected theorem runIssue {m : Move} (h : CanonMem s) : Canon (runIssue m s) := by
  unfold Machine.runIssue
  split
  · exact .issueX h
  · exact .exec h
  next w => exact .ite (.next (.held h)) (.exec (i := .illegalEncoding w) h)
  next off => exact .ite (.next (.held h)) (.exec (i := .absentBlockFetch off) h)
  · exact .next h

protected theorem runHead {k : Nat} (h : CanonMem s) : Canon (runHead k s) := by
  unfold Machine.runHead
  split
  · exact .next h
  next q _ _ =>
    have tried : Canon (exec q.instr (headState s k)) := .exec (.headState h)
    dsimp only
    split
    next t e =>
      exact .ite (.next h) (.ite (.next (.mergeHead (tried.of_next e)))
        (.thenDo (.exec (.setCurWaited (.rewindQueue h))) fun _ ht => .setCurWaited ht))
    next => exact tried

protected theorem drainQueue {k : Nat} : ∀ {fuel : Nat} {s : State}, CanonMem s → Canon (drainQueue k fuel s)
  | 0, _, h => .next h
  | fuel + 1, s, h => by
    unfold Machine.drainQueue
    split
    next t e => exact .ite (.next h) (.drainQueue ((Result.Canon.runHead h).of_next e))
    next => exact .runHead h

protected theorem runStop {u : UnitRef} (h : CanonMem s) : Canon (runStop u s) := by
  unfold Machine.runStop
  split
  next k =>
    split
    next t e => exact .exec (i := .unitStop (.core k)) ((Result.Canon.drainQueue h).of_next e)
    next => exact .drainQueue h
  next g => exact .exec (i := .unitStop (.pergola g)) h

protected theorem splitIssue {g : Nat} : ∀ {bs : List Nat} {s : State}, CanonMem s → Canon (splitIssue g bs s)
  | [], _, h => .next h
  | b :: bs, s, h => by
    have issued : Canon (runIssue (issueMove (leavePoint { s with cur := .bank g b, waited := false }))
        (leavePoint { s with cur := .bank g b, waited := false })) := .runIssue (.leavePoint (.setCurWaited h))
    unfold Machine.splitIssue
    refine .ite (.splitIssue h) ?_
    dsimp only
    split
    next u e =>
      have hu : CanonMem u := issued.of_next e
      exact .ite (.splitIssue hu) (.next (.modPer hu))
    next => exact issued

protected theorem splitTurn {g : Nat} (h : CanonMem s) : Canon (splitTurn g s) :=
  .thenDo (.splitIssue h) fun _ ht => .tick (.setCur ht)

protected theorem runRow {g b n : Nat} {e : RowEvent} (h : CanonMem s) : Canon (runRow g b n e s) :=
  match e with
  | .opens => .exec (i := .rowOpen g b n) h
  | .restores => .exec (i := .rowRestored g b n) h
  | .writes => .exec (i := .rowWriterComplete g b n) h
  | .writeback => .exec (i := .writebackEnd g b n) h
  | .precharged => .exec (i := .prechargeEnd g b n) h
  | .refreshed => .exec (i := .refreshEnd g b n) h
  | .forced => .exec (i := .forcedRefresh g b n) h
  | .forcedDone => .exec (i := .forcedRefreshDone g b n) h

protected theorem runMove {m : Move} (h : CanonMem s) : Canon (runMove m s) :=
  match m with
  | .none => .next h
  | .instr _ | .illegal _ | .absent _ => .issued (.runIssue h)
  | .split _ => .splitTurn h
  | .tick _ => .next (.tick h)
  | .outside _ => .exec h
  | .command => .next (.mailbox h)
  | .input _ => .next (.takeInput h)
  | .powerUp => .exec (i := .powerUp) h
  | .start u => .exec (i := .stepStart u) h
  | .stop _ => .runStop h
  | .halted c => .exec (i := .haltComplete c.toNat) h
  | .killed _ => .next (.killDone h)
  | .kill id => .exec (i := .killPointStop id) h
  | .preempt k => .exec (i := .preemptionSave k) h
  | .join k => .exec (i := .joinRendezvous k) h
  | .gangMeet g => .exec (i := .gangRendezvous g) h
  | .select k => .exec (i := .coreFreeSelect k) h
  | .request _ => .next (.walkerRequests h)
  | .selectRow g => .exec (i := .rowStepDispatch g) h
  | .intake c => .exec (i := .intakeTake c) h
  | .land n b => .exec (i := .overlayBlockLand n b) h
  | .queueHead _ => .runHead h
  | .vectorDone k n => .exec (i := .vectorComplete k n) h
  | .matrixDone k n => .exec (i := .matrixComplete k n) h
  | .unitRoom id => .exec (i := .replayUnitRoom id) h
  | .group k n => .exec (i := .copyGroupArrival k n) h
  | .follow k n => .exec (i := .followOnIssue k n) h
  | .commandDone k n => .exec (i := .engineCommandComplete k n) h
  | .row _ _ _ _ => .runRow h
  | .window l => .exec (i := .activationWindowExpiry l) h
  | .realign l => .exec (i := .realignmentDeferralExpiry l) h
  | .remain g => .exec (i := .leaseRemainExpiry g) h
  | .watchdog g => .exec (i := .watchdogExpiry g) h
  | .shrx g b => .exec (i := .shrxDelivery g b) h

protected theorem step (h : CanonMem s) : Canon (step s) := .runMove (.nextMove h)

end Result.Canon

/-- Settles O59: whatever the move, it is composed of functions that each keep memory canonical (`Result.Canon.runMove`). -/
theorem memoryStaysCanonical : Obligations.MemoryStaysCanonical := by
  unfold Obligations.MemoryStaysCanonical
  intro s t h e
  exact (Result.Canon.step h).of_next e

end

end Sys2Proof.Machine
end

section
/-! ## Rules for steps of the whole device

What a read of a table, of memory or of a unit gives after the operations that the device's own steps are made of: maps and folds over
tables, writes that meet no image in use, poisoned ranges, the halt line, events on units that exist. -/
namespace Sys2Proof.Machine

/-! ### Tables and folds -/

/-- A read after a function of every entry that keeps the default. -/
theorem Tbl.get_map {α : Type} {d : α} {f : α → α} (hf : f d = d) (j : Nat) :
    ∀ t : Tbl α, Tbl.get d (t.map fun p => (p.1, f p.2)) j = f (Tbl.get d t j)
  | [] => hf.symm
  | (k, v) :: t => by
    simp only [List.map_cons, Tbl.get, Tbl.get_map hf j t]
    split <;> rfl

/-- A key that does not read as the default is listed. -/
theorem Tbl.mem_of_get_ne {α : Type} {d : α} {j : Nat} : ∀ {t : Tbl α}, Tbl.get d t j ≠ d → (j, Tbl.get d t j) ∈ t
  | [], h => absurd rfl h
  | (k, v) :: t, h => by
    by_cases hj : j = k
    · subst hj; simp [Tbl.get]
    · simp only [Tbl.get, hj, if_false] at h ⊢
      exact List.mem_cons_of_mem _ (Tbl.mem_of_get_ne h)

theorem Tbl.mem_ins_self {α : Type} (i : Nat) (v : α) : ∀ t : Tbl α, (i, v) ∈ Tbl.ins i v t
  | [] => by simp [Tbl.ins]
  | (k, w) :: t => by
    unfold Tbl.ins
    split
    · simp
    · exact List.mem_cons_of_mem _ (Tbl.mem_ins_self i v t)

theorem Tbl.mem_ins_of_mem {α : Type} {i : Nat} {v : α} {p : Nat × α} : ∀ {t : Tbl α}, p ∈ t → p ∈ Tbl.ins i v t
  | (k, w) :: t, h => by
    unfold Tbl.ins
    split
    · exact List.mem_cons_of_mem _ h
    · rcases List.mem_cons.1 h with rfl | h
      · simp
      · exact List.mem_cons_of_mem _ (Tbl.mem_ins_of_mem h)

/-- What each step of a fold leaves as it was, the fold leaves as it was. -/
theorem foldl_unchanged {α σ β : Type} (g : σ → β) {f : σ → α → σ} (hf : ∀ t a, g (f t a) = g t) (l : List α) (t : σ) :
    g (l.foldl f t) = g t :=
  foldl_keeps (fun u => g u = g t) f (fun u a h => (hf u a).trans h) l t rfl

/-- A list with repetitions left out has the same members. -/
theorem mem_foldl_distinct {n : Nat} : ∀ {l m : List Nat},
    n ∈ l.foldl (fun m c => if m.contains c then m else m ++ [c]) m ↔ n ∈ m ∨ n ∈ l
  | [], m => by simp
  | c :: l, m => by
    rw [List.foldl_cons, mem_foldl_distinct]
    by_cases h : m.contains c
    · rw [if_pos h]
      have hc : c ∈ m := by simpa using h
      have hn : n = c → n ∈ m := by rintro rfl; exact hc
      rw [List.mem_cons]; tauto
    · rw [if_neg h]
      simp only [List.mem_append, List.mem_cons, List.not_mem_nil, or_false]; tauto

/-- A change of each of the first `n` Pavilions. -/
theorem pavOf_foldl_modPav (f : Pavilion → Pavilion) (s : State) : ∀ n j : Nat,
    pavOf ((List.range n).foldl (fun t p => modPav t p f) s) j = if j < n then f (pavOf s j) else pavOf s j
  | 0, _ => rfl
  | n + 1, j => by
    have ih := pavOf_foldl_modPav f s n
    rw [List.range_succ, List.foldl_append, List.foldl_cons, List.foldl_nil, pavOf_modPav, ih, ih]
    by_cases hj : j = n
    · subst hj; simp
    · rw [if_neg hj]; simp only [show j < n + 1 ↔ j < n by omega]

/-! ### Events and frames -/

/-- An event on a unit that exists is performed. -/
theorem event_of_exists {ok : Bool} (h : ok = true) (t : State) : event ok t = .next t := by rw [event, if_pos h]

/-- An event that its function answers with the state as it was. -/
theorem event_of_stays {ok : Bool} (h : ok = true) {s t : State} (e : t = s) : event ok t = .next s := by rw [event_of_exists h, e]

@[simp] theorem SameRegisters.refl (s : State) : SameRegisters s s := fun _ _ => rfl

theorem SameRegisters.of_harts {s t : State} (h : t.harts = s.harts) : SameRegisters s t := fun id n => by simp [hartOf, h]

theorem SameRegisters.of_x {s t : State} (h : ∀ id, (hartOf t id).x = (hartOf s id).x) : SameRegisters s t := fun id n => by
  simp [Hart.get, h id]

theorem SameRegisters.trans {s t u : State} (h : SameRegisters s t) (h' : SameRegisters t u) : SameRegisters s u := fun id n =>
  (h' id n).trans (h id n)

/-- A change of one hart that leaves its registers. -/
theorem SameRegisters.modHart {s : State} {id : Nat} {f : Hart → Hart} (hf : ∀ h, (f h).x = h.x) : SameRegisters s (modHart s id f) :=
  .of_x fun j => by
    rw [hartOf_modHart]
    split
    · next h => rw [h, hf]
    · rfl

/-! ### Writes that meet no image in use (R102, R225) -/

/-- A write changes of a hart only its monitor. -/
theorem hartOf_writeBytes (s : State) (pa : Nat) (l : List Byte) (id : Nat) :
    hartOf (writeBytes s pa l) id = (hartOf s id).written pa l.length :=
  Tbl.get_map (f := fun h : Hart => h.written pa l.length) rfl id s.harts

theorem writeBytes_sameRegisters (s : State) (pa : Nat) (l : List Byte) : SameRegisters s (writeBytes s pa l) :=
  .of_x fun id => by rw [hartOf_writeBytes]; rfl

/-- Beside the count of free values, only the vector registers whose image a write meets change with it (R102). -/
theorem spoilImages_unchanged {β : Type} (g : State → β) (hf : ∀ t n, g { t with freeCount := n } = g t)
    (hc : ∀ t k f, g (modCore t k f) = g t) (s : State) (pa n : Nat) : g (spoilImages s pa n) = g s := by
  unfold spoilImages
  refine foldl_unchanged g (fun t k => ?_) _ _
  refine ite_keeps (fun u => g u = g t) (foldl_unchanged g (fun u r => ?_) _ _) rfl
  exact (hc _ _ _).trans (hf u _)

@[simp] theorem spoilImages_harts (s : State) (pa n : Nat) : (spoilImages s pa n).harts = s.harts :=
  spoilImages_unchanged State.harts (fun _ _ => rfl) (fun _ _ _ => rfl) s pa n

@[simp] theorem spoilImages_poison (s : State) (pa n : Nat) : (spoilImages s pa n).poison = s.poison :=
  spoilImages_unchanged State.poison (fun _ _ => rfl) (fun _ _ _ => rfl) s pa n

@[simp] theorem spoilImages_stackReplays (s : State) (pa n : Nat) : (spoilImages s pa n).stackReplays = s.stackReplays :=
  spoilImages_unchanged State.stackReplays (fun _ _ => rfl) (fun _ _ _ => rfl) s pa n

/-- A range that meets no frame in use and no spill record meets nothing that a write would spoil. -/
theorem landsPlain_of_unused {s : State} {pa n : Nat} (hf : ((framesInUse s).any fun f => overlaps pa n f.1 f.2) = false)
    (hr : recordsHit s pa n = []) : landsPlain s pa n := by
  refine ⟨fun u hu => ?_, hr⟩
  rw [List.any_eq_false] at hf
  refine Bool.eq_false_iff.2 (hf (u.1, u.2.2) ?_)
  exact List.mem_append_right _ (List.mem_map_of_mem (f := fun f : Nat × Nat × Nat => (f.1, f.2.2)) hu)

/-- A program's write that meets no saved frame and no spill area is the write of its bytes, but for registers whose image it meets. -/
theorem memWrite_of_landsPlain {s : State} {pa : Nat} {l : List Byte} (h : landsPlain s pa l.length) :
    memWrite s pa l = spoilImages (writeBytes s pa l) pa l.length := by
  obtain ⟨hframes, hrecords⟩ := h
  have hnone : (savedFrames s).filter (fun f => overlaps pa l.length f.1 f.2.2) = [] :=
    List.filter_eq_nil_iff.2 fun u hu => by simp [hframes u hu]
  unfold memWrite
  simp only [hnone, hrecords, List.foldl_nil]

theorem memWrite_mem {s : State} {pa : Nat} {l : List Byte} (h : landsPlain s pa l.length) : (memWrite s pa l).mem = (writeBytes s pa l).mem := by
  rw [memWrite_of_landsPlain h, spoilImages_mem]

/-- The bytes written read back. -/
theorem readBytes_memWrite {s : State} {pa : Nat} {l : List Byte} (h : landsPlain s pa l.length) :
    readBytes (memWrite s pa l) pa l.length = l := by
  have e := readBytes_writeBytes_same s pa l
  unfold readBytes at e ⊢
  rwa [memWrite_mem h]

/-- No byte outside the range written changes. -/
theorem memWrite_onlyBytes {s : State} {pa : Nat} {l : List Byte} (h : landsPlain s pa l.length) :
    OnlyBytes s (memWrite s pa l) [] pa l.length := fun a ha _ => by
  have e := readByte_writeBytes_outside s ha
  unfold readByte at e ⊢
  rwa [memWrite_mem h]

theorem memWrite_sameRegisters {s : State} {pa : Nat} {l : List Byte} (h : landsPlain s pa l.length) : SameRegisters s (memWrite s pa l) := by
  rw [memWrite_of_landsPlain h]
  exact (writeBytes_sameRegisters s pa l).trans (.of_harts (spoilImages_harts ..))

/-- A program's read that meets no frame in use and no spill area brings the bytes there and changes nothing. -/
theorem memRead_of_unused {s : State} {pa n : Nat} (hf : ((framesInUse s).any fun f => overlaps pa n f.1 f.2) = false)
    (hr : recordsHit s pa n = []) : memRead s pa n = (readBytes s pa n, s) := by
  unfold memRead
  rw [if_neg (by simp [hf, hr])]

/-! ### Poisoned ranges (R473) -/

/-- A granule once set poisoned stays so while further granules are poisoned. -/
theorem mem_poison_foldl {g : Nat} {i : Nat} : ∀ {l : List Nat} {t : Tbl Bool}, ((i, true) ∈ t ∨ i ∈ l.map (g + ·)) →
    (i, true) ∈ l.foldl (fun t k => t.set false (g + k) true) t
  | [], t, h => by simpa using h
  | k :: l, t, h => by
    rw [List.foldl_cons]
    refine mem_poison_foldl ?_
    have hset : t.set false (g + k) true = Tbl.ins (g + k) true (t.del (g + k)) := rfl
    rw [hset]
    by_cases hk : i = g + k
    · exact .inl (hk ▸ Tbl.mem_ins_self ..)
    · rcases h with h | h
      · exact .inl (Tbl.mem_ins_of_mem (Tbl.del_mem.2 ⟨h, hk⟩))
      · rw [List.map_cons, List.mem_cons] at h
        exact .inr (h.resolve_left hk)

/-- A range just poisoned holds poison. -/
theorem firstPoison_setPoison (s : State) {pa n : Nat} (hn : 0 < n) : (firstPoison (setPoison s pa n true) pa n).isSome = true := by
  have hmem : (pa / 64, true) ∈ (setPoison s pa n true).poison :=
    mem_poison_foldl (.inr (List.mem_map.2 ⟨0, by rw [List.mem_range]; omega, by simp⟩))
  unfold firstPoison
  rw [Option.isSome_map, List.find?_isSome]
  refine ⟨_, hmem, ?_⟩
  simp only [Bool.true_and, Bool.and_eq_true, decide_eq_true_eq]
  omega

theorem firstPoison_poisonRange (s : State) {pa n : Nat} (hn : 0 < n) : (firstPoison (poisonRange s pa n) pa n).isSome = true := by
  have h := firstPoison_setPoison (freeInto s pa n) (pa := pa) hn
  unfold firstPoison at h ⊢
  rwa [poisonRange, spoilImages_poison]

@[simp] theorem poisonRange_stackReplays (s : State) (pa n : Nat) : (poisonRange s pa n).stackReplays = s.stackReplays := by
  rw [poisonRange, spoilImages_stackReplays]; rfl

end Sys2Proof.Machine
end

section
/-! ## The governor, the halt of every partition and the clocks (R22 to R28, R408) -/
namespace Sys2Proof.Machine

/-! ### Power emergencies (R28) -/

/-- The halt line of a context halts it when it runs, and changes nothing of another. -/
theorem haltOf_assertHalt (s : State) (c d : BitVec 16) (origin : BitVec 16) (cause : BitVec 8) (engine : BitVec 3) (pwr : Bool) :
    haltOf (assertHalt s c origin cause engine pwr) d =
      if d = c ∧ (haltOf s c).st = .running then
        { haltOf s c with st := .halting, seq := (haltOf s c).seq + 1, origin := origin, cause := cause, engine := engine, pwr := pwr,
                          rowstop := 0, cstop := 0 }
      else haltOf s d := by
  unfold assertHalt
  rw [haltOf_modHalt]
  by_cases hd : d = c
  · subst hd; simp
  · simp [hd]

/-- A context that a power emergency halts. -/
def HaltedByPower (h : HaltStat) : Prop := h.st = .halting ∧ h.pwr = true

/-- Halt lines asserted one after the other halt each running context that is among theirs, and a context once halted stays so. -/
theorem assertHalts_haltedByPower (c : BitVec 16) : ∀ (l : List Nat) (s : State),
    HaltedByPower (haltOf s c) ∨ (∃ n ∈ l, c = BitVec.ofNat 16 n) ∧ (haltOf s c).st = .running →
    HaltedByPower (haltOf (l.foldl (fun t n => assertHalt t (BitVec.ofNat 16 n) 0xFFFF Cause.halted 7 true) s) c)
  | [], _, h => by
    rcases h with h | ⟨⟨n, hn, _⟩, _⟩
    · exact h
    · exact absurd hn List.not_mem_nil
  | n :: l, s, h => by
    refine assertHalts_haltedByPower c l _ ?_
    rw [haltOf_assertHalt]
    rcases h with h | ⟨⟨m, hm, hc⟩, hrun⟩
    · refine .inl ?_
      rw [if_neg]
      · exact h
      · rintro ⟨rfl, hrun⟩
        exact absurd (h.1.symm.trans hrun) (by decide)
    · by_cases hcn : c = BitVec.ofNat 16 n
      · refine .inl ?_
        rw [if_pos ⟨hcn, hcn ▸ hrun⟩]
        exact ⟨rfl, rfl⟩
      · have hml : m ∈ l := (List.mem_cons.1 hm).resolve_left fun e => hcn (e ▸ hc)
        rw [if_neg fun e => hcn e.1]
        exact .inr ⟨⟨m, hml, hc⟩, hrun⟩

theorem mem_partitions_of_entry {s : State} {e : Nat × CtxEntry} (he : e ∈ s.contexts) (hv : e.2.v = true) : e.1 ∈ partitions s := by
  unfold partitions
  refine mem_foldl_distinct.2 (.inr (List.mem_append_left _ ?_))
  exact List.mem_map_of_mem (f := Prod.fst) (List.mem_filter.2 ⟨he, hv⟩)

theorem mem_partitions_of_step {s : State} {k : Nat} {i : StepInfo} (h : (coreOf s k).step = some i) : i.context.toNat ∈ partitions s := by
  have hk : (k, coreOf s k) ∈ s.cores := Tbl.mem_of_get_ne (d := ({} : Core)) fun e => by
    rw [coreOf, e] at h; cases h
  unfold partitions
  refine mem_foldl_distinct.2 (.inr (List.mem_append_right _ (List.mem_map_of_mem (f := fun i : StepInfo => i.context.toNat) ?_)))
  refine List.mem_append_left _ (List.mem_flatten.2 ⟨_, List.mem_map_of_mem hk, ?_⟩)
  simp [h]

/-- A power emergency changes nothing but the halt lines and the Ndetrief's mark. -/
theorem powerEmergency_unchanged {β : Type} (g : State → β) (hg : ∀ t c f, g (modHalt t c f) = g t) (s : State) :
    g (powerEmergency s) = g { s with nd := { s.nd with emergency := true } } :=
  foldl_unchanged g (fun t _ => hg t _ _) _ _

@[simp] theorem powerEmergency_nd (s : State) : (powerEmergency s).nd = { s.nd with emergency := true } :=
  powerEmergency_unchanged State.nd (fun _ _ _ => rfl) s

@[simp] theorem powerEmergency_mem (s : State) : (powerEmergency s).mem = s.mem := powerEmergency_unchanged State.mem (fun _ _ _ => rfl) s

@[simp] theorem powerEmergency_harts (s : State) : (powerEmergency s).harts = s.harts := powerEmergency_unchanged State.harts (fun _ _ _ => rfl) s

/-- Every running partition is halted. -/
theorem powerEmergency_halts {s : State} {c : BitVec 16}
    (hc : (∃ e ∈ s.contexts, e.2.v = true ∧ c = BitVec.ofNat 16 e.1) ∨ (∃ k i, (coreOf s k).step = some i ∧ i.context = c))
    (hrun : (haltOf s c).st = .running) : HaltedByPower (haltOf (powerEmergency s) c) := by
  have hmem : ∃ n ∈ partitions s, c = BitVec.ofNat 16 n := by
    rcases hc with ⟨e, he, hv, rfl⟩ | ⟨k, i, hi, rfl⟩
    · exact ⟨e.1, mem_partitions_of_entry he hv, rfl⟩
    · exact ⟨i.context.toNat, mem_partitions_of_step hi, by simp⟩
  exact assertHalts_haltedByPower c (partitions s) _ (.inr ⟨hmem, hrun⟩)

/-! ### Samples (R23, R24, R408) -/

/-- Between samples GOVERNOR_SAMPLE only notes what the supplies read. -/
theorem governorSample_of_notDue {s : State} (h : s.nd.ltime.toNat < s.nd.nextSample) (c r f flow temp : Nat) :
    governorSample s c r f flow temp =
      modNd s fun d => { d with supply := { compute := c, row := r, fixed := f, flow := flow, temp := temp } } := by
  unfold governorSample
  exact if_neg fun e => absurd (of_decide_eq_true e) (Nat.not_le.2 h)

theorem governorSample_of_due {s : State} (h : s.nd.nextSample ≤ s.nd.ltime.toNat) (c r f flow temp : Nat) :
    governorSample s c r f flow temp =
      takeSample (modNd s fun d => { d with supply := { compute := c, row := r, fixed := f, flow := flow, temp := temp } }) := by
  unfold governorSample
  exact if_pos (decide_eq_true h)

/-- What a sample decides and when the next one falls due, whether it brings a power emergency or not. -/
theorem takeSample_decides (s : State) :
    let d := s.nd
    let steps := governorSteps d d.supply.compute d.supply.row d.supply.fixed (if coolingLow d.supply.flow d.supply.temp then 1000 else 0)
    (takeSample s).nd.computeStep = steps.1 ∧ (takeSample s).nd.rowWindow = steps.2 ∧
      (takeSample s).nd.nextSample = d.ltime.toNat + 1000 := by
  unfold takeSample
  dsimp only
  split
  · rw [powerEmergency_nd]; exact ⟨rfl, rfl, rfl⟩
  · exact ⟨rfl, rfl, rfl⟩

theorem takeSample_emergency (s : State) : (takeSample s).nd.emergency =
    if overLong s.nd || coolingFails s.nd.supply.flow s.nd.supply.temp then true else s.nd.emergency := by
  unfold takeSample
  dsimp only
  split
  · rw [powerEmergency_nd]
  · rfl

@[simp] theorem takeSample_mem (s : State) : (takeSample s).mem = s.mem := by
  unfold takeSample
  dsimp only
  split
  · rw [powerEmergency_mem]; rfl
  · rfl

@[simp] theorem takeSample_harts (s : State) : (takeSample s).harts = s.harts := by
  unfold takeSample
  dsimp only
  split
  · rw [powerEmergency_harts]; rfl
  · rfl

/-- A sample of at most 2,900 W, or with a group above its floor, ends the count towards a power emergency. -/
theorem overLong_eq_false {d : Ndetrief}
    (h : d.supply.compute + d.supply.row + d.supply.fixed ≤ 2900 ∨ d.computeStep ≠ 4 ∨ d.rowWindow ≠ 8) : overLong d = false := by
  have hnone : overSince d = none := by
    unfold overSince
    refine if_neg fun e => ?_
    obtain ⟨hfloor, hover⟩ := Bool.and_eq_true_iff.1 e
    obtain ⟨hclock, hwindow⟩ := Bool.and_eq_true_iff.1 hfloor
    have hover := of_decide_eq_true hover
    rw [beq_iff_eq] at hclock hwindow
    rw [designLimit] at hover
    omega
  rw [overLong, hnone]

theorem coolingLow_eq_false {flow temp : Nat} (hf : 2000 ≤ flow) (ht : temp ≤ 95) : coolingLow flow temp = false := by
  simp [coolingLow, hf, ht]

theorem coolingFails_eq_false {flow temp : Nat} (hf : 2000 ≤ flow) (ht : temp ≤ 95) : coolingFails flow temp = false := by
  simp only [coolingFails, Bool.or_eq_false_iff, decide_eq_false_iff_not]; omega

theorem coolingFails_eq_true {flow temp : Nat} (h : flow < 1000 ∨ 105 < temp) : coolingFails flow temp = true := by
  simpa [coolingFails] using h

section
variable {s : State} {c r f flow temp : Nat}

@[simp] theorem governorSample_mem : (governorSample s c r f flow temp).mem = s.mem := by
  unfold governorSample
  exact ite_keeps (fun t : State => t.mem = s.mem) (takeSample_mem _) rfl

@[simp] theorem governorSample_harts : (governorSample s c r f flow temp).harts = s.harts := by
  unfold governorSample
  exact ite_keeps (fun t : State => t.harts = s.harts) (takeSample_harts _) rfl

variable (hdue : s.nd.nextSample ≤ s.nd.ltime.toNat)
include hdue

/-- With cooling at its rating a sample decides by the thresholds of R24 alone. -/
theorem governorSample_decides (hcool : coolingLow flow temp = false) :
    (governorSample s c r f flow temp).nd.computeStep = (governorSteps s.nd c r f 0).1 ∧
      (governorSample s c r f flow temp).nd.rowWindow = (governorSteps s.nd c r f 0).2 ∧
      (governorSample s c r f flow temp).nd.nextSample = s.nd.ltime.toNat + 1000 := by
  rw [governorSample_of_due hdue]
  obtain ⟨hclock, hwindow, hnext⟩ := takeSample_decides
    (modNd s fun d => { d with supply := { compute := c, row := r, fixed := f, flow := flow, temp := temp } })
  simp only [modNd_nd, hcool] at hclock hwindow
  exact ⟨hclock, hwindow, hnext⟩

theorem governorSample_keepsEmergency (hcool : coolingFails flow temp = false)
    (hover : c + r + f ≤ 2900 ∨ s.nd.computeStep ≠ 4 ∨ s.nd.rowWindow ≠ 8) :
    (governorSample s c r f flow temp).nd.emergency = s.nd.emergency := by
  rw [governorSample_of_due hdue, takeSample_emergency, overLong_eq_false (by exact hover)]
  simp [hcool]

theorem governorSample_raisesEmergency (hcool : coolingFails flow temp = true) :
    (governorSample s c r f flow temp).nd.emergency = true := by
  rw [governorSample_of_due hdue, takeSample_emergency]
  simp [hcool]
end

section
variable {d : Ndetrief} {compute row fixed : Nat}

theorem governorSteps_hold (h : 2700 ≤ compute + row + fixed) (h' : compute + row + fixed ≤ 2800) :
    governorSteps d compute row fixed 0 = (d.computeStep, d.rowWindow) := by
  unfold governorSteps
  rw [if_neg (by omega), if_neg (by omega)]

theorem governorSteps_up (h : compute + row + fixed < 2700) :
    governorSteps d compute row fixed 0 = (clockUp d.computeStep, windowUp d.rowWindow) := by
  unfold governorSteps
  rw [if_neg (by omega), if_pos (by omega)]

theorem governorSteps_clock_down (h : 2800 < compute + row + fixed) (hc : d.shareCompute < compute) :
    (governorSteps d compute row fixed 0).1 = clockDown d.computeStep := by
  unfold governorSteps
  simp [h, hc]

theorem governorSteps_window_down (h : 2800 < compute + row + fixed) (hr : d.shareRow < row) :
    (governorSteps d compute row fixed 0).2 = windowDown d.rowWindow := by
  unfold governorSteps
  simp [h, hr]
end

/-! ### Clocks (R25, R408) -/

/-- Every Pavilion's clock takes the decided step. -/
theorem stepDelivery_clkstep (s : State) {p : Nat} (hp : p < 64) : (pavOf (stepDelivery s) p).clock.clkstep = s.nd.computeStep := by
  unfold stepDelivery
  dsimp only
  have htaken : ∀ (v w : Pavilion) (k : Nat), w.clock.clkstep = k → (if v.clock.clkstep = k then v else w).clock.clkstep = k :=
    fun v w k hw => by split <;> assumption
  rw [pavOf_foldl_modPav, if_pos hp]
  exact htaken _ _ _ rfl

/-- A delivery changes nothing but the clocks and the Ndetrief. -/
theorem stepDelivery_unchanged {β : Type} (g : State → β) (hn : ∀ t f, g (modNd t f) = g t) (hv : ∀ t p f, g (modPav t p f) = g t)
    (hp : ∀ t p f, g (modPer t p f) = g t) (s : State) : g (stepDelivery s) = g s := by
  unfold stepDelivery
  refine (foldl_unchanged g (fun t p => hv t p _) _ _).trans ?_
  exact ite_keeps (fun u => g u = g s) (hn _ _) ((foldl_unchanged g (fun t p => hp t p _) _ _).trans ((hn _ _).trans (hn _ _)))

theorem stepDelivery_mem (s : State) : (stepDelivery s).mem = s.mem :=
  stepDelivery_unchanged State.mem (fun _ _ => rfl) (fun _ _ _ => rfl) (fun _ _ _ => rfl) s

theorem stepDelivery_harts (s : State) : (stepDelivery s).harts = s.harts :=
  stepDelivery_unchanged State.harts (fun _ _ => rfl) (fun _ _ _ => rfl) (fun _ _ _ => rfl) s

theorem foldl_modPer_nd (f : Nat → Pergola → Pergola) (l : List Nat) (s : State) : (l.foldl (fun t g => modPer t g (f g)) s).nd = s.nd :=
  foldl_unchanged State.nd (fun t g => modPer_nd t g (f g)) l s

theorem foldl_modPav_nd (f : Nat → Pavilion → Pavilion) (l : List Nat) (s : State) : (l.foldl (fun t p => modPav t p (f p)) s).nd = s.nd :=
  foldl_unchanged State.nd (fun t g => modPav_nd t g (f g)) l s

/-- The activation window in force is the decided one. -/
theorem stepDelivery_actwin (s : State) : (stepDelivery s).nd.actwin = s.nd.rowWindow := by
  unfold stepDelivery
  dsimp only
  rw [foldl_modPav_nd]
  split
  · next h => exact h
  · rw [foldl_modPer_nd]; rfl

theorem clockGating_of_running {s : State} (h : noStep s = false ∨ s.nd.idleFor < 1000000) : clockGating s = s := by
  unfold clockGating
  refine if_neg ?_
  simp only [Bool.and_eq_true, decide_eq_true_eq, not_and_or]
  rcases h with h | h
  · simp [h]
  · exact .inr (by omega)

theorem clockGating_gated {s : State} (hn : noStep s = true) (hi : 1000000 ≤ s.nd.idleFor) {p : Nat} (hp : p < 64) :
    (pavOf (clockGating s) p).clock.gated = true := by
  unfold clockGating
  rw [if_pos (by simp [hn, hi]), pavOf_foldl_modPav, if_pos hp]

end Sys2Proof.Machine
end

section
/-! ## The mailbox (R399, R400) -/
namespace Sys2Proof.Machine

theorem mailboxOpen_of_notInService {s : State} (h : s.nd.started = false ∧ s.nd.safe = false ∨ s.nd.dead = true) : mailboxOpen s = false := by
  unfold mailboxOpen
  rcases h with ⟨hstarted, hsafe⟩ | hdead
  · simp [hstarted, hsafe]
  · simp [hdead]

theorem command_of_closed {s : State} (h : mailboxOpen s = false) (cmd : BitVec 8) (a0 a1 : Word) (safeToo : Bool) (run : State → State) :
    command s cmd a0 a1 safeToo run = s := by
  unfold command
  rw [if_pos (by simp [h])]

theorem inService_iff {s : State} : inService s = true ↔ s.nd.started = true ∧ s.nd.safe = false ∧ s.nd.dead = false := by
  simp [inService, and_assoc]

theorem mailboxOpen_of_inService {s : State} (h : inService s = true) : mailboxOpen s = true := by
  obtain ⟨hstarted, -, hdead⟩ := inService_iff.1 h
  simp [mailboxOpen, hstarted, hdead]

/-- The state in which a mailbox command runs: its arguments are written, GO is set and DONE is not. -/
def commandState (s : State) (cmd : BitVec 8) (a0 a1 : Word) : State :=
  modNd s fun d => { d with cmd := cmd, arg0 := a0, arg1 := a1, done := false, go := true }

@[simp] theorem commandState_chains (s : State) (cmd : BitVec 8) (a0 a1 : Word) : (commandState s cmd a0 a1).chains = s.chains := rfl

@[simp] theorem endCommand_chains (s : State) (status : BitVec 16) : (endCommand s status).chains = s.chains := rfl

/-- What a command has written of the mailbox stands in no device register. -/
theorem devWord_commandState (s : State) (cmd : BitVec 8) (a0 a1 : Word) (off : Nat) : devWord (commandState s cmd a0 a1) off = devWord s off := by
  have hlease : ∀ g, octlease (commandState s cmd a0 a1) g = octlease s g := fun _ => rfl
  have hhalt : ∀ c, haltOf (commandState s cmd a0 a1) c = haltOf s c := fun _ => rfl
  have hwing : ∀ w, wingOf (commandState s cmd a0 a1) w = wingOf s w := fun _ => rfl
  have hcontexts : (commandState s cmd a0 a1).contexts = s.contexts := rfl
  have herrLog : (commandState s cmd a0 a1).errLog = s.errLog := rfl
  have hschedLog : (commandState s cmd a0 a1).schedLog = s.schedLog := rfl
  have hprevious : (commandState s cmd a0 a1).nd.previous = s.nd.previous := rfl
  have hports : (commandState s cmd a0 a1).nd.ports = s.nd.ports := rfl
  have hbundlestat : (commandState s cmd a0 a1).nd.bundlestat = s.nd.bundlestat := rfl
  unfold devWord
  rw [hcontexts, herrLog, hschedLog, hprevious, hports, hbundlestat]
  simp only [hlease, hhalt, hwing]

/-- In service a command runs. -/
theorem command_of_inService {s : State} (h : inService s = true) (cmd : BitVec 8) (a0 a1 : Word) (safeToo : Bool) (run : State → State) :
    command s cmd a0 a1 safeToo run = run (commandState s cmd a0 a1) := by
  obtain ⟨-, hsafe, -⟩ := inService_iff.1 h
  unfold command
  rw [if_neg (by simp [mailboxOpen_of_inService h])]
  exact if_neg (by simp [hsafe])

theorem chainOf_eq (a1 : Word) : chainOf a1 = a1.toNat / 2 ^ 16 % 64 := by
  simp [chainOf, Nat.shiftRight_eq_div_pow]

theorem regOffset_iff {a : Word} : regOffset a = true ↔ a.toNat % 8 = 0 ∧ a.toNat < 2 ^ 32 := by
  simp [regOffset]

section
variable {s : State} (h : inService s = true) (a0 a1 : Word)
include h

theorem regchain_ends : (regchain a0 a1 s).nd.done = true ∧ (regchain a0 a1 s).nd.go = false := by
  unfold regchain
  rw [command_of_inService h]
  split <;> exact ⟨rfl, rfl⟩

/-- A free number and a context of the device: the chain is registered (R357). -/
theorem regchain_of_free (hfree : s.chains.get none (chainOf a1) = none) (hc : ctxExists (a1.toNat % 65536) = true) :
    (regchain a0 a1 s).nd.status = 0 ∧
      (regchain a0 a1 s).chains.get none (chainOf a1) = some { anchor := a0, context := a1.extractLsb' 0 16 } := by
  unfold regchain
  rw [command_of_inService h, commandState_chains, if_neg (by simp [hfree, hc])]
  exact ⟨rfl, by simp⟩

theorem regchain_of_taken (htaken : (s.chains.get none (chainOf a1)).isSome = true) :
    (regchain a0 a1 s).nd.status = 2 ∧ (regchain a0 a1 s).chains = s.chains := by
  unfold regchain
  rw [command_of_inService h, commandState_chains, if_pos (by simp [htaken])]
  exact ⟨rfl, rfl⟩

theorem dropchain_drops : (dropchain a1 s).nd.done = true ∧ (dropchain a1 s).nd.status = 0 ∧
    (dropchain a1 s).chains.get none (chainOf a1) = none := by
  unfold dropchain
  rw [command_of_inService h]
  exact ⟨rfl, rfl, by simp⟩

theorem setshare_ends : (setshare a0 a1 s).nd.done = true := by
  unfold setshare
  rw [command_of_inService h]
  split <;> rfl

theorem setshare_of_le (hsum : a0.toNat + a1.toNat ≤ 2650) :
    (setshare a0 a1 s).nd.status = 0 ∧ (setshare a0 a1 s).nd.shareCompute = a0.toNat ∧ (setshare a0 a1 s).nd.shareRow = a1.toNat := by
  unfold setshare
  rw [command_of_inService h, if_neg (by simp only [designLimit, shareFixed]; omega)]
  exact ⟨rfl, rfl, rfl⟩

theorem setshare_of_gt (hsum : 2650 < a0.toNat + a1.toNat) :
    (setshare a0 a1 s).nd.status = 2 ∧ (setshare a0 a1 s).nd.shareCompute = s.nd.shareCompute ∧
      (setshare a0 a1 s).nd.shareRow = s.nd.shareRow := by
  unfold setshare
  rw [command_of_inService h, if_pos (by simp only [designLimit, shareFixed]; omega)]
  exact ⟨rfl, rfl, rfl⟩

theorem ackhalt_acknowledges : (ackhalt s).nd.done = true ∧ (ackhalt s).nd.status = 0 ∧ (ackhalt s).nd.emergency = false := by
  unfold ackhalt
  rw [command_of_inService h]
  exact ⟨rfl, rfl, rfl⟩

theorem readstart_ends : (readstart a0 s).nd.done = true := by
  unfold readstart
  rw [command_of_inService h]
  split <;> rfl

theorem readstart_of_lt (hw : a0.toNat < 20) : (readstart a0 s).nd.status = 0 ∧ (readstart a0 s).nd.arg1 = s.nd.record.get 0 a0.toNat := by
  unfold readstart
  rw [command_of_inService h, if_pos hw]
  exact ⟨rfl, rfl⟩

theorem readstart_of_ge (hw : 20 ≤ a0.toNat) : (readstart a0 s).nd.status = 2 := by
  unfold readstart
  rw [command_of_inService h, if_neg (by omega)]
  rfl

theorem regwrite_ends : (regwrite a0 a1 s).nd.done = true := by
  unfold regwrite
  rw [command_of_inService h]
  split <;> rfl

/-- REGWRITE writes the device register, and ends with status 0. -/
theorem regwrite_of_offset (ho : regOffset a0 = true) :
    regwrite a0 a1 s = endCommand (devWrite (commandState s 0x06 a0 a1) a0.toNat a1) 0 := by
  unfold regwrite
  rw [command_of_inService h, if_pos ho]

theorem regwrite_of_noOffset (ho : regOffset a0 = false) : (regwrite a0 a1 s).nd.status = 2 := by
  unfold regwrite
  rw [command_of_inService h, if_neg (by simp [ho])]
  rfl

theorem regread_ends : (regread a0 s).nd.done = true := by
  unfold regread
  rw [command_of_inService h]
  split <;> rfl

/-- A listed word comes back in MBARG1. -/
theorem regread_of_listed {v : Word} (h8 : a0.toNat % 8 = 0) (h32 : a0.toNat < 2 ^ 32) (hv : devWord s a0.toNat = some v) :
    (regread a0 s).nd.status = 0 ∧ (regread a0 s).nd.arg1 = v := by
  have hword : devWord (commandState s 0x07 a0 s.nd.arg1) (a0.toNat / 8 * 8) = some v := by
    rw [devWord_commandState, Nat.div_mul_cancel (Nat.dvd_of_mod_eq_zero h8), hv]
  unfold regread
  rw [command_of_inService h, if_pos (regOffset_iff.2 ⟨h8, h32⟩)]
  unfold devRead
  rw [hword]
  exact ⟨rfl, rfl⟩
end

@[simp] theorem triggerMonitors_contexts (s : State) (pa n : Nat) : (triggerMonitors s pa n).contexts = s.contexts := rfl

/-- A write to word 2 of an entry that is not valid is its PTROOT (R353). -/
theorem devWrite_ptroot {s : State} {c : Nat} (hc : c < 8192) (hv : (s.contexts.get {} c).v = false) (v : Word) :
    ((devWrite s (0x300000 + 64 * c + 16) v).contexts.get {} c).ptroot = v := by
  have heffect : devEffect s (0x300000 + 64 * c + 16) v = ctxWrite s c 2 v := by
    unfold devEffect
    dsimp only
    have hoff : (0x300000 + 64 * c + 16) / 8 * 8 = 0x300000 + 64 * c + 16 := by omega
    have hentry : (0x300000 + 64 * c + 16 - 0x300000) / 64 = c := by omega
    have hword : (0x300000 + 64 * c + 16 - 0x300000) / 8 % 8 = 2 := by omega
    rw [hoff, if_pos (by omega), hentry, hword]
  have hwrite : ctxWrite s c 2 v = modCtx s c fun e => { e with ptroot := v } := by
    unfold ctxWrite
    rw [if_neg (by rw [hv]; decide)]
    rfl
  unfold devWrite
  rw [heffect, hwrite, triggerMonitors_contexts, modCtx, Tbl.get_modify_same]

end Sys2Proof.Machine
end

section
/-! ## Accesses from outside: the host, peer modules and the stack port (R136, R137, R403, R471) -/
namespace Sys2Proof.Machine

/-! ### Peers (R403) -/

theorem packetOk_of_lt {link pa : Nat} (hl : link < 8) (hp : pa < 2 ^ 44) : packetOk link pa = true := by
  rw [packetOk, decide_eq_true hl, decide_eq_true hp]; rfl

/-- A packet that the module takes leaves what the write of its bytes leaves, and an acknowledgement. -/
theorem remoteWrite_of_taken {s : State} {pa : Nat} {bytes : List Byte} (h : packetRefusal s pa bytes.length false = none) :
    remoteWrite s pa bytes = sendBack (memWrite s pa bytes) [] false 0 := by
  rw [remoteWrite, h]; rfl

theorem remoteRead_of_taken {s : State} {pa n : Nat} (h : packetRefusal s pa n false = none) :
    remoteRead s pa n = sendBack (memRead s pa n).2 (memRead s pa n).1 (firstPoison s pa n).isSome 0 := by
  rw [remoteRead, h]; rfl

theorem remoteRead_of_refused {s : State} {pa n : Nat} {c : BitVec 8} (h : packetRefusal s pa n false = some c) :
    remoteRead s pa n = sendBack s [] false c := by
  rw [remoteRead, h]

section
variable {s : State} {sub pa n b c : Nat} {wants : Bool} (h : packetRefusal s pa n true = none)
  (hf : ((framesInUse s).any fun f => overlaps pa n f.1 f.2) = false) (hr : recordsHit s pa n = [])
include h hf hr

/-- An atomic that the module takes reads the bytes there and writes its result, if it has one. -/
theorem remoteAtomic_of_taken : remoteAtomic s sub pa n b c wants =
    sendBack (match (amoNew sub (8 * n) (readNat s pa n) b c).1 with
      | some v => memWrite s pa (leBytes n v)
      | none => s) (if wants then readBytes s pa n else []) false 0 := by
  have hread : progRead s (.phys pa) n = (readBytes s pa n, s) := memRead_of_unused hf hr
  rw [remoteAtomic, h]
  simp only [hread]
  rfl

/-- What an atomic leaves at its place. -/
theorem readBytes_remoteAtomic : readBytes (remoteAtomic s sub pa n b c wants) pa n =
    match (amoNew sub (8 * n) (readNat s pa n) b c).1 with
    | some v => leBytes n v
    | none => readBytes s pa n := by
  rw [remoteAtomic_of_taken h hf hr]
  cases (amoNew sub (8 * n) (readNat s pa n) b c).1 with
  | none => rfl
  | some v =>
    have hw := readBytes_memWrite (s := s) (pa := pa) (l := leBytes n v) (by rw [leBytes_length]; exact landsPlain_of_unused hf hr)
    rwa [leBytes_length] at hw

theorem remoteAtomic_onlyBytes : OnlyBytes s (remoteAtomic s sub pa n b c wants) [] pa n := by
  rw [remoteAtomic_of_taken h hf hr]
  cases (amoNew sub (8 * n) (readNat s pa n) b c).1 with
  | none => exact fun _ _ _ => rfl
  | some v =>
    have hw := memWrite_onlyBytes (s := s) (pa := pa) (l := leBytes n v) (by rw [leBytes_length]; exact landsPlain_of_unused hf hr)
    rwa [leBytes_length] at hw

theorem remoteAtomic_answer : (remoteAtomic s sub pa n b c wants).answer = (if wants then readBytes s pa n else []) ∧
    (remoteAtomic s sub pa n b c wants).answerCode = 0 := by
  rw [remoteAtomic_of_taken h hf hr]
  exact ⟨rfl, rfl⟩

/-- An AMOADD adds (R312). -/
theorem readNat_remoteAtomic_add : readNat (remoteAtomic s 0 pa n (b % 2 ^ (8 * n)) c wants) pa n = (readNat s pa n + b) % 2 ^ (8 * n) := by
  have hpow : 256 ^ n = 2 ^ (8 * n) := by rw [show 256 = 2 ^ 8 from rfl, ← pow_mul]
  have hbytes := readBytes_remoteAtomic (sub := 0) (b := b % 2 ^ (8 * n)) (c := c) (wants := wants) h hf hr
  rw [readNat, hbytes]
  show leNat (leBytes n ((readNat s pa n + b % 2 ^ (8 * n)) % 2 ^ (8 * n))) = _
  rw [leNat_leBytes, hpow, Nat.mod_mod, Nat.add_mod_mod]
end

/-! ### The host (R136, R137, R226) -/

theorem hostMemWrite_of_seen {s : State} {pa : Nat} {bytes : List Byte} (h : hostSees s pa bytes.length = true) :
    hostMemWrite s pa bytes false = memWrite s pa bytes := by
  rw [hostMemWrite, if_neg (by simp [h]), if_neg (by decide)]; rfl

theorem hostMemWrite_poison_of_seen {s : State} {pa : Nat} {bytes : List Byte} (h : hostSees s pa bytes.length = true) :
    hostMemWrite s pa bytes true = poisonRange s pa bytes.length := by
  rw [hostMemWrite, if_neg (by simp [h]), if_pos rfl]

theorem hostMemRead_of_unseen {s : State} {pa n : Nat} (h : hostSees s pa n = false) : hostMemRead s pa n = s := by
  rw [hostMemRead, if_pos (by simp [h])]

theorem hostMemRead_of_seen {s : State} {pa n : Nat} (h : hostSees s pa n = true) :
    hostMemRead s pa n = sendBack (memRead s pa n).2 (memRead s pa n).1 (firstPoison s pa n).isSome 0 := by
  rw [hostMemRead, if_neg (by simp [h])]; rfl

/-- The host's write of a part of a line of its window. -/
theorem cacheSnoop_of_data {s : State} {line : Nat} {data : List Byte} (hlo : 0x200000000000 ≤ line / 128 * 128)
    (hhi : line / 128 * 128 < 0x400000000000) (h0 : 0 < data.length) (h128 : data.length ≤ 128) :
    cacheSnoop s line data = memWrite s (line / 128 * 128) data := by
  have hne : data.isEmpty = false := by cases data with
    | nil => exact absurd h0 (by decide)
    | cons => rfl
  rw [cacheSnoop, if_neg (by omega), hne, if_neg (by decide), List.take_of_length_le h128]
  rfl

/-- A snoop without data only drops monitors. -/
theorem cacheSnoop_of_nil {s : State} {line : Nat} (hlo : 0x200000000000 ≤ line / 128 * 128) (hhi : line / 128 * 128 < 0x400000000000) :
    cacheSnoop s line [] = dropMonitors s (line / 128 * 128) := by
  rw [cacheSnoop, if_neg (by omega)]; rfl

theorem hartOf_dropMonitors (s : State) (line id : Nat) : hartOf (dropMonitors s line) id = { hartOf s id with
    monitor := (hartOf s id).monitor.map fun m => if m.line = line && !m.triggered then { m with lost := true } else m } :=
  Tbl.get_map (f := fun h : Hart => { h with monitor := h.monitor.map fun m =>
    if m.line = line && !m.triggered then { m with lost := true } else m }) rfl id s.harts

/-- An armed monitor on the line is lost. -/
theorem dropMonitors_loses {s : State} {id : Nat} {m : Monitor} (hm : (hartOf s id).monitor = some m) (ht : m.triggered = false) :
    (hartOf (dropMonitors s m.line) id).monitor = some { m with lost := true } := by
  rw [hartOf_dropMonitors, hm]
  simp [ht]

/-! ### The stack port (R471) -/

@[simp] theorem logError_stackReplays (s : State) (kind : BitVec 8) (location : Word) (context hart : BitVec 16) (cause : BitVec 8) (count : Nat) :
    (logError s kind location context hart cause count).stackReplays = s.stackReplays := rfl

theorem stackPortReplay_of_elsewhere {s : State} {k n : Nat} (h : portGranule s k n = false) : stackPortReplay s k n = s := by
  rw [stackPortReplay, if_pos (by simp [h])]

theorem stackPortReplay_of_lt {s : State} {k n : Nat} (h : portGranule s k n = true) (hk : s.stackReplays.get 0 k < 8) :
    stackPortReplay s k n = { s with stackReplays := s.stackReplays.modify 0 k (· + 1) } := by
  rw [stackPortReplay, if_neg (by simp [h]), if_pos hk]

/-- The ninth failure in a row delivers the granule poisoned, which is logged, and begins a new count. -/
theorem stackPortReplay_of_ge {s : State} {k n : Nat} (h : portGranule s k n = true) (hk : 8 ≤ s.stackReplays.get 0 k) :
    stackPortReplay s k n = logError (poisonRange { s with stackReplays := s.stackReplays.set 0 k 0 } (64 * n) 64) 0x0D
      (BitVec.ofNat 64 (64 * n)) 0 0xFFFF 0 0 := by
  rw [stackPortReplay, if_neg (by simp [h]), if_neg (by omega)]

/-! ### Attestation (R407) -/

theorem spdm_of_noIndex {s : State} {n : Nat} (h : n = 0 ∨ 5 < n) : spdm s n = s := by
  unfold spdm
  refine if_pos ?_
  simp only [Bool.or_eq_true, decide_eq_true_eq]; tauto

theorem spdm_answers {s : State} {n : Nat} (h : inService s = true) (h1 : 1 ≤ n) (h5 : n ≤ 5) :
    (spdm s n).nd.answer = s.nd.measurements.get 0 n := by
  unfold spdm
  rw [if_neg]
  · rfl
  · simp only [mailboxOpen_of_inService h, Bool.or_eq_true, decide_eq_true_eq, Bool.not_true, Bool.false_eq_true, false_or]
    omega

end Sys2Proof.Machine
end

section
/-! ## Packets to peers, ports and layers (R138, R500 to R504) -/
namespace Sys2Proof.Machine

/-! ### A refusal at its port (R501) -/

theorem port_modPort (s : State) (k j : Nat) (f : Port → Port) :
    (modPort s k f).nd.ports.get {} j = if j = k then f (s.nd.ports.get {} k) else s.nd.ports.get {} j := Tbl.get_modify ..

theorem port_modPort_same (s : State) (k : Nat) (f : Port → Port) : (modPort s k f).nd.ports.get {} k = f (s.nd.ports.get {} k) :=
  Tbl.get_modify_same ..

/-- LINKERR after a refusal: it keeps the first one and counts them all. -/
def Port.refuse (p : Packet) (code : BitVec 8) (q : Port) : Port :=
  if q.errCount = 0 then
    { q with errAddress := BitVec.ofNat 64 p.address, errHart := BitVec.ofNat 16 p.hart, errReason := code, errKind := kindCode p.kind,
             errCount := 1 }
  else { q with errCount := q.errCount + 1 }

section
variable (p : Packet) (code : BitVec 8) (q : Port)

theorem Port.refuse_rate : (q.refuse p code).rate = q.rate := ite_keeps (fun u : Port => u.rate = q.rate) rfl rfl

theorem Port.refuse_retraining : (q.refuse p code).retraining = q.retraining := ite_keeps (fun u : Port => u.retraining = q.retraining) rfl rfl

theorem Port.refuse_errCount : (q.refuse p code).errCount = if q.errCount = 0 then 1 else q.errCount + 1 := by
  unfold Port.refuse; split <;> rfl

variable {q} in
theorem Port.refuse_first (h : q.errCount = 0) :
    (q.refuse p code).errReason = code ∧ (q.refuse p code).errAddress = BitVec.ofNat 64 p.address := by
  rw [Port.refuse, if_pos h]; exact ⟨rfl, rfl⟩
end

theorem noteRefusal_eq (s : State) (p : Packet) (code : BitVec 8) : noteRefusal s p code =
    if p.wants && p.kind != .copy then modPort s p.link (Port.refuse p code) else markRefused (modPort s p.link (Port.refuse p code)) p := rfl

/-! ### What comes back (R138, R500) -/

section
variable (s : State) (n : Nat) (p : Packet) (r : Reply) (code : BitVec 8)

/-- A delivery to a hart changes nothing but what the hart waits for. -/
theorem deliverHart_unchanged {β : Type} (g : State → β) (hg : ∀ t id f, g (modHart t id f) = g t) : g (deliverHart s n p r) = g s :=
  ite_keeps (fun t => g t = g s) (hg s _ _) rfl

theorem deliverHart_sameRegisters : SameRegisters s (deliverHart s n p r) := ite_keeps (SameRegisters s) (.modHart fun _ => rfl) (.refl s)

variable {s n p} in
theorem hartOf_deliverHart (h : (hartOf s p.hart).awaiting = some n) : hartOf (deliverHart s n p r) p.hart =
    { hartOf s p.hart with awaiting := none, replies := (hartOf s p.hart).replies ++ [r] } := by
  rw [deliverHart, if_pos h, hartOf_modHart_same]

/-- The REFUSED bits of harts and saved steps are the only thing that a mark changes. -/
theorem markRefused_unchanged {β : Type} (g : State → β) (hh : ∀ t id f, g (modHart t id f) = g t) (hc : ∀ t c, g { t with cores := c } = g t) :
    g (markRefused s p) = g s := by
  unfold markRefused
  dsimp only
  split
  · exact hh ..
  · split
    · exact hh ..
    · exact hc ..

theorem markRefused_sameRegisters : SameRegisters s (markRefused s p) := by
  unfold markRefused
  dsimp only
  split
  · exact .modHart fun _ => rfl
  · split
    · exact .modHart fun _ => rfl
    · exact .of_harts rfl

/-- A refusal is recorded in the port and in REFUSED bits only. -/
theorem noteRefusal_unchanged {β : Type} (g : State → β) (hp : ∀ t k f, g (modPort t k f) = g t) (hh : ∀ t id f, g (modHart t id f) = g t)
    (hc : ∀ t c, g { t with cores := c } = g t) : g (noteRefusal s p code) = g s := by
  rw [noteRefusal_eq]
  exact ite_keeps (fun t => g t = g s) (hp ..) ((markRefused_unchanged _ _ g hh hc).trans (hp ..))

theorem noteRefusal_sameRegisters : SameRegisters s (noteRefusal s p code) := by
  rw [noteRefusal_eq]
  exact ite_keeps (SameRegisters s) (.of_harts rfl) (.trans (.of_harts rfl) (markRefused_sameRegisters _ _))

/-- Of the Ndetrief a refusal changes the port of its packet. -/
theorem noteRefusal_nd : (noteRefusal s p code).nd = (modPort s p.link (Port.refuse p code)).nd := by
  rw [noteRefusal_eq]
  exact ite_keeps (fun t : State => t.nd = _) rfl (markRefused_unchanged _ _ State.nd (fun _ _ _ => rfl) (fun _ _ => rfl))

theorem acknowledged_of_none {data : List Byte} {poison : Bool} (h : s.packets.get none n = none) : acknowledged s n data poison = s := by
  rw [acknowledged, h]

theorem refusalReturn_of_none (h : s.packets.get none n = none) : refusalReturn s n code = s := by
  rw [refusalReturn, h]

/-- The state in which the packet of that number is no longer outstanding. -/
def withoutPacket : State := { s with packets := s.packets.set none n none }

theorem packets_withoutPacket : (withoutPacket s n).packets.get none n = none := by simp [withoutPacket]
end

section
variable {s : State} {n : Nat} {p : Packet} (h : s.packets.get none n = some p) (data : List Byte) (poison : Bool) (code : BitVec 8)
include h

theorem acknowledged_of_some : acknowledged s n data poison =
    if !p.wants then withoutPacket s n
    else if p.kind = .copy then deliverCopy (withoutPacket s n) n (data.take p.size, poison)
    else deliverHart (withoutPacket s n) n p (.value (BitVec.ofNat 64 (leNat (data.take p.size))) poison) := by
  rw [acknowledged, h]; rfl

/-- What neither harts, copies nor packets bear, an acknowledgement leaves as it was. -/
theorem acknowledged_unchanged {β : Type} (g : State → β) (hh : ∀ t id f, g (modHart t id f) = g t) (hc : ∀ t c, g { t with cores := c } = g t) :
    g (acknowledged s n data poison) = g (withoutPacket s n) := by
  rw [acknowledged_of_some h]
  refine ite_keeps (fun t => g t = _) rfl (ite_keeps (fun t => g t = _) (hc ..) (deliverHart_unchanged _ _ _ _ g hh))

theorem acknowledged_packets : (acknowledged s n data poison).packets.get none n = none := by
  rw [acknowledged_unchanged h data poison State.packets (fun _ _ _ => rfl) (fun _ _ => rfl), packets_withoutPacket]

theorem acknowledged_mem : (acknowledged s n data poison).mem = s.mem :=
  acknowledged_unchanged h data poison State.mem (fun _ _ _ => rfl) (fun _ _ => rfl)

theorem acknowledged_sameRegisters : SameRegisters s (acknowledged s n data poison) := by
  rw [acknowledged_of_some h]
  exact ite_keeps (SameRegisters s) (.of_harts rfl)
    (ite_keeps (SameRegisters s) (.of_harts rfl) (.trans (.of_harts rfl) (deliverHart_sameRegisters _ _ _ _)))

/-- The value reaches the hart that waits for it. -/
theorem hartOf_acknowledged (hw : p.wants = true) (hk : p.kind ≠ .copy) (ha : (hartOf s p.hart).awaiting = some n) :
    hartOf (acknowledged s n data poison) p.hart = { hartOf s p.hart with
      awaiting := none, replies := (hartOf s p.hart).replies ++ [.value (BitVec.ofNat 64 (leNat (data.take p.size))) poison] } := by
  rw [acknowledged_of_some h, if_neg (by simp [hw]), if_neg hk]
  exact hartOf_deliverHart (s := withoutPacket s n) _ ha

theorem refusalReturn_of_some : refusalReturn s n code =
    if !p.wants then noteRefusal (withoutPacket s n) p code
    else if p.kind = .copy then deliverCopy (noteRefusal (withoutPacket s n) p code) n ([], false)
    else deliverHart (noteRefusal (withoutPacket s n) p code) n p (.refused code) := by
  rw [refusalReturn, h]; rfl

/-- Beside what a hart or a copy waits for, a refusal leaves what its record leaves. -/
theorem refusalReturn_unchanged {β : Type} (g : State → β) (hh : ∀ t id f, g (modHart t id f) = g t) (hc : ∀ t c, g { t with cores := c } = g t) :
    g (refusalReturn s n code) = g (noteRefusal (withoutPacket s n) p code) := by
  rw [refusalReturn_of_some h]
  refine ite_keeps (fun t => g t = _) rfl (ite_keeps (fun t => g t = _) (hc ..) (deliverHart_unchanged _ _ _ _ g hh))

theorem refusalReturn_sameRegisters : SameRegisters s (refusalReturn s n code) := by
  have hnote : SameRegisters s (noteRefusal (withoutPacket s n) p code) := .trans (.of_harts rfl) (noteRefusal_sameRegisters _ _ _)
  rw [refusalReturn_of_some h]
  exact ite_keeps (SameRegisters s) hnote
    (ite_keeps (SameRegisters s) (hnote.trans (.of_harts rfl)) (hnote.trans (deliverHart_sameRegisters _ _ _ _)))

theorem refusalReturn_packets : (refusalReturn s n code).packets.get none n = none := by
  rw [refusalReturn_unchanged h code State.packets (fun _ _ _ => rfl) (fun _ _ => rfl),
    noteRefusal_unchanged _ _ _ State.packets (fun _ _ _ => rfl) (fun _ _ _ => rfl) (fun _ _ => rfl), packets_withoutPacket]

theorem refusalReturn_mem : (refusalReturn s n code).mem = s.mem :=
  (refusalReturn_unchanged h code State.mem (fun _ _ _ => rfl) (fun _ _ => rfl)).trans
    (noteRefusal_unchanged _ _ _ State.mem (fun _ _ _ => rfl) (fun _ _ _ => rfl) (fun _ _ => rfl))

theorem refusalReturn_nd : (refusalReturn s n code).nd = (modPort s p.link (Port.refuse p code)).nd :=
  (refusalReturn_unchanged h code State.nd (fun _ _ _ => rfl) (fun _ _ => rfl)).trans (noteRefusal_nd (withoutPacket s n) p code)

theorem port_refusalReturn : (refusalReturn s n code).nd.ports.get {} p.link = (s.nd.ports.get {} p.link).refuse p code := by
  rw [refusalReturn_nd h]
  exact port_modPort_same ..
end

/-! ### Ports (R501, R502) -/

/-- A port that is down. -/
def PortIsDown (s : State) (k : Nat) : Prop := (s.nd.ports.get {} k).rate = 0 ∧ (s.nd.ports.get {} k).retraining = false

/-- A refusal leaves a port down: it writes only LINKERR. -/
theorem PortIsDown.refusalReturn {s : State} {k : Nat} (h : PortIsDown s k) (n : Nat) (code : BitVec 8) :
    PortIsDown (refusalReturn s n code) k := by
  cases hp : s.packets.get none n with
  | none => rwa [refusalReturn_of_none s n code hp]
  | some p =>
    unfold PortIsDown at h ⊢
    rw [refusalReturn_nd hp, port_modPort]
    split
    · next hk => rwa [Port.refuse_rate, Port.refuse_retraining, ← hk]
    · exact h

section
variable {s : State} {k : Nat}

theorem flitReplay_of_retraining (h : (s.nd.ports.get {} k).retraining = true) : flitReplay s k = s := by
  unfold flitReplay
  exact if_pos (by rw [h, Bool.or_true])

/-- The port replays its flit, and after eight replays it retrains. -/
theorem port_flitReplay (h : (s.nd.ports.get {} k).retraining = false) (hr : (s.nd.ports.get {} k).rate ≠ 0) :
    (flitReplay s k).nd.ports.get {} k =
      let q := s.nd.ports.get {} k
      if q.replays < 8 then { q with replays := q.replays + 1 } else { q with replays := 0, retraining := true, retrainFrom := s.nd.ltime.toNat } := by
  unfold flitReplay
  dsimp only
  rw [if_neg (by rw [h, Bool.or_false, decide_eq_true_eq]; exact hr)]
  split <;> exact port_modPort_same ..

theorem retrainEnd_of_notRetraining (h : (s.nd.ports.get {} k).retraining = false) (ok : Bool) : retrainEnd s k ok = s := by
  unfold retrainEnd
  exact if_pos (by rw [h]; rfl)

theorem port_retrainEnd_passed (h : (s.nd.ports.get {} k).retraining = true) :
    (retrainEnd s k true).nd.ports.get {} k = { s.nd.ports.get {} k with retraining := false, failedRetrains := 0 } := by
  unfold retrainEnd
  dsimp only
  rw [if_neg (by rw [h]; decide), if_pos rfl]
  exact port_modPort_same ..

theorem port_retrainEnd_failed (h : (s.nd.ports.get {} k).retraining = true) (hf : (s.nd.ports.get {} k).failedRetrains < 2) :
    (retrainEnd s k false).nd.ports.get {} k =
      { s.nd.ports.get {} k with failedRetrains := (s.nd.ports.get {} k).failedRetrains + 1, retrainFrom := s.nd.ltime.toNat } := by
  unfold retrainEnd
  dsimp only
  rw [if_neg (by rw [h]; decide), if_neg (by decide), if_pos hf]
  exact port_modPort_same ..

/-- The third failure in a row takes the port down, and the refusals of its packets leave it so. -/
theorem retrainEnd_takesDown (h : (s.nd.ports.get {} k).retraining = true) (hf : 2 ≤ (s.nd.ports.get {} k).failedRetrains) :
    PortIsDown (retrainEnd s k false) k := by
  unfold retrainEnd
  dsimp only
  rw [if_neg (by rw [h]; decide), if_neg (by decide), if_neg (by omega)]
  refine foldl_keeps (PortIsDown · k) _ (fun t n ht => ht.refusalReturn n Cause.link) _ _ ?_
  have hport := port_modPort_same s k fun q => { q with retraining := false, failedRetrains := 0, rate := 0 }
  exact ⟨congrArg Port.rate hport, congrArg Port.retraining hport⟩
end

/-! ### Layers (R503, R504) -/

theorem layerOf_modLayer_same (s : State) (l : Nat) (f : Layer → Layer) : layerOf (modLayer s l f) l = f (layerOf s l) := by
  rw [layerOf_modLayer, if_pos rfl]

section
variable {s : State} {l : Nat}

theorem realignmentRequest_of_pending (h : (layerOf s l).requested = true ∨ (layerOf s l).realigning = true) : realignmentRequest s l = s := by
  unfold realignmentRequest
  exact if_pos (by simpa using h)

section
variable (hq : (layerOf s l).requested = false) (hr : (layerOf s l).realigning = false)
include hq hr

/-- A request is deferred while a transfer is in flight, twice in a row at most. -/
theorem layerOf_realignmentRequest_deferred (hb : layerBusy s l = true) (hd : (layerOf s l).deferrals < 2) :
    layerOf (realignmentRequest s l) l =
      { layerOf s l with requested := true, requestAt := baseNow s l, deferrals := (layerOf s l).deferrals + 1 } := by
  unfold realignmentRequest
  dsimp only
  rw [if_neg (by simp [hq, hr]), if_pos (by simp [hb, hd]), layerOf_modLayer_same]

theorem layerOf_realignmentRequest_begins (h : layerBusy s l = false ∨ 2 ≤ (layerOf s l).deferrals) :
    layerOf (realignmentRequest s l) l =
      { layerOf s l with requested := false, realigning := true, realignAt := baseNow s l, deferrals := 0 } := by
  have hgo : ¬(layerBusy s l && decide ((layerOf s l).deferrals < 2)) = true := by
    rcases h with h | h
    · simp [h]
    · simp [Nat.not_lt.2 h]
  unfold realignmentRequest realign
  dsimp only
  rw [if_neg (by simp [hq, hr]), if_neg hgo, layerOf_modLayer_same, layerOf_modLayer_same]
  rfl
end

theorem layerOf_deferralEnds (h : deferralOver s l = true) :
    layerOf (deferralEnds s l) l = { layerOf s l with requested := false, realigning := true, realignAt := baseNow s l } := by
  rw [deferralEnds, if_pos h, realign, layerOf_modLayer_same]

theorem deferralEnds_of_notOver (h : deferralOver s l = false) : deferralEnds s l = s := by
  rw [deferralEnds, if_neg (by simp [h])]

theorem realignmentEnd_of_notRealigning (h : (layerOf s l).realigning = false) (fails : Bool) : realignmentEnd s l fails = s := by
  rw [realignmentEnd, if_pos (by simp [h])]

/-- A layer's first bundle that fails is retired, and its traffic goes to the spare. -/
theorem layerOf_realignmentEnd (h : (layerOf s l).realigning = true) (h0 : (layerOf s l).bundlesRetired = 0) (fails : Bool) :
    layerOf (realignmentEnd s l fails) l = { layerOf s l with realigning := false, bundlesRetired := if fails = true then 1 else 0 } := by
  have hend := layerOf_modLayer_same s l fun y => { y with realigning := false }
  unfold realignmentEnd
  dsimp only
  rw [if_neg (by simp [h])]
  cases fails with
  | false =>
    rw [if_neg (by decide), if_neg (by decide), hend, ← h0]
  | true =>
    unfold retireBundle
    dsimp only
    rw [if_pos rfl, if_pos rfl, if_pos (by rw [hend]; exact h0), layerOf_modLayer_same, hend]
    simp [h0]
end

section
variable {s : State}

theorem bundleAck_of_notice (h : s.nd.bundlestat.getLsbD 0 = true) :
    (bundleAck s).nd.restriping = true ∧ (bundleAck s).nd.bundlestat.getLsbD 0 = false := by
  rw [bundleAck, if_pos h]
  exact ⟨rfl, by simp⟩

theorem bundleAck_of_noNotice (h : s.nd.bundlestat.getLsbD 0 = false) : bundleAck s = s := by
  rw [bundleAck, if_neg (by rw [h]; decide)]

theorem restripeComplete_of_notRestriping (h : s.nd.restriping = false) : restripeComplete s = s := by
  rw [restripeComplete, if_neg (by simp [h])]

theorem restripeComplete_completes (h : s.nd.restriping = true) :
    (restripeComplete s).nd.restriping = false ∧ (restripeComplete s).nd.bundlestat.getLsbD 1 = true ∧
      (restripeComplete s).intlvSize = s.nd.bundlestat.toNat / 2 ^ 32 % 2 ^ 32 * 2 ^ 20 := by
  rw [restripeComplete, if_pos h]
  refine ⟨rfl, by simp, ?_⟩
  show bits s.nd.bundlestat.toNat 32 32 * 2 ^ 20 = _
  rw [bits, Nat.shiftRight_eq_div_pow]
end

/-! ## The start (R405) -/

/-- Two states that differ at most in layers and in the Ndetrief's account of retired bundles. -/
structure BundlesApart (s t : State) : Prop where
  rest : { t with layers := s.layers, nd := s.nd } = s
  nd : { t.nd with bundlestat := s.nd.bundlestat, msix := s.nd.msix, narrowings := s.nd.narrowings } = s.nd

theorem BundlesApart.refl (s : State) : BundlesApart s s := ⟨rfl, rfl⟩

theorem BundlesApart.unchanged {β : Type} {s t : State} (h : BundlesApart s t) (g : State → β)
    (hg : ∀ u l d, g { u with layers := l, nd := d } = g u) : g t = g s := (hg ..).symm.trans (congrArg g h.rest)

theorem BundlesApart.nd_unchanged {β : Type} {s t : State} (h : BundlesApart s t) (g : Ndetrief → β)
    (hg : ∀ d b m n, g { d with bundlestat := b, msix := m, narrowings := n } = g d) : g t.nd = g s.nd :=
  (hg ..).symm.trans (congrArg g h.nd)

theorem BundlesApart.retireBundle {s t : State} (h : BundlesApart s t) (l : Nat) : BundlesApart s (retireBundle t l) := by
  obtain ⟨hrest, hnd⟩ := h
  unfold Machine.retireBundle
  dsimp only
  split
  · exact ⟨hrest, hnd⟩
  · split
    · exact ⟨hrest, hnd⟩
    · exact ⟨hrest, hnd⟩

/-- Step 4's failing bundles change nothing else. -/
theorem startBundles_apart (x : StartInput) (s : State) : BundlesApart s (startBundles x s) :=
  ite_keeps (BundlesApart s) (foldl_keeps (BundlesApart s) retireBundle (fun _ l h => h.retireBundle l) _ _ (.refl s)) (.refl s)

/-- A start begins with nothing in memory and nothing in the units, every agent in the ring, and the logs as they were. -/
theorem powerUp_leaves (s : State) : (powerUp s).mem = [] ∧ (powerUp s).harts = [] ∧ (powerUp s).cores = [] ∧ (powerUp s).tlb = [] ∧
    (powerUp s).contexts = [] ∧ (powerUp s).ring = allAgents ∧ (powerUp s).errLog = s.errLog ∧ (powerUp s).schedLog = s.schedLog := by
  have h : BundlesApart _ (powerUp s) := startBundles_apart s.nd.start _
  refine ⟨h.unchanged State.mem ?_, h.unchanged State.harts ?_, h.unchanged State.cores ?_, h.unchanged State.tlb ?_, h.unchanged State.contexts ?_,
    h.unchanged State.ring ?_, h.unchanged State.errLog ?_, h.unchanged State.schedLog ?_⟩ <;> exact fun _ _ _ => rfl

/-- The Ndetrief's time goes on, the start is counted, and the record of the last one is kept. -/
theorem powerUp_counts (s : State) : (powerUp s).nd.starts = s.nd.starts + 1 ∧ (powerUp s).nd.ltime = s.nd.ltime ∧
    (powerUp s).nd.previous = s.nd.record := by
  have h : BundlesApart _ (powerUp s) := startBundles_apart s.nd.start _
  have hcount : BitVec.ofNat 16 ((s.nd.starts.toNat + 1) % 2 ^ 16) = s.nd.starts + 1 := BitVec.eq_of_toNat_eq (by simp)
  exact ⟨(h.nd_unchanged Ndetrief.starts fun _ _ _ _ => rfl).trans hcount, h.nd_unchanged Ndetrief.ltime fun _ _ _ _ => rfl,
    h.nd_unchanged Ndetrief.previous fun _ _ _ _ => rfl⟩

/-- The device starts unless a step's failure ends the start (R505). -/
theorem powerUp_started (s : State) : (powerUp s).nd.started = true ↔ fatalStep s.nd.start = none := by
  have h : BundlesApart _ (powerUp s) := startBundles_apart s.nd.start _
  have hstarted : (powerUp s).nd.started = !(fatalStep s.nd.start).isSome := h.nd_unchanged Ndetrief.started fun _ _ _ _ => rfl
  rw [hstarted]
  simp

/-- Before its start the device does nothing but start. -/
theorem step_of_notStarted {s : State} (h : startOver s = false) : step s = .next (powerUp s) := by
  have hmove : nextMove s = (s, .powerUp) := if_pos (by rw [h]; rfl)
  rw [step, hmove]
  rfl

theorem allAgents_ne_nil : allAgents ≠ [] :=
  List.ne_nil_of_mem (a := Agent.pergola 0) (List.mem_append_right _ (List.mem_map_of_mem (List.mem_range.2 (by decide))))

end Sys2Proof.Machine
end

section
/-! ## The reset and the steps from outside, settled (01_device.md, 13_host_start.md) -/
namespace Sys2Proof.Machine

/-- Settles O60: the reset state is the one that lists nothing, and the start that follows is `powerUp_leaves` of it. -/
theorem resetState : Obligations.ResetState := by
  unfold Obligations.ResetState
  have hbefore : startOver State.reset = false := rfl
  have hfatal : fatalStep State.reset.nd.start = none := by decide
  obtain ⟨hmem, hharts, -, -, hcontexts, hring, -, -⟩ := powerUp_leaves State.reset
  have hstarted := (powerUp_started State.reset).2 hfatal
  refine ⟨rfl, rfl, hbefore, fun id n => ⟨rfl, ?_⟩, fun id => ?_, rfl, fun g b n => ⟨rfl, rfl⟩, fun c => rfl, rfl, rfl,
    powerUp State.reset, step_of_notStarted hbefore, ?_, hstarted, hmem, ?_, fun id => ?_, fun c => ?_⟩
  · exact ite_keeps (fun w : Word => w = 0) rfl rfl
  · exact ite_keeps (fun c : Clock => c.ltime = 0) rfl (ite_keeps (fun c : Clock => c.ltime = 0) rfl rfl)
  · rw [startOver, hstarted]; rfl
  · rw [hring]; exact allAgents_ne_nil
  · rw [hartOf, hharts]; rfl
  · rw [hcontexts]; rfl

/-- Settles O55: each step by the lemmas of the function that performs it; an event on a unit that exists is that function. -/
theorem deviceStepsFromOutside : Obligations.DeviceStepsFromOutside := by
  unfold Obligations.DeviceStepsFromOutside
  refine ⟨?_, ?_, ?_, ?_, ?_, ?_, ?_, ?_, ?_, ?_, ?_, ?_, ?_, ?_, ?_, ?_, ?_, ?_, ?_, ?_⟩
  · -- GOVERNOR_SAMPLE before it is due
    intro s c r f flow temp hnot
    exact ⟨_, rfl, by rw [governorSample_of_notDue hnot]; exact ⟨rfl, .of_mem rfl, .of_harts rfl⟩⟩
  · -- a sample that is due, with cooling at its rating
    intro s c r f flow temp hdue hflow htemp hfloor
    obtain ⟨hclock, hwindow, hnext⟩ := governorSample_decides (c := c) (r := r) (f := f) hdue (coolingLow_eq_false hflow htemp)
    refine ⟨_, rfl, .of_mem governorSample_mem, .of_harts governorSample_harts,
      governorSample_keepsEmergency hdue (coolingFails_eq_false hflow htemp) hfloor, hnext, fun hlo hhi => ?_, fun hlow => ?_,
      fun hhigh hshare => ?_, fun hhigh hshare => ?_⟩
    · rw [hclock, hwindow, governorSteps_hold hlo hhi]; exact ⟨rfl, rfl⟩
    · rw [hclock, hwindow, governorSteps_up hlow]; exact ⟨rfl, rfl⟩
    · rw [hclock, governorSteps_clock_down hhigh hshare]; rfl
    · rw [hwindow, governorSteps_window_down hhigh hshare]; rfl
  · -- a sample with cooling below its floor
    intro s c r f flow temp hdue hcool
    exact ⟨_, rfl, governorSample_raisesEmergency hdue (coolingFails_eq_true hcool)⟩
  · -- GOVERNOR_STEP_DELIVERY
    intro s
    exact ⟨_, rfl, stepDelivery_actwin s, .of_mem (stepDelivery_mem s), .of_harts (stepDelivery_harts s), fun p hp => stepDelivery_clkstep s hp⟩
  · -- DROOP_STRETCH
    intro s k g hk hg
    refine ⟨⟨_, event_of_exists (decide_eq_true hk) _, ?_, .of_harts rfl⟩, ⟨_, event_of_exists (decide_eq_true hg) _, ?_, .of_harts rfl⟩⟩
    · rw [droopStretch, pavOf_modPav, if_pos rfl]
    · rw [droopStretch, perOf_modPer_same]
  · -- POWER_EMERGENCY
    intro s
    exact ⟨_, rfl, by rw [powerEmergency_nd], .of_mem (powerEmergency_mem s), .of_harts (powerEmergency_harts s),
      fun c hc hrun => powerEmergency_halts hc hrun⟩
  · -- CLOCK_GATING
    intro s
    exact ⟨fun h => congrArg _ (clockGating_of_running h), fun hn hi => ⟨_, rfl, fun p hp => clockGating_gated hn hi hp⟩⟩
  · -- the mailbox out of service
    intro s a0 a1 hclosed
    have hstays := command_of_closed (mailboxOpen_of_notInService hclosed)
    refine ⟨?_, ?_, ?_, ?_, ?_, ?_, ?_⟩ <;> exact congrArg _ (hstays ..)
  · -- the mailbox in service
    intro s a0 a1 hin
    have hchain := chainOf_eq a1
    obtain ⟨hdone, hgo⟩ := regchain_ends hin a0 a1
    refine ⟨⟨_, rfl, hdone, hgo, fun hfree h1 h8192 => ?_, fun htaken => ?_⟩,
      ⟨_, rfl, hchain ▸ dropchain_drops hin a1⟩,
      ⟨_, rfl, setshare_ends hin a0 a1, setshare_of_le hin a0 a1, setshare_of_gt hin a0 a1⟩,
      ⟨_, rfl, ackhalt_acknowledges hin⟩,
      ⟨_, rfl, readstart_ends hin a0, readstart_of_lt hin a0, readstart_of_ge hin a0⟩,
      ⟨_, rfl, regwrite_ends hin a0 a1, fun h8 h32 => ?_, fun h8 => ?_, fun c _ hc hv ha => ?_⟩,
      ⟨_, rfl, regread_ends hin a0, fun v h8 h32 hv => regread_of_listed hin a0 h8 h32 hv⟩⟩
    · rw [← hchain] at hfree ⊢
      exact regchain_of_free hin a0 a1 hfree (by simp [ctxExists]; omega)
    · rw [← hchain] at htaken
      exact regchain_of_taken hin a0 a1 htaken
    · rw [regwrite_of_offset hin a0 a1 (regOffset_iff.2 ⟨h8, h32⟩)]; rfl
    · exact regwrite_of_noOffset hin a0 a1 (Bool.eq_false_iff.2 fun ho => h8 (regOffset_iff.1 ho).1)
    · rw [regwrite_of_offset hin a0 a1 (regOffset_iff.2 ⟨by omega, by omega⟩), ha]
      exact devWrite_ptroot (s := commandState s 0x06 a0 a1) hc hv a1
  · -- writes of the host and of peers
    intro s pa bytes hplain
    refine ⟨fun hsees => ⟨_, rfl, ?_⟩, fun link hl hp htaken => ?_, fun line hline hlo hhi h0 h128 => ⟨_, rfl, ?_⟩⟩
    · rw [hostMemWrite_of_seen hsees]
      exact ⟨readBytes_memWrite hplain, memWrite_onlyBytes hplain, memWrite_sameRegisters hplain⟩
    · have hwrite : event (packetOk link pa) (remoteWrite s pa bytes) = .next (sendBack (memWrite s pa bytes) [] false 0) := by
        rw [event_of_exists (packetOk_of_lt hl hp), remoteWrite_of_taken htaken]
      have hbytes := readBytes_memWrite hplain
      have honly := memWrite_onlyBytes hplain
      exact ⟨⟨_, hwrite, hbytes, honly, rfl, rfl⟩, ⟨_, hwrite, hbytes, honly, rfl, rfl⟩⟩
    · subst hline
      rw [cacheSnoop_of_data hlo hhi h0 h128]
      exact ⟨readBytes_memWrite hplain, memWrite_onlyBytes hplain⟩
  · -- reads of the host and of peers, and poisoned writes
    intro s pa n bytes
    refine ⟨fun hunseen => congrArg _ (hostMemRead_of_unseen hunseen), fun hsees h0 => ⟨_, rfl, ?_⟩, fun hf hr => ⟨fun hsees => ⟨_, rfl, ?_⟩,
      fun link hl hp htaken => ⟨_, event_of_exists (packetOk_of_lt hl hp) _, ?_⟩⟩,
      fun link c hl hp hrefused => ⟨_, event_of_exists (packetOk_of_lt hl hp) _, ?_⟩⟩
    · rw [hostMemWrite_poison_of_seen hsees]
      exact firstPoison_poisonRange s h0
    · rw [hostMemRead_of_seen hsees, memRead_of_unused hf hr]
      exact ⟨rfl, rfl, .of_mem rfl, .of_harts rfl⟩
    · rw [remoteRead_of_taken htaken, memRead_of_unused hf hr]
      exact ⟨rfl, rfl, rfl, .of_mem rfl⟩
    · rw [remoteRead_of_refused hrefused]
      exact ⟨rfl, rfl, .of_mem rfl⟩
  · -- atomics of peers
    intro s link pa sub n b c hl hp hok htaken hf hr
    have hexists : (packetOk link pa && atomicOk sub n) = true := by rw [packetOk_of_lt hl hp, hok]; rfl
    refine ⟨⟨_, event_of_exists hexists _, ?_⟩, fun h0 => ⟨_, event_of_exists (h0 ▸ hexists) _, ?_⟩⟩
    · obtain ⟨hanswer, hcode⟩ := remoteAtomic_answer (sub := sub) (wants := true) htaken hf hr
      exact ⟨hanswer, hcode, remoteAtomic_onlyBytes htaken hf hr, readBytes_remoteAtomic htaken hf hr⟩
    · obtain ⟨hanswer, -⟩ := remoteAtomic_answer (sub := 0) (wants := false) htaken hf hr
      exact ⟨hanswer, remoteAtomic_onlyBytes htaken hf hr, readNat_remoteAtomic_add htaken hf hr⟩
  · -- snoops without data
    intro s line hlo hhi
    refine ⟨_, rfl, ?_⟩
    rw [cacheSnoop_of_nil hlo hhi]
    exact ⟨.of_mem rfl, fun id m hm hline ht => hline ▸ dropMonitors_loses hm ht⟩
  · -- SPDM_REQUEST
    intro s n
    exact ⟨fun h => congrArg _ (spdm_of_noIndex h), fun hin h1 h5 => ⟨_, rfl, spdm_answers hin h1 h5⟩⟩
  · -- acknowledgements and refusals
    intro s n p data poison code
    refine ⟨fun hnone => ⟨congrArg _ (acknowledged_of_none s n hnone), congrArg _ (refusalReturn_of_none s n code hnone)⟩, fun hp =>
      ⟨⟨_, rfl, acknowledged_packets hp data poison, .of_mem (acknowledged_mem hp data poison), acknowledged_sameRegisters hp data poison,
        fun hw hk ha => ?_⟩,
      ⟨_, rfl, refusalReturn_packets hp code, .of_mem (refusalReturn_mem hp code), refusalReturn_sameRegisters hp code, ?_⟩⟩⟩
    · rw [hartOf_acknowledged hp data poison hw hk ha]
      exact ⟨rfl, rfl⟩
    · rw [port_refusalReturn hp code]
      exact ⟨Port.refuse_errCount .., fun h0 => Port.refuse_first p code h0⟩
  · -- peer ports
    intro s k hk
    exact ⟨⟨_, event_of_exists (decide_eq_true hk) _, port_modPort_same ..⟩,
      fun h => event_of_stays (decide_eq_true hk) (flitReplay_of_retraining h),
      fun h hr => ⟨_, event_of_exists (decide_eq_true hk) _, port_flitReplay h hr⟩,
      fun h ok => event_of_stays (decide_eq_true hk) (retrainEnd_of_notRetraining h ok), fun h =>
      ⟨⟨_, event_of_exists (decide_eq_true hk) _, port_retrainEnd_passed h⟩,
        fun hf => ⟨_, event_of_exists (decide_eq_true hk) _, port_retrainEnd_failed h hf⟩,
        fun hf => ⟨_, event_of_exists (decide_eq_true hk) _, retrainEnd_takesDown h hf⟩⟩⟩
  · -- the stack port
    intro s k n hk
    refine ⟨fun h => event_of_stays (decide_eq_true hk) (stackPortReplay_of_elsewhere h),
      fun h hlt => ⟨_, event_of_exists (decide_eq_true hk) _, ?_⟩, fun h hge => ⟨_, event_of_exists (decide_eq_true hk) _, ?_⟩⟩
    · rw [stackPortReplay_of_lt h hlt]
      exact ⟨by simp, .of_mem rfl⟩
    · rw [stackPortReplay_of_ge h hge]
      exact ⟨by simp, firstPoison_poisonRange _ (by decide), rfl⟩
  · -- realignment of a layer
    intro s l hl
    have hexists : decide (l < 144) = true := decide_eq_true hl
    exact ⟨fun h => event_of_stays hexists (realignmentRequest_of_pending h),
      fun hq hr => ⟨fun hb hd => ⟨_, event_of_exists hexists _, layerOf_realignmentRequest_deferred hq hr hb hd⟩,
        fun h => ⟨_, event_of_exists hexists _, layerOf_realignmentRequest_begins hq hr h⟩⟩,
      fun h => ⟨_, event_of_exists hexists _, layerOf_deferralEnds h⟩,
      fun h => event_of_stays hexists (deferralEnds_of_notOver h),
      fun h fails => event_of_stays hexists (realignmentEnd_of_notRealigning h fails),
      fun h h0 fails => ⟨_, event_of_exists hexists _, layerOf_realignmentEnd h h0 fails⟩⟩
  · -- BUNDLESTAT and re-striping
    intro s
    exact ⟨fun h => ⟨_, rfl, bundleAck_of_notice h⟩, fun h => congrArg _ (bundleAck_of_noNotice h),
      fun h => congrArg _ (restripeComplete_of_notRestriping h), fun h => ⟨_, rfl, restripeComplete_completes h⟩⟩
  · -- POWER_UP
    intro s
    obtain ⟨hmem, hharts, hcores, htlb, hcontexts, -, herr, hsched⟩ := powerUp_leaves s
    obtain ⟨hstarts, htime, hprevious⟩ := powerUp_counts s
    exact ⟨_, rfl, hmem, hharts, hcores, htlb, hcontexts, herr, hsched, hstarts, htime, hprevious, powerUp_started s⟩

end Sys2Proof.Machine
end

section
/-! ## The place after an instruction, and the accesses it waits for

What the end of an instruction leaves, as rewrites of the state's parts; what `afterLanding` and `afterAll` let pass. -/
namespace Sys2Proof.Machine

/-! ### The end of an instruction -/

theorem ControlFrame.cores {s t : State} (h : ControlFrame s t) : t.cores = s.cores := by have := congrArg State.cores h.rest; exact this
theorem ControlFrame.cur {s t : State} (h : ControlFrame s t) : t.cur = s.cur := by have := congrArg State.cur h.rest; exact this
theorem ControlFrame.coreOf {s t : State} (h : ControlFrame s t) (k : Nat) : coreOf t k = coreOf s k := by rw [Machine.coreOf, h.cores]; rfl
theorem ControlFrame.sameRegisters {s t : State} (h : ControlFrame s t) : SameRegisters s t := fun id n =>
  h.registers id n fun hc => absurd hc.1 List.not_mem_nil

@[simp] theorem advance_coreOf (s : State) (k : Nat) : coreOf (advance s) k = coreOf s k := (advance_frame s).coreOf k
@[simp] theorem advance_get (s : State) (id n : Nat) : (hartOf (advance s) id).get n = (hartOf s id).get n := (advance_frame s).sameRegisters id n
@[simp] theorem advance_cur (s : State) : (advance s).cur = s.cur := (advance_frame s).cur
@[simp] theorem jumpTo_coreOf (target : Word) (s : State) (k : Nat) : coreOf (jumpTo target s) k = coreOf s k := (jumpTo_frame target s).coreOf k
@[simp] theorem jumpTo_get (target : Word) (s : State) (id n : Nat) : (hartOf (jumpTo target s) id).get n = (hartOf s id).get n :=
  (jumpTo_frame target s).sameRegisters id n

theorem setCtl_run (s : State) (c : Ctl) (id : Nat) : (hartOf (setCtl s c) id).run = (hartOf s id).run := by
  have h := congrArg Hart.run ((setCtl_frame s c).harts id); exact h

/-- The end of an instruction leaves of a hart everything but registers and place. -/
theorem advance_run (s : State) (id : Nat) : (hartOf (advance s) id).run = (hartOf s id).run := by
  have h := congrArg Hart.run ((advance_frame s).harts id); exact h

/-- A function of several harts leaves every other hart as it was. -/
theorem hartOf_modHarts_other (f : Hart → Hart) {j : Nat} : ∀ {ids : List Nat} (s : State), j ∉ ids → hartOf (modHarts s ids f) j = hartOf s j
  | [], _, _ => rfl
  | i :: is, s, h => by
    rw [List.mem_cons, not_or] at h
    exact (hartOf_modHarts_other f (modHart s i f) h.2).trans (by rw [hartOf_modHart, if_neg h.1])

/-- The end of a compute hart's instruction moves no other hart. -/
theorem hartOf_advance_other {s : State} {id j : Nat} (hc : s.cur = .hart id) (h : j ≠ id) : hartOf (advance s) j = hartOf s j := by
  have hset : ∀ c, hartOf (setCtl s c) j = hartOf s j := fun c => by
    unfold setCtl
    rw [hc, hartOf_modHart, if_neg h]
  have hmark : ∀ t : State, t.cur = .hart id → hartOf (markBoundary t) j = hartOf t j := fun t ht => by
    unfold markBoundary allHarts
    rw [ht]
    exact hartOf_modHarts_other _ _ (by simpa using h)
  unfold advance advanceBy
  dsimp only
  split
  · rw [hmark _ (by rw [setCtl_cur, hc]), hset]
  · exact hset _

/-- Where the end of an instruction goes, from a state with the issuer's old place. -/
theorem ctl_advance_of {s u : State} {k : HartKind} (hk : curKind s = some k) (hcur : u.cur = s.cur) (hctl : ctl u = ctl s) :
    ctl (advance u) = nextPlace s := by
  have hk' : curKind u = some k := by unfold curKind at hk ⊢; rw [hcur]; exact hk
  rw [ctl_advance hk', hctl]; rfl

/-- The place of a hart that issues alone is its own. -/
theorem ctl_of_hart {s : State} {id : Nat} (h : s.cur = .hart id) : ctl s = { pc := (hartOf s id).pc, loops := (hartOf s id).loops } := by
  unfold ctl; rw [h]

theorem ctl_congr_hart {s u : State} {id : Nat} (h : s.cur = .hart id) (hu : u.cur = s.cur) (hpc : (hartOf u id).pc = (hartOf s id).pc)
    (hl : (hartOf u id).loops = (hartOf s id).loops) : ctl u = ctl s := by
  rw [ctl_of_hart h, ctl_of_hart (hu.trans h), hpc, hl]

theorem leadHart_of_hart {s : State} {id : Nat} (h : s.cur = .hart id) : leadHart s = id := by unfold leadHart; rw [h]
theorem curCore_of_hart {s : State} {id : Nat} (h : s.cur = .hart id) : curCore s = id / 2 := by
  unfold curCore; rw [leadHart_of_hart h]; rfl
theorem curCore_of_xHart {s : State} {k : Nat} (h : s.cur = .hart (xHartId k)) : curCore s = k := by
  rw [curCore_of_hart h, xHartId]; omega
theorem aHartId_ne_xHartId (k : Nat) : aHartId k ≠ xHartId k := by unfold aHartId xHartId; omega

/-! ### The accesses that an instruction waits for (R107, R117) -/

theorem afterLanding_of_landedAll {s : State} {id : Nat} (h : landedAll s id = true) : afterLanding s id = .ok () := by
  simp only [landedAll, Bool.and_eq_true, Bool.not_eq_true'] at h
  obtain ⟨hsent, hfetch⟩ := h
  unfold afterLanding afterSent
  rw [if_neg (by simp [hsent]), if_neg (by simp [hfetch])]
  rfl

theorem afterAll_of_orderedAll {s : State} {id : Nat} (h : orderedAll s id = true) : afterAll s id = .ok () := by
  simp only [orderedAll, Bool.and_eq_true, Bool.not_eq_true'] at h
  obtain ⟨hland, hbegun⟩ := h
  unfold afterAll
  rw [afterLanding_of_landedAll hland, if_neg (by simp [hbegun])]
  rfl

theorem need_of_true {ok : Bool} (h : ok = true) (code : BitVec 8) (info : Word) : need ok code info = .ok () := by rw [need, if_pos h]
theorem need_of_false {ok : Bool} (h : ok = false) (code : BitVec 8) (info : Word) : need ok code info = .error (.trap code info) := by
  rw [need, if_neg (by simp [h])]

theorem killFirst_of_not {s : State} (h : cancelled s = false) : killFirst s = .ok () := by rw [killFirst, if_neg (by simp [h])]

/-- A contained trap of an admitted instruction on a hart that is not cancelled; it is no UE, so nothing is logged. -/
theorem perform_trap {i : Instr} {s : State} {body : State → M State} {code : BitVec 8} {info : Word} (h : admitted i s = true)
    (hc : cancelled s = false) (hb : body s = .error (.trap code info)) (hue : code ≠ Cause.ue) :
    perform i s body = .next (takeTrap s (curPc s) code info (lateMajor i) false) := by
  rw [perform_admitted h, hb]
  simp only [finish, hc, Bool.false_eq_true, if_false, logged, hue]

end Sys2Proof.Machine
end

section
/-! ## What the device's reach to a context's memory depends on (R69, R73, R457)

Memory, poison, held translations, owned lines, the map of rows, leases and context entries. -/
namespace Sys2Proof.Machine

/-- Two states in which every address of a context leads to the same place and the same bytes. -/
structure SameReach (s t : State) : Prop where
  mem : t.mem = s.mem
  poison : t.poison = s.poison
  tlb : t.tlb = s.tlb
  owned : t.owned = s.owned
  intlvSize : t.intlvSize = s.intlvSize
  rowcap : t.rowcap = s.rowcap
  retired : t.retired = s.retired
  contexts : t.contexts = s.contexts
  leases : ∀ g, (perOf t g).lessee = (perOf s g).lessee

namespace SameReach
variable {s t : State} (h : SameReach s t)

theorem refl (s : State) : SameReach s s := ⟨rfl, rfl, rfl, rfl, rfl, rfl, rfl, rfl, fun _ => rfl⟩

theorem trans {s t u : State} (h : SameReach s t) (h' : SameReach t u) : SameReach s u :=
  ⟨h'.mem.trans h.mem, h'.poison.trans h.poison, h'.tlb.trans h.tlb, h'.owned.trans h.owned, h'.intlvSize.trans h.intlvSize,
    h'.rowcap.trans h.rowcap, h'.retired.trans h.retired, h'.contexts.trans h.contexts, fun g => (h'.leases g).trans (h.leases g)⟩

/-- Harts, cores and other units bear no part of it. -/
theorem modHart (s : State) (id : Nat) (f : Hart → Hart) : SameReach s (modHart s id f) := ⟨rfl, rfl, rfl, rfl, rfl, rfl, rfl, rfl, fun _ => rfl⟩
theorem modCore (s : State) (k : Nat) (f : Core → Core) : SameReach s (modCore s k f) := ⟨rfl, rfl, rfl, rfl, rfl, rfl, rfl, rfl, fun _ => rfl⟩
theorem modWing (s : State) (w : Nat) (f : Wing → Wing) : SameReach s (modWing s w f) := ⟨rfl, rfl, rfl, rfl, rfl, rfl, rfl, rfl, fun _ => rfl⟩
theorem modHalt (s : State) (c : BitVec 16) (f : HaltStat → HaltStat) : SameReach s (modHalt s c f) :=
  ⟨rfl, rfl, rfl, rfl, rfl, rfl, rfl, rfl, fun _ => rfl⟩
theorem modPer (s : State) (g : Nat) (f : Pergola → Pergola) (hf : ∀ p, (f p).lessee = p.lessee) : SameReach s (modPer s g f) :=
  ⟨rfl, rfl, rfl, rfl, rfl, rfl, rfl, rfl, fun j => by rw [perOf_modPer]; split <;> simp_all⟩
theorem setCur (s : State) (a : Agent) : SameReach s { s with cur := a } := ⟨rfl, rfl, rfl, rfl, rfl, rfl, rfl, rfl, fun _ => rfl⟩
theorem modHarts (f : Hart → Hart) : ∀ (ids : List Nat) (s : State), SameReach s (modHarts s ids f)
  | [], s => .refl s
  | i :: is, s => (SameReach.modHart s i f).trans (SameReach.modHarts f is (Machine.modHart s i f))

include h

theorem readByte (a : Nat) : readByte t a = readByte s a := by unfold Machine.readByte; rw [h.mem]
theorem readBytes (a n : Nat) : readBytes t a n = readBytes s a n := by unfold Machine.readBytes; rw [h.mem]
theorem readNat (a n : Nat) : readNat t a n = readNat s a n := by unfold Machine.readNat; rw [h.readBytes]
theorem firstPoison (a n : Nat) : firstPoison t a n = firstPoison s a n := by unfold Machine.firstPoison; rw [h.poison]
theorem recordLost (pa : Nat) : recordLost t pa = recordLost s pa := by unfold Machine.recordLost; rw [h.firstPoison]
theorem recordAt (pa : Nat) : recordAt t pa = recordAt s pa := h.readNat pa 64
theorem region (pa : Nat) : region t pa = region s pa := by unfold Machine.region; rw [h.intlvSize]
theorem rowCapable (g : Nat) : rowCapable t g = rowCapable s g := by unfold Machine.rowCapable; rw [h.rowcap, h.retired]
theorem leased (g : Nat) : leased t g = leased s g := by unfold Machine.leased; rw [h.leases]
theorem entryCtx (c : BitVec 16) : entryCtx t c = entryCtx s c := by unfold Machine.entryCtx; rw [h.contexts]

theorem tableReadable (pa : Nat) : tableReadable t pa = tableReadable s pa := by
  unfold Machine.tableReadable
  rw [h.region]
  split
  · rfl
  · rfl
  · rfl
  · rw [h.rowCapable, h.leased]
  · rfl

theorem walk (va : Nat) : ∀ n table : Nat, walk t va n table = walk s va n table
  | 0, _ => rfl
  | n + 1, table => by
    unfold Machine.walk
    simp only [h.tableReadable, h.firstPoison, h.readNat, walk va n]

theorem physTarget (c : AddrCtx) (r : Req) (enc : Bool) (pa : Nat) (info : Word) : physTarget t c r enc pa info = physTarget s c r enc pa info := by
  have ho : ownedAt t pa = ownedAt s pa := by unfold ownedAt; rw [h.owned]
  unfold Machine.physTarget
  simp only [h.region, h.rowCapable, h.leased, ho]

theorem resolveOrdinary (c : AddrCtx) (r : Req) (va : Nat) (info : Word) : resolveOrdinary t c r va info = resolveOrdinary s c r va info := by
  have ht : tlbFind t c.context va r.wr = tlbFind s c.context va r.wr := by unfold tlbFind; rw [h.tlb]
  unfold Machine.resolveOrdinary
  simp only [ht, h.walk, h.physTarget]

theorem deviceAddr (c : AddrCtx) (va : Nat) (wr : Bool) (align : Nat) : deviceAddr t c va wr align = deviceAddr s c va wr align := by
  unfold Machine.deviceAddr
  simp only [h.resolveOrdinary]

theorem deviceRead (c : AddrCtx) (va n align : Nat) : deviceRead t c va n align = deviceRead s c va n align := by
  unfold Machine.deviceRead
  simp only [h.deviceAddr, h.firstPoison, h.readNat]

theorem readBlock (c : AddrCtx) (va : Word) : readBlock t c va = readBlock s c va := by
  unfold Machine.readBlock
  rw [h.deviceRead]

theorem blockPoison (c : AddrCtx) (va : Word) : blockPoison t c va = blockPoison s c va := by
  unfold Machine.blockPoison
  simp only [h.readBlock, h.deviceRead]
end SameReach

end Sys2Proof.Machine
end

section
/-! ## The two harts of a core: FORK, JOIN and the queues (02_execution_model.md R34 to R36, R220 to R223) -/
namespace Sys2Proof.Machine

/-! ### FORK (R34, R221) -/

/-- Registers copied one after the other from another hart. -/
theorem get_foldl_put (x : Hart) (m : Nat) : ∀ (l : List Nat) (h : Hart),
    (l.foldl (fun h n => h.put n (x.get n)) h).get m = if m ∈ l then x.get m else h.get m
  | [], _ => rfl
  | n :: l, h => by
    rw [List.foldl_cons, get_foldl_put x m l, Hart.get_put]
    by_cases hm : m ∈ l
    · simp [hm]
    · by_cases hn : m = n
      · subst hn
        by_cases h0 : m = 0
        · subst h0; simp
        · simp [h0]
      · simp [hm, hn]

/-- A property that no register write changes stands after several. -/
theorem foldl_put_unchanged {β : Type} (g : Hart → β) (hg : ∀ h n v, g (h.put n v) = g h) (x : Hart) (l : List Nat) (h : Hart) :
    g (l.foldl (fun h n => h.put n (x.get n)) h) = g h :=
  foldl_unchanged g (fun u n => hg u n _) l h

/-- The A-hart of a FORK at its target. -/
def forkedHart (x a : Hart) (target : Word) : Hart :=
  { (List.range 8).foldl (fun h n => h.put n (x.get n)) a with pc := target, loops := [], run := .running, killReq := x.killReq }

theorem get_forkedHart (x a : Hart) (target : Word) (n : Nat) :
    (forkedHart x a target).get n = if 1 ≤ n ∧ n ≤ 7 then x.get n else a.get n := by
  show ((List.range 8).foldl (fun h n => h.put n (x.get n)) a).get n = _
  rw [get_foldl_put]
  simp only [List.mem_range]
  by_cases hn : 1 ≤ n ∧ n ≤ 7
  · rw [if_pos hn, if_pos (by omega)]
  · rw [if_neg hn]
    by_cases h0 : n = 0
    · subst h0; rfl
    · rw [if_neg (by omega)]

/-- A scope's new members change the record, and of a hart at most its monitor; a record that is poisoned would be a fault (R473). -/
theorem enterScope_of_sound {s : State} {c : BitVec 16} {va : Word} (h : scopeSound s c va = true) (n : Nat) :
    enterScope s c va n = s ∨ ∃ pa l, enterScope s c va n = writeBytes s pa l := by
  unfold scopeSound at h
  unfold enterScope
  split
  · next x hx =>
    simp only [hx, Bool.not_eq_true'] at h
    refine .inr ⟨x.1, leBytes 64 (setBits (recordAt s x.1) 288 32 (recLive (recordAt s x.1) + n)), ?_⟩
    have hrec : modRecord s x.1 (fun r => setBits r 288 32 (recLive r + n)) =
        writeNat s x.1 64 (setBits (recordAt s x.1) 288 32 (recLive (recordAt s x.1) + n)) := by rw [modRecord, h]; rfl
    have hlost : recordLost (writeNat s x.1 64 (setBits (recordAt s x.1) 288 32 (recLive (recordAt s x.1) + n))) x.1 = false := by
      simp only [recordLost, firstPoison, Option.isSome_map, List.find?_isSome, Bool.eq_false_iff, ne_eq] at h ⊢
      rintro ⟨p, hp, hq⟩
      exact h ⟨p, (List.mem_filter.1 hp).1, hq⟩
    rw [hrec, metRecord, hlost]
    rfl
  · exact .inl rfl

/-- What a member's entry into its scope leaves of the units. -/
theorem enterScope_units {s : State} {c : BitVec 16} {va : Word} (h : scopeSound s c va = true) (n : Nat) :
    (enterScope s c va n).cores = s.cores ∧ (enterScope s c va n).cur = s.cur ∧
      ∀ id, { hartOf (enterScope s c va n) id with monitor := (hartOf s id).monitor } = hartOf s id := by
  rcases enterScope_of_sound h n with e | ⟨pa, l, e⟩
  · rw [e]; exact ⟨rfl, rfl, fun _ => rfl⟩
  · rw [e]; exact ⟨rfl, rfl, fun id => by rw [hartOf_writeBytes]; rfl⟩

theorem SameReach.scopeSound {s t : State} (h : SameReach s t) (c : BitVec 16) (va : Word) : scopeSound t c va = scopeSound s c va := by
  unfold Machine.scopeSound
  simp only [h.entryCtx, h.deviceAddr, h.recordLost]

/-- The core and the A-hart of a FORK, before the A-hart enters its scope. -/
def forked (s : State) (k : Nat) (target : Word) : State :=
  modCore (modHart s (aHartId k) fun h => forkedHart (hartOf s (xHartId k)) h target) k fun c => { c with bqProducer := none }

theorem startAHart_eq (s : State) (k : Nat) (target : Word) : startAHart s k target =
    match (coreOf s k).step with
    | some i => enterScope (forked s k target) i.context i.scope 1
    | none => forked s k target := by
  have hstep : (coreOf (forked s k target) k).step = (coreOf s k).step := by rw [forked, coreOf_modCore_same]; rfl
  rw [← hstep]; rfl

theorem forked_reach (s : State) (k : Nat) (target : Word) : SameReach s (forked s k target) := (SameReach.modHart s _ _).trans (.modCore _ k _)

theorem coreOf_forked (s : State) (k j : Nat) (target : Word) :
    coreOf (forked s k target) j = if j = k then { coreOf s k with bqProducer := none } else coreOf s j := coreOf_modCore ..

theorem hartOf_forked (s : State) (k id : Nat) (target : Word) :
    hartOf (forked s k target) id = if id = aHartId k then forkedHart (hartOf s (xHartId k)) (hartOf s (aHartId k)) target else hartOf s id :=
  hartOf_modHart s (aHartId k) id fun h => forkedHart (hartOf s (xHartId k)) h target

/-- FORK's effect on the units: the A-hart at its target, the queue's producer open. -/
theorem startAHart_units {s : State} {k : Nat} (target : Word) (h : ∀ i ∈ (coreOf s k).step, scopeSound s i.context i.scope = true) :
    (startAHart s k target).cur = s.cur ∧ (∀ j, coreOf (startAHart s k target) j = coreOf (forked s k target) j) ∧
      ∀ id, { hartOf (startAHart s k target) id with monitor := (hartOf (forked s k target) id).monitor } = hartOf (forked s k target) id := by
  rw [startAHart_eq]
  cases hi : (coreOf s k).step with
  | none => exact ⟨rfl, fun _ => rfl, fun _ => rfl⟩
  | some i =>
    obtain ⟨hcores, hcur, hharts⟩ :=
      enterScope_units (((forked_reach s k target).scopeSound i.context i.scope).trans (h i (by rw [hi]; rfl))) 1
    exact ⟨hcur, fun j => by rw [coreOf, hcores]; rfl, hharts⟩

/-- FORK, with nothing to wait for and an aligned target, starts the A-hart. -/
theorem fork_starts {f : FmtR} {s : State} {k : Nat} (hcur : s.cur = .hart (xHartId k)) (hidle : (hartOf s (aHartId k)).run = .idle)
    (htarget : (xRead s f.a).toNat % 4 = 0) (hland : landedAll s (xHartId k) = true) :
    fork f s = .ok (advance (startAHart s k (xRead s f.a))) := by
  unfold fork
  dsimp only
  rw [curCore_of_xHart hcur, leadHart_of_hart hcur, need_of_true (by simpa using htarget), afterLanding_of_landedAll hland, if_pos hidle]
  rfl

/-- Settles O12: FORK's own checks pass (`fork_starts`), and the units are those of `startAHart_units`. -/
theorem forkStartsTheAHart : Obligations.ForkStartsTheAHart := by
  unfold Obligations.ForkStartsTheAHart
  intro f s k hcur hadm hidle htarget hland hscope
  obtain ⟨kind, hkind⟩ := admitted_curKind hadm
  obtain ⟨hcur', hcores, hharts⟩ := startAHart_units (xRead s f.a) hscope
  have hother : ∀ id, id ≠ aHartId k → hartOf (forked s k (xRead s f.a)) id = hartOf s id := fun id h => by rw [hartOf_forked, if_neg h]
  have hself : hartOf (forked s k (xRead s f.a)) (aHartId k) = forkedHart (hartOf s (xHartId k)) (hartOf s (aHartId k)) (xRead s f.a) := by
    rw [hartOf_forked, if_pos rfl]
  have hcurt : (startAHart s k (xRead s f.a)).cur = .hart (xHartId k) := hcur'.trans hcur
  have hahart := hartOf_advance_other hcurt (aHartId_ne_xHartId k)
  have hget : ∀ id n, (hartOf (startAHart s k (xRead s f.a)) id).get n = (hartOf (forked s k (xRead s f.a)) id).get n := fun id n => by
    have h := congrArg (fun h : Hart => h.get n) (hharts id); exact h
  refine ⟨_, perform_ok hadm (fork_starts hcur hidle htarget hland), ?_, ?_, ?_, fun n => ?_, fun id n hid => ?_, ?_, fun j hj => ?_, ?_⟩
  · rw [hahart]; exact (congrArg Hart.pc (hharts _)).trans (by rw [hself]; rfl)
  · rw [hahart]; exact (congrArg Hart.loops (hharts _)).trans (by rw [hself]; rfl)
  · rw [hahart]; exact (congrArg Hart.run (hharts _)).trans (by rw [hself]; rfl)
  · rw [advance_get, hget, hself, get_forkedHart]
  · rw [advance_get, hget, hother id hid]
  · rw [advance_coreOf, hcores, coreOf_forked, if_pos rfl]
  · rw [advance_coreOf, hcores, coreOf_forked, if_neg hj]
  · have hx := hother _ (aHartId_ne_xHartId k).symm
    refine ctl_advance_of hkind hcur' (ctl_congr_hart hcur hcur' ?_ ?_)
    · exact (congrArg Hart.pc (hharts _)).trans (by rw [hx])
    · exact (congrArg Hart.loops (hharts _)).trans (by rw [hx])

end Sys2Proof.Machine
end

section
/-! ## What the device's own work on scopes and blocks keeps (R54 to R64, R350 to R362, R477)

A walker decrements a block, a member enters or leaves its scope, a block completes, a fault is recorded: each is a composition of few
updates of the state. A property `P` that these updates keep (`ScopeKeeps P`, `WalkerKeeps P`) is kept by all of that work; each function
of the model has one lemma, for every such `P`. -/
namespace Sys2Proof.Machine

/-! ### Where a record or a block lies -/

/-- A computation that answers a value has got through its first step. -/
theorem ok_of_bind {ε α β : Type} {x : Except ε α} {f : α → Except ε β} {b : β} (h : (x >>= f) = .ok b) : ∃ a, x = .ok a ∧ f a = .ok b := by
  cases x with
  | error e => cases h
  | ok a => exact ⟨a, rfl, h⟩

theorem physTarget_phys {s : State} {c : AddrCtx} {r : Req} {enc : Bool} {pa q : Nat} {info : Word}
    (h : physTarget s c r enc pa info = .ok (.phys q)) : q = pa := by
  unfold physTarget at h
  split at h
  · cases h
  · split at h <;> (repeat' split at h) <;> cases h <;> rfl

/-- The place of an ordinary address lies in its page, large or small, as the address does. -/
theorem resolveOrdinary_phys {s : State} {c : AddrCtx} {r : Req} {va pa : Nat} {info : Word} {x : Resolved}
    (h : resolveOrdinary s c r va info = .ok x) (hp : x.place = .phys pa) :
    ∃ e : Nat, pa = entryBase e + va % 2 ^ 21 ∨ pa = entryBase e + va % 2 ^ 16 := by
  have hgot : ∀ {α : Type} {a : α} {f : α → Chk Resolved}, (Except.ok a >>= f) = .ok x → f a = .ok x := fun h => h
  have key : ∀ got : Nat × Nat × Bool, ∀ y : Place,
      physTarget s c r (got.1.testBit 8) (entryBase got.1 + if got.2.2 then va % 2 ^ 21 else va % 2 ^ 16) info = .ok y → x.place = y →
      ∃ e : Nat, pa = entryBase e + va % 2 ^ 21 ∨ pa = entryBase e + va % 2 ^ 16 := by
    intro got y hy hxy
    rw [← hxy, hp] at hy
    refine ⟨got.1, ?_⟩
    rw [physTarget_phys hy]
    split
    · exact .inl rfl
    · exact .inr rfl
  unfold resolveOrdinary at h
  dsimp only at h
  split at h <;>
  · obtain ⟨got, -, h⟩ := ok_of_bind h
    split at h
    · cases h
    · obtain ⟨y, hy, h⟩ := ok_of_bind h
      cases h
      exact key got y hy rfl

/-- A context's address and its physical address agree in their low bits: a page begins at a multiple of 256 (R70). -/
theorem deviceAddr_mod {s : State} {c : AddrCtx} {va : Nat} {wr : Bool} {align : Nat} {x : Nat × Resolved}
    (h : deviceAddr s c va wr align = .ok x) : x.1 % 256 = va % 256 ∧ va % align = 0 := by
  unfold deviceAddr at h
  split at h
  · cases h
  split at h
  · cases h
  next halign =>
  split at h
  · cases h
  obtain ⟨r, hr, h⟩ := ok_of_bind h
  split at h
  · next pa hpa =>
    cases h
    refine ⟨?_, not_not.1 halign⟩
    obtain ⟨e, he | he⟩ := resolveOrdinary_phys hr hpa <;>
    · dsimp only
      unfold entryBase at he
      omega
  · cases h

theorem deviceRead_ok {s : State} {c : AddrCtx} {va n align : Nat} {x : Nat × Nat} (h : deviceRead s c va n align = .ok x) :
    ∃ r, deviceAddr s c va false align = .ok (x.1, r) ∧ (firstPoison s x.1 n).isSome = false ∧ x.2 = readNat s x.1 n := by
  unfold deviceRead at h
  obtain ⟨a, ha, h⟩ := ok_of_bind h
  split at h
  · cases h
  · next hp =>
    cases h
    exact ⟨a.2, ha, by simpa using hp, rfl⟩

/-- A block lies at a multiple of 256 (R350). -/
theorem readBlock_mod {s : State} {c : AddrCtx} {va : Word} {b : Block} (h : readBlock s c va = .ok b) : b.pa % 256 = 0 := by
  unfold readBlock at h
  obtain ⟨x, hx, h⟩ := ok_of_bind h
  obtain ⟨r, hr, -⟩ := deviceRead_ok hx
  cases h
  obtain ⟨hmod, halign⟩ := deviceAddr_mod hr
  dsimp only at hmod ⊢
  omega

/-! ### Scopes, completions and faults -/

/-- The updates that records, blocks' completion and the recording of faults consist of keep `P`. -/
structure ScopeKeeps (P : State → Prop) : Prop where
  record : ∀ {s : State} {pa lo w : Nat} (v : Nat → Nat), 2 ≤ lo → lo + w ≤ 432 → P s → P (modRecord s pa fun r => setBits r lo w (v r))
  quiesce : ∀ {s : State} {c : BitVec 16}, P s → P (quiesce s c)
  owned : ∀ {s : State} {o : Tbl Owned}, P s → P { s with owned := o }
  control : ∀ {s : State} {b : Block} {st : Nat} {dead : Bool}, b.pa % 256 = 0 → P s → P (putControl s b st dead)
  ended : ∀ {s : State} {b : Block} {n : Nat}, b.pa % 256 = 0 → P s → P (putEnded s b n)
  errors : ∀ {s : State} {l : List ErrEntry}, P s → P { s with errLog := l }
  halts : ∀ {s : State} {c origin : BitVec 16} {cause : BitVec 8} {engine : BitVec 3} {pwr : Bool}, P s →
    P (assertHalt s c origin cause engine pwr)
  note : ∀ {s : State} {u : UnitRef} {f : FaultRec}, P s → P (noteFault s u f)
  kindCore : ∀ {s : State} {k : Nat} {i : StepInfo}, (coreOf s k).step = some i → (coreOf s k).phase = .stopped → P s →
    P (modCore s k fun q => { q with step := some { i with kind := 2 } })
  kindPer : ∀ {s : State} {g : Nat} {i : StepInfo}, (perOf s g).step = some i → (perOf s g).phase = .stopped → P s →
    P (modPer s g fun q => { q with step := some { i with kind := 2 } })
  header : ∀ {s : State} {i : StepInfo} {k : Nat} {f : FaultRec}, P s →
    P (putFault s i ((coreOf s k).frame + 0x8000) f) ∧ P (putFault s i (perOf s k).frame f)

namespace ScopeKeeps
variable {P : State → Prop} (h : ScopeKeeps P) {s : State}
include h

theorem setOwned {pa : Nat} {o : Owned} (hs : P s) : P (setOwned s pa o) := h.owned hs

theorem recordFault {u : UnitRef} {f : FaultRec} (hs : P s) : P (recordFault s u f) := by
  unfold Machine.recordFault
  split
  · next k =>
    split
    · next i hi =>
      split
      · next hp =>
        have hm := h.header (i := i) (k := k) (f := f) (h.kindCore hi hp hs)
        rw [coreOf_modCore_same] at hm
        exact hm.1
      · exact h.note hs
    · exact hs
  · next g =>
    split
    · next i hi =>
      split
      · next hp =>
        have hm := h.header (i := i) (k := g) (f := f) (h.kindPer hi hp hs)
        rw [perOf_modPer_same] at hm
        exact hm.2
      · exact h.note hs
    · exact hs

theorem contextFault {c : BitVec 16} {f : FaultRec} (hs : P s) : P (contextFault s c f) := by
  unfold Machine.contextFault
  dsimp only
  split
  · exact h.recordFault (h.halts hs)
  · exact h.halts hs

theorem unitFault {c : BitVec 16} {u : UnitRef} {f : FaultRec} (hs : P s) : P (unitFault s c u f) := h.recordFault (h.halts hs)

theorem devicePoison {c : BitVec 16} {engine : BitVec 3} {pa : Nat} {info : Word} (hs : P s) : P (devicePoison s c engine pa info) :=
  h.contextFault (h.errors hs)

theorem walkerPoison {c : BitVec 16} {hart : Nat} {info : Word} (hs : P s) : P (walkerPoison s c hart info) := h.contextFault (h.errors hs)

theorem metRecord {c : BitVec 16} {pa : Nat} {va : Word} (hs : P s) : P (metRecord s c pa va) :=
  ite_keeps P (h.devicePoison hs) hs

theorem enterScope {c : BitVec 16} {va : Word} {n : Nat} (hs : P s) : P (enterScope s c va n) := by
  unfold Machine.enterScope
  split
  · exact h.metRecord (h.record (fun r => recLive r + n) (by decide) (by decide) hs)
  · exact hs

theorem leaveScope {c : BitVec 16} {va : Word} {n : Nat} (hs : P s) : P (leaveScope s c va n) := by
  unfold Machine.leaveScope
  split
  · exact h.metRecord (h.quiesce (h.record (fun r => recLive r - n) (by decide) (by decide) hs))
  · exact hs

theorem leaveStep {i : StepInfo} {n : Nat} (hs : P s) : P (leaveStep s i n) := h.leaveScope hs

theorem countRecord {pa lo w n : Nat} (hlo : 2 ≤ lo) (hw : lo + w ≤ 432) (hs : P s) : P (countRecord s pa lo w n) :=
  ite_keeps P hs (h.record (fun r => bits r lo w + n) hlo hw hs)

theorem addKillSteps {pa n : Nat} (hs : P s) : P (addKillSteps s pa n) := h.countRecord (by decide) (by decide) hs
theorem addKillHarts {pa n : Nat} (hs : P s) : P (addKillHarts s pa n) := h.countRecord (by decide) (by decide) hs
theorem addRowsDrop {pa n : Nat} (hs : P s) : P (addRowsDrop s pa n) := h.countRecord (by decide) (by decide) hs
theorem addSlotsDrop {pa n : Nat} (hs : P s) : P (addSlotsDrop s pa n) := h.countRecord (by decide) (by decide) hs

theorem countKill {i : StepInfo} {f : State → Nat → State} (hf : ∀ t pa, P t → P (f t pa)) (hs : P s) : P (countKill s i f) := by
  unfold Machine.countKill
  split
  · exact h.metRecord (hf _ _ hs)
  · exact hs

theorem ownBlock {b : Block} {o : Owned} (hs : P s) : P (ownBlock s b o) := foldl_keeps P _ (fun _ _ ht => h.setOwned ht) _ _ hs

theorem addEnded {c : AddrCtx} {va : Word} {n : Nat} (hs : P s) : P (addEnded s c va n) := by
  unfold Machine.addEnded
  split
  · exact hs
  · next b hb =>
    have hpa := readBlock_mod hb
    exact ite_keeps P (h.ownBlock (h.control hpa (h.ended hpa hs))) (h.ended hpa hs)

theorem endKilledStep {i : StepInfo} (hs : P s) : P (endKilledStep s i) := h.addEnded (h.countKill (fun _ _ => h.addKillSteps) hs)

theorem ownScopes {c : AddrCtx} {pa : Nat} (hs : P s) : P (ownScopes s c pa) :=
  foldl_keeps P _ (fun _ _ ht => ite_keeps P (h.setOwned ht) ht) _ _ hs
end ScopeKeeps

/-! ### Walkers -/

/-- The updates of a walker beside those keep `P`. -/
structure WalkerKeeps (P : State → Prop) : Prop where
  write : ∀ {s : State} {pa : Nat} {l : List Byte}, P s → P (writeBytes s pa l)
  owned : ∀ {s : State} {o : Tbl Owned}, P s → P { s with owned := o }
  errors : ∀ {s : State} {l : List ErrEntry}, P s → P { s with errLog := l }
  rejects : ∀ {s : State} {l : List SchedEntry}, P s → P { s with schedLog := l }
  waiting : ∀ {s : State} {l : List BlockRef}, P s → P { s with waiting := l }
  held : ∀ {s : State} {l : List TlbEntry}, P s → P { s with tlb := l }
  wing : ∀ {s : State} {w : Nat} {f : Wing → Wing}, P s → P (modWing s w f)
  request : ∀ {s : State} {k : Nat} {b : Bool}, P s → P (modCore s k fun c => { c with preemptReq := b })
  halts : ∀ {s : State} {c origin : BitVec 16} {cause : BitVec 8} {engine : BitVec 3} {pwr : Bool}, P s →
    P (assertHalt s c origin cause engine pwr)
  note : ∀ {s : State} {u : UnitRef} {f : FaultRec}, P s → P (noteFault s u f)
  kindCore : ∀ {s : State} {k : Nat} {i : StepInfo}, (coreOf s k).step = some i → (coreOf s k).phase = .stopped → P s →
    P (modCore s k fun q => { q with step := some { i with kind := 2 } })
  kindPer : ∀ {s : State} {g : Nat} {i : StepInfo}, (perOf s g).step = some i → (perOf s g).phase = .stopped → P s →
    P (modPer s g fun q => { q with step := some { i with kind := 2 } })

namespace WalkerKeeps
variable {P : State → Prop} (h : WalkerKeeps P) {s : State}
include h

theorem writeNat {pa n v : Nat} (hs : P s) : P (writeNat s pa n v) := h.write hs

theorem modRecord {pa : Nat} {f : Nat → Nat} (hs : P s) : P (modRecord s pa f) := ite_keeps P hs (h.writeNat hs)

theorem putFault {i : StepInfo} {a : Nat} {f : FaultRec} (hs : P s) : P (putFault s i a f) := ite_keeps P (h.writeNat hs) hs

theorem scopeKeeps : ScopeKeeps P where
  record _ _ _ hs := h.modRecord hs
  quiesce hs := foldl_keeps P _ (fun _ _ ht => h.owned (h.modRecord ht)) _ _ hs
  owned := h.owned
  control _ hs := h.write hs
  ended _ hs := h.write hs
  errors := h.errors
  halts := h.halts
  note := h.note
  kindCore := h.kindCore
  kindPer := h.kindPer
  header hs := ⟨h.putFault hs, h.putFault hs⟩

theorem commit {r : Resolved} (hs : P s) : P (commit s r) := by
  have hd : P (match r.entryAt with
      | none => s
      | some (at', bits) =>
        let old := readByte s at'
        if old ||| BitVec.ofNat 8 bits = old then s else writeBytes s at' [old ||| BitVec.ofNat 8 bits]) := by
    split
    · exact hs
    · exact ite_keeps P hs (h.write hs)
  unfold Machine.commit
  dsimp only
  split
  · exact hd
  · exact h.held hd

theorem deviceTouch {c : AddrCtx} {va : Nat} (hs : P s) : P (deviceTouch s c va) := by
  unfold Machine.deviceTouch
  split
  · exact h.commit hs
  · exact hs

theorem chainTouch {c : AddrCtx} {target : Nat} : ∀ {fuel : Nat} {s : State} {va : Nat}, P s → P (chainTouch c target fuel s va)
  | 0, _, _, hs => hs
  | _ + 1, s, va, hs => by
    unfold Machine.chainTouch
    split
    · exact hs
    · exact ite_keeps P (h.commit hs) (chainTouch (h.commit hs))

theorem enqueue {b : Block} {r : BlockRef} (hs : P s) : P (enqueue s b r) :=
  foldl_keeps P _ (fun _ _ ht => ite_keeps P (h.wing ht) ht) _ _ hs

theorem dequeue {r : BlockRef} (hs : P s) : P (dequeue s r) := foldl_keeps P _ (fun _ _ ht => h.wing ht) _ _ hs

theorem requestPreempt {w : Nat} (hs : P s) : P (requestPreempt s w) :=
  foldl_keeps P _ (fun _ _ ht => ite_keeps P ht (h.request ht)) _ _ hs

theorem rejectBlock {c : AddrCtx} {r : BlockRef} {b : Option Block} {wing : Nat} {reason : BitVec 8} {detail : Word} {context : BitVec 16}
    (hs : P s) : P (rejectBlock s c r b wing reason detail context) := by
  have hw : P (match deviceAddr s c (r.va.toNat + 5) true 1 with
      | .ok x => writeBytes s x.1 [readByte s x.1 ||| 0xE0#8]
      | .error _ => s) := by
    split
    · exact h.write hs
    · exact hs
  unfold Machine.rejectBlock
  refine h.waiting (h.rejects ?_)
  split
  · exact h.scopeKeeps.ownBlock hw
  · exact hw

theorem killBlock {r : BlockRef} {b : Block} (hs : P s) : P (killBlock s r b) := h.waiting (h.scopeKeeps.ownBlock (h.write hs))

theorem blockReady {c : AddrCtx} {r : BlockRef} {b : Block} (hs : P s) : P (blockReady s c r b) := by
  unfold Machine.blockReady
  split
  · exact h.rejectBlock hs
  · dsimp only
    split
    · exact h.write (h.waiting hs)
    · have hq := h.enqueue (b := b) (r := r) (h.scopeKeeps.ownBlock (b := b) (o := .block)
        (h.write (pa := b.pa + 5) (l := [BitVec.ofNat 8 (bits b.raw 40 5 + (if false then 32 else 0) + 64 * 1)])
          (h.waiting (l := s.waiting.filter (· != r)) hs)))
      refine ite_keeps P ?_ (foldl_keeps P _ (fun _ _ ht => ite_keeps P (h.requestPreempt ht) ht) _ _ ?_)
      · split
        · exact h.scopeKeeps.ownScopes hq
        · exact hq
      · split
        · exact h.scopeKeeps.ownScopes hq
        · exact hq

theorem decrement {c : AddrCtx} {va : Word} (hs : P s) : P (decrement s c va) := by
  unfold Machine.decrement
  split
  · exact h.rejectBlock hs
  · dsimp only
    refine ite_keeps P hs (ite_keeps P (h.killBlock hs) (ite_keeps P ?_ (h.waiting (h.write hs))))
    split
    · exact h.blockReady (h.write hs)
    · exact h.write hs
end WalkerKeeps

/-! ### What such work leaves of the units -/

/-- Two cores that differ at most in a request for pre-emption, a fault on record and, once stopped, the KIND of their step's record. -/
structure CoreWalked (c d : Core) : Prop where
  rest : { d with preemptReq := c.preemptReq, fault := c.fault, step := c.step } = c
  step : d.step = c.step ∨ c.phase = .stopped ∧ ∃ i j, c.step = some i ∧ d.step = some j ∧ { j with kind := i.kind } = i

/-- The same of two Pergolas. -/
structure PerWalked (p q : Pergola) : Prop where
  rest : { q with fault := p.fault, step := p.step } = p
  step : q.step = p.step ∨ p.phase = .stopped ∧ ∃ i j, p.step = some i ∧ q.step = some j ∧ { j with kind := i.kind } = i

/-- What the work of walkers and scopes leaves: of a hart all but its monitor, of a unit all but requests and faults on record. -/
structure Walked (s t : State) : Prop where
  harts : ∀ id, { hartOf t id with monitor := (hartOf s id).monitor } = hartOf s id
  cores : ∀ k, CoreWalked (coreOf s k) (coreOf t k)
  pergolas : ∀ g, PerWalked (perOf s g) (perOf t g)
  rest : { t with harts := s.harts, cores := s.cores, pergolas := s.pergolas, wings := s.wings, mem := s.mem, poison := s.poison, tlb := s.tlb,
                  owned := s.owned, waiting := s.waiting, halts := s.halts, errLog := s.errLog, schedLog := s.schedLog } = s

theorem CoreWalked.refl (c : Core) : CoreWalked c c := ⟨rfl, .inl rfl⟩
theorem PerWalked.refl (p : Pergola) : PerWalked p p := ⟨rfl, .inl rfl⟩

theorem CoreWalked.phase {c d : Core} (h : CoreWalked c d) : d.phase = c.phase := by have e := congrArg Core.phase h.rest; exact e
theorem PerWalked.phase {p q : Pergola} (h : PerWalked p q) : q.phase = p.phase := by have e := congrArg Pergola.phase h.rest; exact e

theorem CoreWalked.trans {c d e : Core} (h : CoreWalked c d) (h' : CoreWalked d e) : CoreWalked c e where
  rest := (congrArg (fun x : Core => { x with preemptReq := c.preemptReq, fault := c.fault, step := c.step }) h'.rest).trans h.rest
  step := by
    rcases h'.step with e' | ⟨hp, i, j, hi, hj, hk⟩
    · rw [e']; exact h.step
    · rcases h.step with e'' | ⟨hp', i', j', hi', hj', hk'⟩
      · exact .inr ⟨h.phase ▸ hp, i, j, e'' ▸ hi, hj, hk⟩
      · obtain rfl : i = j' := Option.some.inj (hi.symm.trans hj')
        exact .inr ⟨hp', i', j, hi', hj, (congrArg (fun x : StepInfo => { x with kind := i'.kind }) hk).trans hk'⟩

theorem PerWalked.trans {c d e : Pergola} (h : PerWalked c d) (h' : PerWalked d e) : PerWalked c e where
  rest := (congrArg (fun x : Pergola => { x with fault := c.fault, step := c.step }) h'.rest).trans h.rest
  step := by
    rcases h'.step with e' | ⟨hp, i, j, hi, hj, hk⟩
    · rw [e']; exact h.step
    · rcases h.step with e'' | ⟨hp', i', j', hi', hj', hk'⟩
      · exact .inr ⟨h.phase ▸ hp, i, j, e'' ▸ hi, hj, hk⟩
      · obtain rfl : i = j' := Option.some.inj (hi.symm.trans hj')
        exact .inr ⟨hp', i', j, hi', hj, (congrArg (fun x : StepInfo => { x with kind := i'.kind }) hk).trans hk'⟩

theorem CoreWalked.of_running {c d : Core} (h : CoreWalked c d) (hp : c.phase ≠ .stopped) : d.step = c.step :=
  h.step.resolve_right fun e => hp e.1

/-- A core without a step gets none, whatever its phase. -/
theorem CoreWalked.none_step {c d : Core} (h : CoreWalked c d) (hn : c.step = none) : d.step = none := by
  rcases h.step with e | ⟨-, i, -, hi, -⟩
  · exact e.trans hn
  · rw [hn] at hi; cases hi

/-- The step of a unit stays the same one: launch, number, context and scope. -/
theorem CoreWalked.some_step {c d : Core} (h : CoreWalked c d) {i : StepInfo} (hi : c.step = some i) :
    ∃ j, d.step = some j ∧ { j with kind := i.kind } = i := by
  rcases h.step with e | ⟨-, i', j, hi', hj, hk⟩
  · exact ⟨i, e.trans hi, rfl⟩
  · obtain rfl : i = i' := Option.some.inj (hi.symm.trans hi')
    exact ⟨j, hj, hk⟩

namespace Walked
variable {s t : State}

theorem refl (s : State) : Walked s s := ⟨fun _ => rfl, fun _ => .refl _, fun _ => .refl _, rfl⟩

theorem get (h : Walked s t) : SameRegisters s t := .of_x fun id => by have e := congrArg Hart.x (h.harts id); exact e

theorem run (h : Walked s t) (id : Nat) : (hartOf t id).run = (hartOf s id).run := by have e := congrArg Hart.run (h.harts id); exact e

theorem cur (h : Walked s t) : t.cur = s.cur := by have e := congrArg State.cur h.rest; exact e

/-- An update of parts that the relation does not name. -/
theorem aside {u : State} (h : Walked s t) (hh : u.harts = t.harts) (hc : u.cores = t.cores) (hp : u.pergolas = t.pergolas)
    (hr : { u with wings := t.wings, mem := t.mem, poison := t.poison, tlb := t.tlb, owned := t.owned, waiting := t.waiting, halts := t.halts,
                   errLog := t.errLog, schedLog := t.schedLog } = t) : Walked s u where
  harts id := by have := h.harts id; rwa [show hartOf u id = hartOf t id by rw [hartOf, hh]; rfl]
  cores k := by have := h.cores k; rwa [show coreOf u k = coreOf t k by rw [coreOf, hc]; rfl]
  pergolas g := by have := h.pergolas g; rwa [show perOf u g = perOf t g by rw [perOf, hp]; rfl]
  rest := (congrArg (fun x : State => { x with
    harts := s.harts, cores := s.cores, pergolas := s.pergolas, wings := s.wings, mem := s.mem, poison := s.poison, tlb := s.tlb,
    owned := s.owned, waiting := s.waiting, halts := s.halts, errLog := s.errLog, schedLog := s.schedLog }) hr).trans h.rest

/-- An update of a core that walkers make. -/
theorem modCore (h : Walked s t) (k : Nat) (f : Core → Core) (hf : CoreWalked (coreOf t k) (f (coreOf t k))) : Walked s (modCore t k f) where
  harts := h.harts
  cores j := by
    rw [coreOf_modCore]
    split
    · next e => subst e; exact (h.cores j).trans hf
    · exact h.cores j
  pergolas := h.pergolas
  rest := h.rest

theorem modPer (h : Walked s t) (g : Nat) (f : Pergola → Pergola) (hf : PerWalked (perOf t g) (f (perOf t g))) : Walked s (modPer t g f) where
  harts := h.harts
  cores := h.cores
  pergolas j := by
    rw [perOf_modPer]
    split
    · next e => subst e; exact (h.pergolas j).trans hf
    · exact h.pergolas j
  rest := h.rest

/-- Every update of a walker stands in the relation. -/
theorem keeps (s : State) : WalkerKeeps (Walked s) where
  write := fun {t pa l} h =>
    ⟨fun id => by rw [hartOf_writeBytes]; exact h.harts id, h.cores, h.pergolas, h.rest⟩
  owned h := h.aside rfl rfl rfl rfl
  errors h := h.aside rfl rfl rfl rfl
  rejects h := h.aside rfl rfl rfl rfl
  waiting h := h.aside rfl rfl rfl rfl
  held h := h.aside rfl rfl rfl rfl
  wing h := h.aside rfl rfl rfl rfl
  request h := h.modCore _ _ ⟨rfl, .inl rfl⟩
  halts h := h.aside rfl rfl rfl rfl
  note := fun {t u f} h => by
    cases u with
    | core k => exact h.modCore _ _ ⟨rfl, .inl rfl⟩
    | pergola g => exact h.modPer _ _ ⟨rfl, .inl rfl⟩
  kindCore := fun {t k i} hi hp h => h.modCore _ _ ⟨rfl, .inr ⟨hp, i, _, hi, rfl, rfl⟩⟩
  kindPer := fun {t g i} hi hp h => h.modPer _ _ ⟨rfl, .inr ⟨hp, i, _, hi, rfl, rfl⟩⟩

theorem scope (s : State) : ScopeKeeps (Walked s) := (keeps s).scopeKeeps
end Walked

end Sys2Proof.Machine
end

section
/-! ## JOIN, data queues and branch outcomes (02_execution_model.md R34 to R36, R222, R223) -/
namespace Sys2Proof.Machine

/-! ### What these instructions leave -/

theorem ControlFrame.pergolas_only {s t : State} (h : ControlFrame s t) : { t with harts := s.harts, pergolas := s.pergolas } = s := h.rest

/-- One core's update, and what ends an instruction after it, are a `CoreFrame`. -/
theorem coreFrame_of {s t : State} {k : Nat} {f : Core → Core} (h : ControlFrame (modCore s k f) t) : CoreFrame s t k := by
  refine ⟨?_, fun j hj => ?_⟩
  · have e := congrArg (fun u : State => { u with cores := s.cores }) h.rest; exact e
  · rw [h.coreOf, coreOf_modCore, if_neg hj]

/-- One core and one hart's registers, and what ends an instruction after them, are a `CoreFrame`. -/
theorem coreFrame_modHart_of {s t : State} {k id : Nat} {f : Core → Core} {g : Hart → Hart}
    (h : ControlFrame (modHart (modCore s k f) id g) t) : CoreFrame s t k := by
  refine ⟨?_, fun j hj => ?_⟩
  · have e := congrArg (fun u : State => { u with cores := s.cores, harts := s.harts }) h.rest; exact e
  · rw [h.coreOf, coreOf_modHart, coreOf_modCore, if_neg hj]

/-- A core's state has no part in the issuer's place. -/
theorem ctl_modCore (s : State) (k : Nat) (f : Core → Core) : ctl (modCore s k f) = ctl s := rfl

theorem major_of_encR {i : Instr} {M : BitVec 8} {S : BitVec 6} {f : FmtR} (h : encodeWord i = some (encR M S f)) : major i = M.toNat := by
  have e := congrArg BitVec.toNat (Laws.major_encR M S f)
  rw [major, instrWord, h, Option.getD_some, ← e, BitVec.extractLsb'_toNat, Nat.shiftRight_zero]

/-- The queue instructions and JOIN make their checks at issue (R458). -/
theorem lateMajor_of_major {i : Instr} (h : major i = 0x23) : lateMajor i = false := by
  rw [lateMajor, queued, h]; rfl

theorem hartOf_emptyQueues (s : State) (k id : Nat) : hartOf (emptyQueues s k) id = hartOf s id := rfl

theorem queuesEmpty_emptyQueues (s : State) (k : Nat) : queuesEmpty (coreOf (emptyQueues s k) k) = true := by
  rw [emptyQueues, coreOf_modCore_same]; rfl

/-- A contained trap of an admitted instruction that makes its checks at issue, on a hart that is not cancelled. -/
theorem perform_trap_early {i : Instr} {s : State} {body : State → M State} {code : BitVec 8} {info : Word} (h : admitted i s = true)
    (hc : cancelled s = false) (hl : lateMajor i = false) (hb : body s = .error (.trap code info)) (hue : code ≠ Cause.ue) :
    perform i s body = .next (takeTrap s (curPc s) code info false false) := by
  rw [perform_trap h hc hb hue, hl]

/-! ### JOIN and its rendezvous (R34) -/

theorem join_meets {s : State} {k : Nat} (hcur : s.cur = .hart (xHartId k)) (hidle : (hartOf s (aHartId k)).run = .idle)
    (hc : cancelled s = false) (hl : landedAll s (xHartId k) = true) : join s = .ok (advance (emptyQueues s k)) := by
  unfold join
  dsimp only
  rw [killFirst_of_not hc, leadHart_of_hart hcur, afterLanding_of_landedAll hl, curCore_of_xHart hcur, if_pos ⟨rfl, hidle⟩]
  rfl

theorem join_stands {s : State} (hc : cancelled s = false) (hl : landedAll s (leadHart s) = true)
    (h : ¬(leadHart s = xHartId (curCore s) ∧ (hartOf s (aHartId (curCore s))).run = .idle)) :
    join s = .ok (modHart s (leadHart s) fun h => { h with run := .atJoin }) := by
  unfold join
  dsimp only
  rw [killFirst_of_not hc, afterLanding_of_landedAll hl, if_neg h]
  rfl

/-- An admitted instruction is one of the issuer's class, and its fields pass step 3 (R187). -/
theorem admitted_checks {i : Instr} {s : State} {k : HartKind} (h : admitted i s = true) (hk : curKind s = some k) (hh : isHeader i = false) :
    hartExecutes k i = true ∧ fieldsOk k i = true := by
  unfold admitted at h
  rw [hk] at h
  simp only [Bool.and_eq_true, Option.isNone_iff_eq_none] at h
  obtain ⟨⟨⟨hpre, -⟩, -⟩, -⟩ := h
  unfold preCheck at hpre
  rw [hh, if_neg (by decide)] at hpre
  split at hpre
  · cases hpre
  · cases hx : hartExecutes k i <;> cases hf : fieldsOk k i <;> simp [hx, hf] at hpre ⊢

/-- An instruction that no bank executes is performed by a compute hart or a docent. -/
theorem cur_of_admitted {i : Instr} {s : State} (h : admitted i s = true) (hh : isHeader i = false) (hb : hartExecutes .bank i = false) :
    s.cur = .hart (leadHart s) := by
  obtain ⟨kind, hk⟩ := admitted_curKind h
  have hne : kind ≠ .bank := by
    rintro rfl
    have hx := (admitted_checks h hk hh).1
    rw [hb] at hx
    cases hx
  unfold curKind at hk
  split at hk
  · next id hid => rw [hid, leadHart_of_hart hid]
  · split at hk <;> cases hk; exact absurd rfl hne
  · split at hk <;> cases hk; exact absurd rfl hne
  · cases hk

/-- The A-hart becomes idle; the walk of its scope leaves the other harts' places and states. -/
theorem idleAHart_walked (s : State) (k : Nat) : Walked (modHart s (aHartId k) fun h => h.drop .idle) (idleAHart s k) := by
  unfold idleAHart
  dsimp only
  split
  · exact (Walked.scope _).leaveStep (.refl _)
  · exact .refl _

/-- The queues empty and the X-hart running again, before its JOIN ends. -/
def xResumed (s : State) (k : Nat) : State :=
  { modHart (emptyQueues s k) (xHartId k) fun h => { h with run := .running } with cur := .hart (xHartId k) }

theorem hartOf_xResumed (s : State) (k id : Nat) :
    hartOf (xResumed s k) id = if id = xHartId k then { hartOf s (xHartId k) with run := .running } else hartOf s id :=
  hartOf_modHart (emptyQueues s k) (xHartId k) id fun h => { h with run := .running }

theorem hartOf_xResumed_aHart (s : State) (k : Nat) : hartOf (xResumed s k) (aHartId k) = hartOf s (aHartId k) := by
  rw [hartOf_xResumed, if_neg (aHartId_ne_xHartId k)]

theorem hartOf_xResumed_xHart (s : State) (k : Nat) : hartOf (xResumed s k) (xHartId k) = { hartOf s (xHartId k) with run := .running } := by
  rw [hartOf_xResumed, if_pos rfl]

theorem xResumed_sameRegisters (s : State) (k : Nat) : SameRegisters s (xResumed s k) := fun id n => by
  rw [hartOf_xResumed]; split
  · next h => rw [h]; rfl
  · rfl

/-- The rendezvous of both harts, before the X-hart's JOIN ends. -/
def met (s : State) (k : Nat) : State := xResumed (if (hartOf s (aHartId k)).run = .atJoin then idleAHart s k else s) k

theorem hartOf_idleAHart (s : State) (k : Nat) :
    (hartOf (idleAHart s k) (aHartId k)).run = .idle ∧ (hartOf (idleAHart s k) (xHartId k)).pc = (hartOf s (xHartId k)).pc ∧
      (hartOf (idleAHart s k) (xHartId k)).loops = (hartOf s (xHartId k)).loops := by
  have hw := idleAHart_walked s k
  have ha : hartOf (modHart s (aHartId k) fun h => h.drop .idle) (aHartId k) = (hartOf s (aHartId k)).drop .idle := by
    rw [hartOf_modHart, if_pos rfl]
  have hx : hartOf (modHart s (aHartId k) fun h => h.drop .idle) (xHartId k) = hartOf s (xHartId k) := by
    rw [hartOf_modHart, if_neg (aHartId_ne_xHartId k).symm]
  refine ⟨by rw [hw.run, ha]; rfl, ?_, ?_⟩
  · have e := congrArg Hart.pc (hw.harts (xHartId k)); rw [hx] at e; exact e
  · have e := congrArg Hart.loops (hw.harts (xHartId k)); rw [hx] at e; exact e

theorem idleAHart_sameRegisters (s : State) (k : Nat) : SameRegisters s (idleAHart s k) :=
  (SameRegisters.modHart (f := fun h => h.drop .idle) fun _ => rfl).trans (idleAHart_walked s k).get

theorem hartOf_met {s : State} {k : Nat} (h : (hartOf s (aHartId k)).run = .atJoin ∨ (hartOf s (aHartId k)).run = .idle) :
    SameRegisters s (met s k) ∧ (hartOf (met s k) (aHartId k)).run = .idle ∧
      (hartOf (met s k) (xHartId k)).run = .running ∧ (hartOf (met s k) (xHartId k)).pc = (hartOf s (xHartId k)).pc ∧
      (hartOf (met s k) (xHartId k)).loops = (hartOf s (xHartId k)).loops := by
  unfold met
  rw [hartOf_xResumed_aHart, hartOf_xResumed_xHart]
  split
  · obtain ⟨hrun, hpc, hloops⟩ := hartOf_idleAHart s k
    exact ⟨(idleAHart_sameRegisters s k).trans (xResumed_sameRegisters _ k), hrun, rfl, hpc, hloops⟩
  · next hj => exact ⟨xResumed_sameRegisters s k, h.resolve_left hj, rfl, rfl, rfl⟩

theorem queuesEmpty_met (s : State) (k : Nat) : queuesEmpty (coreOf (met s k) k) = true := queuesEmpty_emptyQueues _ k

theorem joinMeet_eq {s : State} {k : Nat}
    (h : (hartOf s (xHartId k)).run = .atJoin ∧ ((hartOf s (aHartId k)).run = .atJoin ∨ (hartOf s (aHartId k)).run = .idle)) :
    joinMeet s k = advance (met s k) := by
  unfold joinMeet
  dsimp only
  rw [if_pos h]; rfl

/-- Settles O13: JOIN answers by `join_meets` and `join_stands`, the rendezvous by `hartOf_met`. -/
theorem joinMeetsAtTheRendezvous : Obligations.JoinMeetsAtTheRendezvous := by
  unfold Obligations.JoinMeetsAtTheRendezvous
  refine ⟨fun f s k hcur hadm hidle hc hl => ?_, fun f s hadm hc hl h => ?_, fun s k hk hx ha => ?_, fun s k hk h => ?_⟩
  · obtain ⟨kind, hkind⟩ := admitted_curKind hadm
    refine ⟨_, perform_ok hadm (join_meets hcur hidle hc hl), ?_, ctl_advance_of hkind rfl rfl, fun id n => advance_get _ id n, ?_⟩
    · rw [advance_coreOf, queuesEmpty_emptyQueues]
    · exact (advance_frame (emptyQueues s k)).memory
  · refine perform_ok hadm (join_stands hc hl ?_)
    rintro ⟨hx, hidle⟩
    exact h _ ((cur_of_admitted hadm rfl rfl).trans (by rw [hx])) hidle
  · obtain ⟨hget, harun, hxrun, hpc, hloops⟩ := hartOf_met ha
    refine ⟨_, event_of_exists (by simpa using hk) _, ?_, ?_, ?_, ?_, fun id n => ?_⟩ <;> rw [joinMeet_eq ⟨hx, ha⟩]
    · rw [advance_coreOf, queuesEmpty_met]
    · rw [advance_run, harun]
    · rw [advance_run, hxrun]
    · have hkind : curKind (met s k) = some .xHart := by
        have hid : xHartId k < 256 ∧ xHartId k % 2 = 1 := by unfold xHartId; omega
        show (if xHartId k < 0x8000 then kindOfId (xHartId k) else none) = _
        rw [if_pos (by omega), kindOfId, if_pos hid.1, if_pos hid.2]
      have hctl := ctl_advance hkind
      rw [ctl_of_hart (s := advance (met s k)) (id := xHartId k) (by rw [advance_cur]; rfl), ctl_of_hart (s := met s k) (id := xHartId k) rfl,
        hpc, hloops] at hctl
      exact congrArg Ctl.pc hctl
    · rw [advance_get, hget]
  · refine event_of_stays (by simpa using hk) ?_
    unfold joinMeet
    exact if_neg h

/-! ### Data queues (R35, R222) -/

theorem lateMajor_queues (f : FmtR) : lateMajor (.qpush f) = false ∧ lateMajor (.qpop f) = false ∧ lateMajor (.bqpush f) = false ∧
    lateMajor (.bqbr f) = false :=
  ⟨lateMajor_of_major (major_of_encR (M := 0x23) rfl), lateMajor_of_major (major_of_encR (M := 0x23) rfl), lateMajor_of_major (major_of_encR (M := 0x23) rfl),
    lateMajor_of_major (major_of_encR (M := 0x23) rfl)⟩

theorem xWrite_of_hart {s : State} {id : Nat} (h : s.cur = .hart id) (o : Opnd) (v : Word) :
    xWrite s o v = modHart s id fun h => h.dest o v := by rw [Machine.xWrite, leadHart_of_hart h]

theorem qpush_appends {f : FmtR} {s : State} {id : Nat} (hcur : s.cur = .hart id) (hs : sends id f.d.num.toNat = true)
    (ho : orderedAll s id = true) (hroom : ((coreOf s (id / 2)).dq f.d.num.toNat).length < 16) :
    qpush f s = .ok (advance (modCore s (id / 2) fun c =>
      c.setDq f.d.num.toNat ((coreOf s (id / 2)).dq f.d.num.toNat ++ [xRead s f.a]))) := by
  unfold qpush
  dsimp only
  rw [curCore_of_hart hcur, leadHart_of_hart hcur, need_of_true hs, afterAll_of_orderedAll ho, if_pos hroom]
  rfl

theorem qpop_takes {f : FmtR} {s : State} {id : Nat} {v : Word} {q : List Word} (hcur : s.cur = .hart id)
    (hs : sends id f.a.num.toNat = false) (hq : (coreOf s (id / 2)).dq f.a.num.toNat = v :: q) :
    qpop f s = .ok (advance (modHart (modCore s (id / 2) fun c => c.setDq f.a.num.toNat q) id fun h => h.dest f.d v)) := by
  unfold qpop
  dsimp only
  rw [curCore_of_hart hcur, leadHart_of_hart hcur, need_of_true (by rw [hs]; rfl), hq]
  exact congrArg (fun t => ok (advance t)) (xWrite_of_hart (s := modCore s (id / 2) _) hcur _ _)

theorem qpush_wrong_end {f : FmtR} {s : State} {id : Nat} (hcur : s.cur = .hart id) (hs : sends id f.d.num.toNat = false) :
    qpush f s = .error (.trap Cause.queue (BitVec.ofNat 64 f.d.num.toNat)) := by
  unfold qpush
  dsimp only
  rw [leadHart_of_hart hcur, need_of_false hs]
  rfl

theorem qpop_wrong_end {f : FmtR} {s : State} {id : Nat} (hcur : s.cur = .hart id) (hs : sends id f.a.num.toNat = true) :
    qpop f s = .error (.trap Cause.queue (BitVec.ofNat 64 f.a.num.toNat)) := by
  unfold qpop
  dsimp only
  rw [leadHart_of_hart hcur, need_of_false (by rw [hs]; rfl)]
  rfl

/-- Settles O14: each of the two instructions either moves its queue (`qpush_appends`, `qpop_takes`) or traps at the wrong end. -/
theorem dataQueuesAreFirstInFirstOut : Obligations.DataQueuesAreFirstInFirstOut := by
  unfold Obligations.DataQueuesAreFirstInFirstOut
  refine ⟨fun f s id hcur hadm hs ho hroom => ?_, fun f s id v q hcur hadm hs hq => ?_, fun f s id hcur hadm hc hs => ?_,
    fun f s id hcur hadm hc hs => ?_⟩
  · obtain ⟨kind, hkind⟩ := admitted_curKind hadm
    refine ⟨_, perform_ok hadm (qpush_appends hcur hs ho hroom), ctl_advance_of hkind rfl rfl, coreFrame_of (advance_frame _), ?_,
      fun j n => advance_get _ j n⟩
    rw [advance_coreOf, coreOf_modCore_same]
  · obtain ⟨kind, hkind⟩ := admitted_curKind hadm
    refine ⟨_, perform_ok hadm (qpop_takes hcur hs hq), ctl_advance_of hkind rfl ?_, coreFrame_modHart_of (advance_frame _), ?_, ?_,
      fun j n hj => ?_⟩
    · refine ctl_congr_hart hcur rfl ?_ ?_ <;> rw [hartOf_modHart, if_pos rfl] <;> unfold Hart.dest Hart.put <;> split <;> rfl
    · rw [advance_coreOf, coreOf_modHart, coreOf_modCore_same]
    · rw [advance_get, hartOf_modHart, if_pos rfl, Hart.get_dest]
      by_cases h0 : f.d.num.toNat = 0
      · rw [h0]; simp
      · simp [h0]
    · rw [advance_get, hartOf_modHart]
      split
      · next e => subst e; rw [Hart.get_dest, if_neg (fun h => hj ⟨rfl, h.1⟩)]; rfl
      · rfl
  · exact perform_trap_early hadm hc (lateMajor_queues f).1 (qpush_wrong_end hcur hs) (by decide)
  · exact perform_trap_early hadm hc (lateMajor_queues f).2.1 (qpop_wrong_end hcur hs) (by decide)

/-! ### Branch outcomes (R36, R223) -/

theorem bqpush_appends {f : FmtR} {s : State} {id : Nat} (hcur : s.cur = .hart id)
    (hp : (coreOf s (id / 2)).bqProducer ≠ some (decide (id % 2 = 0))) (ho : orderedAll s id = true)
    (hroom : (coreOf s (id / 2)).bq.length < 32) :
    bqpush f s = .ok (advance (modCore s (id / 2) fun c =>
      { c with bq := (coreOf s (id / 2)).bq ++ [xRead s f.a != 0], bqProducer := some (decide (id % 2 = 1)) })) := by
  have hme : ((coreOf s (id / 2)).bqProducer.getD (decide (id % 2 = 1)) == decide (id % 2 = 1)) = true := by
    cases hb : (coreOf s (id / 2)).bqProducer with
    | none => simp
    | some b =>
      rw [hb] at hp
      rcases Nat.mod_two_eq_zero_or_one id with h | h <;> cases b <;> simp_all
  have hsame : ∀ l : List Bool, modCore s (id / 2) (fun c => { c with bq := c.bq ++ l, bqProducer := some (decide (id % 2 = 1)) }) =
      modCore s (id / 2) fun c => { c with bq := (coreOf s (id / 2)).bq ++ l, bqProducer := some (decide (id % 2 = 1)) } := fun _ => rfl
  unfold bqpush
  dsimp only
  rw [curCore_of_hart hcur, leadHart_of_hart hcur, need_of_true hme, afterAll_of_orderedAll ho, if_pos hroom]
  rfl

theorem bqbr_takes {f : FmtR} {s : State} {id : Nat} {b : Bool} {q : List Bool} (hcur : s.cur = .hart id)
    (hp : (coreOf s (id / 2)).bqProducer ≠ some (decide (id % 2 = 1))) (hq : (coreOf s (id / 2)).bq = b :: q) :
    bqbr f s = .ok (if b then jumpTo (curPc s + 4 * f.mod.signExtend 64) (modCore s (id / 2) fun c => { c with bq := q })
      else advance (modCore s (id / 2) fun c => { c with bq := q })) := by
  unfold bqbr
  dsimp only
  rw [curCore_of_hart hcur, leadHart_of_hart hcur, need_of_true (by simpa using hp), hq]
  rfl

theorem bqpush_wrong_end {f : FmtR} {s : State} {id : Nat} (hcur : s.cur = .hart id)
    (hp : (coreOf s (id / 2)).bqProducer = some (decide (id % 2 = 0))) : bqpush f s = .error (.trap Cause.queue 4) := by
  have hme : ((coreOf s (id / 2)).bqProducer.getD (decide (id % 2 = 1)) == decide (id % 2 = 1)) = false := by
    rw [hp]
    rcases Nat.mod_two_eq_zero_or_one id with h | h <;> simp [h]
  unfold bqpush
  dsimp only
  rw [curCore_of_hart hcur, leadHart_of_hart hcur, need_of_false hme]
  rfl

theorem bqbr_wrong_end {f : FmtR} {s : State} {id : Nat} (hcur : s.cur = .hart id)
    (hp : (coreOf s (id / 2)).bqProducer = some (decide (id % 2 = 1))) : bqbr f s = .error (.trap Cause.queue 4) := by
  unfold bqbr
  dsimp only
  rw [curCore_of_hart hcur, leadHart_of_hart hcur, need_of_false (by simp [hp])]
  rfl

/-- The target of R223 in the integers: four bytes for each unit of a signed field. -/
theorem branch_target (pc : Word) {w : Nat} (m : BitVec w) :
    pc + 4 * m.signExtend 64 = BitVec.ofInt 64 (pc.toInt + 4 * m.toInt) := by
  rw [BitVec.ofInt_add, BitVec.ofInt_mul, BitVec.ofInt_toInt, BitVec.signExtend]
  rfl

/-- Settles O15: an outcome is appended or taken (`bqpush_appends`, `bqbr_takes`), or the wrong hart traps. -/
theorem branchOutcomesSteerTheOtherHart : Obligations.BranchOutcomesSteerTheOtherHart := by
  unfold Obligations.BranchOutcomesSteerTheOtherHart
  refine ⟨fun f s id hcur hadm hp ho hroom => ?_, fun f s id b q hcur hadm hp hq => ?_, fun f s id hcur hc =>
    ⟨fun hadm hp => ?_, fun hadm hp => ?_⟩⟩
  · obtain ⟨kind, hkind⟩ := admitted_curKind hadm
    refine ⟨_, perform_ok hadm (bqpush_appends hcur hp ho hroom), ctl_advance_of hkind rfl rfl, coreFrame_of (advance_frame _), ?_,
      fun j n => advance_get _ j n⟩
    rw [advance_coreOf, coreOf_modCore_same]
    cases hx : xRead s f.a != 0 <;> simp_all
  · obtain ⟨kind, hkind⟩ := admitted_curKind hadm
    refine ⟨_, perform_ok hadm (bqbr_takes hcur hp hq), ?_⟩
    cases b with
    | true =>
      refine ⟨coreFrame_of (jumpTo_frame _ _), by rw [if_pos rfl, jumpTo_coreOf, coreOf_modCore_same], ?_, fun j n => jumpTo_get _ _ j n⟩
      rw [if_pos rfl, if_pos rfl, ctl_jumpTo (k := kind) (by exact hkind), branch_target]; rfl
    | false =>
      exact ⟨coreFrame_of (advance_frame _), by rw [if_neg (by decide), advance_coreOf, coreOf_modCore_same],
        ctl_advance_of hkind rfl rfl, fun j n => advance_get _ j n⟩
  · exact perform_trap_early hadm hc (lateMajor_queues f).2.2.1 (bqpush_wrong_end hcur hp) (by decide)
  · exact perform_trap_early hadm hc (lateMajor_queues f).2.2.2 (bqbr_wrong_end hcur hp) (by decide)

end Sys2Proof.Machine
end

section
/-! ## Which agent moves and what it executes (02_execution_model.md, 06_encoding.md R171, R44, R399, R428) -/
namespace Sys2Proof.Machine

/-! ### The fetch at a program counter (R171) -/

theorem landed_shorter {s : State} {n off m len : Nat} (hm : m ≤ len) (h : landed s n off len = true) : landed s n off m = true := by
  simp only [landed, Bool.and_eq_true, decide_eq_true_eq, List.all_eq_true, List.mem_range] at h ⊢
  obtain ⟨hbound, hblocks⟩ := h
  exact ⟨by omega, fun k hk => hblocks k (by omega)⟩

/-- The low four of eight bytes of an overlay, which may cross a block end. -/
theorem readCode_low {s : State} {n off w : Nat} (h : readCode s n off 8 = some w) : readCode s n off 4 = some (w % 2 ^ 32) := by
  unfold readCode at h ⊢
  split at h
  case isFalse => cases h
  case isTrue hl =>
    rw [if_pos (landed_shorter (by decide) hl)]
    simp only [Option.some.injEq] at h ⊢
    rw [← h]
    generalize (blockAt s n (off / 128)).bytes.toNat >>> (8 * (off % 128)) = lo
    generalize (blockAt s n (off / 128 + 1)).bytes.toNat = hi
    have hd : 1 ≤ 128 - off % 128 := by omega
    generalize 128 - off % 128 = d at hd ⊢
    by_cases h8 : 8 ≤ d
    · have h4 : Nat.min 4 d = 4 := Nat.min_eq_left (by omega)
      have h8 : Nat.min 8 d = 8 := Nat.min_eq_left h8
      rw [h4, h8]
      norm_num
    · interval_cases d <;> norm_num [Nat.min_def] <;> omega

theorem fetched_of_codeAt {s : State} {i : Instr} (h : CodeAt s i) : fetched s = .instr i := by
  unfold fetched fetchAt
  rcases h with ⟨w, n, hread, hdec⟩ | ⟨lo, hread, hlo, rfl⟩
  · have hmod : w % 2 ^ 32 % 256 = w % 256 := by omega
    have hparcel : BitVec.ofNat 32 (w % 2 ^ 32) = BitVec.ofNat 32 w := by apply BitVec.eq_of_toNat_eq; simp
    have hmajor : (BitVec.ofNat 32 w).extractLsb' 0 8 = 0xC0#8 ↔ w % 256 = 0xC0 := by
      rw [← BitVec.toNat_inj]; simp
    rw [readCode_low hread]
    dsimp only
    rw [hmod, hparcel, hread]
    by_cases hc : w % 256 = 0xC0
    · rw [if_pos hc]
      rw [decode, if_pos (hmajor.2 hc)] at hdec
      cases hdec; rfl
    · rw [if_neg hc]
      dsimp only
      rw [hdec]
  · rw [hread]
    exact if_pos hlo

/-! ### Leaving a point -/

/-- Leaving a point takes marks off harts: `leavePoint` keeps what no function of the issuer's harts changes. -/
theorem leavePoint_unchanged {β : Type} (g : State → β) (hg : ∀ f, g (modHarts s (allHarts s) f) = g s) : g (leavePoint s) = g s := by
  unfold leavePoint; split
  · exact hg _
  · rfl

@[simp] theorem leavePoint_cur (s : State) : (leavePoint s).cur = s.cur := leavePoint_unchanged State.cur fun _ => modHarts_cur ..
@[simp] theorem leavePoint_coreOf (s : State) (k : Nat) : coreOf (leavePoint s) k = coreOf s k :=
  leavePoint_unchanged (fun t => coreOf t k) fun f => by
    have h : ∀ (ids : List Nat) (t : State), coreOf (modHarts t ids f) k = coreOf t k := fun ids => by
      induction ids with
      | nil => intro t; rfl
      | cons id ids ih => intro t; exact (ih (modHart t id f)).trans rfl
    exact h _ s

theorem issuingX_congr {s t : State} (h : t.cur = s.cur) : issuingX t = issuingX s := by unfold issuingX; rw [h]
@[simp] theorem issuingX_leavePoint (s : State) : issuingX (leavePoint s) = issuingX s := issuingX_congr (leavePoint_cur s)

/-- The core of an issuing X-hart. -/
theorem issuingX_of_hart {s : State} {id k : Nat} (h : s.cur = .hart id) (hx : issuingX s = some k) : k = coreOfHart id := by
  unfold issuingX at hx
  rw [h] at hx
  dsimp only at hx
  split at hx <;> cases hx
  rfl

theorem issuingX_of_notHart {s : State} (h : ∀ id, s.cur ≠ .hart id) : issuingX s = none := by
  unfold issuingX
  split
  · next id hid => exact absurd hid (h id)
  · rfl

/-! ### The head of the ring moves (log 3, log 4) -/

/-- With no input and no command due, the head of the ring moves. -/
theorem step_of_ring {s : State} {a : Agent} {rest : List Agent} (hs : startOver s = true) (hcmd : commandDue s = false) (hin : s.inputs = [])
    (hring : s.ring = a :: rest) :
    step s = runMove (agentMove { s with ring := rest ++ [a], cur := a, waited := false }).2
      (agentMove { s with ring := rest ++ [a], cur := a, waited := false }).1 := by
  have hmove : nextMove s = agentMove { s with ring := rest ++ [a], cur := a, waited := false } := by
    unfold nextMove
    rw [hs, hcmd, if_neg (by decide), if_neg (by decide), hin, hring]
  rw [step, hmove]

/-- A hart that its unit does not hold back issues (R58, R368). -/
theorem hartTurn_free {s : State} {id : Nat} (hf : hartFree s id = true) (hr : (hartOf s id).run = .running) : hartTurn s id = issue s := by
  have hissue : hartIssue s id = issue s := by unfold hartIssue; rw [hr]
  unfold hartTurn
  by_cases hid : 256 ≤ id
  · rw [if_pos hid, hissue]
  · rw [if_neg hid]
    unfold hartFree at hf
    rw [decide_eq_false hid, Bool.false_or] at hf
    dsimp only at hf ⊢
    split
    · exact hissue
    · next i hi =>
      simp only [hi, Bool.and_eq_true, beq_iff_eq, bne_iff_ne, Bool.not_eq_true'] at hf
      obtain ⟨⟨⟨hphase, hhalt⟩, hkill⟩, hpre⟩ := hf
      rw [hphase]
      dsimp only
      rw [if_neg hhalt, hkill, hpre]
      exact hissue

/-- The step of an issuing hart: what it fetches, from the point it leaves. -/
theorem step_of_hart {s u : State} {id : Nat} {rest : List Agent} (hs : startOver s = true) (hcmd : commandDue s = false) (hin : s.inputs = [])
    (hring : s.ring = .hart id :: rest) (hu : u = { s with ring := rest ++ [.hart id], cur := .hart id, waited := false })
    (hf : hartFree u id = true) (hr : (hartOf u id).run = .running) : step s = runIssue (issueMove u) (leavePoint u) := by
  have hcur : u.cur = .hart id := by rw [hu]
  rw [step_of_ring hs hcmd hin hring, ← hu]
  have hmove : agentMove u = issue u := by unfold agentMove; rw [hcur]; exact hartTurn_free hf hr
  have hissued : ∀ r, issued (leavePoint u) r = r := fun r => by unfold issued; rw [leavePoint_cur, hcur]
  rw [hmove, issue]
  unfold issueMove
  dsimp only
  cases fetched u with
  | instr i => exact hissued _
  | illegal w => exact hissued _
  | absent off => exact hissued _

/-- A Pergola that nothing holds back issues for its gang, or for its banks in turn (R44). -/
theorem pergolaTurn_free {s : State} {g : Nat} (hf : pergolaFree s g = true) : pergolaTurn s g = pergolaIssue s g := by
  unfold pergolaFree at hf
  simp only [Bool.and_eq_true, beq_iff_eq, Bool.not_eq_true'] at hf
  obtain ⟨⟨⟨hdue, -⟩, hlive⟩, hstep⟩ := hf
  unfold pergolaTurn
  rw [hdue]
  dsimp only
  split
  · rw [hlive]; rfl
  · next i hi =>
    simp only [hi, Bool.and_eq_true, beq_iff_eq, Bool.not_eq_true', Bool.and_eq_false_iff, beq_eq_false_iff_ne, ne_eq] at hstep
    obtain ⟨hphase, hhalt⟩ := hstep
    rw [hphase]
    dsimp only
    rw [if_neg (fun h => by simp only [Bool.and_eq_true, decide_eq_true_eq] at h; exact hhalt.elim (absurd h.1) (absurd h.2))]

theorem pergolaFree_issues {s : State} {g : Nat} (hf : pergolaFree s g = true) : killDue s g = none ∧ (liveBanks s g).isEmpty = false := by
  unfold pergolaFree at hf
  simp only [Bool.and_eq_true, beq_iff_eq, Bool.not_eq_true'] at hf
  obtain ⟨⟨⟨-, hkill⟩, hlive⟩, -⟩ := hf
  exact ⟨hkill, hlive⟩

/-- The step of a gang: what it fetches, from the point it leaves, then one rc of its clock. -/
theorem step_of_gang {s u : State} {g : Nat} {rest : List Agent} (hs : startOver s = true) (hcmd : commandDue s = false) (hin : s.inputs = [])
    (hring : s.ring = .pergola g :: rest) (hu : u = { s with ring := rest ++ [.pergola g], cur := .pergola g, waited := false })
    (hf : pergolaFree u g = true) (hg : (perOf u g).gang = true) :
    step s = thenDo (runIssue (issueMove u) (leavePoint u)) fun t => tick t g := by
  have hcur : u.cur = .pergola g := by rw [hu]
  obtain ⟨hkill, hlive⟩ := pergolaFree_issues hf
  rw [step_of_ring hs hcmd hin hring, ← hu]
  have hmove : agentMove u = issue u := by
    unfold agentMove
    rw [hcur]
    dsimp only
    rw [pergolaTurn_free hf, pergolaIssue, hkill]
    dsimp only
    rw [if_pos hg, hlive]
    rfl
  have hissued : ∀ r, issued (leavePoint u) r = thenDo r fun t => tick t g := fun r => by unfold issued; rw [leavePoint_cur, hcur]
  rw [hmove, issue]
  unfold issueMove
  dsimp only
  cases fetched u with
  | instr i => exact hissued _
  | illegal w => exact hissued _
  | absent off => exact hissued _

/-- The step of a Pergola in split mode with a running bank: its banks are tried in turn. -/
theorem step_of_split {s u : State} {g b : Nat} {rest : List Agent} (hs : startOver s = true) (hcmd : commandDue s = false) (hin : s.inputs = [])
    (hring : s.ring = .pergola g :: rest) (hu : u = { s with ring := rest ++ [.pergola g], cur := .pergola g, waited := false })
    (hf : pergolaFree u g = true) (hg : (perOf u g).gang = false) (hb : b ∈ liveBanks u g) (hr : (hartOf u (bankId g b)).run = .running) :
    step s = splitTurn g u := by
  have hcur : u.cur = .pergola g := by rw [hu]
  obtain ⟨hkill, -⟩ := pergolaFree_issues hf
  have hmeet : (!(liveBanks u g).isEmpty && (liveBanks u g).all fun b => (hartOf u (bankId g b)).run == .atGang) = false := by
    have : ¬((liveBanks u g).all fun b => (hartOf u (bankId g b)).run == .atGang) = true := fun h => by
      have := List.all_eq_true.1 h b hb
      rw [hr] at this
      cases this
    rw [Bool.not_eq_true] at this
    rw [this, Bool.and_false]
  have hmove : agentMove u = (u, .split g) := by
    unfold agentMove
    rw [hcur]
    dsimp only
    rw [pergolaTurn_free hf, pergolaIssue, hkill]
    dsimp only
    rw [hg, if_neg (by decide), hmeet, if_neg (by decide)]
  rw [step_of_ring hs hcmd hin hring, ← hu, hmove]
  rfl

/-! ### Beside the vector queue (R428, log 6) -/

/-- With an empty queue, or for a hart that is no X-hart, nothing stands between the fetch and `exec`. -/
def QueueClear (s : State) : Prop := ∀ k, issuingX s = some k → (coreOf s k).vqueue = []

theorem runIssue_instr {s : State} {i : Instr} (hq : QueueClear s) :
    (issuingX s = none ∨ queued i = false → runIssue (.instr i) s = exec i s) ∧
      ∀ t, exec i s = .next t → t.waited = false → runIssue (.instr i) s = .next t := by
  unfold runIssue
  cases hx : issuingX s with
  | none => exact ⟨fun _ => rfl, fun t ht _ => ht⟩
  | some k =>
    have hempty := hq k hx
    dsimp only
    unfold issueX
    dsimp only
    rw [hempty]
    refine ⟨fun h => ?_, fun t ht hw => ?_⟩
    · rw [h.resolve_left (by simp)]; rfl
    · cases queued i
      · exact ht
      · rw [if_pos rfl, ht]
        simp [thenDo, hw]

theorem queueClear_fetch {s : State} (hq : QueueClear s) : ((issuingX s).any fun k => !(coreOf s k).vqueue.isEmpty) = false := by
  cases hx : issuingX s with
  | none => rfl
  | some k => rw [Option.any_some, hq k hx]; rfl

theorem runIssue_illegal {s : State} (hq : QueueClear s) (w : Word) : runIssue (.illegal w) s = execIllegalEncoding w s := by
  unfold runIssue
  dsimp only
  rw [queueClear_fetch hq, if_neg (by decide)]

theorem runIssue_absent {s : State} (hq : QueueClear s) (off : Word) : runIssue (.absent off) s = execAbsentBlockFetch off s := by
  unfold runIssue
  dsimp only
  rw [queueClear_fetch hq, if_neg (by decide)]

theorem queueClear_leavePoint {u : State} (hq : QueueClear u) : QueueClear (leavePoint u) := fun k hk => by
  rw [leavePoint_coreOf]; exact hq k (by rwa [issuingX_leavePoint] at hk)

/-- Beside a queue that is not empty an instruction joins it, waits, or runs ahead. -/
theorem runIssue_beside {s : State} {i : Instr} {k : Nat} (hx : issuingX s = some k) (hq : (coreOf s k).vqueue ≠ []) :
    (queued i = true → runIssue (.instr i) s = .next (queueUp s k i)) ∧
      (queued i = false → (queueBars i = true ∨ behindQueue (coreOf s k).vqueue i = true) → runIssue (.instr i) s = .next (held s)) ∧
      (queued i = false → queueBars i = false → behindQueue (coreOf s k).vqueue i = false →
        ∀ t, exec i s = .next t → t.waited = false → runIssue (.instr i) s = .next (runAhead s t k)) := by
  have hne : (coreOf s k).vqueue.isEmpty = false := by simpa using hq
  unfold runIssue
  rw [hx]
  dsimp only
  unfold issueX
  dsimp only
  rw [hne]
  refine ⟨fun h => ?_, fun h hbar => ?_, fun h hbar hbehind t ht hw => ?_⟩
  · rw [h]; rfl
  · rw [h, if_neg (by decide), if_neg (by decide), if_pos (by rcases hbar with e | e <;> simp [e])]
  · rw [h, if_neg (by decide), if_neg (by decide), hbar, hbehind, if_neg (by decide), ht]
    simp only [thenDo, hw, Bool.false_eq_true, if_false]

/-! ### The obligation -/

/-- The queue's head in its turn. -/
theorem runHead_of_exec {u t : State} {k : Nat} {q : QueueEntry} {l : List QueueEntry} (hq : (coreOf u k).vqueue = q :: l)
    (hexec : exec q.instr (headState u k) = .next t) :
    (t.waited = true → runHead k u = .next u) ∧
      (t.waited = false → headPassed (headState u k) t k = true → runHead k u = .next (mergeHead u (headState u k) t k)) := by
  unfold runHead
  rw [hq]
  dsimp only
  rw [hexec]
  dsimp only
  exact ⟨fun h => by rw [h]; rfl, fun h hp => by rw [h, if_neg (by decide), if_pos hp]⟩

/-- The first bank in turn, running and not held back by its instruction. -/
theorem splitTurn_first {u t v : State} {g b : Nat} {bs : List Nat} {i : Instr} (hord : splitOrder u g = b :: bs)
    (hr : (hartOf u (bankId g b)).run = .running) (ht : t = leavePoint { u with cur := .bank g b, waited := false })
    (hcode : CodeAt t i) (hexec : exec i t = .next v) (hw : v.waited = false) :
    splitTurn g u = .next (tick { modPer v g (fun p => { p with lastBank := b }) with cur := .pergola g } g) := by
  have hx : issuingX t = none := issuingX_of_notHart fun id h => by rw [ht, leavePoint_cur] at h; cases h
  have hrun : runIssue (issueMove t) t = .next v := by
    rw [issueMove, fetched_of_codeAt hcode]
    exact ((runIssue_instr fun k hk => by rw [hx] at hk; cases hk).1 (.inl hx)).trans hexec
  have hissue : splitIssue g (b :: bs) u = .next (modPer v g fun p => { p with lastBank := b }) := by
    unfold splitIssue
    rw [if_neg (by rw [hr]; simp)]
    dsimp only
    rw [← ht, hrun]
    dsimp only
    rw [hw, if_neg (by decide)]
  rw [splitTurn, hord, hissue]
  rfl

/-- Settles O56: the head of the ring moves (`step_of_ring`), its fetch decodes (`fetched_of_codeAt`), and `exec` of it is the step. -/
theorem stepRunsTheDecodedInstruction : Obligations.StepRunsTheDecodedInstruction := by
  unfold Obligations.StepRunsTheDecodedInstruction
  refine ⟨fun s u id rest hs hcmd hin hring hu hf hr => ?_, fun s u t k rest q l hs hcmd hin hring hu hmove hq hexec => ?_,
    fun s u g rest hs hcmd hin hring hu hf hg => ?_,
    fun s u t v g b bs rest i hs hcmd hin hring hu hf hg hord hb hr ht hcode hexec hw => ?_, fun s x rest hs hcmd hin => ?_, fun s hs hcmd => ?_⟩
  · have hstep := step_of_hart hs hcmd hin hring hu hf hr
    have hcur : u.cur = .hart id := by rw [hu]
    have hcode : ∀ i, CodeAt u i → step s = runIssue (.instr i) (leavePoint u) := fun i hi => by
      rw [hstep, issueMove, fetched_of_codeAt hi]
    have hcore : ∀ k, coreOf u k = coreOf s k := fun k => by rw [hu]; rfl
    refine ⟨fun hclear => ?_, fun k i hx hi hq => ?_⟩
    · have hq : QueueClear (leavePoint u) := queueClear_leavePoint fun k hk => by
        rcases hclear with h | h
        · rw [h] at hk; cases hk
        · rw [hcore, issuingX_of_hart hcur hk, h]
      refine ⟨fun i hi => ?_, fun w hw => ?_, fun a ha => ?_⟩
      · rw [hcode i hi, ← issuingX_leavePoint]; exact runIssue_instr hq
      · rw [hstep, issueMove, hw]; exact runIssue_illegal hq w
      · rw [hstep, issueMove, ha]; exact runIssue_absent hq a
    · rw [hcode i hi]
      have h := runIssue_beside (s := leavePoint u) (i := i) (k := k) (by rw [issuingX_leavePoint, hx]) (by rw [leavePoint_coreOf, hcore]; exact hq)
      rwa [leavePoint_coreOf, hcore] at h
  · have hcur : u.cur = .unit k := by rw [hu]
    have hstep : step s = runHead k u := by
      rw [step_of_ring hs hcmd hin hring, ← hu]
      have hagent : agentMove u = (u, .queueHead k) := by unfold agentMove; rw [hcur]; dsimp only; rw [hmove]
      rw [hagent]
      rfl
    rw [hstep]
    exact runHead_of_exec hq hexec
  · have hstep := step_of_gang hs hcmd hin hring hu hf hg
    have hx : issuingX (leavePoint u) = none := issuingX_of_notHart fun id h => by rw [leavePoint_cur, hu] at h; cases h
    have hq : QueueClear (leavePoint u) := fun k hk => by rw [hx] at hk; cases hk
    refine ⟨fun i hi => ?_, fun w hw => ?_, fun a ha => ?_⟩
    · rw [hstep, issueMove, fetched_of_codeAt hi]
      exact congrArg (fun r => thenDo r fun t => tick t g) ((runIssue_instr hq).1 (.inl hx))
    · rw [hstep, issueMove, hw]; exact congrArg (fun r => thenDo r fun t => tick t g) (runIssue_illegal hq w)
    · rw [hstep, issueMove, ha]; exact congrArg (fun r => thenDo r fun t => tick t g) (runIssue_absent hq a)
  · rw [step_of_split hs hcmd hin hring hu hf hg hb hr, splitTurn_first hord hr ht hcode hexec hw]
  · have hmove : nextMove s = ({ s with inputs := rest }, inputMove x) := by
      unfold nextMove
      rw [hs, hcmd, if_neg (by decide), if_neg (by decide), hin]
    rw [step, hmove]
    refine ⟨fun i hi => by rw [hi]; rfl, fun hi => ?_⟩
    cases x with
    | event i => exact absurd rfl (hi i)
    | _ => rfl
  · have hmove : nextMove s = (s, .command) := by
      unfold nextMove
      rw [hs, hcmd, if_neg (by decide), if_pos rfl]
    rw [step, hmove]
    rfl

end Sys2Proof.Machine
end

section
/-! ## A_HART_START behind a store on its way (02_execution_model.md R34, R135)

The event performs the waiting FORK, and FORK waits for what the X-hart sent to peers: an idle A-hart alone does not start it. -/
namespace Sys2Proof.Machine

/-- A waiting FORK whose X-hart still has a store on its way stays where it waits. -/
theorem aStart_of_outstanding {s : State} {k : Nat} {f : FmtR} (hstands : standsAt s (xHartId k) = some (.fork f))
    (hout : outstanding s (xHartId k) (fun p => !p.wants) = true) : aStart s k = s := by
  have hfork : ∃ e, fork f { s with cur := .hart (xHartId k) } = .error e := by
    have hsent : afterLanding { s with cur := .hart (xHartId k) } (xHartId k) = .error (.wait { s with cur := .hart (xHartId k) } false) := by
      unfold afterLanding afterSent
      rw [if_pos (show outstanding { s with cur := .hart (xHartId k) } (xHartId k) (fun p => !p.wants) = true from hout)]
      rfl
    have hlead : leadHart { s with cur := .hart (xHartId k) } = xHartId k := rfl
    unfold fork
    dsimp only
    unfold need
    split
    · rw [hlead, hsent]; exact ⟨_, rfl⟩
    · exact ⟨_, rfl⟩
  obtain ⟨e, he⟩ := hfork
  unfold aStart
  split
  · rw [hstands]
    dsimp only
    rw [he]
  · rfl

theorem exec_aHartStart_of_outstanding {s : State} {k : Nat} {f : FmtR} (hk : k < 128) (hstands : standsAt s (xHartId k) = some (.fork f))
    (hout : outstanding s (xHartId k) (fun p => !p.wants) = true) : exec (.aHartStart k) s = .next s :=
  event_of_stays (by simpa using hk) (aStart_of_outstanding hstands hout)

/-- FORK to address 0. -/
def forkToZero : FmtR :=
  { mod := 0, c := { lvl := 0, fe := false, num := 0 }, b := { lvl := 0, fe := false, num := 0 }, a := { lvl := 0, fe := false, num := 0 },
    d := { lvl := 0, fe := false, num := 0 } }

/-- The X-hart of core 0 waits at a FORK, the A-hart is idle, and a store of the X-hart is on its way to a peer. -/
def forkBehindStore : State :=
  { harts := [(1, { run := .running, parked := true })],
    pavilions := [(0, { overlay := [(0, { st := .landed, bytes := BitVec.ofNat 1024 (instrWord (.fork forkToZero)).toNat })] })],
    packets := [(0, some { link := 0, kind := .write, address := 0, size := 1, data := [0], hart := 1, va := 0, strm := 0, wants := false,
                           context := 0, launch := 0, step := 0 })] }

theorem forkBehindStore_stands : standsAt forkBehindStore (xHartId 0) = some (.fork forkToZero) := by decide +kernel

/-- Refutes O53: in `forkBehindStore` the premises of the first clause hold and A_HART_START leaves the A-hart idle, since FORK waits for
the X-hart's store (`aStart_of_outstanding`); the clause does not ask that the X-hart's accesses be performed. -/
theorem not_deviceStepsOfHartsAndRows : ¬ Obligations.DeviceStepsOfHartsAndRows := by
  unfold Obligations.DeviceStepsOfHartsAndRows
  rintro ⟨hstart, -⟩
  obtain ⟨t, hexec, hrun, -⟩ := (hstart forkBehindStore 0 forkToZero (by decide)).1 (by decide) (by decide) forkBehindStore_stands (by decide)
    (by decide)
  rw [exec_aHartStart_of_outstanding (by decide) forkBehindStore_stands (by decide)] at hexec
  obtain rfl := Host.Outcome.next.inj hexec
  exact absurd hrun (by decide)

end Sys2Proof.Machine
end

section
/-! ## STEP_START beside a monitor of the A-hart (02_execution_model.md R33, R59, R225)

The step's entry into its scope is a store to the scope record, and it triggers a monitor that is armed on the record's line. -/
namespace Sys2Proof.Machine

/-- The step that core 0 is about to start: its block at 0x2000, its scope record at 0x1000. -/
def monitoredInfo : StepInfo := { launch := 0x2000, step := 0, prio := 0, context := 1, scope := 0x1000 }

/-- Core 0 with a landed step of context 1 to start, whose block is ready, and its A-hart idle with a monitor on the line of the step's scope
record; page 0 is mapped to itself. -/
def monitoredStart : State :=
  { mem := Tbl.setSpan memDefault [] 0x2000 (leBytes 256 (1 + 2 ^ 832 + 2 ^ 864)),
    tlb := [{ context := 1, page := 0, entry := 0x7F, large := true }],
    contexts := [(1, { v := true })],
    intlvSize := 0x10000000,
    harts := [(0, { monitor := some { line := 0x1000, triggered := false } }), (1, { context := 1 })],
    cores := [(0, { step := some monitoredInfo })] }

/-- The block of the step reads, and its segment has landed. -/
theorem monitoredStart_ready : ∃ b, readBlock monitoredStart { hartCtx monitoredStart (xHartId 0) with pav := none } monitoredInfo.launch = .ok b ∧
    segmentsReady monitoredStart 0 monitoredInfo b false = true := by
  have h : (match readBlock monitoredStart { hartCtx monitoredStart (xHartId 0) with pav := none } monitoredInfo.launch with
      | .ok b => segmentsReady monitoredStart 0 monitoredInfo b false
      | .error _ => false) = true := by decide +kernel
  split at h
  · next b hb => exact ⟨b, hb, h⟩
  · cases h

/-- STEP_START has triggered the monitor. -/
theorem monitoredStart_triggers : (hartOf (stepStart monitoredStart (.core 0)) (aHartId 0)).monitor.map (·.triggered) = some true := by
  decide +kernel

theorem exec_stepStart_of_exists {s : State} {u : UnitRef} (h : unitExists u = true) : exec (.stepStart u) s = .next (stepStart s u) :=
  event_of_exists h _

/-- Refutes O54: in `monitoredStart` the premises of the clause about STEP_START on a core hold, and the A-hart is not as it was, since the
entry into the scope triggers its monitor. -/
theorem not_deviceStepsOfTheScheduler : ¬ Obligations.DeviceStepsOfTheScheduler := by
  unfold Obligations.DeviceStepsOfTheScheduler
  rintro ⟨-, -, -, -, -, hstart, -⟩
  obtain ⟨b, hb, hready⟩ := monitoredStart_ready
  obtain ⟨t, hexec, -, -, -, -, -, -, -, -, -, -, -, hahart, -⟩ :=
    (hstart monitoredStart 0 monitoredInfo b (by decide) (by decide) (by decide) hb).1 (by decide) hready
  rw [exec_stepStart_of_exists (by decide)] at hexec
  obtain rfl := Host.Outcome.next.inj hexec
  have htriggered := monitoredStart_triggers
  rw [hahart] at htriggered
  exact absurd htriggered (by decide)

end Sys2Proof.Machine
end

section
/-! ## EXIT of an A-hart whose core's step has stopped (02_execution_model.md R34, R59, R445, R477)

The A-hart leaves its scope when it becomes idle. Poison in the scope record is a partition fault, and one that meets a stopped step of the
context is written into that step's record, which then has KIND 10: the core's step is no longer as it was. -/
namespace Sys2Proof.Machine

/-- EXIT of an A-hart that nothing holds back and that has nothing to report. -/
theorem exitStep_aHart {f : FmtR} {s : State} {k : Nat} (hk : k < 128) (hcur : s.cur = .hart (aHartId k)) (hc : cancelled s = false)
    (hfault : exitFault s f (aHartId k) = none) (hpoison : exitPoison f (aHartId k) s = .ok ()) (hcommands : commandsOf s (aHartId k) = [])
    (hordered : orderedAll s (aHartId k) = true) (hrefused : (hartOf s (aHartId k)).refused = 0) (hfollow : (coreOf s k).follow = []) :
    exitStep f s = .ok (idleAHart (exitDecrements f (aHartId k) s) k) := by
  have hid : aHartId k < 256 ∧ aHartId k % 2 = 0 ∧ aHartId k / 2 = k := by unfold aHartId; omega
  have hkind : curKind s = some .aHart := by
    unfold curKind kindOfId
    rw [hcur]
    dsimp only
    rw [if_pos (by omega), if_pos hid.1, if_neg (by omega)]
  have hcore : curCore s = k := (curCore_of_hart hcur).trans hid.2.2
  have hreport : refusedReport s = .ok () := by
    unfold refusedReport
    rw [leadHart_of_hart hcur, hrefused]
    rfl
  unfold exitStep exitA exitCheck followReport
  rw [hc, if_neg (by decide), hkind]
  dsimp only
  rw [hcore, hfault]
  dsimp only
  rw [hpoison, hcommands, afterAll_of_orderedAll hordered, hreport, hfollow]
  rfl

theorem exec_exit_of_ok {f : FmtR} {s t : State} (h : admitted (.exit f) s = true) (ht : exitStep f s = .ok t) : exec (.exit f) s = .next t :=
  perform_ok h ht

/-- A stopped step of context 1, its home scope at 0x1000. -/
def stoppedInfo : StepInfo := { launch := 0x3000, step := 0, prio := 0, context := 1, scope := 0x1000 }

/-- EXIT that names no block. -/
def exitAlone : FmtR :=
  { mod := 0, c := { lvl := 0, fe := false, num := 0 }, b := { lvl := 0, fe := false, num := 0 }, a := { lvl := 0, fe := false, num := 0 },
    d := { lvl := 0, fe := false, num := 0 } }

/-- The A-hart of core 0 at an EXIT, its core's step stopped by a halt of context 1, the granule of the step's scope record poisoned; page 0
is mapped to itself. -/
def exitBesideStop : State :=
  { poison := [(0x40, true)],
    tlb := [{ context := 1, page := 0, entry := 0x7F, large := true }],
    contexts := [(1, { v := true })],
    intlvSize := 0x10000000,
    halts := [(1, { st := .halted })],
    harts := [(0, { context := 1, trapvec := 0x400, run := .running })],
    cores := [(0, { step := some stoppedInfo, phase := .stopped })],
    cur := .hart 0 }

theorem exitBesideStop_admitted : admitted (.exit exitAlone) exitBesideStop = true := by decide +kernel

/-- No block is named: nothing is checked, read or decremented. -/
theorem exitPoison_exitAlone : exitPoison exitAlone (aHartId 0) exitBesideStop = .ok () := by
  have h : successors exitAlone (hartOf exitBesideStop (aHartId 0)) = [] := by decide +kernel
  unfold exitPoison
  dsimp only
  rw [h]
  rfl

/-- The A-hart's leaving its scope marks the stopped step's record. -/
theorem idleAHart_marks : ((coreOf (idleAHart (exitDecrements exitAlone (aHartId 0) exitBesideStop) 0) 0).step.map (·.kind)) = some 2 := by
  decide +kernel

/-- Refutes O36: `exitBesideStop` meets the premises of the clause about the A-hart, and the step of its core gains KIND 10 (`idleAHart_marks`),
so it is not as it was. The clause does not ask that the step runs. -/
theorem not_exitEndsTheStep : ¬ Obligations.ExitEndsTheStep := by
  unfold Obligations.ExitEndsTheStep
  intro h
  obtain ⟨-, haHart, -⟩ := h exitAlone exitBesideStop exitBesideStop_admitted (by decide)
  obtain ⟨t, hexec, -, -, hstep, -⟩ := haHart 0 (by decide) rfl (by decide +kernel) exitPoison_exitAlone (by decide +kernel) (by decide +kernel)
    (by decide +kernel) (by decide +kernel)
  have hends : exitStep exitAlone exitBesideStop = .ok (idleAHart (exitDecrements exitAlone (aHartId 0) exitBesideStop) 0) :=
    exitStep_aHart (by decide) (k := 0) rfl (by decide) (by decide +kernel) exitPoison_exitAlone (by decide +kernel) (by decide +kernel)
      (by decide +kernel) (by decide +kernel)
  rw [exec_exit_of_ok exitBesideStop_admitted hends] at hexec
  obtain rfl := Host.Outcome.next.inj hexec
  have hkind := idleAHart_marks
  rw [hstep] at hkind
  exact absurd hkind (by decide)

end Sys2Proof.Machine
end

section
/-! ## Elements of a register and a pass over them (06_encoding.md R7, 09_vector.md R168, R170, R263) -/
namespace Sys2Proof.Machine

/-! ### Packed elements -/

theorem elemNat_lt (w e v : Nat) : elemNat w e v < 2 ^ w := Nat.mod_lt _ (by positivity)

theorem elemNat_mod (w e v : Nat) : elemNat w e v % 2 ^ w = elemNat w e v := Nat.mod_eq_of_lt (elemNat_lt w e v)

theorem packElems_lt (w : Nat) : ∀ l : List Nat, packElems w l < 2 ^ (w * l.length)
  | [] => by simp [packElems]
  | e :: es => by
    have he : e % 2 ^ w < 2 ^ w := Nat.mod_lt _ (by positivity)
    have hes := packElems_lt w es
    rw [packElems, List.length_cons, Nat.mul_succ, pow_add, mul_comm (2 ^ (w * es.length))]
    calc e % 2 ^ w + 2 ^ w * packElems w es < 2 ^ w + 2 ^ w * packElems w es := by omega
      _ = 2 ^ w * (packElems w es + 1) := by ring
      _ ≤ 2 ^ w * 2 ^ (w * es.length) := Nat.mul_le_mul_left _ hes

/-- Element `e` of packed elements is the `e`-th of them, reduced to the width. -/
theorem elemNat_packElems (w : Nat) : ∀ (l : List Nat) (e : Nat), elemNat w e (packElems w l) = l.getD e 0 % 2 ^ w
  | [], e => by simp [packElems, elemNat]
  | x :: xs, 0 => by
    simp [packElems, elemNat, Nat.add_mul_mod_self_left]
  | x :: xs, e + 1 => by
    have ih := elemNat_packElems w xs e
    have hx : x % 2 ^ w < 2 ^ w := Nat.mod_lt _ (by positivity)
    have hshift : (x % 2 ^ w + 2 ^ w * packElems w xs) >>> (w * (e + 1)) = packElems w xs >>> (w * e) := by
      rw [Nat.mul_succ, Nat.add_comm (w * e), Nat.shiftRight_add, Nat.shiftRight_eq_div_pow _ w, Nat.add_mul_div_left _ _ (by positivity),
        Nat.div_eq_of_lt hx, Nat.zero_add]
    rw [List.getD_cons_succ, ← ih, elemNat, packElems, hshift, elemNat]

theorem codeWidth_cases (c : Nat) : codeWidth c = 4 ∨ codeWidth c = 8 ∨ codeWidth c = 16 ∨ codeWidth c = 32 := by
  unfold codeWidth; repeat' split
  all_goals simp

/-- A register of as many elements as it has room for, read back. -/
theorem vElem_ofVElems {c e : Nat} {l : List Nat} (hl : l.length = vlmax c) :
    vElem (codeWidth c) e (ofVElems (codeWidth c) l) = l.getD e 0 % 2 ^ codeWidth c := by
  have hw : codeWidth c * l.length = 8192 := by
    rw [hl, vlmax]
    rcases codeWidth_cases c with h | h | h | h <;> rw [h]
  rw [vElem, ofVElems, BitVec.toNat_ofNat, ← hw, Nat.mod_eq_of_lt (packElems_lt _ l), elemNat_packElems]

/-! ### Lists over one index -/

theorem elemPass_map (op : Nat → Nat → Nat → Elem) (g : Nat → Bool) (a b c : Nat → Nat) : ∀ l : List Nat,
    elemPass op (l.map g) (l.map a) (l.map b) (l.map c) = l.map fun e => if g e then some (op (a e) (b e) (c e)) else none
  | [] => rfl
  | _ :: l => congrArg _ (elemPass_map op g a b c l)

theorem mergeElems_map (d : Nat → Nat) (r : Nat → Option Elem) : ∀ l : List Nat,
    mergeElems (l.map d) (l.map r) = l.map fun e => match r e with
      | some x => x.val
      | none => d e
  | [] => rfl
  | _ :: l => congrArg _ (mergeElems_map d r l)

theorem maskElems_map (w : Nat) (d : Nat → Nat) (r : Nat → Option Elem) : ∀ l : List Nat,
    maskElems w (l.map d) (l.map r) = l.map fun e => match r e with
      | some x => excMask w x.fl
      | none => d e
  | [] => rfl
  | _ :: l => congrArg _ (maskElems_map w d r l)

/-- The elements that take part, by index. -/
theorem activeList_map (lo hi : Nat) (m : Option (Nat → Nat)) (n : Nat) :
    activeList lo hi (m.map fun m => (List.range n).map m) n =
      (List.range n).map fun e => decide (lo ≤ e) && decide (e < hi) && (m.all fun m => m e % 2 == 1) := by
  cases m with
  | none => simp [activeList]
  | some m => simp [activeList, List.zipWith_map_right, List.zipWith_self]

/-- The flags of a pass are those of its results. -/
theorem flagsOf_getLsbD (r : List (Option Elem)) (k : Nat) : (flagsOf r).getLsbD k = r.any fun x => x.any fun y => y.fl.getLsbD k := by
  unfold flagsOf
  induction r using List.reverseRecOn with
  | nil => simp
  | append_singleton r x ih =>
    rw [List.foldl_append, List.any_append, ← ih]
    cases x <;> simp

theorem flagsOf_map (g : Nat → Bool) (x : Nat → Elem) (k : Nat) (l : List Nat) :
    (flagsOf (l.map fun e => if g e then some (x e) else none)).getLsbD k = l.any fun e => g e && (x e).fl.getLsbD k := by
  rw [flagsOf_getLsbD, List.any_map]
  congr 1
  funext e
  cases h : g e <;> simp [h]

end Sys2Proof.Machine
end

section
/-! ## Elementwise vector instructions (09_vector.md R37, R162, R264 to R271, R286) -/
namespace Sys2Proof.Machine

/-! ### The instructions are one form -/

/-- Each instruction of the table is the shared form with the table's class, sources and operation. -/
theorem exec_of_vecTable {i : Instr} {f : FmtV} {srcs : List Opnd} {cls : Nat → Bool} {op : Nat → Nat → Nat → Nat → Elem} {s : State}
    (h : vecTable i = some (f, srcs, cls, op)) : exec i s = perform i s (vElementwise i f cls srcs op) := by
  unfold vecTable at h
  split at h
  case h_11 =>
    simp only [Option.some.injEq] at h
    obtain ⟨rfl, rfl, rfl, rfl⟩ := h
    simp only [← Nat.shiftRight_eq_div_pow]
    rfl
  case h_20 => cases h
  all_goals
    simp only [Option.some.injEq] at h
    obtain ⟨rfl, rfl, rfl, rfl⟩ := h
    rfl

theorem lateMajor_of_encV {i : Instr} {S : BitVec 6} {f : FmtV} (h : encodeWord i = some (encV 0x60 S f)) : lateMajor i = true := by
  have e := congrArg BitVec.toNat (Laws.major_encV 0x60 S f)
  have hm : major i = 0x60 := by
    rw [major, instrWord, h, Option.getD_some]
    rw [BitVec.extractLsb'_toNat, Nat.shiftRight_zero] at e
    exact e
  rw [lateMajor, queued, hm]; rfl

/-- What the instructions of the table share: they belong to the X-hart, check late, and write the vector register VD. -/
theorem vecTable_form {i : Instr} {f : FmtV} {srcs : List Opnd} {cls : Nat → Bool} {op : Nat → Nat → Nat → Nat → Elem}
    (h : vecTable i = some (f, srcs, cls, op)) :
    isHeader i = false ∧ hartExecutes .bank i = false ∧ lateMajor i = true ∧ (.dst .v, f.vd) ∈ (shape i).ops := by
  unfold vecTable at h
  split at h
  case h_20 => cases h
  all_goals
    simp only [Option.some.injEq] at h
    obtain ⟨rfl, -, -, -⟩ := h
    exact ⟨rfl, rfl, lateMajor_of_encV (S := _) rfl, List.mem_cons_self⟩

/-! ### What the end of a pass leaves -/

/-- The end of a compute hart's instruction changes no Pergola. -/
theorem advance_pergolas {s : State} {id : Nat} (h : s.cur = .hart id) : (advance s).pergolas = s.pergolas := by
  have hset : ∀ c, (setCtl s c).pergolas = s.pergolas := fun c => by unfold setCtl; rw [h]; rfl
  have hmark : ∀ t : State, t.cur = .hart id → (markBoundary t).pergolas = t.pergolas := fun t ht => by
    unfold markBoundary allHarts; rw [ht]; rfl
  unfold advance advanceBy
  dsimp only
  split
  · rw [hmark _ (by rw [setCtl_cur, h]), hset]
  · exact hset _

/-- The destination's register, and the mask's, after a pass. -/
def passValue (s : State) (w n : Nat) (r : List (Option Elem)) : VReg := ofVElems w (mergeElems (vRegElems s w n) r)
def passMask (s : State) (w n : Nat) (r : List (Option Elem)) : VReg := ofVElems w (maskElems w (vRegElems s w n) r)

/-- A core whose destination is written, whose mask register is written by XM, and which has completed the instruction. -/
def Core.written (k : Core) (n : Nat) (v : VReg) (bytes : Nat) : Core :=
  { k with v := k.v.set 0 n v, vempty := k.vempty ||| BitVec.ofNat 32 (2 ^ n), vpend := k.vpend ++ [n], hw := hwAfter k.hw n bytes }
def Core.masked (k : Core) (n : Nat) (v : VReg) (bytes : Nat) : Core := { k with v := k.v.set 0 n v, hw := hwAfter k.hw n bytes }
def Core.completed (k : Core) : Core := { k with vresume := 0 }

/-- One core changed twice, or once, then a hart, then the core again. -/
def twoWrites (s : State) (c id : Nat) (b : Bool) (f g z : Core → Core) (h : Hart → Hart) : State :=
  modCore (modHart (if b then modCore (modCore s c f) c g else modCore s c f) id h) c z

/-- Two states that differ at most in harts and cores. -/
def UnitsApart (s t : State) : Prop := { t with harts := s.harts, cores := s.cores } = s

theorem UnitsApart.trans {s t u : State} (h : UnitsApart s t) (h' : UnitsApart t u) : UnitsApart s u := by
  unfold UnitsApart at h h' ⊢
  exact (congrArg (fun x : State => { x with harts := s.harts, cores := s.cores }) h').trans h
theorem UnitsApart.modCore (s : State) (c : Nat) (f : Core → Core) : UnitsApart s (modCore s c f) := rfl
theorem UnitsApart.modHart (s : State) (id : Nat) (f : Hart → Hart) : UnitsApart s (modHart s id f) := rfl

theorem UnitsApart.cur {s t : State} (h : UnitsApart s t) : t.cur = s.cur := by
  have e := congrArg State.cur h; exact e

theorem UnitsApart.advance {s : State} {id : Nat} (h : s.cur = .hart id) : UnitsApart s (advance s) := by
  have hrest := (advance_frame s).rest
  rw [← advance_pergolas h] at hrest
  have e := congrArg (fun x : State => { x with cores := s.cores }) hrest
  exact e

section
variable (s : State) (c id : Nat) (b : Bool) (f g z : Core → Core) (h : Hart → Hart)

theorem twoWrites_apart : UnitsApart s (twoWrites s c id b f g z h) := by
  unfold twoWrites
  cases b with
  | false => exact ((UnitsApart.modCore ..).trans (.modHart ..)).trans (.modCore ..)
  | true => exact (((UnitsApart.modCore ..).trans (.modCore ..)).trans (.modHart ..)).trans (.modCore ..)

/-- The changes of one instruction, each on the core and the hart of the state before it. -/
theorem twoWrites_eq {s : State} {id : Nat} (hcur : s.cur = .hart id) :
    let s1 := modCore s (curCore s) f
    let s2 := if b then modCore s1 (curCore s1) g else s1
    let s3 := modHart s2 (leadHart s) h
    modCore s3 (curCore s3) z = twoWrites s (curCore s) id b f g z h := by
  have hcore : ∀ t : State, t.cur = .hart id → curCore t = curCore s := fun t ht => by rw [curCore_of_hart ht, curCore_of_hart hcur]
  dsimp only
  have h1 : curCore (modCore s (curCore s) f) = curCore s := hcore _ hcur
  rw [h1, leadHart_of_hart hcur, hcore (modHart _ _ _) (by cases b <;> exact hcur), twoWrites]

theorem hartOf_twoWrites (j : Nat) : hartOf (twoWrites s c id b f g z h) j = if j = id then h (hartOf s id) else hartOf s j := by
  unfold twoWrites
  rw [hartOf_modCore, hartOf_modHart]
  cases b <;> rfl

theorem coreOf_twoWrites (j : Nat) : coreOf (twoWrites s c id b f g z h) j =
    if j = c then z (if b then g (f (coreOf s c)) else f (coreOf s c)) else coreOf s j := by
  unfold twoWrites
  rw [coreOf_modCore]
  by_cases hj : j = c
  · subst hj
    cases b <;> simp
  · cases b <;> simp [hj, coreOf_modCore]

end

variable {s : State} {id : Nat} {f : FmtV} {w : Nat} {r : List (Option Elem)}

/-- The state after a pass with the results `r`, before the instruction ends. -/
def passState (s : State) (id : Nat) (f : FmtV) (w : Nat) (r : List (Option Elem)) : State :=
  twoWrites s (curCore s) id f.xm
    (fun k => k.written f.vd.num.toNat (passValue s w f.vd.num.toNat r) (elemBytes w (vCore s).vl))
    (fun k => k.masked f.mreg.toNat (passMask s w f.mreg.toNat r) (elemBytes w (vCore s).vl)) Core.completed fun h => h.raise (flagsOf r)

/-- The issuing core after a pass. -/
def passCore (s : State) (f : FmtV) (w : Nat) (r : List (Option Elem)) : Core :=
  let k := (vCore s).written f.vd.num.toNat (passValue s w f.vd.num.toNat r) (elemBytes w (vCore s).vl)
  Core.completed (if f.xm then k.masked f.mreg.toNat (passMask s w f.mreg.toNat r) (elemBytes w (vCore s).vl) else k)

theorem passState_cur : (passState s id f w r).cur = s.cur := UnitsApart.cur (twoWrites_apart ..)

theorem vFinish_eq (hcur : s.cur = .hart id) : vFinish f w r s = advance (passState s id f w r) :=
  congrArg advance (twoWrites_eq f.xm _ _ Core.completed _ hcur)

theorem coreOf_vFinish (hcur : s.cur = .hart id) (j : Nat) :
    coreOf (vFinish f w r s) j = if j = curCore s then passCore s f w r else coreOf s j := by
  rw [vFinish_eq hcur, advance_coreOf, passState, coreOf_twoWrites]
  rfl

theorem curCore_vFinish (hcur : s.cur = .hart id) : curCore (vFinish f w r s) = curCore s := by
  have h : (vFinish f w r s).cur = s.cur := by rw [vFinish_eq hcur, advance_cur, passState_cur]
  rw [curCore_of_hart (h.trans hcur), curCore_of_hart hcur]

/-- The registers of the core after a pass, where XM names no destination. -/
theorem passCore_file (hx : f.xm = true → f.mreg.toNat ≠ f.vd.num.toNat) (n : Nat) : (passCore s f w r).v.get 0 n =
    if n = f.vd.num.toNat then passValue s w f.vd.num.toNat r
    else if f.xm = true ∧ n = f.mreg.toNat then passMask s w f.mreg.toNat r else (vCore s).v.get 0 n := by
  unfold passCore Core.completed Core.masked Core.written
  cases h : f.xm with
  | false =>
    simp only [Bool.false_eq_true, if_false, false_and]
    rw [Tbl.get_set]
  | true =>
    simp only [if_true, true_and]
    rw [Tbl.get_set, Tbl.get_set]
    have hne := hx h
    by_cases hn : n = f.mreg.toNat
    · rw [if_pos hn, if_pos hn, if_neg (hn ▸ hne)]
    · rw [if_neg hn, if_neg hn]

theorem passCore_rest : { passCore s f w r with v := (vCore s).v, vempty := (vCore s).vempty, vpend := (vCore s).vpend, hw := (vCore s).hw,
                                                  vl := (vCore s).vl, vresume := (vCore s).vresume } = vCore s := by
  unfold passCore
  cases f.xm <;> rfl

theorem vFinish_frame (hcur : s.cur = .hart id) (hx : f.xm = true → f.mreg.toNat ≠ f.vd.num.toNat) :
    VectorFrame s (vFinish f w r s) (if f.xm then [f.vd.num.toNat, f.mreg.toNat] else [f.vd.num.toNat]) none := by
  have hlead := leadHart_of_hart hcur
  have hcurt : (passState s id f w r).cur = .hart id := passState_cur.trans hcur
  have hharts : ∀ j, hartOf (passState s id f w r) j = if j = id then (hartOf s id).raise (flagsOf r) else hartOf s j := fun j => hartOf_twoWrites ..
  refine ⟨?_, fun j hj => ?_, ?_, fun n _ => ?_, fun k hk => ?_, ?_, fun n hn => ?_⟩
  · rw [vFinish_eq hcur]
    exact UnitsApart.trans (twoWrites_apart ..) (.advance hcurt)
  · rw [hlead] at hj
    rw [vFinish_eq hcur, hartOf_advance_other hcurt hj, hharts, if_neg hj]
  · rw [hlead, vFinish_eq hcur]
    have h := (advance_frame (passState s id f w r)).harts id
    rw [hharts, if_pos rfl] at h
    have e := congrArg (fun x : Hart => { x with nflags := (hartOf s id).nflags, flags := (hartOf s id).flags }) h
    exact e
  · rw [vFinish_eq hcur, advance_get, hlead, hharts, if_pos rfl]; rfl
  · rw [coreOf_vFinish hcur, if_neg hk]
  · rw [coreOf_vFinish hcur, if_pos rfl]; exact passCore_rest
  · rw [coreOf_vFinish hcur, if_pos rfl, passCore_file hx]
    have hd : n ≠ f.vd.num.toNat := fun e => hn (by rw [e]; split <;> simp)
    rw [if_neg hd, if_neg (fun h => hn (by rw [if_pos h.1, h.2]; simp))]

/-- The destination is empty until its completion. -/
theorem vFinish_done (hcur : s.cur = .hart id) (hd : f.vd.num.toNat < 32) :
    VectorDone s (vFinish f w r s) f.vd.num.toNat
      (if f.xm then hwAfter (hwAfter (vCore s).hw f.vd.num.toNat (elemBytes w (vCore s).vl)) f.mreg.toNat (elemBytes w (vCore s).vl)
       else hwAfter (vCore s).hw f.vd.num.toNat (elemBytes w (vCore s).vl)) := by
  have hbit : ((vCore s).vempty ||| BitVec.ofNat 32 (2 ^ f.vd.num.toNat)).getLsbD f.vd.num.toNat = true := by
    rw [BitVec.getLsbD_or, BitVec.getLsbD_ofNat, Nat.testBit_two_pow_self, decide_eq_true hd]
    simp
  unfold VectorDone vEmpty
  rw [coreOf_vFinish hcur, if_pos rfl]
  unfold passCore
  cases f.xm <;> exact ⟨hbit, rfl, rfl, rfl, rfl⟩

theorem vFinish_flags (hcur : s.cur = .hart id) : (hartOf (vFinish f w r s) (leadHart s)).flags = (hartOf s (leadHart s)).flags ∧
    (hartOf (vFinish f w r s) (leadHart s)).nflags = (hartOf s (leadHart s)).nflags ||| flagsOf r := by
  have h := (advance_frame (passState s id f w r)).harts id
  have hh : hartOf (passState s id f w r) id = (hartOf s id).raise (flagsOf r) := (hartOf_twoWrites ..).trans (if_pos rfl)
  rw [hh] at h
  rw [vFinish_eq hcur, leadHart_of_hart hcur]
  have hflags := congrArg Hart.flags h
  have hnflags := congrArg Hart.nflags h
  exact ⟨hflags, hnflags⟩

theorem vFinish_ctl {k : HartKind} (hk : curKind s = some k) (hcur : s.cur = .hart id) : ctl (vFinish f w r s) = nextPlace s := by
  have hcurt : (passState s id f w r).cur = s.cur := passState_cur
  have hh : hartOf (passState s id f w r) id = (hartOf s id).raise (flagsOf r) := (hartOf_twoWrites ..).trans (if_pos rfl)
  rw [vFinish_eq hcur]
  exact ctl_advance_of hk hcurt (ctl_congr_hart hcur hcurt (by rw [hh]; rfl) (by rw [hh]; rfl))

/-! ### The results of a pass -/

/-- An element's result, where it takes part. -/
def passResult (s : State) (f : FmtV) (c : Nat) (op : Nat → Nat → Nat → Nat → Elem) (e : Nat) : Elem :=
  op c (vAt s (codeWidth c) f.va.num.toNat e) (vAt s (codeWidth c) f.vb.num.toNat e) (vAt s (codeWidth c) f.vc.num.toNat e)

theorem vRegElems_map (s : State) (c n : Nat) : vRegElems s (codeWidth c) n = (List.range (vlmax c)).map fun e => vAt s (codeWidth c) n e := rfl

theorem vActive_map (s : State) (f : FmtV) (c : Nat) :
    vActive s f (codeWidth c) = (List.range (vlmax c)).map fun e => vTakes s f (codeWidth c) e := by
  have hmask : vMask s f (codeWidth c) = (if f.masken then some (vAt s (codeWidth c) f.mreg.toNat) else none).map fun m =>
      (List.range (8192 / codeWidth c)).map m := by
    unfold vMask
    cases f.masken <;> rfl
  unfold vActive
  rw [hmask, activeList_map]
  refine List.map_congr_left fun e _ => ?_
  unfold vTakes
  cases f.masken <;> simp

theorem elemPass_results (s : State) (f : FmtV) (c : Nat) (op : Nat → Nat → Nat → Nat → Elem) :
    elemPass (op c) (vActive s f (codeWidth c)) (vRegElems s (codeWidth c) f.va.num.toNat) (vRegElems s (codeWidth c) f.vb.num.toNat)
      (vRegElems s (codeWidth c) f.vc.num.toNat) =
    (List.range (vlmax c)).map fun e => if vTakes s f (codeWidth c) e then some (passResult s f c op e) else none := by
  rw [vActive_map, vRegElems_map, vRegElems_map, vRegElems_map, elemPass_map]
  rfl

theorem vAt_mod (s : State) (w n e : Nat) : vAt s w n e % 2 ^ w = vAt s w n e := elemNat_mod ..

/-- An element of the destination, and of the exception mask, after a pass. -/
theorem passValue_elem {c e : Nat} {op : Nat → Nat → Nat → Nat → Elem} (n : Nat) (he : e < vlmax c) :
    vElem (codeWidth c) e (passValue s (codeWidth c) n ((List.range (vlmax c)).map fun e =>
        if vTakes s f (codeWidth c) e then some (passResult s f c op e) else none)) =
      if vTakes s f (codeWidth c) e then (passResult s f c op e).val % 2 ^ codeWidth c else vAt s (codeWidth c) n e := by
  rw [passValue, vRegElems_map, mergeElems_map, vElem_ofVElems (by simp)]
  simp only [List.getD_eq_getElem?_getD, List.getElem?_map, List.getElem?_range he, Option.map_some, Option.getD_some]
  cases vTakes s f (codeWidth c) e
  · exact vAt_mod ..
  · rfl

theorem passMask_elem {c e : Nat} {op : Nat → Nat → Nat → Nat → Elem} (n : Nat) (he : e < vlmax c) :
    vElem (codeWidth c) e (passMask s (codeWidth c) n ((List.range (vlmax c)).map fun e =>
        if vTakes s f (codeWidth c) e then some (passResult s f c op e) else none)) =
      if vTakes s f (codeWidth c) e then excMask (codeWidth c) (passResult s f c op e).fl % 2 ^ codeWidth c else vAt s (codeWidth c) n e := by
  rw [passMask, vRegElems_map, maskElems_map, vElem_ofVElems (by simp)]
  simp only [List.getD_eq_getElem?_getD, List.getElem?_map, List.getElem?_range he, Option.map_some, Option.getD_some]
  cases vTakes s f (codeWidth c) e
  · exact vAt_mod ..
  · rfl

/-! ### The checks of an elementwise instruction (R37, R264, R266, R170) -/

/-- Past its format's rules, an elementwise instruction comes to its registers. -/
theorem vElementwise_checked {i : Instr} {srcs : List Opnd} {cls : Nat → Bool} {op : Nat → Nat → Nat → Nat → Elem}
    (hc : cls (vEff s).code = true) (hp : vPlain s = true) (hm : vMaskFree f srcs = true) :
    vElementwise i f cls srcs op s = vGo s srcs (maskRegs f) [f.vd.num.toNat] fun s =>
      ok (vFinish f (codeWidth (vEff s).code) (elemPass (op (vEff s).code) (vActive s f (codeWidth (vEff s).code))
        (vRegElems s (codeWidth (vEff s).code) f.va.num.toNat) (vRegElems s (codeWidth (vEff s).code) f.vb.num.toNat)
        (vRegElems s (codeWidth (vEff s).code) f.vc.num.toNat)) s) := by
  unfold vPlain at hp
  unfold vMaskFree at hm
  unfold vElementwise needPlain needMask needI
  dsimp only
  rw [need_of_true hc, need_of_true hp, need_of_true hm]
  rfl

theorem vElementwise_illegal {i : Instr} {srcs : List Opnd} {cls : Nat → Bool} {op : Nat → Nat → Nat → Nat → Elem}
    (hc : cls (vEff s).code = false) : vElementwise i f cls srcs op s = .error (.trap Cause.illegal (instrWord i)) := by
  unfold vElementwise needI
  dsimp only
  rw [need_of_false hc]
  rfl

section
variable {srcs : List Opnd} {plain dst : List Nat} {run : State → M State}

theorem vGo_empty {o : Opnd} (h : (srcs.find? fun o => o.fe && vEmpty (vCore s) o.num.toNat) = some o) :
    vGo s srcs plain dst run = .error (.trap Cause.emptyTrap (BitVec.ofNat 64 o.num.toNat)) := by
  unfold vGo
  dsimp only
  rw [h]

theorem find_fe_none (h : ∀ o ∈ srcs, o.fe = true → vEmpty (vCore s) o.num.toNat = false) :
    (srcs.find? fun o => o.fe && vEmpty (vCore s) o.num.toNat) = none := by
  rw [List.find?_eq_none]
  intro o ho
  rw [Bool.and_eq_true, not_and, Bool.not_eq_true]
  exact h o ho

theorem vGo_none (h : ∀ o ∈ srcs, o.fe = true → vEmpty (vCore s) o.num.toNat = false) (hvl : (vCore s).vl = 0) :
    vGo s srcs plain dst run = ok (advance (endVector s)) := by
  unfold vGo
  dsimp only
  rw [find_fe_none h, if_pos hvl]

theorem any_named : (srcs.map (·.num.toNat) ++ plain ++ dst).any (vEmpty (vCore s)) =
    !((srcs.all fun o => !vEmpty (vCore s) o.num.toNat) && ((plain ++ dst).all fun n => !vEmpty (vCore s) n)) := by
  simp [List.any_append, List.any_map, List.all_eq_not_any_not, Function.comp_def]

theorem vGo_goes (h : vGoes s srcs (plain ++ dst) = true) : vGo s srcs plain dst run = run s := by
  unfold vGoes at h
  simp only [Bool.and_eq_true, bne_iff_ne] at h
  obtain ⟨⟨hsrcs, hvl⟩, hothers⟩ := h
  have hfe : ∀ o ∈ srcs, o.fe = true → vEmpty (vCore s) o.num.toNat = false := fun o ho _ => by
    simpa using List.all_eq_true.1 hsrcs o ho
  unfold vGo
  dsimp only
  rw [find_fe_none hfe, if_neg hvl, any_named, hsrcs, hothers]
  rfl

theorem vGo_waits (hfe : ∀ o ∈ srcs, o.fe = true → vEmpty (vCore s) o.num.toNat = false) (hvl : (vCore s).vl ≠ 0)
    (h : vGoes s srcs (plain ++ dst) = false) : vGo s srcs plain dst run = stall s := by
  unfold vGoes at h
  have hvl' : ((vCore s).vl != 0) = true := by simpa using hvl
  rw [hvl', Bool.and_true] at h
  unfold vGo
  dsimp only
  rw [find_fe_none hfe, if_neg hvl, any_named, h]
  rfl

end

/-- A stall leaves everything where it is but the mark of the wait. -/
theorem staysHere_of_stall {i : Instr} {body : State → M State} (he : exec i s = perform i s body) (h : admitted i s = true)
    (hc : cancelled s = false) (hb : body s = stall s) : StaysHere i s := by
  refine ⟨{ s with waited := true }, ?_, rfl, rfl, fun _ _ => rfl, fun _ => rfl⟩
  rw [he, perform_admitted h, hb]
  simp only [stall, finish, hc, Bool.false_eq_true, if_false, logged]

/-! ### The obligation -/

/-- Settles O48: the table's instructions are one form (`exec_of_vecTable`), which passes, stalls or traps by its checks; a pass leaves what
`vFinish_frame`, `vFinish_done`, `passValue_elem` and `passMask_elem` say. -/
theorem vectorElementwiseResults : Obligations.VectorElementwiseResults := by
  unfold Obligations.VectorElementwiseResults
  intro i f srcs cls op s htable hadm
  dsimp only
  obtain ⟨hheader, hbank, hlate, hdst⟩ := vecTable_form htable
  have hexec := exec_of_vecTable (s := s) htable
  obtain ⟨kind, hkind⟩ := admitted_curKind hadm
  have hcur := cur_of_admitted hadm hheader hbank
  have hlateTrap : ∀ {code : BitVec 8} {info : Word}, vElementwise i f cls srcs op s = .error (.trap code info) → code ≠ Cause.ue →
      cancelled s = false → TrapsLate i s code info := fun hb hue hc => by
    have h := perform_trap hadm hc hb hue
    rw [hlate, ← hexec] at h
    exact h
  refine ⟨fun hcls hplain hmask => ?_, fun hcls hc => hlateTrap (vElementwise_illegal hcls) (by decide) hc⟩
  have hchecked := vElementwise_checked (i := i) (op := op) hcls hplain hmask
  refine ⟨fun hgoes => ?_, fun hfe hvl => ?_, fun o ho hc => ?_, fun hfe hvl hgoes hc => ?_⟩
  · have hx : f.xm = true → f.mreg.toNat ≠ f.vd.num.toNat := fun hx => by
      unfold vMaskFree at hmask
      rw [hx] at hmask
      simp only [Bool.not_true, Bool.false_or, Bool.and_eq_true, bne_iff_ne] at hmask
      exact hmask.1
    have hd : f.vd.num.toNat < 32 := by
      have hfields := (admitted_checks hadm hkind hheader).2
      unfold fieldsOk at hfields
      simp only [Bool.and_eq_true, List.all_eq_true] at hfields
      have hvd := hfields.2 _ hdst
      simp only [opOk, Bool.and_eq_true, decide_eq_true_eq] at hvd
      exact hvd.2
    rw [vGo_goes (plain := maskRegs f) hgoes, elemPass_results] at hchecked
    refine ⟨_, hexec.trans (perform_ok hadm hchecked), vFinish_ctl hkind hcur, vFinish_frame hcur hx, vFinish_done hcur hd,
      (vFinish_flags hcur).1, fun k => ?_, fun e he => ?_, fun hxm e he => ?_⟩
    · rw [(vFinish_flags hcur).2, BitVec.getLsbD_or, flagsOf_map]
      rfl
    · rw [vAt, curCore_vFinish hcur, coreOf_vFinish hcur, if_pos rfl, passCore_file hx, if_pos rfl, passValue_elem _ he]
      rfl
    · rw [vAt, curCore_vFinish hcur, coreOf_vFinish hcur, if_pos rfl, passCore_file hx, if_neg (hx hxm), if_pos ⟨hxm, rfl⟩, passMask_elem _ he]
      rfl
  · exact hexec.trans (perform_ok hadm (hchecked.trans (vGo_none hfe hvl)))
  · exact hlateTrap (hchecked.trans (vGo_empty ho)) (by decide) hc
  · exact staysHere_of_stall hexec hadm hc (hchecked.trans (vGo_waits hfe hvl hgoes))

end Sys2Proof.Machine
end

section
/-! ## Gangs, predicates, yielding and the lease (02_execution_model.md R42, R45, R50, R84, R259 to R261) -/
namespace Sys2Proof.Machine

/-! ### A function of each hart of a list -/

/-- Each hart of a list changed by a function of its own. -/
def modEach (s : State) (ids : List Nat) (f : Nat → Hart → Hart) : State := ids.foldl (fun t id => modHart t id (f id)) s

theorem hartOf_modEach (f : Nat → Hart → Hart) (j : Nat) : ∀ (ids : List Nat) (s : State), ids.Nodup →
    hartOf (modEach s ids f) j = if j ∈ ids then f j (hartOf s j) else hartOf s j
  | [], _, _ => rfl
  | i :: is, s, h => by
    rw [List.nodup_cons] at h
    show hartOf (modEach (modHart s i (f i)) is f) j = _
    rw [hartOf_modEach f j is _ h.2, hartOf_modHart]
    by_cases hj : j = i
    · subst hj; simp [h.1]
    · simp [hj]

theorem modEach_rest (f : Nat → Hart → Hart) : ∀ (ids : List Nat) (s : State), { modEach s ids f with harts := s.harts } = s
  | [], _ => rfl
  | i :: is, s => by
    have h := congrArg (fun t : State => { t with harts := s.harts }) (modEach_rest f is (modHart s i (f i)))
    exact h

theorem modEach_mem (f : Nat → Hart → Hart) (ids : List Nat) (s : State) : (modEach s ids f).mem = s.mem := by
  have h := congrArg State.mem (modEach_rest f ids s); exact h
theorem modEach_cur (f : Nat → Hart → Hart) (ids : List Nat) (s : State) : (modEach s ids f).cur = s.cur := by
  have h := congrArg State.cur (modEach_rest f ids s); exact h
theorem modEach_pergolas (f : Nat → Hart → Hart) (ids : List Nat) (s : State) : (modEach s ids f).pergolas = s.pergolas := by
  have h := congrArg State.pergolas (modEach_rest f ids s); exact h

theorem SameMemory.of_mem' {s t : State} (h : t.mem = s.mem) : SameMemory s t := fun a => by unfold readByte; rw [h]

/-- Where the issuer stands, if its harts and its Pergola stand where they stood. -/
theorem ctl_congr {s u : State} (hcur : u.cur = s.cur) (hper : ∀ g, (perOf u g).pc = (perOf s g).pc ∧ (perOf u g).loops = (perOf s g).loops)
    (hharts : ∀ id, (hartOf u id).pc = (hartOf s id).pc ∧ (hartOf u id).loops = (hartOf s id).loops) : ctl u = ctl s := by
  unfold ctl
  rw [hcur]
  split
  · rw [(hharts _).1, (hharts _).2]
  · rw [(hharts _).1, (hharts _).2]
  · rw [(hper _).1, (hper _).2]
  · rfl

/-- A function of harts that moves none of them leaves the issuer's place. -/
theorem ctl_modEach {f : Nat → Hart → Hart} (hf : ∀ id h, (f id h).pc = h.pc ∧ (f id h).loops = h.loops) {ids : List Nat} {s : State}
    (hn : ids.Nodup) : ctl (modEach s ids f) = ctl s := by
  refine ctl_congr (modEach_cur ..) (fun g => by unfold perOf; rw [modEach_pergolas]; exact ⟨rfl, rfl⟩) fun id => ?_
  rw [hartOf_modEach f id ids s hn]
  split
  · exact hf id _
  · exact ⟨rfl, rfl⟩

theorem allHarts_nodup (s : State) : (allHarts s).Nodup := by
  unfold allHarts
  split
  · simp
  · exact List.Nodup.map (fun a b h => by simp only [bankId] at h; omega) List.nodup_range
  · unfold splitBanks; split <;> simp [bankId]
  · simp

/-! ### The end of an instruction, for a Pergola -/

theorem advance_bankOf (s : State) (g b : Nat) : bankOf (advance s) g b = bankOf s g b := by
  have h := congrArg (fun p : Pergola => p.banks.get {} b) ((advance_frame s).pergolas g)
  exact h

theorem advance_perOf (s : State) (g : Nat) :
    (perOf (advance s) g).gang = (perOf s g).gang ∧ (perOf (advance s) g).step = (perOf s g).step := by
  have hgang := congrArg Pergola.gang ((advance_frame s).pergolas g)
  have hstep := congrArg Pergola.step ((advance_frame s).pergolas g)
  exact ⟨hgang, hstep⟩

theorem ctl_of_pergola {s : State} {g : Nat} (h : s.cur = .pergola g) : ctl s = { pc := (perOf s g).pc, loops := (perOf s g).loops } := by
  unfold ctl; rw [h]
theorem curPer_of_pergola {s : State} {g : Nat} (h : s.cur = .pergola g) : curPer s = g := by unfold curPer; rw [h]
theorem allHarts_of_pergola {s : State} {g : Nat} (h : s.cur = .pergola g) : allHarts s = (List.range 8).map (bankId g) := by unfold allHarts; rw [h]

theorem cur_of_inGang {s : State} (h : inGang s = true) : s.cur = .pergola (curPer s) := by
  unfold inGang at h
  split at h
  · next g hg => rw [hg, curPer_of_pergola hg]
  · cases h

theorem bankId_inj {g b c : Nat} (h : bankId g b = bankId g c) : b = c := by unfold bankId at h; omega

/-! ### SPLIT and the rendezvous of GANG (R45) -/

theorem splitGang_leaves {s : State} {k : HartKind} (hk : curKind s = some k) (hgang : inGang s = true) :
    (perOf (splitGang s) (curPer s)).gang = false ∧ (perOf (splitGang s) (curPer s)).loops = [] ∧
      (∀ b, b < 8 → (hartOf (splitGang s) (bankId (curPer s) b)).pc = (nextPlace s).pc ∧
        (hartOf (splitGang s) (bankId (curPer s) b)).loops = (nextPlace s).loops) ∧ SameRegisters s (splitGang s) ∧ SameMemory s (splitGang s) := by
  have hcur := cur_of_inGang hgang
  have hplace : ctl (advance s) = nextPlace s := ctl_advance_of hk rfl rfl
  rw [ctl_of_pergola ((advance_cur s).trans hcur)] at hplace
  have hnodup := allHarts_nodup (advance s)
  have hharts : ∀ id, hartOf (splitGang s) id = if id ∈ allHarts (advance s) then
      { hartOf (advance s) id with pc := (nextPlace s).pc, loops := (nextPlace s).loops } else hartOf (advance s) id := fun id => by
    rw [← hplace]
    exact hartOf_modHarts _ id _ _ hnodup
  have hper : perOf (splitGang s) (curPer s) = { perOf (modHarts (advance s) (allHarts (advance s)) fun h =>
      { h with pc := (perOf (advance s) (curPer s)).pc, loops := (perOf (advance s) (curPer s)).loops }) (curPer s) with
        gang := false, loops := [], lastBank := 7 } := perOf_modPer_same _ _ _
  refine ⟨by rw [hper], by rw [hper], fun b hb => ?_, fun id n => ?_, ?_⟩
  · rw [hharts, if_pos (by rw [allHarts_of_pergola ((advance_cur s).trans hcur)]; exact List.mem_map_of_mem (List.mem_range.2 hb))]
    exact ⟨rfl, rfl⟩
  · rw [hharts, ← advance_get s id n]; split <;> rfl
  · intro a
    rw [← (advance_frame s).memory a]
    exact SameMemory.of_mem' (s := advance s) (modHarts_mem ..) a

/-- The gang at its rendezvous, before its GANG ends. -/
def gangMet (s : State) (g b : Nat) (bs : List Nat) : State :=
  { modPer (modHarts s ((b :: bs).map (bankId g)) fun h => { h with run := .running, loops := [] }) g fun p =>
      { p with gang := true, pc := (hartOf s (bankId g b)).pc, loops := (hartOf s (bankId g b)).loops } with cur := .pergola g }

theorem gangMeet_meets {s : State} {g b : Nat} {bs : List Nat} (hlive : liveBanks s g = b :: bs) (hg : (perOf s g).gang = false)
    (hp : (perOf s g).phase = .running) (hat : ∀ c ∈ b :: bs, (hartOf s (bankId g c)).run = .atGang) (hy : standsAtYield s g b = false) :
    gangMeet s g = { advance (gangMet s g b bs) with cur := s.cur } := by
  have hall : ((b :: bs).all fun c => (hartOf s (bankId g c)).run == .atGang) = true :=
    List.all_eq_true.2 fun c hc => by rw [hat c hc]; rfl
  unfold gangMeet
  rw [hlive]
  dsimp only
  rw [hg, hp, hall, hy]
  rfl

theorem gangMeet_stays {s : State} {g b : Nat} {bs : List Nat} (hlive : liveBanks s g = b :: bs)
    (h : (perOf s g).gang = true ∨ ∃ c ∈ b :: bs, (hartOf s (bankId g c)).run ≠ .atGang) : gangMeet s g = s := by
  unfold gangMeet
  rw [hlive]
  dsimp only
  refine if_pos ?_
  rcases h with h | ⟨c, hc, hne⟩
  · rw [h]; rfl
  · have hall : ((b :: bs).all fun c => (hartOf s (bankId g c)).run == .atGang) = false := by
      rw [List.all_eq_false]
      exact ⟨c, hc, by simpa using hne⟩
    rw [hall]
    simp

theorem liveBanks_nodup (s : State) (g : Nat) : ((liveBanks s g).map (bankId g)).Nodup :=
  List.Nodup.map (fun _ _ h => bankId_inj h) (List.nodup_range.filter _)

theorem gangMet_leaves {s : State} {g b : Nat} {bs : List Nat} (hg : g < 1152) (hn : ((b :: bs).map (bankId g)).Nodup) :
    let h := hartOf s (bankId g b)
    let t := advance (gangMet s g b bs)
    (perOf t g).gang = true ∧ (perOf t g).pc = (fallThrough { pc := h.pc, loops := h.loops } 8).1.pc ∧
      (perOf t g).loops = (fallThrough { pc := h.pc, loops := h.loops } 8).1.loops ∧
      (∀ c ∈ b :: bs, (hartOf t (bankId g c)).run = .running) ∧ SameRegisters s t ∧ SameMemory s t := by
  dsimp only
  have hcur : (gangMet s g b bs).cur = .pergola g := rfl
  have hkind : curKind (gangMet s g b bs) = some .bank := by unfold curKind; rw [hcur]; exact if_pos hg
  have hper : perOf (gangMet s g b bs) g = { perOf s g with gang := true, pc := (hartOf s (bankId g b)).pc, loops := (hartOf s (bankId g b)).loops } := by
    have e : perOf (modHarts s ((b :: bs).map (bankId g)) fun h => { h with run := .running, loops := [] }) g = perOf s g := by
      unfold perOf; rw [modHarts_pergolas]
    rw [← e]
    exact perOf_modPer_same (modHarts s ((b :: bs).map (bankId g)) fun h => { h with run := .running, loops := [] }) g
      fun p => { p with gang := true, pc := (hartOf s (bankId g b)).pc, loops := (hartOf s (bankId g b)).loops }
  have hharts : ∀ id, hartOf (gangMet s g b bs) id =
      if id ∈ (b :: bs).map (bankId g) then { hartOf s id with run := .running, loops := [] } else hartOf s id := fun id =>
    hartOf_modHarts _ id _ s hn
  have hplace := ctl_advance hkind
  rw [ctl_of_pergola ((advance_cur _).trans hcur), ctl_of_pergola hcur, hper] at hplace
  refine ⟨by rw [(advance_perOf _ g).1, hper], congrArg Ctl.pc hplace, congrArg Ctl.loops hplace, fun c hc => ?_, fun id n => ?_, fun a => ?_⟩
  · rw [advance_run, hharts, if_pos (List.mem_map_of_mem hc)]
  · rw [advance_get, hharts]; split <;> rfl
  · rw [(advance_frame _).memory]
    exact SameMemory.of_mem' (modHarts_mem ..) a

/-! ### BMASK (R42, R260) -/

theorem flagCond_eq (c : Nat) (st : BitVec 2) : flagCond c st = stateHolds (c % 4) st := by
  have h : ∀ n, n < 4 → ∀ st : BitVec 2, flagCond n st = stateHolds (n % 4) st := by decide
  have e : flagCond c st = flagCond (c % 4) st := by unfold flagCond; rw [Nat.mod_mod]
  rw [e, h _ (Nat.mod_lt _ (by decide)), Nat.mod_mod]

theorem bmask_source (f : FmtW) : (f.imm6.extractLsb' 4 2).toNat = f.imm6.toNat / 16 := by
  have h := f.imm6.isLt
  rw [BitVec.extractLsb'_toNat, Nat.shiftRight_eq_div_pow]
  omega

theorem bmaskBit_eq (f : FmtW) (h : Hart) : bmaskBit f h = match f.imm6.toNat / 16 with
    | 0 => stateHolds (f.imm6.toNat % 4) h.flags != f.imm6.getLsbD 2
    | 1 => (h.get f.sa.num.toNat != 0) != f.imm6.getLsbD 2
    | _ => true := by
  unfold bmaskBit
  rw [bmask_source, flagCond_eq, Nat.mod_mod]
  rfl

/-- The hart whose flags and registers give a bank its predicate (R487). -/
def maskSource (s : State) (id : Nat) : Hart :=
  hartOf s (if (perOf s (curPer s)).dual then bankId (curPer s) (bankOfHart id % 4) else id)

theorem bmask_sets {f : FmtW} {s : State} (h : f.imm6.toNat / 16 ≠ 3) :
    bmask f s = .ok (advance (modEach s (allHarts s) fun id h => { h with pred := bmaskBit f (maskSource s id) })) := by
  have hne : (f.imm6.extractLsb' 4 2 != 3) = true := by
    rw [bne_iff_ne, ne_eq, ← BitVec.toNat_inj, bmask_source]; exact h
  unfold bmask
  rw [need_of_true hne]
  rfl

theorem bmask_reserved {f : FmtW} {s : State} (h : f.imm6.toNat / 16 = 3) :
    bmask f s = .error (.trap Cause.reservedField (instrWord (.bmask f))) := by
  have hne : (f.imm6.extractLsb' 4 2 != 3) = false := by
    rw [bne_eq_false_iff_eq, ← BitVec.toNat_inj, bmask_source]; exact h
  unfold bmask
  rw [need_of_false hne]
  rfl

theorem lateMajor_bmask (f : FmtW) : lateMajor (.bmask f) = false := by
  have e := congrArg BitVec.toNat (Laws.major_encW 0x44 2 f)
  have hm : major (.bmask f) = 0x44 := by
    rw [BitVec.extractLsb'_toNat, Nat.shiftRight_zero] at e
    exact e
  rw [lateMajor, queued, hm]; rfl

/-! ### LEASE (R84, R261) -/

theorem octlease_toNat (s : State) (g : Nat) : (octlease s g).toNat =
    if rowCapable s g = false then 3 * 2 ^ 46
    else if (perOf s g).lessee = 0 then 0
    else (perOf s g).remain % 2 ^ 40 + (if (perOf s g).dual then 2 else 1) * 2 ^ 46 + (perOf s g).lessee.toNat * 2 ^ 48 := by
  have hr : (perOf s g).remain % 2 ^ 40 < 2 ^ 40 := Nat.mod_lt _ (by positivity)
  have hl := (perOf s g).lessee.isLt
  unfold octlease
  dsimp only
  cases rowCapable s g with
  | false => rfl
  | true =>
    simp only [Bool.not_true, Bool.false_eq_true, Bool.true_eq_false, if_false]
    split
    · rfl
    · rw [BitVec.toNat_ofNat, Nat.mod_eq_of_lt]
      split <;> omega

/-- Writing one register of each performing hart, then the end of the instruction. -/
theorem advance_modEach_frame {s : State} {d : Opnd} {v : Nat → Word} {ids : List Nat} (hn : ids.Nodup) :
    RegisterFrame s (advance (modEach s ids fun id h => h.dest d (v id))) ids d.num.toNat := by
  refine RegisterFrame.trans (t := modEach s ids fun id h => h.dest d (v id)) ⟨?_, fun id => ?_, fun g => ?_, fun id n hid => ?_, ?_⟩
    ((advance_frame _).frame _ _)
  · have e := congrArg (fun t : State => { t with pergolas := s.pergolas }) (modEach_rest (fun id h => h.dest d (v id)) ids s)
    exact e
  · rw [hartOf_modEach _ id ids s hn]
    split
    · exact Hart.dest_apart ..
    · rfl
  · unfold perOf; rw [modEach_pergolas]; rfl
  · rw [hartOf_modEach _ id ids s hn]
    split
    · next h => rw [Hart.get_dest, if_neg fun e => hid ⟨h, e.1⟩]
    · rfl
  · exact SameMemory.of_mem' (modEach_mem ..)

end Sys2Proof.Machine
end

section
/-! ## Lane work of the performing banks, and single elements of a row (02_execution_model.md R41, R231, R262) -/
namespace Sys2Proof.Machine

/-! ### The banks that perform -/

theorem bankOfHart_bankId (g : Nat) {b : Nat} (hb : b < 8) : bankOfHart (bankId g b) = b := by unfold bankOfHart bankId; omega

theorem kindOfId_of_lt {id : Nat} (h : id < 0x8000) : kindOfId id ≠ some .bank := by
  unfold kindOfId
  split
  · split <;> decide
  · rw [if_neg (show ¬(0x8000 ≤ id ∧ id < 0xA400) by omega)]
    split <;> decide

theorem splitBanks_lt {s : State} {g b c : Nat} (hb : b < 8) (hc : c ∈ splitBanks s g b) : c < 8 := by
  unfold splitBanks at hc
  split at hc
  · next hd =>
    simp only [Bool.and_eq_true, decide_eq_true_eq] at hd
    simp only [List.mem_cons, List.not_mem_nil, or_false] at hc
    omega
  · rw [List.mem_singleton.1 hc]; exact hb

/-- Where banks issue, those that perform are banks of the issuing Pergola. -/
theorem performers_of_curKind {s : State} (hk : curKind s = some .bank) :
    ∃ l : List Nat, performers s = l.map (bankId (curPer s)) ∧ ∀ b ∈ l, b < 8 := by
  unfold curKind at hk
  unfold performers curPer
  split at hk
  · split at hk
    · next hid => exact absurd hk (kindOfId_of_lt hid)
    · cases hk
  · next g hg => rw [hg]; exact ⟨_, rfl, fun b hb => List.mem_range.1 (List.mem_filter.1 hb).1⟩
  · next g b hg =>
    rw [hg]
    split at hk
    · next hlt => exact ⟨_, rfl, fun c hc => splitBanks_lt hlt.2 hc⟩
    · cases hk
  · cases hk

/-- An instruction of the banks alone is performed by banks of one Pergola, each once. -/
theorem performers_of_banks {i : Instr} {s : State} (h : admitted i s = true) (hh : isHeader i = false)
    (hx : ∀ k, hartExecutes k i = decide (k = .bank)) :
    performers s = (rowBanks s).map (bankId (curPer s)) ∧ (rowBanks s).Nodup := by
  obtain ⟨k, hk⟩ := admitted_curKind h
  have hbank : k = .bank := of_decide_eq_true ((hx k).symm.trans (admitted_checks h hk hh).1)
  obtain ⟨l, hl, hlt⟩ := performers_of_curKind (hbank ▸ hk)
  have hrow : rowBanks s = l := by
    unfold rowBanks
    rw [hl, List.map_map]
    exact (List.map_congr_left fun b hb => bankOfHart_bankId _ (hlt b hb)).trans (List.map_id l)
  rw [hrow]
  exact ⟨hl, List.Nodup.of_map _ (hl ▸ performers_nodup s)⟩

/-! ### A row instruction that nothing stops (R41, R236) -/

theorem refdueBanks_of_admitted {i : Instr} {s : State} (h : admitted i s = true) : refdueBanks s = [] := by
  unfold admitted at h
  split at h
  · cases h
  · simp only [Bool.and_eq_true, List.isEmpty_iff] at h
    exact h.1.1.2

theorem rowOwn_of_none {s : State} {named : Nat → List (Nat × Nat)} {check : Nat → RowFault} (hdue : refdueBanks s = [])
    (hrescued : ∀ b ∈ rowBanks s, rescuedFault s (curPer s) (named b) = none) (hcheck : ∀ b ∈ rowBanks s, check b = none) :
    rowOwn s named (performing s check) = [] := by
  unfold rowOwn withRefdue
  rw [hdue]
  refine List.filterMap_eq_nil_iff.2 fun b _ => ?_
  by_cases hb : b ∈ rowBanks s
  · simp [performing, hb, hrescued b hb, hcheck b hb]
  · simp [performing, hb]

theorem rowInstr_goes {s : State} {named : Nat → List (Nat × Nat)} {check content : Nat → RowFault} {ready : Nat → Bool}
    {run : State → M State} (hdue : refdueBanks s = []) (hunforced : ∀ b ∈ rowBanks s, unforced s (curPer s) (named b) = true)
    (hrescued : ∀ b ∈ rowBanks s, rescuedFault s (curPer s) (named b) = none) (hcheck : ∀ b ∈ rowBanks s, check b = none)
    (hready : ∀ b ∈ rowBanks s, ready b = true) (hcontent : ∀ b ∈ rowBanks s, content b = none) :
    rowInstr named check ready content run s = run s := by
  unfold rowInstr
  dsimp only
  rw [rowOwn_of_none hdue hrescued hcheck, rowOwn_of_none hdue hrescued hcontent, List.all_eq_true.2 hunforced, List.all_eq_true.2 hready]
  rfl

theorem rescuedFault_of_opened {s : State} {g : Nat} {l : List (Nat × Nat)} (h : ∀ p ∈ l, (regOf s g p.1 p.2).st = .opened) :
    rescuedFault s g l = none := by
  unfold rescuedFault rescuedOf
  rw [List.find?_eq_none.2 fun p hp => by rw [h p hp]; simp]
  rfl

theorem closedFault_of_opened {s : State} {g : Nat} {l : List (Nat × Nat)} (h : ∀ p ∈ l, (regOf s g p.1 p.2).st = .opened) :
    closedFault s g l = none := by
  unfold closedFault
  rw [List.find?_eq_none.2 fun p hp => by rw [h p hp]; simp]
  rfl

/-- A lane instruction whose registers are ready and whose checks pass is performed by the banks one by one. -/
theorem laneInstr_goes {i : Instr} {s : State} {use : Nat → RowUse} {field late : Nat → RowFault} {time : Nat → Nat}
    {run : State → State → Nat → State} (hdue : refdueBanks s = []) (hready : rowReady s use = true)
    (hfield : ∀ b ∈ rowBanks s, field b = none) (hlate : ∀ b ∈ rowBanks s, late b = none) :
    laneInstr i use field late time run s = .ok (advance ((rowBanks s).foldl (fun t b =>
      laneMark s (run s (modBank t (curPer s) b fun k => { k with laneFlags := [] }) b) i (curPer s) b (time b) (use b)) s)) := by
  have hbank : ∀ b ∈ rowBanks s, laneReady s (curPer s) b (use b) = true ∧ unforced s (curPer s) ((use b).named b) = true ∧
      ∀ p ∈ (use b).named b, (regOf s (curPer s) p.1 p.2).st = .opened := fun b hb => by
    have h := List.all_eq_true.1 hready b hb
    simp only [Bool.and_eq_true, List.all_eq_true, beq_iff_eq] at h
    exact ⟨h.1.1, h.1.2, h.2⟩
  unfold laneInstr laneInstrIf
  refine rowInstr_goes hdue (fun b hb => (hbank b hb).2.1) (fun b hb => rescuedFault_of_opened (hbank b hb).2.2) (fun b hb => ?_)
    (fun b hb => by rw [(hbank b hb).1]; rfl) hlate
  rw [hfield b hb, closedFault_of_opened (hbank b hb).2.2]
  rfl

/-! ### Work of one bank and its hart -/

/-- Bank `b` of Pergola `g` and its hart change by these functions, and nothing else changes. -/
structure BankStep (g b : Nat) (H : Hart → Hart) (F : Bank → Bank) (s t : State) : Prop where
  rest : { t with harts := s.harts, pergolas := s.pergolas } = s
  harts : ∀ id, hartOf t id = if id = bankId g b then H (hartOf s id) else hartOf s id
  pergolas : ∀ j, j ≠ g → perOf t j = perOf s j
  pergola : { perOf t g with banks := (perOf s g).banks } = perOf s g
  banks : ∀ c, bankOf t g c = if c = b then F (bankOf s g c) else bankOf s g c

theorem BankStep.modBank (s : State) (g b : Nat) (F : Bank → Bank) : BankStep g b id F s (modBank s g b F) where
  rest := rfl
  harts id := by split <;> rfl
  pergolas j hj := by unfold Machine.modBank; rw [perOf_modPer, if_neg hj]
  pergola := by unfold Machine.modBank; rw [perOf_modPer_same]
  banks c := by
    rw [bankOf_modBank]
    by_cases hc : c = b
    · subst hc; simp
    · simp [hc]

theorem BankStep.modHart (s : State) (g b : Nat) (H : Hart → Hart) : BankStep g b H id s (modHart s (bankId g b) H) where
  rest := rfl
  harts id := by
    rw [hartOf_modHart]
    split
    · next h => rw [h]
    · rfl
  pergolas _ _ := rfl
  pergola := rfl
  banks c := by split <;> rfl

theorem BankStep.trans {g b : Nat} {H H' : Hart → Hart} {F F' : Bank → Bank} {s t u : State} (h : BankStep g b H F s t)
    (h' : BankStep g b H' F' t u) : BankStep g b (H' ∘ H) (F' ∘ F) s u where
  rest := by
    have e := congrArg (fun x : State => { x with harts := s.harts, pergolas := s.pergolas }) h'.rest
    exact Eq.trans e h.rest
  harts id := by rw [h'.harts, h.harts]; split <;> rfl
  pergolas j hj := (h'.pergolas j hj).trans (h.pergolas j hj)
  pergola := by
    have e := congrArg (fun x : Pergola => { x with banks := (perOf s g).banks }) h'.pergola
    exact Eq.trans e h.pergola
  banks c := by rw [h'.banks, h.banks]; split <;> rfl

/-- The banks of a list and their harts change, each by functions of its own, and nothing else changes. -/
structure BanksStep (g : Nat) (bs : List Nat) (H : Nat → Hart → Hart) (F : Nat → Bank → Bank) (s t : State) : Prop where
  rest : { t with harts := s.harts, pergolas := s.pergolas } = s
  harts : ∀ id, id ∉ bs.map (bankId g) → hartOf t id = hartOf s id
  hart : ∀ b ∈ bs, hartOf t (bankId g b) = H b (hartOf s (bankId g b))
  pergolas : ∀ j, j ≠ g → perOf t j = perOf s j
  pergola : { perOf t g with banks := (perOf s g).banks } = perOf s g
  banks : ∀ c, bankOf t g c = if c ∈ bs then F c (bankOf s g c) else bankOf s g c

theorem BanksStep.foldl {g : Nat} {H : Nat → Hart → Hart} {F : Nat → Bank → Bank} {step : State → Nat → State}
    (hstep : ∀ t b, BankStep g b (H b) (F b) t (step t b)) :
    ∀ (bs : List Nat) (s : State), bs.Nodup → BanksStep g bs H F s (bs.foldl step s)
  | [], s, _ => ⟨rfl, fun _ _ => rfl, fun _ h => absurd h List.not_mem_nil, fun _ _ => rfl, rfl, fun _ => rfl⟩
  | b :: bs, s, hn => by
    rw [List.nodup_cons] at hn
    have h := hstep s b
    have h' := BanksStep.foldl hstep bs (step s b) hn.2
    have hne : ∀ c ∈ bs, bankId g c ≠ bankId g b := fun c hc e => hn.1 (bankId_inj e ▸ hc)
    refine ⟨?_, fun id hid => ?_, fun c hc => ?_, fun j hj => (h'.pergolas j hj).trans (h.pergolas j hj), ?_, fun c => ?_⟩
    · have e := congrArg (fun x : State => { x with harts := s.harts, pergolas := s.pergolas }) h'.rest
      exact Eq.trans e h.rest
    · rw [List.map_cons, List.mem_cons, not_or] at hid
      exact (h'.harts id hid.2).trans ((h.harts id).trans (if_neg hid.1))
    · rcases List.mem_cons.1 hc with rfl | hc
      · have hnot : bankId g c ∉ bs.map (bankId g) := fun hm => by
          obtain ⟨d, hd, e⟩ := List.mem_map.1 hm
          exact hne d hd e
        exact (h'.harts _ hnot).trans ((h.harts _).trans (if_pos rfl))
      · rw [List.foldl_cons, h'.hart c hc, h.harts, if_neg (hne c hc)]
    · have e := congrArg (fun x : Pergola => { x with banks := (perOf s g).banks }) h'.pergola
      exact Eq.trans e h.pergola
    · rw [List.foldl_cons, h'.banks, h.banks]
      by_cases hcb : c = b
      · subst hcb; simp [hn.1]
      · simp [hcb]

/-! ### One element replaced (R228) -/

/-- Bits of a number with an element replaced. -/
theorem testBit_setElemNat (w i v x j : Nat) : (setElemNat w i v x).testBit j =
    if w * i ≤ j ∧ j < w * i + w then (x % 2 ^ w).testBit (j - w * i) else v.testBit j := by
  have hlow : v % 2 ^ (w * i) < 2 ^ (w * i) := Nat.mod_lt _ (by positivity)
  have hx : x % 2 ^ w < 2 ^ w := Nat.mod_lt _ (by positivity)
  have hval : setElemNat w i v x = 2 ^ (w * i) * (2 ^ w * (v / 2 ^ (w * i) / 2 ^ w) + x % 2 ^ w) + v % 2 ^ (w * i) := by
    have hv : 2 ^ (w * i) * (2 ^ w * (v / 2 ^ (w * i) / 2 ^ w) + v / 2 ^ (w * i) % 2 ^ w) + v % 2 ^ (w * i) = v := by
      rw [Nat.div_add_mod, Nat.div_add_mod]
    unfold setElemNat elemNat
    rw [Nat.shiftRight_eq_div_pow]
    generalize v / 2 ^ (w * i) / 2 ^ w = high at hv ⊢
    generalize v / 2 ^ (w * i) % 2 ^ w = old at hv ⊢
    generalize v % 2 ^ (w * i) = low at hv ⊢
    rw [← hv]
    exact Nat.sub_eq_of_eq_add (by ring)
  rw [hval, Nat.testBit_two_pow_mul_add _ hlow]
  split
  · next h => rw [if_neg (by omega), Nat.testBit_mod_two_pow]; simp [h]
  · next h =>
    rw [Nat.testBit_two_pow_mul_add _ hx]
    split
    · next h' => rw [if_pos (by omega)]
    · next h' =>
      rw [if_neg (by omega), Nat.testBit_div_two_pow, Nat.testBit_div_two_pow]
      congr 1; omega

/-- Two places of elements of one width: the bits of the one lie outside the other. -/
theorem place_apart {w e i j : Nat} (h : e ≠ i) (hj : j < w) : ¬(w * i ≤ w * e + j ∧ w * e + j < w * i + w) := by
  rintro ⟨hlo, hhi⟩
  rcases Nat.lt_or_gt_of_ne h with hlt | hlt
  · have := Nat.mul_le_mul_left w (Nat.succ_le_of_lt hlt); rw [Nat.mul_succ] at this; omega
  · have := Nat.mul_le_mul_left w (Nat.succ_le_of_lt hlt); rw [Nat.mul_succ] at this; omega

theorem elemNat_setElemNat (w e i v x : Nat) : elemNat w e (setElemNat w i v x) = if e = i then x % 2 ^ w else elemNat w e v := by
  refine Nat.eq_of_testBit_eq fun j => ?_
  rw [elemNat, Nat.testBit_mod_two_pow, Nat.testBit_shiftRight, testBit_setElemNat]
  by_cases hj : j < w
  · by_cases h : e = i
    · rw [h, if_pos (by omega), if_pos rfl]; simp [hj]
    · rw [if_neg (place_apart h hj), if_neg h, elemNat, Nat.testBit_mod_two_pow, Nat.testBit_shiftRight]
  · have hout : ∀ y, (y % 2 ^ w).testBit j = false := fun y => by simp [Nat.testBit_mod_two_pow, hj]
    rw [elemNat, apply_ite (Nat.testBit · j), hout, hout, ite_self, decide_eq_false hj, Bool.false_and]

theorem rowMax_mul (c : Nat) : codeWidth c * rowMax c = 65536 := by
  unfold rowMax
  rcases codeWidth_cases c with h | h | h | h <;> rw [h]

theorem rowElem_setRowElem {c e i : Nat} (he : e < rowMax c) (r : Row) (x : Nat) :
    rowElem (codeWidth c) e (setRowElem (codeWidth c) i r x) = if e = i then x % 2 ^ codeWidth c else rowElem (codeWidth c) e r := by
  have hplace : codeWidth c * e + codeWidth c ≤ 65536 := by
    rw [← rowMax_mul c, ← Nat.mul_succ]; exact Nat.mul_le_mul_left _ he
  unfold rowElem setRowElem
  rw [← elemNat_setElemNat, BitVec.toNat_ofNat]
  refine Nat.eq_of_testBit_eq fun j => ?_
  simp only [elemNat, Nat.testBit_mod_two_pow, Nat.testBit_shiftRight]
  by_cases hj : j < codeWidth c
  · rw [decide_eq_true (show codeWidth c * e + j < 65536 by omega)]; simp
  · simp [hj]

/-! ### What the work of the banks leaves, once the instruction has ended -/

section
variable {g : Nat} {bs : List Nat} {H : Nat → Hart → Hart} {F : Nat → Bank → Bank} {s u : State}

theorem BanksStep.cur (h : BanksStep g bs H F s u) : u.cur = s.cur := by have e := congrArg State.cur h.rest; exact e

theorem BanksStep.memory (h : BanksStep g bs H F s u) : SameMemory s u := .of_mem' (by have e := congrArg State.mem h.rest; exact e)

theorem BanksStep.hartOf (h : BanksStep g bs H F s u) (id : Nat) :
    Machine.hartOf u id = Machine.hartOf s id ∨ ∃ b ∈ bs, id = bankId g b ∧ Machine.hartOf u id = H b (Machine.hartOf s id) := by
  by_cases hid : id ∈ bs.map (bankId g)
  · obtain ⟨b, hb, rfl⟩ := List.mem_map.1 hid
    exact .inr ⟨b, hb, rfl, h.hart b hb⟩
  · exact .inl (h.harts id hid)

theorem BanksStep.ctl (h : BanksStep g bs H F s u) (hplace : ∀ b x, (H b x).pc = x.pc ∧ (H b x).loops = x.loops) :
    Machine.ctl u = Machine.ctl s := by
  refine ctl_congr h.cur (fun j => ?_) fun id => ?_
  · by_cases hj : j = g
    · have hpc := congrArg Pergola.pc h.pergola
      have hloops := congrArg Pergola.loops h.pergola
      subst hj
      exact ⟨hpc, hloops⟩
    · rw [h.pergolas j hj]; exact ⟨rfl, rfl⟩
  · rcases h.hartOf id with e | ⟨b, -, -, e⟩ <;> rw [e]
    · exact ⟨rfl, rfl⟩
    · exact hplace b _

theorem BanksStep.place (h : BanksStep g bs H F s u) (hplace : ∀ b x, (H b x).pc = x.pc ∧ (H b x).loops = x.loops) {k : HartKind}
    (hk : curKind s = some k) : Machine.ctl (advance u) = nextPlace s := ctl_advance_of hk h.cur (h.ctl hplace)

theorem BanksStep.latches (h : BanksStep (curPer s) bs H F s u)
    (hF : ∀ b k, (F b k).q = k.q ∧ (F b k).lut = k.lut ∧ (F b k).sf = k.sf) : SameLatches s (advance u) := fun b => by
  rw [advance_bankOf, h.banks]
  split
  · exact hF b _
  · exact ⟨rfl, rfl, rfl⟩

end

/-! ### The marks of lane work in a bank (R231, R233) -/

theorem Bank.reg_modReg (k : Bank) (n m : Nat) (f : RowReg → RowReg) : (k.modReg n f).reg m = if m = n then f (k.reg n) else k.reg m :=
  Tbl.get_modify ..

/-- A register read until `time` rc from now. -/
def Bank.readUntil (k : Bank) (n m : Nat) : Bank := k.modReg n fun r => { r with readEnd := Nat.max r.readEnd m }

/-- A register BUSY with what lane work writes; `old` is what it held. -/
def Bank.busyUntil (k : Bank) (n m : Nat) (old : Row) : Bank :=
  k.modReg n fun r => { r with st := .busy, busyEnd := m, busyDirty := decide (r.data ≠ old) }

/-- The destinations of a lane instruction BUSY, and the lanes at its work. -/
def laneWork (s : State) (i : Instr) (g b time : Nat) (u : RowUse) (k : Bank) : Bank :=
  { u.writes.foldl (fun k n => k.busyUntil n (rcOf s g + time + 6) (regOf s g b n).data) k with
    laneFree := rcOf s g + time, laneInstr := instrWord i, laneFrom := rcOf s g,
    laneReads := ((u.reads b).filter fun p => p.1 == b).map (·.2), laneWrites := u.writes, nflagsAt := rcOf s g + time + 6,
    nflagsWas := (hartOf s (bankId g b)).nflags, flagsWas := (hartOf s (bankId g b)).flags }

/-- The marks of a lane instruction whose sources lie in the bank itself. -/
def markBank (s : State) (i : Instr) (g b time : Nat) (u : RowUse) (k : Bank) : Bank :=
  laneWork s i g b time u ((u.reads b).foldl (fun k p => k.readUntil p.2 (rcOf s g + time)) k)

theorem BankStep.refl (g b : Nat) (s : State) : BankStep g b id id s s :=
  ⟨rfl, fun _ => by split <;> rfl, fun _ _ => rfl, rfl, fun _ => by split <;> rfl⟩

theorem BankStep.reads {g b m : Nat} : ∀ (l : List (Nat × Nat)) (t : State), (∀ p ∈ l, p.1 = b) →
    BankStep g b id (fun k => l.foldl (fun k p => k.readUntil p.2 m) k) t
      (l.foldl (fun t p => modReg t g p.1 p.2 fun r => { r with readEnd := Nat.max r.readEnd m }) t)
  | [], t, _ => .refl g b t
  | (c, n) :: l, t, h => by
    obtain rfl : c = b := h (c, n) List.mem_cons_self
    exact (BankStep.modBank t g c fun k => k.readUntil n m).trans (BankStep.reads l _ fun p hp => h p (List.mem_cons_of_mem _ hp))

theorem laneMark_step {s t : State} {i : Instr} {g b time : Nat} {u : RowUse} (h : ∀ p ∈ u.reads b, p.1 = b) :
    BankStep g b id (markBank s i g b time u) t (laneMark s t i g b time u) :=
  (BankStep.reads (m := rcOf s g + time) (u.reads b) t h).trans (.modBank _ g b (laneWork s i g b time u))

/-- Two banks with the same accumulator latches, tables and scales and the same rows, but that the registers `written` may have another state. -/
structure RowsKept (written : List Nat) (k k' : Bank) : Prop where
  q : k'.q = k.q
  lut : k'.lut = k.lut
  sf : k'.sf = k.sf
  row : ∀ n, (k'.reg n).data = (k.reg n).data ∧ (k'.reg n).poison = (k.reg n).poison ∧ (k'.reg n).row = (k.reg n).row
  st : ∀ n, n ∉ written → (k'.reg n).st = (k.reg n).st

theorem RowsKept.refl (written : List Nat) (k : Bank) : RowsKept written k k := ⟨rfl, rfl, rfl, fun _ => ⟨rfl, rfl, rfl⟩, fun _ _ => rfl⟩

theorem RowsKept.trans {w : List Nat} {k k' k'' : Bank} (h : RowsKept w k k') (h' : RowsKept w k' k'') : RowsKept w k k'' where
  q := h'.q.trans h.q
  lut := h'.lut.trans h.lut
  sf := h'.sf.trans h.sf
  row n := ⟨(h'.row n).1.trans (h.row n).1, (h'.row n).2.1.trans (h.row n).2.1, (h'.row n).2.2.trans (h.row n).2.2⟩
  st n hn := (h'.st n hn).trans (h.st n hn)

theorem RowsKept.readUntil (written : List Nat) (k : Bank) (n m : Nat) : RowsKept written k (k.readUntil n m) := by
  refine ⟨rfl, rfl, rfl, fun j => ?_, fun j _ => ?_⟩ <;> rw [Bank.readUntil, Bank.reg_modReg] <;> split <;> simp_all

theorem RowsKept.busyUntil {written : List Nat} {n : Nat} (hn : n ∈ written) (k : Bank) (m : Nat) (old : Row) :
    RowsKept written k (k.busyUntil n m old) := by
  refine ⟨rfl, rfl, rfl, fun j => ?_, fun j hj => ?_⟩ <;> rw [Bank.busyUntil, Bank.reg_modReg]
  · split <;> simp_all
  · rw [if_neg fun e : j = n => hj (e ▸ hn)]

theorem RowsKept.foldl {α : Type} {written : List Nat} {step : Bank → α → Bank} : ∀ (l : List α) (k : Bank),
    (∀ k, ∀ x ∈ l, RowsKept written k (step k x)) → RowsKept written k (l.foldl step k)
  | [], k, _ => .refl written k
  | x :: l, k, h => (h k x List.mem_cons_self).trans (RowsKept.foldl l _ fun k y hy => h k y (List.mem_cons_of_mem _ hy))

theorem markBank_keeps (s : State) (i : Instr) (g b time : Nat) (u : RowUse) (k : Bank) : RowsKept u.writes k (markBank s i g b time u k) := by
  have h := (RowsKept.foldl (written := u.writes) (u.reads b) k fun k p _ => .readUntil _ k p.2 (rcOf s g + time)).trans
    (RowsKept.foldl u.writes _ fun k n hn => .busyUntil hn k (rcOf s g + time + 6) (regOf s g b n).data)
  exact ⟨h.q, h.lut, h.sf, h.row, h.st⟩

/-! ### RGETE (R262) -/

/-- RGETE's result in a bank. -/
def rgeteValue (s : State) (f : FmtW) (b : Nat) : Word :=
  elemToX (rowEff s (curPer s) f b).code
    (rowElem (codeWidth (rowEff s (curPer s) f b).code) (elemIndex s (curPer s) f b) (regOf s (curPer s) b f.oa.toNat).data)

/-- RGETE in a bank: the register is read, and x[SA] is there 7 rc from now. -/
def rgeteBank (s : State) (f : FmtW) (b : Nat) (k : Bank) : Bank :=
  markBank s (.rgete f) (curPer s) b 1 { oa := some (b, f.oa.toNat) }
    { k with laneFlags := [], xAt := k.xAt.set 0 f.sa.num.toNat (rcOf s (curPer s) + 7) }

theorem rgeteBank_keeps (s : State) (f : FmtW) (b : Nat) (k : Bank) : RowsKept [] k (rgeteBank s f b k) := by
  have h := markBank_keeps s (.rgete f) (curPer s) b 1 { oa := some (b, f.oa.toNat) }
    { k with laneFlags := [], xAt := k.xAt.set 0 f.sa.num.toNat (rcOf s (curPer s) + 7) }
  exact ⟨h.q, h.lut, h.sf, h.row, h.st⟩

theorem rgete_goes {f : FmtW} {s : State} (hdue : refdueBanks s = []) (hready : rowReady s (fun b => { oa := some (b, f.oa.toNat) }) = true)
    (hok : ∀ b ∈ rowBanks s, (rowEff s (curPer s) f b).code ≠ 11 ∧ rgetePoison s (curPer s) f b = none) (hn : (rowBanks s).Nodup) :
    ∃ u, rgete f s = .ok (advance u) ∧
      BanksStep (curPer s) (rowBanks s) (fun b h => h.dest f.sa (rgeteValue s f b)) (rgeteBank s f) s u := by
  refine ⟨_, laneInstr_goes hdue hready (fun b hb => ?_) fun b hb => (hok b hb).2, BanksStep.foldl (fun t b => ?_) _ s hn⟩
  · unfold fieldFault faultIf
    rw [bne_iff_ne.2 (hok b hb).1]; rfl
  · have hflags := BankStep.modBank t (curPer s) b fun k => { k with laneFlags := [] }
    have hx := hflags.trans (.modHart _ _ b fun h => h.dest f.sa (rgeteValue s f b))
    have hlate := hx.trans (.modBank _ _ b fun k => { k with xAt := k.xAt.set 0 f.sa.num.toNat (rcOf s (curPer s) + 7) })
    exact hlate.trans (laneMark_step (s := s) (i := .rgete f) (time := 1) (u := { oa := some (b, f.oa.toNat) }) fun p hp => by
      rw [List.mem_singleton.1 hp])

theorem rgete_clause {f : FmtW} {s : State} (h : admitted (.rgete f) s = true)
    (hready : rowReady s (fun b => { oa := some (b, f.oa.toNat) }) = true)
    (hok : ∀ b ∈ rowBanks s, (rowEff s (curPer s) f b).code ≠ 11 ∧ rgetePoison s (curPer s) f b = none) :
    ∃ t, exec (.rgete f) s = .next t ∧ ctl t = nextPlace s ∧ SameMemory s t ∧ SameLatches s t ∧
      (∀ id n, ¬(id ∈ performers s ∧ n = f.sa.num.toNat) → (hartOf t id).get n = (hartOf s id).get n) ∧
      (∀ b n, (regOf t (curPer s) b n).data = (regOf s (curPer s) b n).data) ∧
      ∀ b ∈ rowBanks s, (hartOf t (bankId (curPer s) b)).get f.sa.num.toNat = if f.sa.num.toNat = 0 then 0 else rgeteValue s f b := by
  obtain ⟨k, hk⟩ := admitted_curKind h
  obtain ⟨hperf, hn⟩ := performers_of_banks h rfl fun k => by cases k <;> rfl
  obtain ⟨u, hu, hstep⟩ := rgete_goes (refdueBanks_of_admitted h) hready hok hn
  refine ⟨advance u, perform_ok h hu, hstep.place (fun b x => ?_) hk, fun a => ?_, hstep.latches fun b k => ?_, fun id n hid => ?_,
    fun b n => ?_, fun b hb => ?_⟩
  · unfold Hart.dest Hart.put; split <;> exact ⟨rfl, rfl⟩
  · rw [(advance_frame u).memory a, hstep.memory a]
  · exact ⟨(rgeteBank_keeps s f b k).q, (rgeteBank_keeps s f b k).lut, (rgeteBank_keeps s f b k).sf⟩
  · rw [advance_get]
    rcases hstep.hartOf id with e | ⟨b, hb, rfl, e⟩ <;> rw [e]
    rw [Hart.get_dest, if_neg fun hc => hid ⟨hperf ▸ List.mem_map_of_mem hb, hc.1⟩]
  · unfold regOf
    rw [advance_bankOf, hstep.banks]
    split
    · exact ((rgeteBank_keeps s f b _).row n).1
    · rfl
  · rw [advance_get, hstep.hart b hb, Hart.get_dest]
    by_cases h0 : f.sa.num.toNat = 0
    · simp [h0]
    · simp [h0]

/-! ### RSETE (R262) -/

/-- RSETE's new row in a bank. -/
def rseteData (s : State) (f : FmtW) (b : Nat) : Row :=
  setRowElem (codeWidth (rowEff s (curPer s) f b).code) (elemIndex s (curPer s) f b) (regOf s (curPer s) b f.od.toNat).data
    ((hartOf s (bankId (curPer s) b)).opnd f.sa).toNat

/-- RSETE's register with its new contents; it keeps its poison. -/
def rsetePut (s : State) (f : FmtW) (b : Nat) (k : Bank) : Bank :=
  { k with laneFlags := [] }.modReg f.od.toNat fun r =>
    { r with data := rseteData s f b, poison := (regOf s (curPer s) b f.od.toNat).poison,
             check := r.check.filter fun e => segOf r.data e.1 == segOf (rseteData s f b) e.1 }

/-- RSETE in a bank. -/
def rseteBank (s : State) (f : FmtW) (b : Nat) (k : Bank) : Bank :=
  markBank s (.rsete f) (curPer s) b 1 { od := some f.od.toNat } (rsetePut s f b k)

theorem rseteBank_keeps (s : State) (f : FmtW) (b : Nat) (k : Bank) : RowsKept [f.od.toNat] (rsetePut s f b k) (rseteBank s f b k) :=
  markBank_keeps s (.rsete f) (curPer s) b 1 { od := some f.od.toNat } _

theorem rsetePut_reg (s : State) (f : FmtW) (b : Nat) (k : Bank) {n : Nat} (hn : n ≠ f.od.toNat) : (rsetePut s f b k).reg n = k.reg n :=
  (Bank.reg_modReg ..).trans (if_neg hn)

theorem rseteBank_data (s : State) (f : FmtW) (b : Nat) (k : Bank) : ((rseteBank s f b k).reg f.od.toNat).data = rseteData s f b := by
  rw [((rseteBank_keeps s f b k).row _).1]
  unfold rsetePut
  rw [Bank.reg_modReg, if_pos rfl]

theorem rsete_goes {f : FmtW} {s : State} (hdue : refdueBanks s = []) (hready : rowReady s (fun _ => { od := some f.od.toNat }) = true)
    (hok : ∀ b ∈ rowBanks s, (rowEff s (curPer s) f b).code ≠ 11) (hn : (rowBanks s).Nodup) :
    ∃ u, rsete f s = .ok (advance u) ∧ BanksStep (curPer s) (rowBanks s) (fun _ => id) (rseteBank s f) s u := by
  refine ⟨_, laneInstr_goes hdue hready (fun b hb => ?_) fun _ _ => rfl, BanksStep.foldl (fun t b => ?_) _ s hn⟩
  · unfold fieldFault faultIf
    rw [bne_iff_ne.2 (hok b hb)]; rfl
  · have hflags := BankStep.modBank t (curPer s) b fun k => { k with laneFlags := [] }
    have hput := hflags.trans (.modBank _ _ b fun k => k.modReg f.od.toNat fun r =>
      { r with data := rseteData s f b, poison := (regOf s (curPer s) b f.od.toNat).poison,
               check := r.check.filter fun e => segOf r.data e.1 == segOf (rseteData s f b) e.1 })
    exact hput.trans (laneMark_step (s := s) (i := .rsete f) (time := 1) (u := { od := some f.od.toNat }) fun p hp =>
      absurd hp List.not_mem_nil)

/-- What every hart of a list keeps under a function, it keeps under the function of the list. -/
theorem modHarts_keeps {β : Type} {v : Hart → β} {f : Hart → Hart} (hv : ∀ h, v (f h) = v h) (id : Nat) :
    ∀ (ids : List Nat) (s : State), v (hartOf (modHarts s ids f) id) = v (hartOf s id)
  | [], _ => rfl
  | i :: is, s => by
    refine (modHarts_keeps hv id is (modHart s i f)).trans ?_
    rw [hartOf_modHart]
    split
    · next h => rw [hv, h]
    · rfl

/-- The end of an instruction leaves of a hart what is neither its place nor an iteration boundary. -/
theorem advance_keeps {β : Type} {v : Hart → β} (hplace : ∀ (h : Hart) (c : Ctl), v { h with pc := c.pc, loops := c.loops } = v h)
    (hmark : ∀ h : Hart, v { h with boundary := true } = v h) (s : State) (id : Nat) : v (hartOf (advance s) id) = v (hartOf s id) := by
  have hset : ∀ c, v (hartOf (setCtl s c) id) = v (hartOf s id) := fun c => by
    unfold setCtl
    split
    · exact modHarts_keeps (fun h => hplace h c) id [_] s
    · exact modHarts_keeps (fun h => hplace h c) id _ s
    · rfl
    · rfl
  unfold advance advanceBy
  dsimp only
  split
  · exact (modHarts_keeps hmark id _ _).trans (hset _)
  · exact hset _

/-- The end of an instruction moves the issuer's Pergola alone. -/
theorem advance_perOf_other {s : State} {j : Nat} (h : j ≠ curPer s) : perOf (advance s) j = perOf s j := by
  have hset : ∀ c, perOf (setCtl s c) j = perOf s j := fun c => by
    unfold setCtl
    split
    · rfl
    · unfold perOf; rw [modHarts_pergolas]
    · next g hg => rw [perOf_modPer, if_neg (curPer_of_pergola hg ▸ h)]
    · rfl
  have hmark : ∀ t, perOf (markBoundary t) j = perOf t j := fun t => by unfold perOf markBoundary; rw [modHarts_pergolas]
  unfold advance advanceBy
  dsimp only
  split
  · rw [hmark, hset]
  · exact hset _

/-- What lane work leaves whose functions change no hart and keep what they do not write. -/
theorem BanksStep.laneFrame {F : Nat → Bank → Bank} {s u : State} {written : List Nat}
    (h : BanksStep (curPer s) (rowBanks s) (fun _ => id) F s u)
    (hF : ∀ b k n, n ∉ written → ((F b k).reg n).data = (k.reg n).data ∧ ((F b k).reg n).poison = (k.reg n).poison ∧
      ((F b k).reg n).st = (k.reg n).st ∧ ((F b k).reg n).row = (k.reg n).row) : LaneFrame s (advance u) written := by
  have hharts : ∀ id, Machine.hartOf u id = Machine.hartOf s id := fun id => by
    rcases h.hartOf id with e | ⟨_, -, -, e⟩ <;> exact e
  have hper : curPer u = curPer s := by unfold curPer; rw [h.cur]
  have hframe := advance_frame u
  refine ⟨?_, fun id => ?_, fun id _ => ?_, fun j hj => ?_, ?_, fun b n hb => ?_⟩
  · have e := congrArg (fun x : State => { x with harts := s.harts, pergolas := s.pergolas }) hframe.rest
    exact Eq.trans e h.rest
  · have e := advance_keeps (v := fun x : Hart => { x with
      pc := (Machine.hartOf s id).pc, loops := (Machine.hartOf s id).loops, boundary := (Machine.hartOf s id).boundary,
      flags := (Machine.hartOf s id).flags, nflags := (Machine.hartOf s id).nflags }) (fun _ _ => rfl) (fun _ => rfl) u id
    rw [hharts] at e
    exact e
  · rw [← hharts id]
    exact ⟨advance_keeps (v := Hart.flags) (fun _ _ => rfl) (fun _ => rfl) u id,
      advance_keeps (v := Hart.nflags) (fun _ _ => rfl) (fun _ => rfl) u id⟩
  · rw [advance_perOf_other (hper ▸ hj), h.pergolas j hj]
  · have e := congrArg (fun p : Pergola => { p with
      pc := (perOf s (curPer s)).pc, loops := (perOf s (curPer s)).loops, banks := (perOf s (curPer s)).banks }) (hframe.pergolas (curPer s))
    have e' := congrArg (fun p : Pergola => { p with pc := (perOf s (curPer s)).pc, loops := (perOf s (curPer s)).loops }) h.pergola
    exact Eq.trans e e'
  · unfold regOf
    rw [advance_bankOf, h.banks]
    split
    · next hc => exact hF b _ n fun hw => hb ⟨hc, hw⟩
    · exact ⟨rfl, rfl, rfl, rfl⟩

theorem rsete_clause {f : FmtW} {s : State} (h : admitted (.rsete f) s = true) (hready : rowReady s (fun _ => { od := some f.od.toNat }) = true)
    (hok : ∀ b ∈ rowBanks s, (rowEff s (curPer s) f b).code ≠ 11) :
    ∃ t, exec (.rsete f) s = .next t ∧ ctl t = nextPlace s ∧ LaneFrame s t [f.od.toNat] ∧ SameLatches s t ∧
      ∀ b ∈ rowBanks s, (regOf t (curPer s) b f.od.toNat).data = rseteData s f b := by
  obtain ⟨k, hk⟩ := admitted_curKind h
  obtain ⟨-, hn⟩ := performers_of_banks h rfl fun k => by cases k <;> rfl
  obtain ⟨u, hu, hstep⟩ := rsete_goes (refdueBanks_of_admitted h) hready hok hn
  refine ⟨advance u, perform_ok h hu, hstep.place (fun _ _ => ⟨rfl, rfl⟩) hk, hstep.laneFrame fun b k n hw => ?_, hstep.latches fun b k => ?_,
    fun b hb => ?_⟩
  · have hkeeps := rseteBank_keeps s f b k
    obtain ⟨hdata, hpoison, hrow⟩ := hkeeps.row n
    have hst := hkeeps.st n hw
    rw [rsetePut_reg s f b k fun e => hw (e ▸ List.mem_singleton_self _)] at hdata hpoison hrow hst
    exact ⟨hdata, hpoison, hst, hrow⟩
  · exact ⟨(rseteBank_keeps s f b k).q, (rseteBank_keeps s f b k).lut, (rseteBank_keeps s f b k).sf⟩
  · unfold regOf
    rw [advance_bankOf, hstep.banks, if_pos hb]
    exact rseteBank_data s f b _

end Sys2Proof.Machine
end

section
/-! ## Gangs, predicates, yielding, the lease and single elements: the obligation (02_execution_model.md R42 to R50, R84, R259 to R262) -/
namespace Sys2Proof.Machine

/-- A hart with the predicate bit that BMASK gives it. -/
def maskedHart (f : FmtW) (s : State) (id : Nat) (h : Hart) : Hart := { h with pred := bmaskBit f (maskSource s id) }

theorem bmask_clause {f : FmtW} {s : State} (h : admitted (.bmask f) s = true) (hsrc : f.imm6.toNat / 16 ≠ 3) :
    ∃ t, exec (.bmask f) s = .next t ∧ ctl t = nextPlace s ∧ SameRegisters s t ∧ SameMemory s t ∧
      ∀ id ∈ allHarts s, (hartOf t id).pred = bmaskBit f (maskSource s id) := by
  obtain ⟨k, hk⟩ := admitted_curKind h
  have hn := allHarts_nodup s
  have hharts : ∀ id, hartOf (modEach s (allHarts s) (maskedHart f s)) id =
      if id ∈ allHarts s then maskedHart f s id (hartOf s id) else hartOf s id := fun id => hartOf_modEach _ id _ s hn
  refine ⟨advance (modEach s (allHarts s) (maskedHart f s)), perform_ok h (bmask_sets hsrc),
    ctl_advance_of hk (modEach_cur ..) (ctl_modEach (f := maskedHart f s) (fun _ _ => ⟨rfl, rfl⟩) hn), fun id n => ?_, fun a => ?_, fun id hid => ?_⟩
  · rw [advance_get, hharts]; split <;> rfl
  · rw [(advance_frame _).memory a]; exact SameMemory.of_mem' (modEach_mem ..) a
  · rw [advance_keeps (v := Hart.pred) (fun _ _ => rfl) (fun _ => rfl), hharts, if_pos hid]; rfl

theorem lease_clause {f : FmtW} {s : State} (h : admitted (.lease f) s = true) :
    ∃ t, exec (.lease f) s = .next t ∧ ctl t = nextPlace s ∧ RegisterFrame s t (performers s) f.sa.num.toNat ∧
      ∀ id ∈ performers s, f.sa.num.toNat ≠ 0 → (hartOf t id).get f.sa.num.toNat = octlease s (perOfHart id) := by
  obtain ⟨k, hk⟩ := admitted_curKind h
  have hn := performers_nodup s
  refine ⟨advance (modEach s (performers s) fun id h => h.dest f.sa (octlease s (perOfHart id))), perform_ok h rfl,
    ctl_advance_of hk (modEach_cur ..) (ctl_modEach (fun id h => ?_) hn), advance_modEach_frame hn, fun id hid h0 => ?_⟩
  · unfold Hart.dest Hart.put; split <;> exact ⟨rfl, rfl⟩
  · rw [advance_get, hartOf_modEach _ id _ s hn, if_pos hid, Hart.get_dest, if_pos ⟨rfl, h0⟩]

/-- A Pergola without a step yields to nobody. -/
theorem yieldPergola_none {s : State} {g : Nat} (h : (perOf s g).step = none) : yieldPergola s g = s := by
  unfold yieldPergola; rw [h]

/-- Settles O47: GANG_RENDEZVOUS and SPLIT move a Pergola between its modes, BMASK and LEASE are a function of each hart, and RGETE and RSETE
are lane work of the performing banks, each bank's effect a function of that bank alone. -/
theorem gangsSplitMaskAndYield : Obligations.GangsSplitMaskAndYield := by
  unfold Obligations.GangsSplitMaskAndYield
  refine ⟨fun f s h => ⟨fun hg => ?_, fun hg => ?_⟩, fun s g b bs hlt hlive => ⟨fun hg hp hat hy => ?_, fun hstay => ?_⟩,
    fun f s h => ⟨fun hg => ?_, fun hg => ?_⟩, fun f s h => ⟨fun hsrc => ?_, fun hsrc hc => ?_⟩,
    fun f s h => ⟨fun hg => ?_, fun hg hstep => ?_, fun hg => ?_⟩, fun f s h => ?_, fun f s h hready hok => ?_, fun f s h hready hok => ?_⟩
  · exact perform_ok h (by rw [if_pos hg]; rfl)
  · exact perform_ok h (by rw [hg, if_neg (by decide)]; rfl)
  · have hn : ((b :: bs).map (bankId g)).Nodup := hlive ▸ liveBanks_nodup s g
    obtain ⟨hgang, hpc, hloops, hrun, hregs, hmem⟩ := gangMet_leaves (s := s) hlt hn
    refine ⟨{ advance (gangMet s g b bs) with cur := s.cur }, ?_, hgang, hpc, hloops, hrun, hregs, hmem, rfl⟩
    exact (event_of_exists (decide_eq_true hlt) _).trans (congrArg _ (gangMeet_meets hlive hg hp hat hy))
  · exact event_of_stays (decide_eq_true hlt) (gangMeet_stays hlive hstay)
  · obtain ⟨k, hk⟩ := admitted_curKind h
    exact ⟨_, perform_ok h (by rw [if_pos hg]; rfl), splitGang_leaves hk hg⟩
  · exact perform_ok h (by rw [hg, if_neg (by decide)]; rfl)
  · obtain ⟨t, hexec, hplace, hregs, hmem, hpred⟩ := bmask_clause h hsrc
    exact ⟨t, hexec, hplace, hregs, hmem, fun id hid => (hpred id hid).trans (bmaskBit_eq ..)⟩
  · exact perform_trap_early h hc (lateMajor_bmask f) (bmask_reserved hsrc) (by decide)
  · exact perform_ok h (by rw [if_pos hg]; rfl)
  · have hnone : yieldPergola (advance s) (curPer s) = advance s := yieldPergola_none (by rw [(advance_perOf s _).2, hstep])
    exact perform_ok h (by rw [if_pos hg, byieldGang, hnone]; rfl)
  · exact perform_ok h (by rw [hg, if_neg (by decide)]; rfl)
  · obtain ⟨t, hexec, hplace, hframe, hvalue⟩ := lease_clause h
    exact ⟨t, hexec, hplace, hframe, fun id hid h0 => by rw [hvalue id hid h0]; exact octlease_toNat ..⟩
  · exact rgete_clause h hready hok
  · obtain ⟨t, hexec, hplace, hframe, hlatches, hdata⟩ := rsete_clause h hready hok
    exact ⟨t, hexec, hplace, hframe, hlatches, fun b hb e he => by rw [hdata b hb]; exact rowElem_setRowElem he ..⟩

end Sys2Proof.Machine
end

section
/-! ## Translations performed, and records written (03_memory_spaces.md R72, R73, R97)

What the commits of an access and a write of one record leave, as rules that compose: `OnlyBytes` for memory, `RecordFrame` for the rest. -/
namespace Sys2Proof.Machine

/-! ### Bytes that an access may change -/

theorem OnlyBytes.refl (s : State) (l : List Resolved) (pa n : Nat) : OnlyBytes s s l pa n := fun _ _ _ => rfl

theorem OnlyBytes.trans {s t u : State} {l : List Resolved} {pa n : Nat} (h : OnlyBytes s t l pa n) (h' : OnlyBytes t u l pa n) :
    OnlyBytes s u l pa n := fun a ha hl => (h' a ha hl).trans (h a ha hl)

/-- Bytes apart from a frame's range and entries read as before. -/
theorem OnlyBytes.readBytes {s t : State} {l : List Resolved} {pa n a m : Nat} (h : OnlyBytes s t l pa n)
    (ha : ∀ j, j < m → ¬(pa ≤ a + j ∧ a + j < pa + n)) (hl : ∀ j, j < m → a + j ∉ tableBytes l) : readBytes t a m = readBytes s a m := by
  simp only [readBytes_eq]
  exact List.map_congr_left fun j hj => h _ (ha j (List.mem_range.1 hj)) (hl j (List.mem_range.1 hj))

/-! ### Frames that compose -/

theorem SameMemory.readBytes {s t : State} (h : SameMemory s t) (a n : Nat) : readBytes t a n = readBytes s a n := by
  simp only [readBytes_eq]
  exact List.map_congr_left fun j _ => h (a + j)

theorem SameMemory.readNat {s t : State} (h : SameMemory s t) (a n : Nat) : readNat t a n = readNat s a n := congrArg leNat (h.readBytes a n)

theorem HartScoped.trans {a b c : Hart} (h : HartScoped a b) (h' : HartScoped b c) : HartScoped a c := by
  have e := congrArg (fun k : Hart => { k with
    x := a.x, pc := a.pc, loops := a.loops, boundary := a.boundary, monitor := a.monitor, members := a.members, spawn := a.spawn }) h'
  exact e.trans h

theorem RecordFrame.refl (s : State) (ids : List Nat) (d : Nat) (l : List Resolved) (pa n : Nat) : RecordFrame s s ids d l pa n :=
  ⟨rfl, fun _ => rfl, fun _ => rfl, fun _ _ _ => rfl, OnlyBytes.refl s l pa n⟩

theorem RecordFrame.trans {s t u : State} {ids : List Nat} {d : Nat} {l : List Resolved} {pa n : Nat} (h : RecordFrame s t ids d l pa n)
    (h' : RecordFrame t u ids d l pa n) : RecordFrame s u ids d l pa n where
  rest := by
    have e := congrArg (fun k : State => { k with
      harts := s.harts, pergolas := s.pergolas, mem := s.mem, poison := s.poison, tlb := s.tlb, owned := s.owned,
      scopeCount := s.scopeCount }) h'.rest
    exact e.trans h.rest
  harts id := (h.harts id).trans (h'.harts id)
  pergolas g := (h.pergolas g).trans (h'.pergolas g)
  registers id n hn := (h'.registers id n hn).trans (h.registers id n hn)
  memory := h.memory.trans h'.memory

theorem RecordFrame.catalogues {s t : State} {ids : List Nat} {d : Nat} {l : List Resolved} {pa n : Nat} (h : RecordFrame s t ids d l pa n) :
    t.catalogues = s.catalogues := by have e := congrArg State.catalogues h.rest; exact e

/-- The end of an instruction, as part of a record's frame. -/
theorem ControlFrame.recordFrame {s t : State} (h : ControlFrame s t) (l : List Resolved) (pa n : Nat) : RecordFrame s t [] 0 l pa n where
  rest := by
    have e := congrArg (fun k : State => { k with mem := s.mem, poison := s.poison, tlb := s.tlb, owned := s.owned,
                                                  scopeCount := s.scopeCount }) h.rest
    exact e
  harts id := by
    have e := congrArg (fun k : Hart => { k with
      monitor := (hartOf s id).monitor, members := (hartOf s id).members, spawn := (hartOf s id).spawn }) (h.harts id)
    exact e
  pergolas := h.pergolas
  registers := h.registers
  memory a _ _ := h.memory a

/-! ### Writes and commits -/

/-- A write changes its own bytes, and of a hart at most its monitor. -/
theorem writeBytes_recordFrame (s : State) (pa : Nat) (bs : List Byte) (l : List Resolved) : RecordFrame s (writeBytes s pa bs) [] 0 l pa bs.length where
  rest := rfl
  harts id := by rw [hartOf_writeBytes]; rfl
  pergolas _ := rfl
  registers id n _ := writeBytes_sameRegisters s pa bs id n
  memory _ ha _ := readByte_writeBytes_outside s ha

theorem writeNat_recordFrame (s : State) (pa n v : Nat) (l : List Resolved) : RecordFrame s (writeNat s pa n v) [] 0 l pa n := by
  have h := writeBytes_recordFrame s pa (leBytes n v) l
  rwa [leBytes_length] at h

/-- The translations of an access change only the bytes of their table entries, whatever range stands beside them. -/
theorem commit_recordFrame (s : State) {r : Resolved} {l : List Resolved} (hr : r ∈ l) (pa n : Nat) :
    RecordFrame s (commit s r) [] 0 l pa n := by
  have hentry : RecordFrame s (match r.entryAt with
      | none => s
      | some (at', bits) =>
        let old := readByte s at'
        if old ||| BitVec.ofNat 8 bits = old then s else writeBytes s at' [old ||| BitVec.ofNat 8 bits]) [] 0 l pa n := by
    split
    · exact .refl ..
    · next at' bits he =>
      refine ite_keeps (fun t => RecordFrame s t [] 0 l pa n) (.refl ..) ?_
      have hw := writeBytes_recordFrame s at' [readByte s at' ||| BitVec.ofNat 8 bits] l
      refine ⟨hw.rest, hw.harts, hw.pergolas, hw.registers, fun a _ ha => hw.memory a (fun hin => ha ?_) ha⟩
      simp only [List.length_singleton] at hin
      obtain rfl : at' = a := by omega
      exact List.mem_filterMap.2 ⟨r, hr, by rw [he]; rfl⟩
  unfold commit
  dsimp only
  split
  · exact hentry
  · exact ⟨hentry.rest, hentry.harts, hentry.pergolas, hentry.registers, hentry.memory⟩

theorem commitAll_recordFrame (s : State) {m l : List Resolved} (hl : m ⊆ l) (pa n : Nat) : RecordFrame s (commitAll s m) [] 0 l pa n := by
  induction m generalizing s with
  | nil => exact .refl ..
  | cons r m ih =>
    obtain ⟨hr, hm⟩ := List.cons_subset.1 hl
    exact (commit_recordFrame s hr pa n).trans (ih (commit s r) hm)

end Sys2Proof.Machine
end

section
/-! ## The two sides of a handle (03_memory_spaces.md R97 to R99, 10_memory_engines_tasks.md R331, R468) -/
namespace Sys2Proof.Machine

/-! ### The issuer's place, and instructions that wait or check at issue -/

/-- What walkers do, a commit and a write among it, moves no issuer. -/
theorem Walked.ctl {s t : State} (h : Walked s t) : ctl t = ctl s :=
  ctl_congr h.cur
    (fun g => ⟨by have e := congrArg Pergola.pc (h.pergolas g).rest; exact e, by have e := congrArg Pergola.loops (h.pergolas g).rest; exact e⟩)
    fun id => ⟨by have e := congrArg Hart.pc (h.harts id); exact e, by have e := congrArg Hart.loops (h.harts id); exact e⟩

theorem Walked.commit (s : State) (r : Resolved) : Walked s (commit s r) := (keeps s).commit (.refl s)
theorem Walked.writeNat {s t : State} (h : Walked s t) (pa n v : Nat) : Walked s (writeNat t pa n v) := (keeps s).writeNat h

theorem afterStream_of_acknowledged {s : State} {id strm : Nat} (h : acknowledgedOn s id (· == strm) = true) : afterStream s id strm = .ok () := by
  rw [acknowledgedOn, Bool.not_eq_true'] at h
  rw [afterStream, if_neg (by simp [h])]

protected theorem SameRegisters.modHarts {f : Hart → Hart} (hf : ∀ h, (f h).x = h.x) (ids : List Nat) (s : State) : SameRegisters s (modHarts s ids f) :=
  foldl_keeps (SameRegisters s) _ (fun _ _ ht => ht.trans (.modHart hf)) ids s (.refl s)

/-- An admitted instruction that waits stays at its place, its registers and memory as they were. -/
theorem staysHere_of_wait {i : Instr} {s : State} {body : State → M State} {blocking : Bool} (h : admitted i s = true)
    (hc : cancelled s = false) (hexec : exec i s = perform i s body) (hb : body s = .error (.wait s blocking)) : StaysHere i s := by
  have hf : finish s (some i) (lateMajor i) (.error (.wait s blocking)) =
      { if blocking then modHarts s (allHarts s) fun h => { h with parked := true } else s with waited := true } := by
    rw [finish, hc, if_neg (by decide), logged]
  have hnext := hexec.trans ((perform_admitted h body).trans (by rw [hb, hf]))
  cases blocking with
  | false => exact ⟨_, hnext, rfl, rfl, .refl s, .refl s⟩
  | true => exact ⟨_, hnext, ctl_modHarts s _ _ fun _ => ⟨rfl, rfl⟩, rfl, SameRegisters.modHarts (f := fun h => { h with parked := true }) (fun _ => rfl) _ s,
      .of_mem (modHarts_mem _ _ s)⟩

theorem major_of_encE {i : Instr} {M : BitVec 8} {S : BitVec 6} {f : FmtE} (h : encodeWord i = some (encE M S f)) : major i = M.toNat := by
  have e := congrArg BitVec.toNat (Laws.major_encE M S f)
  rw [major, instrWord, h, Option.getD_some, ← e, BitVec.extractLsb'_toNat, Nat.shiftRight_zero]

/-! ### A handle's entry -/

/-- An entry that may be written is valid, and PUBS has its eight bits. -/
theorem handleWrite_ok {s : State} {num : Word} {x : Handle × Nat × Resolved} (e : handleWrite s num = .ok x) : x.1.valid = true ∧ x.1.pubs < 256 := by
  unfold handleWrite at e
  split at e
  · cases e
  obtain ⟨y, hy, e⟩ := ok_of_bind e
  have hx : x.1 = y.1 := by
    split at e <;> cases e
    rfl
  rw [hx]
  unfold handleEntry at hy
  split at hy
  · cases hy
  dsimp only at hy
  split at hy
  · cases hy
  obtain ⟨r, -, hy⟩ := ok_of_bind hy
  split at hy
  · split at hy
    · cases hy
    · split at hy
      · next hv =>
        cases hy
        exact ⟨hv, Nat.mod_lt _ (by decide)⟩
      · cases hy
  · cases hy

/-- The first doubleword of an entry, once written, reads as its fields. -/
theorem readNat_handleLow (s : State) (pa : Nat) {h : Handle} (hp : h.pubs < 256) : readNat (writeNat s pa 8 h.low) pa 8 = h.low := by
  have hlow : h.low < 256 ^ 8 := by
    have bit : ∀ (b : Bool) (n : Nat), (if b then n else 0) ≤ n := fun b n => by cases b <;> simp
    have h1 := bit h.stale 16; have h2 := bit h.opened 8; have h3 := bit h.side 4; have h4 := bit h.valid 1
    unfold Handle.low
    omega
  rw [readNat_writeNat_same, Nat.mod_eq_of_lt hlow]

/-- The entry that SHADOW leaves (R99). -/
def Handle.shadowed (h : Handle) : Handle := { h with opened := true, stale := false }
/-- The entry that PUBLISH leaves (R99). -/
def Handle.published (h : Handle) : Handle := { h with opened := false, side := !h.side, pubs := (h.pubs + 1) % 256 }

theorem Handle.low_shadowed {h : Handle} (hv : h.valid = true) : h.shadowed.low = h.pubs * 256 + 8 + (if h.side then 4 else 0) + 1 := by
  unfold Handle.shadowed Handle.low
  simp [hv]

theorem Handle.low_published {h : Handle} (hv : h.valid = true) (hs : h.stale = false) :
    h.published.low = (h.pubs + 1) % 256 * 256 + (if h.side then 0 else 4) + 1 := by
  unfold Handle.published Handle.low
  cases h.side <;> simp [hv, hs]

/-! ### SHADOW and PUBLISH -/

section
variable {f : FmtE} {s : State} {h : Handle} {pa : Nat} {l : Resolved} (hw : handleWrite s (xRead s f.a) = .ok (h, pa, l))
include hw

theorem shadow_opens (hack : acknowledgedOn s (leadHart s) (· == f.strm.toNat) = true) :
    shadow f s = .ok (advance (if h.opened then commit s l else writeNat (commit s l) pa 8 h.shadowed.low)) := by
  simp only [shadow, bind, Except.bind, hw, lift, afterStream_of_acknowledged hack, ok, Handle.shadowed]

/-- The entry is unopened or stale: PUBLISH raises its cause before it waits for anything. -/
theorem publish_traps (ho : h.opened = false ∨ h.stale = true) : publish f s = .error (.trap Cause.publish (xRead s f.a)) := by
  have hneed : (h.opened && !h.stale) = false := by rcases ho with e | e <;> simp [e]
  simp only [publish, bind, Except.bind, hw, lift, need_of_false hneed]

variable (ho : h.opened = true) (hs : h.stale = false)
include ho hs

theorem publish_swaps (hidle : ∀ c ∈ s.cores, ∀ e ∈ c.2.engines, writesHandle s pa e = false) (hord : orderedAll s (leadHart s) = true) :
    publish f s = .ok (advance (writeNat (commit s l) pa 8 h.published.low)) := by
  have hneed : (h.opened && !h.stale) = true := by rw [ho, hs]; rfl
  have hany : (s.cores.any fun k => k.2.engines.any (writesHandle s pa)) = false := by
    simpa only [List.any_eq_false, Bool.not_eq_true] using hidle
  simp only [publish, bind, Except.bind, hw, lift, need_of_true hneed, hany, afterAll_of_orderedAll hord, Bool.false_eq_true, if_false, ok, Handle.published]

theorem publish_waits (hbusy : ∃ c ∈ s.cores, ∃ e ∈ c.2.engines, writesHandle s pa e = true) : publish f s = .error (.wait s true) := by
  have hneed : (h.opened && !h.stale) = true := by rw [ho, hs]; rfl
  have hany : (s.cores.any fun k => k.2.engines.any (writesHandle s pa)) = true := by simpa only [List.any_eq_true] using hbusy
  simp only [publish, bind, Except.bind, hw, lift, need_of_true hneed, hany, if_true]
end

/-- An entry written through its translation, and the end of the instruction: the doubleword reads as written, and nothing else changed. -/
theorem entryWritten {s : State} {k : HartKind} (hk : curKind s = some k) (l : Resolved) (pa : Nat) {h : Handle} (hp : h.pubs < 256) :
    let t := advance (writeNat (commit s l) pa 8 h.low)
    ctl t = nextPlace s ∧ readNat t pa 8 = h.low ∧ RecordFrame s t [] 0 [l] pa 8 := by
  intro t
  have hw : Walked s (writeNat (commit s l) pa 8 h.low) := (Walked.commit s l).writeNat ..
  refine ⟨ctl_advance_of hk hw.cur hw.ctl, ?_, ?_⟩
  · rw [← readNat_handleLow (commit s l) pa hp]
    exact (advance_frame _).memory.readNat ..
  · exact ((commit_recordFrame s (by simp) pa 8).trans (writeNat_recordFrame ..)).trans ((advance_frame _).recordFrame ..)

/-- PUBLISH_SWAP of the handle that the hart's PUBLISH waits for does that PUBLISH. -/
theorem publishSwap_performs {f : FmtE} {s u : State} {id : Nat} (hcur : s.cur = .hart id) (hrun : (hartOf s id).run = .running)
    (hpark : (hartOf s id).parked = true) (hat : standsAt s id = some (.publish f)) (hu : publish f s = .ok u) :
    publishSwap s id (xRead s f.a) = modHart u id fun h => { h with parked := false } := by
  have hs : { s with cur := .hart id } = s := by rw [← hcur]
  unfold publishSwap
  rw [if_pos ⟨hrun, hpark⟩, hat]
  dsimp only
  rw [hs, if_pos rfl, hu]

/-- Settles O40: SHADOW and PUBLISH write the entry's first doubleword (`shadow_opens`, `publish_swaps`, `entryWritten`), or PUBLISH traps or waits. -/
theorem handlesShadowAndPublish : Obligations.HandlesShadowAndPublish := by
  unfold Obligations.HandlesShadowAndPublish
  refine ⟨fun f s h pa l hw => ⟨fun hadm hack => ?_, fun hadm ho hs hidle hord => ?_, fun hadm hc ho => ?_, fun hadm hc ho hs hbusy => ?_⟩,
    fun f s u id hid hcur hrun hpark hat hu => ?_⟩
  · obtain ⟨hv, hp⟩ := handleWrite_ok hw
    obtain ⟨k, hk⟩ := admitted_curKind hadm
    have hexec := perform_ok hadm (shadow_opens hw hack)
    cases ho : h.opened with
    | false =>
      rw [ho, if_neg (by decide)] at hexec
      obtain ⟨hctl, hread, hframe⟩ := entryWritten hk l pa (h := h.shadowed) hp
      exact ⟨_, hexec, hctl, fun _ => ⟨hread.trans (Handle.low_shadowed hv), hframe⟩, fun e => absurd e (by decide)⟩
    | true =>
      rw [ho, if_pos rfl] at hexec
      have hwalk := Walked.commit s l
      exact ⟨_, hexec, ctl_advance_of hk hwalk.cur hwalk.ctl, fun e => absurd e (by decide),
        fun _ => (commit_recordFrame s (by simp) pa 0).trans ((advance_frame _).recordFrame ..)⟩
  · obtain ⟨hv, hp⟩ := handleWrite_ok hw
    obtain ⟨k, hk⟩ := admitted_curKind hadm
    obtain ⟨hctl, hread, hframe⟩ := entryWritten hk l pa (h := h.published) (Nat.mod_lt _ (by decide))
    exact ⟨_, perform_ok hadm (publish_swaps hw ho hs hidle hord), hctl, hread.trans (Handle.low_published hv hs), hframe⟩
  · have hl : lateMajor (.publish f) = false := by rw [lateMajor, queued, major_of_encE (M := 0x91) rfl]; rfl
    exact perform_trap_early hadm hc hl (publish_traps hw ho) (by decide)
  · exact staysHere_of_wait hadm hc rfl (publish_waits hw ho hs hbusy)
  · exact (event_of_exists (by simpa using hid) _).trans (congrArg _ (publishSwap_performs hcur hrun hpark hat hu))

end Sys2Proof.Machine
end

section
/-! ## Scalar registers of other harts under a store to any place (01_device.md R75, 03_memory_spaces.md R102, 16_faults_stopping.md R444 to R448)

A program's store may name a device register, and with it halt, resume or kill a context. None of that writes a scalar register of a hart:
a killed or dropped hart keeps its registers, and one whose context resumes gets them back from its frame in a later step. The lemmas follow
the model's functions in the order of its files, each with the shape of its function's body. -/
namespace Sys2Proof.Machine

variable {r s : State}

protected theorem SameRegisters.ite {c : Prop} {_ : Decidable c} {t u : State} (ht : SameRegisters r t) (hu : SameRegisters r u) :
    SameRegisters r (if c then t else u) := ite_keeps (SameRegisters r) ht hu

protected theorem SameRegisters.foldl {α : Type} {f : State → α → State} {l : List α} (hf : ∀ t a, SameRegisters r t → SameRegisters r (f t a))
    (h : SameRegisters r s) : SameRegisters r (l.foldl f s) := foldl_keeps (SameRegisters r) f hf l s h

/-- The updates of walkers leave every scalar register. -/
theorem SameRegisters.walkers (r : State) : WalkerKeeps (SameRegisters r) where
  write h := h.trans (writeBytes_sameRegisters _ _ _)
  owned h := h
  errors h := h
  rejects h := h
  waiting h := h
  held h := h
  wing h := h
  request h := h
  halts h := h
  note := fun {_ u _} h => by cases u <;> exact h
  kindCore _ _ h := h
  kindPer _ _ h := h

theorem SameRegisters.scopes (r : State) : ScopeKeeps (SameRegisters r) := (walkers r).scopeKeeps

protected theorem SameRegisters.modCore {k : Nat} {f : Core → Core} (h : SameRegisters r s) : SameRegisters r (modCore s k f) := h
protected theorem SameRegisters.modPer {g : Nat} {f : Pergola → Pergola} (h : SameRegisters r s) : SameRegisters r (modPer s g f) := h
protected theorem SameRegisters.modWing {w : Nat} {f : Wing → Wing} (h : SameRegisters r s) : SameRegisters r (modWing s w f) := h
protected theorem SameRegisters.modHalt {c : BitVec 16} {f : HaltStat → HaltStat} (h : SameRegisters r s) : SameRegisters r (modHalt s c f) := h
protected theorem SameRegisters.setCur {a : Agent} (h : SameRegisters r s) : SameRegisters r { s with cur := a } := h
protected theorem SameRegisters.setCores {l : Tbl Core} (h : SameRegisters r s) : SameRegisters r { s with cores := l } := h
protected theorem SameRegisters.setPoison {pa n : Nat} {b : Bool} (h : SameRegisters r s) : SameRegisters r (setPoison s pa n b) := h
protected theorem SameRegisters.trimGrants (h : SameRegisters r s) : SameRegisters r (trimGrants s) := h

protected theorem SameRegisters.logError {kind : BitVec 8} {location : Word} {context hart : BitVec 16} {cause : BitVec 8} {count : Nat}
    (h : SameRegisters r s) : SameRegisters r (logError s kind location context hart cause count) := h
protected theorem SameRegisters.logSched {address : Word} {context hart : BitVec 16} {reason : BitVec 8} {detail : Word} (h : SameRegisters r s) :
    SameRegisters r (logSched s address context hart reason detail) := h

/-- A hart that drops what it held keeps its registers. -/
protected theorem SameRegisters.drop {id : Nat} {run : HartRun} (h : SameRegisters r s) : SameRegisters r (Machine.modHart s id fun k => k.drop run) :=
  h.trans (SameRegisters.modHart (f := fun k => k.drop run) fun _ => rfl)

protected theorem SameRegisters.park {id : Nat} {b : Bool} (h : SameRegisters r s) :
    SameRegisters r (Machine.modHart s id fun k => { k with parked := b }) :=
  h.trans (SameRegisters.modHart (f := fun k => { k with parked := b }) fun _ => rfl)

/-! ### Memory -/

protected theorem SameRegisters.commitAll {l : List Resolved} (h : SameRegisters r s) : SameRegisters r (commitAll s l) :=
  .foldl (fun _ _ => (walkers r).commit) h

protected theorem SameRegisters.freeBytes {n : Nat} (h : SameRegisters r s) : SameRegisters r (freeBytes s n).2 := h

protected theorem SameRegisters.freeInto {pa n : Nat} (h : SameRegisters r s) : SameRegisters r (freeInto s pa n) :=
  (walkers r).write (.freeBytes h)

protected theorem SameRegisters.triggerMonitors {pa n : Nat} (h : SameRegisters r s) : SameRegisters r (triggerMonitors s pa n) :=
  h.trans (.of_x fun id => by
    have e : hartOf (triggerMonitors s pa n) id = (hartOf s id).written pa n :=
      Tbl.get_map (f := fun k : Hart => k.written pa n) rfl id s.harts
    rw [e]; rfl)

protected theorem SameRegisters.memRead {pa n : Nat} (h : SameRegisters r s) : SameRegisters r (memRead s pa n).2 := by
  unfold memRead
  split <;> exact h

protected theorem SameRegisters.spoilFrame {pa n : Nat} {f : Nat × Nat × Nat} (h : SameRegisters r s) : SameRegisters r (spoilFrame s pa n f) :=
  have ht := SameRegisters.foldl (fun _ _ => .freeInto) h
  .ite (.freeInto ht) ht

protected theorem SameRegisters.spoilRecord {pa n : Nat} {x : Nat × Nat} (h : SameRegisters r s) : SameRegisters r (spoilRecord s pa n x) := by
  unfold spoilRecord
  extract_lets _ _ _ t
  have ht : SameRegisters r t := .freeInto (.ite (.freeInto h) h)
  exact .ite (.modCore (.freeBytes ht)) ht

protected theorem SameRegisters.memWrite {pa : Nat} {bs : List Byte} (h : SameRegisters r s) : SameRegisters r (memWrite s pa bs) :=
  .foldl (fun _ _ => .spoilRecord) (.foldl (fun _ _ => .spoilFrame) (((walkers r).write h).trans (.of_harts (spoilImages_harts ..))))

protected theorem SameRegisters.writePlace {p : Place} {bs : List Byte} (h : SameRegisters r s) : SameRegisters r (writePlace s p bs) := by
  unfold writePlace
  split
  · exact (walkers r).write h
  · exact h
  · exact .foldl (fun _ _ ht => ht) h
  · exact h

/-! ### Barriers, slots and kills -/

protected theorem SameRegisters.departBarriers {c : BitVec 16} {l : List Member} (h : SameRegisters r s) : SameRegisters r (departBarriers s c l) := by
  unfold departBarriers
  refine .foldl (fun t m ht => ?_) h
  split
  · exact .ite ((walkers r).writeNat ht) ht
  · exact ht

protected theorem SameRegisters.dropSlots {c : BitVec 16} {ids : List Nat} (h : SameRegisters r s) : SameRegisters r (dropSlots s c ids).1 := by
  unfold dropSlots
  dsimp only
  exact .foldl (fun _ _ => (walkers r).write) (.setCores h)

protected theorem SameRegisters.writeCells {coord : Nat} {data : Row} {poison : BitVec 128} (h : SameRegisters r s) :
    SameRegisters r (writeCells s coord data poison) := by
  unfold writeCells
  exact .foldl (fun _ _ ht => .ite (.setPoison ht) ht) ((walkers r).writeNat h)

protected theorem SameRegisters.dropRows {g b : Nat} {i : StepInfo} (h : SameRegisters r s) : SameRegisters r (dropRows s g b i) := by
  unfold dropRows finishWrites
  exact .modPer ((scopes r).countKill (fun _ _ => (scopes r).addRowsDrop) (.foldl (fun _ _ ht => .ite (.writeCells ht) ht) h))

protected theorem SameRegisters.killCompute {id : Nat} {i : StepInfo} (h : SameRegisters r s) : SameRegisters r (killCompute s id i) := by
  unfold killCompute
  extract_lets _ _ _ _ t
  have ht : SameRegisters r t := .drop ((scopes r).countKill (fun _ _ => (scopes r).addKillHarts) (.departBarriers h))
  exact .ite (.park h) ((scopes r).leaveStep (.ite ht (.modCore ((scopes r).endKilledStep ht))))

protected theorem SameRegisters.killBank {g b : Nat} {i : StepInfo} (h : SameRegisters r s) : SameRegisters r (killBank s g b i) := by
  unfold killBank
  extract_lets _ _ t
  have ht : SameRegisters r t := .drop ((scopes r).countKill (fun _ _ => (scopes r).addKillHarts) (.dropRows h))
  exact (scopes r).leaveStep (.ite ht (.modPer ((scopes r).endKilledStep ht)))

protected theorem SameRegisters.killCur (h : SameRegisters r s) : SameRegisters r (killCur s) := by
  have hbank : ∀ (g : Nat) (t : State) (b : Nat), SameRegisters r t → SameRegisters r (match (perOf t g).step with
      | some i => if (hartOf t (bankId g b)).live then killBank t g b i else t
      | none => t) := fun g t b ht => by
    split
    · exact .ite (.killBank ht) ht
    · exact ht
  unfold killCur
  split
  · split
    · exact .ite (.killCompute h) h
    · exact h
  · exact .foldl (hbank _) h
  · exact .foldl (hbank _) h
  · exact h

/-! ### Cancellation -/

protected theorem SameRegisters.spoilRange {c : AddrCtx} {lo len : Nat} (h : SameRegisters r s) : SameRegisters r (spoilRange s c lo len) := by
  unfold spoilRange
  refine .ite h (.foldl (fun _ _ ht => .ite ht ?_) h)
  split
  · split
    · exact .freeInto ht
    · exact ht
  · exact ht

protected theorem SameRegisters.staleHandle {c : AddrCtx} {va : Word} (h : SameRegisters r s) : SameRegisters r (staleHandle s c va) := by
  unfold staleHandle
  refine .ite ?_ h
  split
  · split
    · exact (walkers r).writeNat (.spoilRange h)
    · exact h
  · exact h

protected theorem SameRegisters.dropEngine {core : Nat} {e : EngineRec} (h : SameRegisters r s) : SameRegisters r (dropEngine s core e) := by
  unfold dropEngine dropFollow endSlotLoad
  extract_lets s0 s1
  have h0 : SameRegisters r s0 := .ite (.modCore h) h
  have h1 : SameRegisters r s1 := .ite (.staleHandle h0) h0
  exact .ite (.foldl (fun _ _ => .modCore) h1) h1

protected theorem SameRegisters.dropSaved {k : Nat} {i : StepInfo} {frame : Nat} (h : SameRegisters r s) : SameRegisters r (dropSaved s k i frame) := by
  unfold dropSaved dropCaught
  extract_lets _ _ s0
  have h0 : SameRegisters r s0 := .setCores (.departBarriers h)
  exact (scopes r).leaveStep ((scopes r).endKilledStep ((scopes r).countKill (fun _ _ => (scopes r).addKillHarts)
    (.ite (.foldl (fun _ _ => .dropEngine) h0) (.modCore h0))))

protected theorem SameRegisters.dropSavedRow {i : StepInfo} {record : List Byte} (h : SameRegisters r s) : SameRegisters r (dropSavedRow s i record) :=
  (scopes r).leaveStep ((scopes r).endKilledStep ((scopes r).countKill (fun _ _ => (scopes r).addKillHarts) h))

protected theorem SameRegisters.markBlock {marked : List Nat} {count : Nat} {x : BlockRef} (h : SameRegisters r s) :
    SameRegisters r (markBlock s marked count x) := by
  unfold markBlock
  dsimp only
  split
  · exact h
  · have hq := (walkers r).dequeue (r := x) h
    exact .ite h (.ite ((walkers r).killBlock hq) ((scopes r).addEnded ((scopes r).addKillSteps ((walkers r).write hq))))

protected theorem SameRegisters.requestKill {ids : List Nat} (h : SameRegisters r s) : SameRegisters r (requestKill s ids) :=
  h.trans (SameRegisters.modHarts (f := fun k => { k with killReq := true }) (fun _ => rfl) _ s)

protected theorem SameRegisters.markCore {marked : List Nat} {count k : Nat} (h : SameRegisters r s) : SameRegisters r (markCore s marked count k) := by
  unfold markCore
  refine .foldl (fun _ _ ht => .ite (.dropSaved (.modCore ht)) ht) ?_
  split
  · exact h
  · refine .ite h ?_
    dsimp only
    split
    · exact .modCore ((scopes r).endKilledStep h)
    · exact .modCore (.dropSaved h)
    · exact .requestKill (.modCore h)

protected theorem SameRegisters.markPergola {marked : List Nat} {count g : Nat} (h : SameRegisters r s) :
    SameRegisters r (markPergola s marked count g) := by
  unfold markPergola
  refine .foldl (fun _ _ ht => .ite (.dropSavedRow (.modPer ht)) ht) ?_
  split
  · exact h
  · refine .ite h ?_
    dsimp only
    split
    · exact .modPer ((scopes r).endKilledStep h)
    · exact .modPer (.dropSavedRow h)
    · exact .requestKill (.modPer h)

protected theorem SameRegisters.markClaims {marked : List Nat} {count : Nat} (h : SameRegisters r s) : SameRegisters r (markClaims s marked count) := by
  unfold markClaims
  refine .foldl (fun _ _ ht => .foldl (fun _ _ hu => ?_) ht) h
  split
  · exact .ite ((scopes r).addEnded ((scopes r).addKillSteps (.modWing hu))) hu
  · exact hu

protected theorem SameRegisters.cancelScope {c canceller : BitVec 16} {pa : Nat} (h : SameRegisters r s) :
    SameRegisters r (cancelScope s c pa canceller) := by
  unfold cancelScope
  refine .ite h ?_
  extract_lets -underBinder _ _ _ _ _ _ _ _ _ t
  have ht : SameRegisters r t := .trimGrants ((scopes r).quiesce ((scopes r).addSlotsDrop (.dropSlots (.foldl (fun _ _ => .markPergola)
    (.foldl (fun _ _ => .markCore) (.markClaims (.foldl (fun _ _ hu => .ite (.markBlock hu) hu) (.foldl (fun _ _ => (walkers r).modRecord) ((scopes r).setOwned h)))))))))
  split
  · exact ht
  · exact (scopes r).devicePoison ht

/-! ### Segments and rows that resume -/

protected theorem SameRegisters.modOverlay {n : Nat} {f : Tbl OvlBlock → Tbl OvlBlock} (h : SameRegisters r s) : SameRegisters r (modOverlay s n f) :=
  .ite h (.ite h h)

protected theorem SameRegisters.segmentFetch {harts : List Nat} {context : BitVec 16} {n : Nat} {source : Word} {off len : Nat} {m : RangeMap}
    {mark : Option (Nat × Nat × Nat)} (h : SameRegisters r s) : SameRegisters r (segmentFetch s harts context n source off len m mark) :=
  .modOverlay h

protected theorem SameRegisters.reissueSegments {c : AddrCtx} {hart n : Nat} {i : StepInfo} (h : SameRegisters r s) :
    SameRegisters r (reissueSegments s c hart n i) := by
  unfold reissueSegments
  refine .foldl (fun _ _ ht => ?_) h
  split
  · split
    · exact .logError (.modOverlay ht)
    · exact .segmentFetch (.commitAll ht)
  · exact .ite (.modOverlay ht) ht

theorem SameRegisters.of_restoreSegments {g : Nat} {i : StepInfo} {t : State} (h : SameRegisters r s) (e : restoreSegments s g i = .ok t) :
    SameRegisters r t := by
  unfold restoreSegments at e
  obtain ⟨b, -, e⟩ := ok_of_bind e
  obtain ⟨m, -, e⟩ := ok_of_bind e
  cases e
  exact .reissueSegments (.segmentFetch (.commitAll h))

protected theorem SameRegisters.dropRowStep {g : Nat} (h : SameRegisters r s) : SameRegisters r (dropRowStep s g) :=
  SameRegisters.trans (t := modPer s g fun p => { p with step := none, gang := true }) (.modPer h)
    (SameRegisters.modHarts (f := fun k => k.drop .exited) (fun _ => rfl) _ _)

protected theorem SameRegisters.restartRow {g : Nat} {i : StepInfo} (h : SameRegisters r s) : SameRegisters r (restartRow s g i) := by
  unfold restartRow
  split
  next t e => exact h.of_restoreSegments e
  next =>
    dsimp only
    exact .ite ((scopes r).unitFault (.logError (.modPer h))) ((scopes r).leaveStep ((scopes r).addEnded (.logSched (.dropRowStep h))))

protected theorem SameRegisters.resumePergola {c : BitVec 16} {g : Nat} (h : SameRegisters r s) : SameRegisters r (resumePergola s c g) := by
  unfold resumePergola
  split
  · exact h
  · exact .ite h (.restartRow (.modPer h))

protected theorem SameRegisters.resumeCore {c : BitVec 16} {k : Nat} (h : SameRegisters r s) : SameRegisters r (resumeCore s c k) := by
  unfold resumeCore
  split
  · exact h
  · exact .ite h (.modCore (h.trans (SameRegisters.modHarts (f := fun k => k.drop .idle) (fun _ => rfl) _ s)))

/-! ### HALTCTL (R444, R445, R447, R448) -/

protected theorem SameRegisters.haltctlHalt {c : BitVec 16} (h : SameRegisters r s) : SameRegisters r (haltctlHalt s c) :=
  .ite ((walkers r).halts h) ((scopes r).contextFault h)

protected theorem SameRegisters.haltctlResume {c : BitVec 16} (h : SameRegisters r s) : SameRegisters r (haltctlResume s c) := by
  unfold haltctlResume
  exact .ite h (.foldl (fun _ _ => .resumePergola) (.foldl (fun _ _ => .resumeCore) (.modHalt h)))

protected theorem SameRegisters.killStopped {c : BitVec 16} {k : Nat} (h : SameRegisters r s) : SameRegisters r (killStopped s c k) := by
  unfold killStopped dropCaught
  split
  · exact h
  · exact .ite h (.killCur (.setCur (.killCur (.setCur (.setCores ((scopes r).leaveStep (.foldl (fun _ _ => .dropEngine) h)))))))

protected theorem SameRegisters.killEngines {c : BitVec 16} {k : Nat} (h : SameRegisters r s) : SameRegisters r (killEngines s c k) := by
  unfold killEngines fillTiles
  exact .foldl (fun _ _ ht => (scopes r).leaveStep (.dropEngine ht)) (.foldl (fun _ _ ht => .foldl (fun _ _ => .modCore) ht) (.modCore h))

protected theorem SameRegisters.killSuspended {c : BitVec 16} {k : Nat} (h : SameRegisters r s) : SameRegisters r (killSuspended s c k) := by
  unfold killSuspended
  exact .foldl (fun _ _ ht => .dropSaved (.modCore ht)) h

protected theorem SameRegisters.killStoppedRow {c : BitVec 16} {g : Nat} (h : SameRegisters r s) : SameRegisters r (killStoppedRow s c g) := by
  unfold killStoppedRow
  split
  · exact h
  · exact .ite h (.killCur (.setCur h))

protected theorem SameRegisters.haltctlKill {c : BitVec 16} (h : SameRegisters r s) : SameRegisters r (haltctlKill s c) := by
  unfold haltctlKill killDone
  refine .ite h ?_
  extract_lets s0 s1 s2 s3 s4
  have h4 : SameRegisters r s4 := .foldl (fun _ _ ht => .killSuspended (.killEngines ht)) (.foldl (fun _ _ => .killStoppedRow)
    (.foldl (fun _ _ => .killStopped) (.foldl (fun _ _ => .cancelScope) (.modHalt h))))
  have hq : SameRegisters r (quiesce s4 c) := (scopes r).quiesce h4
  exact .setCur (.ite (.modHalt hq) hq)

protected theorem SameRegisters.haltctl {c : BitVec 16} {v : Word} (h : SameRegisters r s) : SameRegisters r (haltctl s c v) := by
  unfold haltctl
  split
  · exact .haltctlHalt h
  · exact .haltctlResume h
  · exact .haltctlKill h
  · exact h

/-! ### Device registers (R75) -/

protected theorem SameRegisters.docctlRestart {w : Nat} (h : SameRegisters r s) : SameRegisters r (docctlRestart s w) := by
  unfold docctlRestart
  exact .ite (SameRegisters.trans (t := modWing s w fun v => { v with docStopped := false, docCause := 0, docChain := 0, docAddr := 0 })
    (.modWing h) (SameRegisters.modHart fun _ => rfl)) h

protected theorem SameRegisters.ctxWrite {c k : Nat} {v : Word} (h : SameRegisters r s) : SameRegisters r (ctxWrite s c k v) :=
  .ite (.ite h h) h

protected theorem SameRegisters.devEffect {off : Nat} {v : Word} (h : SameRegisters r s) : SameRegisters r (devEffect s off v) :=
  .ite (.ctxWrite h) (.ite (.ite (.haltctl h) h) (.ite (.ite (.docctlRestart h) h) (.ite h (.ite (.ite (.ite h h) h) h))))

protected theorem SameRegisters.devWriteSpan {off : Nat} {bs : List Byte} (h : SameRegisters r s) : SameRegisters r (devWriteSpan s off bs) := by
  unfold devWriteSpan devWriteBytes devWrite
  exact .foldl (fun _ _ ht => .ite (.triggerMonitors (.devEffect ht)) ht) h

protected theorem SameRegisters.devReadSpan {off n : Nat} (h : SameRegisters r s) : SameRegisters r (devReadSpan s off n).2 := by
  have hread : ∀ (t : State) (k : Nat), SameRegisters r t → SameRegisters r (devRead t k).2 := fun t k ht => by
    unfold devRead
    split <;> exact ht
  refine foldl_keeps (fun x : List Byte × State => SameRegisters r x.2) _ (fun x j hx => ?_) _ _ h
  exact ite_keeps (fun y : List Byte × State => SameRegisters r y.2) (hread _ _ hx) hx

/-! ### Programs' accesses (R102) -/

protected theorem SameRegisters.progRead {p : Place} {n : Nat} (h : SameRegisters r s) : SameRegisters r (progRead s p n).2 := by
  unfold progRead
  split
  · exact .memRead h
  · exact .devReadSpan h
  · exact h

protected theorem SameRegisters.progWrite {p : Place} {bs : List Byte} (h : SameRegisters r s) : SameRegisters r (progWrite s p bs) := by
  unfold progWrite
  split
  · exact .memWrite h
  · exact .devWriteSpan h
  · exact .writePlace h

protected theorem SameRegisters.progReadRange {m : RangeMap} (h : SameRegisters r s) : SameRegisters r (progReadRange s m).2 :=
  foldl_keeps (fun x : List Byte × State => SameRegisters r x.2)
    (fun x (p : Place × Nat) => (x.1 ++ (progRead x.2 p.1 p.2).1, (progRead x.2 p.1 p.2).2)) (fun _ _ hx => .progRead hx) m.pieces ([], s) h

protected theorem SameRegisters.progWriteRange {m : RangeMap} {bs : List Byte} (h : SameRegisters r s) : SameRegisters r (progWriteRange s m bs) :=
  foldl_keeps (fun x : State × List Byte => SameRegisters r x.1)
    (fun x (p : Place × Nat) => (progWrite x.1 p.1 (x.2.take p.2), x.2.drop p.2)) (fun _ _ hx => .progWrite hx) m.pieces (s, bs) h

end Sys2Proof.Machine
end

section
/-! ## The Catalogue (03_memory_spaces.md R93 to R95, 10_memory_engines_tasks.md R332, R333) -/
namespace Sys2Proof.Machine

/-! ### Names and blocks -/

section
variable (k : Catalogue) (name b : Nat)

theorem Catalogue.find_map (n : Nat) : (k.map name b).find n = if n = name then some b else k.find n := by
  unfold Catalogue.find Catalogue.map
  by_cases h : n = name
  · simp [h]
  · simp [h, Ne.symm h]

theorem Catalogue.count_map (c : Nat) : (k.map name b).count c = if c = b then k.count b + 1 else k.count c :=
  Tbl.get_set 0 k.counts b c (k.count b + 1)

theorem Catalogue.find_unmap (n : Nat) : (k.unmap name b).find n = if n = name then none else k.find n := by
  unfold Catalogue.find Catalogue.unmap
  rw [List.find?_filter]
  by_cases h : n = name
  · simp [h]
  · have e : (fun p : Nat × Nat => decide ((p.1 != name) = true ∧ (p.1 == n) = true)) = fun p => p.1 == n := funext fun p => by
      by_cases hp : p.1 = n <;> simp [hp, h]
    rw [e, if_neg h]

theorem Catalogue.count_unmap (c : Nat) : (k.unmap name b).count c = if c = b then k.count b - 1 else k.count c :=
  Tbl.get_set 0 k.counts b c (k.count b - 1)
end

/-- A name moved from a shared block to a free one. -/
theorem Catalogue.remap {k : Catalogue} {name b new : Nat} (hfree : k.count new = 0) (hshared : 1 < k.count b) :
    let q := (k.unmap name b).map name new
    q.find name = some new ∧ q.count new = 1 ∧ q.count b = k.count b - 1 ∧ (∀ n, n ≠ name → q.find n = k.find n) ∧
      ∀ c, c ≠ b → c ≠ new → q.count c = k.count c := by
  have hne : new ≠ b := fun e => by rw [e] at hfree; omega
  refine ⟨?_, ?_, ?_, fun n hn => ?_, fun c hcb hcn => ?_⟩
  · rw [find_map, if_pos rfl]
  · rw [count_map, if_pos rfl, count_unmap, if_neg hne, hfree]
  · rw [count_map, if_neg hne.symm, count_unmap, if_pos rfl]
  · rw [find_map, if_neg hn, find_unmap, if_neg hn]
  · rw [count_map, if_neg hcn, count_unmap, if_neg hcb]

/-- The block taken is free. -/
theorem takeBlock?_ok {s t : State} {d : CatDesc} {k : Catalogue} {b : Nat} (h : takeBlock? s d k = some (b, t)) :
    k.count b = 0 ∧ t = { s with freeCount := s.freeCount + 1 } := by
  unfold takeBlock? at h
  split at h
  · cases h
  · obtain ⟨c, hc, he⟩ := Option.map_eq_some_iff.1 h
    cases he
    have hmem := List.mem_of_getElem? hc
    unfold Catalogue.free at hmem
    exact ⟨by simpa using (List.mem_filter.1 hmem).2, rfl⟩

/-! ### What the Catalogue's instructions leave -/

theorem RegisterFrame.catalogues {s t : State} {ids : List Nat} {d : Nat} (h : RegisterFrame s t ids d) : t.catalogues = s.catalogues := by
  have e := congrArg State.catalogues h.rest; exact e

theorem CatCounts.of_same {s t : State} {d : CatDesc} (h : CatCounts s d) (hm : SameMemory s t) (hc : t.catalogues = s.catalogues) :
    CatCounts t d := by
  unfold CatCounts catHeld at h ⊢
  rwa [hm.readNat, hm.readNat, hc]

/-- The Catalogue is replaced by another, and FREE and MAPPED with it; nothing else of the units changes. -/
theorem putCat_leaves (s : State) (d : CatDesc) (k : Catalogue) :
    Walked { s with catalogues := s.catalogues.set {} d.pa k } (putCat s d k) ∧ catHeld (putCat s d k) d = k ∧ CatCounts (putCat s d k) d := by
  have hheld : catHeld (putCat s d k) d = k := Tbl.get_set_same ({} : Catalogue) s.catalogues d.pa k
  refine ⟨((Walked.refl _).writeNat ..).writeNat .., hheld, ?_, ?_⟩
  · rw [hheld, putCat, readNat_writeNat_apart _ (by omega), readNat_writeNat_same]; rfl
  · rw [hheld, putCat, readNat_writeNat_same]; rfl

theorem Walked.commitAll (s : State) (l : List Resolved) : Walked s (commitAll s l) :=
  foldl_keeps (Walked s) _ (fun _ _ => (keeps s).commit) l s (.refl s)

/-- The translations committed and the Catalogue replaced: registers and place stand. -/
theorem catPut_leaves (s : State) (l : List Resolved) (d : CatDesc) (k : Catalogue) :
    let u := putCat (commitAll s l) d k
    SameRegisters s u ∧ ctl u = ctl s ∧ u.cur = s.cur := by
  obtain ⟨hput, -, -⟩ := putCat_leaves (commitAll s l) d k
  have hall := Walked.commitAll s l
  have hreg : SameRegisters s { commitAll s l with catalogues := (commitAll s l).catalogues.set {} d.pa k } := hall.get
  have hctl : ctl { commitAll s l with catalogues := (commitAll s l).catalogues.set {} d.pa k } = ctl (commitAll s l) := rfl
  exact ⟨hreg.trans hput.get, hput.ctl.trans (hctl.trans hall.ctl), hput.cur.trans hall.cur⟩

/-- A compute hart's or docent's instruction that ends with a register written. -/
theorem xWrite_ends {s u : State} {id : Nat} {kind : HartKind} (hkind : curKind s = some kind) (hcur : s.cur = .hart id)
    (hreg : SameRegisters s u) (hctl : ctl u = ctl s) (hu : u.cur = s.cur) (o : Opnd) (v : Word) :
    let t := advance (xWrite u o v)
    ctl t = nextPlace s ∧ SameMemory u t ∧ t.catalogues = u.catalogues ∧
      (hartOf t (leadHart s)).get o.num.toNat = (if o.num.toNat = 0 then 0 else v) ∧
      ∀ id n, ¬(id = leadHart s ∧ n = o.num.toNat) → (hartOf t id).get n = (hartOf s id).get n := by
  have hperf : performers u = [id] := by unfold performers; rw [hu, hcur]
  have hw : xWrite u o v = modPerformers u fun h => h.dest o v := by rw [xWrite_of_hart (hu.trans hcur), modPerformers, hperf]; rfl
  have hk : curKind u = some kind := by unfold curKind at hkind ⊢; rwa [hu]
  obtain ⟨hvalue, hframe, hplace⟩ := scalar_shape u hk o fun _ => v
  rw [hperf, ← hw] at hframe
  rw [hperf, ← hw] at hvalue
  rw [← hw, hctl] at hplace
  rw [leadHart_of_hart hcur]
  exact ⟨hplace, hframe.memory, hframe.catalogues, hvalue id (by simp),
    fun j n hn => (hframe.registers j n (by simpa using hn)).trans (hreg j n)⟩

/-! ### The checks (R93, R107, R332, R469) -/

theorem needName_of_lt {name : Word} (h : name.toNat < 2 ^ 60) : needName name = .ok () := need_of_true (decide_eq_true h) ..

/-- Where every earlier access is performed, so are those of each stream. -/
theorem acknowledgedOn_of_orderedAll {s : State} {id : Nat} (h : orderedAll s id = true) (sel : Nat → Bool) : acknowledgedOn s id sel = true := by
  unfold orderedAll landedAll at h
  simp only [Bool.and_eq_true, Bool.not_eq_true', outstanding, unbegun, List.any_eq_false] at h
  obtain ⟨⟨hsent, -⟩, hbegun⟩ := h
  unfold acknowledgedOn streamBusy
  simp only [Bool.not_eq_true', Bool.or_eq_false_iff, outstanding, unbegun, List.any_eq_false]
  refine ⟨fun q hq hbusy => hsent q hq ?_, fun e he hbusy => hbegun e he ?_⟩
  · cases hp : q.2 with
    | none => rw [hp] at hbusy; cases hbusy
    | some p =>
      rw [hp] at hbusy
      simp only [Bool.and_eq_true] at hbusy ⊢
      exact ⟨hbusy.1, hbusy.2.2⟩
  · rw [Bool.and_eq_true] at hbusy
    simpa using hbusy.2

theorem catLift_ok {α : Type} {name : Word} {c : Chk α} {a : α} (h : catLift name c = .ok a) : c = .ok a := by
  unfold catLift lift at h
  cases c with
  | error e => cases h
  | ok b => cases h; rfl

/-- An ordinary pool's location is computed: no translation is committed. -/
theorem catLocation_ordinary {s : State} {d : CatDesc} {name : Word} {b : Nat} {loc : Word} {m : List Resolved} (hrow : d.row = false)
    (h : catLocation s d name b = .ok (loc, m)) : m = [] := by
  unfold catLocation at h
  rw [hrow] at h
  cases h
  rfl

theorem lateMajor_catalogue (f : FmtE) : lateMajor (.catmap f) = false ∧ lateMajor (.catfree f) = false :=
  ⟨by rw [lateMajor, queued, major_of_encE (M := 0x92) rfl]; rfl, by rw [lateMajor, queued, major_of_encE (M := 0x92) rfl]; rfl⟩

/-! ### Each instruction's answer -/

section
variable {f : FmtE} {s : State} {d : CatDesc} {l : List Resolved} (hd : catDesc s (xRead s f.a) = .ok (d, l))
  (hname : (xRead s f.a).toNat < 2 ^ 60) (hord : orderedAll s (leadHart s) = true)
include hd hname hord

theorem catalloc_maps {b : Nat} {u : State} {loc : Word} {m : List Resolved} (hfind : (catOf s d).find (xRead s f.a).toNat = none)
    (hroom : 4 * ((catOf s d).names.length + 1) ≤ 3 * 2 ^ d.mapLog) (htake : takeBlock? s d (catOf s d) = some (b, u))
    (hloc : catLocation u d (xRead s f.a) b = .ok (loc, m)) :
    catalloc f s = .ok (advance (xWrite (putCat (commitAll u (l ++ m)) d ((catOf s d).map (xRead s f.a).toNat b)) f.d loc)) := by
  have hneed : ((catOf s d).find (xRead s f.a).toNat).isNone && decide (4 * ((catOf s d).names.length + 1) ≤ 3 * 2 ^ d.mapLog) := by simp [hfind, hroom]
  simp only [catalloc, bind, Except.bind, hd, needName_of_lt hname, need_of_true hneed, htake, hloc, afterAll_of_orderedAll hord, ok]

theorem catmap_reads {b : Nat} {loc : Word} {m : List Resolved} (hfind : (catOf s d).find (xRead s f.a).toNat = some b)
    (hown : f.b.bits.getLsbD 0 = false ∨ (catOf s d).count b ≤ 1) (hloc : catLocation s d (xRead s f.a) b = .ok (loc, m)) :
    catmap f s = .ok (advance (xWrite (commitAll s (l ++ m)) f.d loc)) := by
  have hcond : (f.b.bits.getLsbD 0 && decide (1 < (catOf s d).count b)) = false := by
    rcases hown with e | e
    · rw [e, Bool.false_and]
    · rw [decide_eq_false (Nat.not_lt.2 e), Bool.and_false]
  have hack := afterStream_of_acknowledged (acknowledgedOn_of_orderedAll hord (· == f.strm.toNat))
  simp only [catmap, bind, Except.bind, hd, needName_of_lt hname, hack, hfind, hcond, Bool.false_eq_true, if_false, hloc, ok]

theorem catmap_copies {b new : Nat} {u : State} {q : Catalogue} {loc : Word} {m : List Resolved}
    (hfind : (catOf s d).find (xRead s f.a).toNat = some b) (hw : f.b.bits.getLsbD 0 = true) (hshared : 1 < (catOf s d).count b)
    (hrow : d.row = false) (hcopy : catCopy s d (xRead s f.a) (catOf s d) b = .ok (new, u, q))
    (hloc : catLocation u d (xRead s f.a) new = .ok (loc, m)) :
    catmap f s = .ok (advance (xWrite (putCat (commitAll u (l ++ m)) d q) f.d loc)) := by
  have hcond : (f.b.bits.getLsbD 0 && decide (1 < (catOf s d).count b)) = true := by rw [hw, decide_eq_true hshared]; rfl
  have hneed : (!d.row) = true := by rw [hrow]; rfl
  have hack := afterStream_of_acknowledged (acknowledgedOn_of_orderedAll hord (· == f.strm.toNat))
  simp only [catmap, bind, Except.bind, hd, needName_of_lt hname, hack, hfind, hcond, if_true, need_of_true hneed, hcopy, hloc, ok]

theorem catfree_unmaps {b : Nat} (hfind : (catOf s d).find (xRead s f.a).toNat = some b) :
    catfree f s = .ok (advance (putCat (commitAll s l) d ((catOf s d).unmap (xRead s f.a).toNat b))) := by
  simp only [catfree, bind, Except.bind, hd, needName_of_lt hname, hfind, afterAll_of_orderedAll hord, ok]

theorem catmap_unmapped (hfind : (catOf s d).find (xRead s f.a).toNat = none) : catmap f s = .error (.trap Cause.catalogue (xRead s f.a)) := by
  have hack := afterStream_of_acknowledged (acknowledgedOn_of_orderedAll hord (· == f.strm.toNat))
  simp only [catmap, bind, Except.bind, hd, needName_of_lt hname, hack, hfind]

omit hord in
theorem catfree_unmapped (hfind : (catOf s d).find (xRead s f.a).toNat = none) : catfree f s = .error (.trap Cause.catalogue (xRead s f.a)) := by
  simp only [catfree, bind, Except.bind, hd, needName_of_lt hname, hfind]
end

end Sys2Proof.Machine
end

section
/-! ## The Catalogue's copy and shares, and the obligation (03_memory_spaces.md R94, R95, 10_memory_engines_tasks.md R333) -/
namespace Sys2Proof.Machine

/-! ### The copy of a shared block (R95) -/

/-- CATMAP.w takes a free block, writes into it what the old one reads as, and maps the name to it. -/
theorem catCopy_ok {s u : State} {d : CatDesc} {name : Word} {k q : Catalogue} {old new : Nat} (h : catCopy s d name k old = .ok (new, u, q)) :
    k.count new = 0 ∧ q = (k.unmap name.toNat old).map name.toNat new ∧ ∃ src dst : RangeMap,
      let s1 := { s with freeCount := s.freeCount + 1 }
      let got := progReadRange (commitAll s1 (src.commits ++ dst.commits)) src
      resolveRange s1 (hartCtx s (leadHart s)) { rd := true, peer := false } (BitVec.ofNat 64 (d.pool + 8192 * old)) 8192 = .ok src ∧
      resolveRange s1 (hartCtx s (leadHart s)) { wr := true, peer := false } (BitVec.ofNat 64 (d.pool + 8192 * new)) 8192 = .ok dst ∧
      u = progWriteRange got.2 dst got.1 := by
  unfold catCopy at h
  split at h
  · cases h
  next b t htake =>
  obtain ⟨hfree, rfl⟩ := takeBlock?_ok htake
  obtain ⟨src, hsrc, h⟩ := ok_of_bind h
  obtain ⟨dst, hdst, h⟩ := ok_of_bind h
  split at h
  · cases h
  · cases h
    exact ⟨hfree, rfl, src, dst, catLift_ok hsrc, catLift_ok hdst, rfl⟩

theorem catCopy_sameRegisters {s u : State} {d : CatDesc} {name : Word} {k q : Catalogue} {old new : Nat}
    (h : catCopy s d name k old = .ok (new, u, q)) : SameRegisters s u := by
  obtain ⟨-, -, src, dst, -, -, rfl⟩ := catCopy_ok h
  exact .progWriteRange (.progReadRange (.commitAll (SameRegisters.refl s)))

/-- A range that no frame in use and no spill area meets (R102, R307). -/
def meetsNoImage (s : State) (pa n : Nat) : Prop := ((framesInUse s).any fun f => overlaps pa n f.1 f.2) = false ∧ recordsHit s pa n = []

theorem meetsNoImage_of_plainPlace {s : State} {pa n : Nat} (h : plainPlace s (.phys pa) n = true) : meetsNoImage s pa n := by
  simp only [plainPlace, Bool.and_eq_true, Bool.not_eq_true', List.isEmpty_iff] at h
  obtain ⟨⟨-, hrecords⟩, hframes⟩ := h
  exact ⟨hframes, hrecords⟩

/-- Which ranges the device uses depends on no memory, hart or translation. -/
theorem RecordFrame.meetsNoImage {s t : State} {ids : List Nat} {d : Nat} {l : List Resolved} {q m : Nat} (h : RecordFrame s t ids d l q m)
    (hper : t.pergolas = s.pergolas) {pa n : Nat} (hs : meetsNoImage s pa n) : meetsNoImage t pa n := by
  have hcores : t.cores = s.cores := by have e := congrArg State.cores h.rest; exact e
  have hcontexts : t.contexts = s.contexts := by have e := congrArg State.contexts h.rest; exact e
  have hopen : ∀ p i, recordOpen t p i = recordOpen s p i := fun p i => by
    have e := congrArg State.halts h.rest
    dsimp only at e
    unfold recordOpen haltOf
    rw [e]
  have harea : ∀ a m, deviceArea t a m = deviceArea s a m := fun a m => by
    have e := congrArg State.intlvSize h.rest
    dsimp only at e
    unfold deviceArea
    rw [e]
  unfold Machine.meetsNoImage framesInUse savedFrames recordsHit at hs ⊢
  simpa only [hcores, hper, hcontexts, hopen, harea] using hs

/-- In such memory the bytes written are the bytes read. -/
theorem copy_bytes {s : State} {x y n : Nat} {src dst : RangeMap} (hsrc : src.pieces = [(.phys x, n)]) (hdst : dst.pieces = [(.phys y, n)])
    (hx : meetsNoImage s x n) (hy : meetsNoImage s y n) :
    readBytes (progWriteRange (progReadRange s src).2 dst (progReadRange s src).1) y n = readBytes s x n := by
  have hread : progReadRange s src = (readBytes s x n, s) := by
    unfold progReadRange
    rw [hsrc]
    simp only [List.foldl_cons, List.foldl_nil, progRead, memRead_of_unused hx.1 hx.2, List.nil_append]
  have hwrite : progWriteRange s dst (readBytes s x n) = memWrite s y (readBytes s x n) := by
    unfold progWriteRange
    rw [hdst]
    simp only [List.foldl_cons, List.foldl_nil, progWrite, List.take_of_length_le (Nat.le_of_eq (readBytes_length s x n))]
  have h := readBytes_memWrite (s := s) (pa := y) (l := readBytes s x n) (by rw [readBytes_length]; exact landsPlain_of_unused hy.1 hy.2)
  rw [hread, hwrite]
  rwa [readBytes_length] at h

theorem commitAll_pergolas (s : State) (l : List Resolved) : (commitAll s l).pergolas = s.pergolas :=
  foldl_unchanged State.pergolas (fun t r => by
    unfold commit
    extract_lets u
    have hu : u.pergolas = t.pergolas := by
      unfold u
      split
      · rfl
      · exact ite_keeps (fun v : State => v.pergolas = t.pergolas) rfl rfl
    split <;> exact hu) l s

/-- Table entries that a range does not overlap lie outside it. -/
theorem not_mem_tableBytes {l : List Resolved} {a n j : Nat} (h : ∀ z ∈ tableBytes l, overlaps z 1 a n = false) (hj : j < n) : a + j ∉ tableBytes l :=
  fun hin => by
    have ho := h _ hin
    simp only [overlaps, Bool.and_eq_false_iff, decide_eq_false_iff_not] at ho
    omega

/-- A range apart from the table entries of an access reads as before. -/
theorem readBytes_commitAll {s : State} {l : List Resolved} {a n : Nat} (h : ∀ z ∈ tableBytes l, overlaps z 1 a n = false) :
    readBytes (commitAll s l) a n = readBytes s a n :=
  (commitAll_recordFrame s (List.Subset.refl l) 0 0).memory.readBytes (fun _ _ hc => by omega) fun _ => not_mem_tableBytes h

/-- FREE and MAPPED lie in the descriptor's 64 bytes. -/
theorem readBytes_putCat {s : State} {d : CatDesc} {k : Catalogue} {a n : Nat} (h : overlaps d.pa 64 a n = false) :
    readBytes (putCat s d k) a n = readBytes s a n := by
  simp only [overlaps, Bool.and_eq_false_iff, decide_eq_false_iff_not] at h
  unfold putCat writeNat
  rw [readBytes_writeBytes_apart _ (by rw [leBytes_length]; omega), readBytes_writeBytes_apart _ (by rw [leBytes_length]; omega)]
  rfl

theorem tableBytes_subset {l m : List Resolved} (h : m ⊆ l) {z : Nat} (hz : z ∈ tableBytes m) : z ∈ tableBytes l := by
  obtain ⟨r, hr, he⟩ := List.mem_filterMap.1 hz
  exact List.mem_filterMap.2 ⟨r, h hr, he⟩

/-- A copy between plain ranges apart from the table entries in use and from the descriptor, seen once the instruction has written its own. -/
theorem readBytes_copied {s : State} {d : CatDesc} {k : Catalogue} {l lx ly : List Resolved} {x y n : Nat}
    (hpx : plainPlace s (.phys x) n = true) (hpy : plainPlace s (.phys y) n = true) (hdesc : overlaps d.pa 64 y n = false)
    (htables : ∀ z ∈ tableBytes (l ++ lx ++ ly), overlaps z 1 x n = false ∧ overlaps z 1 y n = false) :
    let got := progReadRange (commitAll { s with freeCount := s.freeCount + 1 } (lx ++ ly)) { pieces := [(.phys x, n)], commits := lx }
    readBytes (putCat (commitAll (progWriteRange got.2 { pieces := [(.phys y, n)], commits := ly } got.1) l) d k) y n = readBytes s x n := by
  have himage : ∀ {a : Nat}, plainPlace s (.phys a) n = true → meetsNoImage (commitAll { s with freeCount := s.freeCount + 1 } (lx ++ ly)) a n :=
    fun ha => (commitAll_recordFrame _ (List.Subset.refl _) 0 0).meetsNoImage (commitAll_pergolas ..) (meetsNoImage_of_plainPlace (s := s) ha)
  have hown : ∀ z ∈ tableBytes l, overlaps z 1 y n = false := fun z hz => (htables z (tableBytes_subset (by simp) hz)).2
  have hcopied : ∀ z ∈ tableBytes (lx ++ ly), overlaps z 1 x n = false := fun z hz => (htables z (tableBytes_subset (by simp) hz)).1
  have hcount : SameMemory s { s with freeCount := s.freeCount + 1 } := fun _ => rfl
  dsimp only
  rw [readBytes_putCat hdesc, readBytes_commitAll hown, copy_bytes rfl rfl (himage hpx) (himage hpy), readBytes_commitAll hcopied,
    hcount.readBytes]

/-! ### A range of names shared (R94, R333) -/

/-- A fold over the first `n` numbers whose every step succeeds and carries an invariant on. -/
theorem foldl_range_some {σ : Type} {f : Option σ → Nat → Option σ} {P : Nat → σ → Prop} {a : σ} (h0 : P 0 a) : ∀ {n : Nat} {o : Option σ},
    (List.range n).foldl f (some a) = o → (∀ m q, m < n → P m q → ∃ q', f (some q) m = some q' ∧ P (m + 1) q') → ∃ q, o = some q ∧ P n q
  | 0, _, h, _ => ⟨a, h.symm, h0⟩
  | n + 1, o, h, hs => by
    obtain ⟨q, hq, hP⟩ := foldl_range_some h0 (n := n) rfl fun m q hm => hs m q (by omega)
    obtain ⟨q', hq', hP'⟩ := hs n q (by omega) hP
    rw [List.range_succ, List.foldl_append, hq, List.foldl_cons, List.foldl_nil, hq'] at h
    exact ⟨q', h.symm, hP'⟩

/-- The first `m` names of the range are shared: each target has its source's block, and counts rose with them. -/
structure Shared (k : Catalogue) (name tgt : Word) (m : Nat) (q : Catalogue) : Prop where
  targets : ∀ i, i < m → q.find (catNames name tgt i).2 = k.find (catNames name tgt i).1
  others : ∀ n, (∀ i, i < m → n ≠ (catNames name tgt i).2) → q.find n = k.find n
  counts : ∀ b, q.count b = k.count b + ((List.range m).filter fun i => k.find (catNames name tgt i).1 == some b).length

theorem Shared.zero (k : Catalogue) (name tgt : Word) : Shared k name tgt 0 k := ⟨fun _ h => absurd h (by omega), fun _ _ => rfl, fun _ => rfl⟩

theorem catNames_target_inj {name tgt : Word} {i j : Nat} (h : (catNames name tgt i).2 = (catNames name tgt j).2) : i = j := by
  unfold catNames at h
  dsimp only at h
  omega

theorem Shared.succ {k q : Catalogue} {name tgt : Word} {m b : Nat} (h : Shared k name tgt m q) (hb : k.find (catNames name tgt m).1 = some b) :
    Shared k name tgt (m + 1) (q.map (catNames name tgt m).2 b) where
  targets i hi := by
    rw [Catalogue.find_map]
    by_cases him : i = m
    · subst him; rw [if_pos rfl, hb]
    · rw [if_neg fun e => him (catNames_target_inj e), h.targets i (by omega)]
  others n hn := by rw [Catalogue.find_map, if_neg (hn m (by omega)), h.others n fun i hi => hn i (by omega)]
  counts c := by
    rw [Catalogue.count_map, List.range_succ, List.filter_append, List.length_append, List.filter_cons, List.filter_nil, hb]
    by_cases hc : c = b
    · subst hc; rw [if_pos rfl, h.counts, if_pos (beq_self_eq_true _)]; rfl
    · rw [if_neg hc, h.counts, if_neg (by simpa using Ne.symm hc)]; rfl

/-- CATSHARE of mapped sources and unmapped targets within the counts shares the whole range. -/
theorem catshare_shares {f : FmtE} {s : State} {d : CatDesc} {l : List Resolved} (hd : catDesc s (xRead s f.a) = .ok (d, l))
    (hname : (xRead s f.a).toNat < 2 ^ 60) (hord : orderedAll s (leadHart s) = true) (hbits : bits (xRead s f.b).toNat 17 15 = 0)
    (hn : (xRead s f.b).toNat % 2 ^ 17 ≠ 0) (hrange : (xRead s f.a).toNat % 65536 + (xRead s f.b).toNat % 2 ^ 17 ≤ 65536)
    (hsrc : ∀ i, i < (xRead s f.b).toNat % 2 ^ 17 → ∃ b, (catOf s d).find (catNames (xRead s f.a) (xRead s f.b) i).1 = some b ∧
      (catOf s d).count b + (xRead s f.b).toNat % 2 ^ 17 ≤ 65535)
    (htgt : ∀ i, i < (xRead s f.b).toNat % 2 ^ 17 → (catOf s d).find (catNames (xRead s f.a) (xRead s f.b) i).2 = none) :
    ∃ q, Shared (catOf s d) (xRead s f.a) (xRead s f.b) ((xRead s f.b).toNat % 2 ^ 17) q ∧
      catshare f s = .ok (advance (putCat (commitAll s l) d q)) := by
  have hstep : ∀ m q, m < (xRead s f.b).toNat % 2 ^ 17 → Shared (catOf s d) (xRead s f.a) (xRead s f.b) m q →
      ∃ b, (catOf s d).find (catNames (xRead s f.a) (xRead s f.b) m).1 = some b ∧ q.find (catNames (xRead s f.a) (xRead s f.b) m).2 = none ∧
        q.count b < 65535 := fun m q hm hP => by
    obtain ⟨b, hb, hcount⟩ := hsrc m hm
    refine ⟨b, hb, (hP.others _ fun i hi e => ?_).trans (htgt m hm), ?_⟩
    · have := catNames_target_inj e
      omega
    · have hle := List.length_filter_le (fun i => (catOf s d).find (catNames (xRead s f.a) (xRead s f.b) i).1 == some b) (List.range m)
      rw [List.length_range] at hle
      rw [hP.counts]
      omega
  have hreserved : (bits (xRead s f.b).toNat 17 15 == 0) = true := beq_iff_eq.2 hbits
  have hcount : ((xRead s f.b).toNat % 2 ^ 17 != 0 && decide ((xRead s f.a).toNat % 65536 + (xRead s f.b).toNat % 2 ^ 17 ≤ 65536)) = true := by
    rw [bne_iff_ne.2 hn, decide_eq_true hrange]; rfl
  simp only [catshare, bind, Except.bind, hd, needName_of_lt hname, need_of_true hreserved, need_of_true hcount]
  generalize hout : List.foldl _ (some (catOf s d)) _ = out
  obtain ⟨q, rfl, hP⟩ := foldl_range_some (Shared.zero (catOf s d) (xRead s f.a) (xRead s f.b)) hout fun m q hm hP => by
    obtain ⟨b, hb, hfree, hlt⟩ := hstep m q hm hP
    exact ⟨_, by simp only [Option.bind_some, hb, hfree, hlt, if_true], hP.succ hb⟩
  dsimp only
  rw [afterAll_of_orderedAll hord]
  exact ⟨q, hP, rfl⟩

/-! ### The obligation -/

/-- A Catalogue replaced, seen once the instruction has ended. -/
theorem catEnds {u t : State} {d : CatDesc} {k : Catalogue} (hm : SameMemory (putCat u d k) t) (hc : t.catalogues = (putCat u d k).catalogues) :
    catHeld t d = k ∧ CatCounts t d := by
  obtain ⟨-, hheld, hcounts⟩ := putCat_leaves u d k
  exact ⟨(by unfold catHeld at hheld ⊢; rw [hc, hheld]), hcounts.of_same hm hc⟩

/-- Settles O41: the answers are `catalloc_maps`, `catmap_reads`, `catmap_copies`, `catshare_shares` and `catfree_unmaps`; `catEnds` and
`xWrite_ends` say what they leave. -/
theorem catalogueMapsAndCounts : Obligations.CatalogueMapsAndCounts := by
  unfold Obligations.CatalogueMapsAndCounts
  intro f s d l hd hname hord
  refine ⟨fun b u loc m hadm hfind hroom htake hloc => ?_, fun b loc m hadm hfind hown hloc => ?_,
    fun b new u q loc m hadm hfind hw hshared hrow hcopy hloc hcur hctl => ?_, fun hadm hbits hn hrange hsrc htgt => ?_,
    fun b hadm hfind => ?_, fun i hi hadm hc hfind => ?_⟩
  · obtain ⟨kind, hkind⟩ := admitted_curKind hadm
    obtain ⟨hfree, rfl⟩ := takeBlock?_ok htake
    obtain ⟨hreg, hctl, hcur⟩ := catPut_leaves { s with freeCount := s.freeCount + 1 } (l ++ m) d ((catOf s d).map (xRead s f.a).toNat b)
    obtain ⟨hplace, hmem, hcat, hvalue, hothers⟩ := xWrite_ends hkind (cur_of_admitted hadm rfl rfl) hreg hctl hcur f.d loc
    obtain ⟨hheld, hcounts⟩ := catEnds hmem hcat
    refine ⟨_, perform_ok hadm (catalloc_maps hd hname hord hfind hroom htake hloc), hplace, hfree, ?_, ?_, fun n hn => ?_, fun c hc => ?_, ?_,
      hcounts, hvalue, hothers⟩
    · rw [hheld, Catalogue.find_map, if_pos rfl]
    · rw [hheld, Catalogue.count_map, if_pos rfl, hfree]
    · rw [hheld, Catalogue.find_map, if_neg hn]
    · rw [hheld, Catalogue.count_map, if_neg hc]
    · exact hcounts.1.trans (by rw [hheld]; rfl)
  · obtain ⟨kind, hkind⟩ := admitted_curKind hadm
    have hall := Walked.commitAll s (l ++ m)
    obtain ⟨hplace, hmem, hcat, hvalue, hothers⟩ := xWrite_ends hkind (cur_of_admitted hadm rfl rfl) hall.get hall.ctl hall.cur f.d loc
    have hframe := commitAll_recordFrame s (List.Subset.refl (l ++ m)) 0 0
    exact ⟨_, perform_ok hadm (catmap_reads hd hname hord hfind hown hloc), hplace, hcat.trans hframe.catalogues, hvalue, hothers,
      fun a ha hl => (hmem a).trans (hframe.memory a ha hl)⟩
  · obtain ⟨kind, hkind⟩ := admitted_curKind hadm
    obtain ⟨hfree, hq, -⟩ := catCopy_ok hcopy
    obtain ⟨hreg, hctl', hcur'⟩ := catPut_leaves u (l ++ m) d q
    obtain ⟨hplace, hmem, hcat, hvalue, hothers⟩ := xWrite_ends hkind (cur_of_admitted hadm rfl rfl)
      ((catCopy_sameRegisters hcopy).trans hreg) (hctl'.trans hctl) (hcur'.trans hcur) f.d loc
    obtain ⟨hheld, hcounts⟩ := catEnds hmem hcat
    obtain ⟨hnew, hone, hless, hnames, hblocks⟩ := Catalogue.remap (name := (xRead s f.a).toNat) hfree hshared
    rw [← hq] at hnew hone hless hnames hblocks
    refine ⟨_, perform_ok hadm (catmap_copies hd hname hord hfind hw hshared hrow hcopy hloc), hplace, by rw [hheld, hnew], by rw [hheld, hone],
      by rw [hheld, hless], fun n hn => by rw [hheld, hnames n hn], fun c hcb hcn => by rw [hheld, hblocks c hcb hcn], hcounts, hvalue, hothers, ?_⟩
    intro s1 c x y lx ly hx hy hpx hpy _ hdesc htables
    obtain ⟨-, -, src, dst, hsrc, hdst, hu⟩ := catCopy_ok hcopy
    cases hx.symm.trans hsrc
    cases hy.symm.trans hdst
    rw [hmem.readBytes, catLocation_ordinary hrow hloc, List.append_nil, hu]
    exact readBytes_copied hpx hpy hdesc htables
  · obtain ⟨kind, hkind⟩ := admitted_curKind hadm
    obtain ⟨q, hq, hexec⟩ := catshare_shares hd hname hord hbits hn hrange hsrc htgt
    obtain ⟨hreg, hctl, hcur⟩ := catPut_leaves s l d q
    have hend := advance_frame (putCat (commitAll s l) d q)
    obtain ⟨hheld, hcounts⟩ := catEnds hend.memory hend.catalogues
    exact ⟨_, perform_ok hadm hexec, ctl_advance_of hkind hcur hctl, hreg.trans hend.sameRegisters,
      fun i hi => by rw [hheld, hq.targets i hi], fun n hn => by rw [hheld, hq.others n hn], fun b => by rw [hheld, hq.counts], hcounts⟩
  · obtain ⟨kind, hkind⟩ := admitted_curKind hadm
    obtain ⟨hreg, hctl, hcur⟩ := catPut_leaves s l d ((catOf s d).unmap (xRead s f.a).toNat b)
    have hend := advance_frame (putCat (commitAll s l) d ((catOf s d).unmap (xRead s f.a).toNat b))
    obtain ⟨hheld, hcounts⟩ := catEnds hend.memory hend.catalogues
    refine ⟨_, perform_ok hadm (catfree_unmaps hd hname hord hfind), ctl_advance_of hkind hcur hctl, ?_, ?_, fun n hn => ?_, fun c hc => ?_,
      hcounts, hreg.trans hend.sameRegisters⟩
    · rw [hheld, Catalogue.find_unmap, if_pos rfl]
    · rw [hheld, Catalogue.count_unmap, if_pos rfl]
    · rw [hheld, Catalogue.find_unmap, if_neg hn]
    · rw [hheld, Catalogue.count_unmap, if_neg hc]
  · obtain ⟨hmap, hfree⟩ := lateMajor_catalogue f
    rcases hi with rfl | rfl
    · exact perform_trap_early hadm hc hmap (catmap_unmapped hd hname hord hfind) (by decide)
    · exact perform_trap_early hadm hc hfree (catfree_unmapped hd hname hfind) (by decide)

end Sys2Proof.Machine
end

section
/-! ## Lists over an index: rows of a matrix, and folds that append (09_vector_matrix.md R288, R295, R304) -/
namespace Sys2Proof.Machine

/-- A slice of a list over an index. -/
theorem drop_take_map_range {α : Type} (f : Nat → α) {N a n : Nat} (h : a + n ≤ N) :
    (((List.range N).map f).drop a).take n = (List.range n).map fun j => f (a + j) := by
  apply List.ext_getElem
  · simp; omega
  · intro j h1 h2
    simp

/-- The rows of a matrix, one after the other. -/
theorem flatten_map_range {α : Type} (f : Nat → Nat → α) {w : Nat} (hw : 0 < w) : ∀ m : Nat,
    ((List.range m).map fun i => (List.range w).map (f i)).flatten = (List.range (w * m)).map fun e => f (e / w) (e % w)
  | 0 => rfl
  | m + 1 => by
    rw [List.range_succ, List.map_append, List.flatten_append, flatten_map_range f hw m, Nat.mul_succ, List.range_add, List.map_append,
      List.map_map]
    congr 1
    rw [List.map_singleton, List.flatten_singleton]
    refine List.map_congr_left fun j hj => ?_
    have hj : j < w := List.mem_range.1 hj
    rw [Function.comp_apply, Nat.mul_add_div hw, Nat.mul_add_mod, Nat.div_eq_of_lt hj, Nat.mod_eq_of_lt hj, Nat.add_zero]

theorem getD_map_range {α : Type} (f : Nat → α) {n e : Nat} (h : e < n) (d : α) : ((List.range n).map f).getD e d = f e := by
  simp [h]

/-- A row whose first columns are made anew. -/
theorem zipWith_append_rest {α β γ : Type} (F : β → α → γ) (c : Nat → β) (g : Nat → α) (h : Nat → γ) {n w : Nat} (hn : n ≤ w) :
    List.zipWith F ((List.range n).map c) ((List.range w).map g) ++ (List.range (w - n)).map (fun j => h (n + j)) =
      (List.range w).map fun j => if j < n then F (c j) (g j) else h j := by
  apply List.ext_getElem
  · simp; omega
  · intro j h1 h2
    simp only [List.getElem_append, List.length_zipWith, List.length_map, List.length_range, Nat.min_eq_left hn, List.getElem_zipWith,
      List.getElem_map, List.getElem_range]
    split
    · rfl
    · rw [Nat.add_sub_cancel' (by omega)]

/-- A fold each of whose steps appends one value. -/
theorem length_foldl_append_one {α β σ : Type} {F : List β × σ → α → List β × σ} (hF : ∀ acc x, (F acc x).1.length = acc.1.length + 1) :
    ∀ (l : List α) (acc : List β × σ), (l.foldl F acc).1.length = acc.1.length + l.length
  | [], _ => rfl
  | x :: l, acc => by rw [List.foldl_cons, length_foldl_append_one hF l, hF, List.length_cons]; omega

/-- A fold that appends to its list what does not depend on the rest it carries. -/
theorem foldl_append_fst {α β σ : Type} {F : List β × σ → α → List β × σ} {v : α → List β} (hF : ∀ acc x, (F acc x).1 = acc.1 ++ v x) :
    ∀ (l : List α) (acc : List β × σ), (l.foldl F acc).1 = acc.1 ++ (l.map v).flatten
  | [], acc => (List.append_nil _).symm
  | x :: l, acc => by rw [List.foldl_cons, foldl_append_fst hF l, hF, List.map_cons, List.flatten_cons, List.append_assoc]

end Sys2Proof.Machine
end

section
/-! ## What the matrix unit leaves: one core's slots, registers and work in flight (09_vector_matrix.md R288 to R290, R441) -/
namespace Sys2Proof.Machine

/-! ### Reading a slot after a change -/

theorem slotOf_modSlot (s : State) (c n k m : Nat) (f : Slot → Slot) :
    slotOf (modSlot s c n f) k m = if k = c ∧ m = n then f (slotOf s c n) else slotOf s k m := by
  unfold slotOf modSlot
  rw [coreOf_modCore]
  by_cases hk : k = c
  · subst hk
    rw [if_pos rfl, Tbl.get_modify]
    simp only [true_and]
  · rw [if_neg hk, if_neg fun h => hk h.1]

@[simp] theorem slotOf_modSlot_same (s : State) (c n : Nat) (f : Slot → Slot) : slotOf (modSlot s c n f) c n = f (slotOf s c n) := by
  rw [slotOf_modSlot, if_pos ⟨rfl, rfl⟩]

theorem slotOf_of_core {s t : State} {k : Nat} (h : (coreOf t k).slots = (coreOf s k).slots) (n : Nat) : slotOf t k n = slotOf s k n := by
  unfold slotOf; rw [h]

/-- A change of a core that is none of its slots. -/
theorem slotOf_modCore (s : State) (c k n : Nat) {f : Core → Core} (hf : ∀ q, (f q).slots = q.slots) : slotOf (modCore s c f) k n = slotOf s k n := by
  refine slotOf_of_core ?_ n
  rw [coreOf_modCore]
  split
  · next h => rw [hf, h]
  · rfl

@[simp] theorem slotOf_addWork (s : State) (c k n : Nat) (w : MatrixWork) : slotOf (addWork s c w) k n = slotOf s k n :=
  slotOf_modCore s c k n fun _ => rfl

@[simp] theorem slotOf_advance (s : State) (k n : Nat) : slotOf (advance s) k n = slotOf s k n := slotOf_of_core (by rw [advance_coreOf]) n

@[simp] theorem slotOf_xWrite (s : State) (o : Opnd) (v : Word) (k n : Nat) : slotOf (xWrite s o v) k n = slotOf s k n := rfl

theorem slotAt_of_slotOf {s t : State} {k n : Nat} (h : slotOf t k n = slotOf s k n) (a b : Nat) : slotAt t k n a b = slotAt s k n a b := by
  unfold slotAt; rw [h]

/-! ### The frame of work on slots -/

/-- What work of the matrix unit leaves before its instruction ends: of each core all but the slots and registers named, marks, and work in
flight; of everything else nothing changes. -/
structure SlotWork (s t : State) (slots : List (Nat × Nat)) (written : List Nat) : Prop where
  rest : { t with cores := s.cores } = s
  cores : ∀ k, { coreOf t k with v := (coreOf s k).v, vempty := (coreOf s k).vempty, vpend := (coreOf s k).vpend, hw := (coreOf s k).hw,
                                 slots := (coreOf s k).slots, mpend := (coreOf s k).mpend,
                                 matrix := (coreOf s k).matrix } = coreOf s k
  slots : ∀ k n, (k, n) ∉ slots → slotOf t k n = slotOf s k n
  files : ∀ k n, ¬(k = curCore s ∧ n ∈ written) → (coreOf t k).v.get 0 n = (coreOf s k).v.get 0 n

section
variable {s t u : State} {slots : List (Nat × Nat)} {written : List Nat}

namespace SlotWork

theorem refl (s : State) (slots : List (Nat × Nat)) (written : List Nat) : SlotWork s s slots written :=
  ⟨rfl, fun _ => rfl, fun _ _ _ => rfl, fun _ _ _ => rfl⟩

theorem harts (h : SlotWork s t slots written) : t.harts = s.harts := by have e := congrArg State.harts h.rest; exact e
theorem cur (h : SlotWork s t slots written) : t.cur = s.cur := by have e := congrArg State.cur h.rest; exact e
theorem hartOf (h : SlotWork s t slots written) (id : Nat) : hartOf t id = hartOf s id := by unfold Machine.hartOf; rw [h.harts]
theorem leadHart (h : SlotWork s t slots written) : leadHart t = leadHart s := by
  rw [← h.rest]; rfl
theorem curCore (h : SlotWork s t slots written) : curCore t = curCore s := by unfold Machine.curCore; rw [h.leadHart]
theorem ctl (h : SlotWork s t slots written) : ctl t = ctl s := by rw [← h.rest]; rfl

theorem trans (h : SlotWork s t slots written) (h' : SlotWork t u slots written) : SlotWork s u slots written where
  rest := (congrArg (fun x : State => { x with cores := s.cores }) h'.rest).trans h.rest
  cores k := (congrArg (fun x : Core => { x with
    v := (coreOf s k).v, vempty := (coreOf s k).vempty, vpend := (coreOf s k).vpend, hw := (coreOf s k).hw, slots := (coreOf s k).slots,
    mpend := (coreOf s k).mpend, matrix := (coreOf s k).matrix }) (h'.cores k)).trans (h.cores k)
  slots k n hn := (h'.slots k n hn).trans (h.slots k n hn)
  files k n hn := (h'.files k n (by rw [h.curCore]; exact hn)).trans (h.files k n hn)

/-- A change of one core that names what it changes. -/
theorem modCore (s : State) (c : Nat) (f : Core → Core)
    (hrest : ∀ k : Core, { f k with v := k.v, vempty := k.vempty, vpend := k.vpend, hw := k.hw, slots := k.slots, mpend := k.mpend,
                                    matrix := k.matrix } = k)
    (hslots : ∀ k : Core, ∀ n, (c, n) ∉ slots → (f k).slots.get {} n = k.slots.get {} n)
    (hfiles : ∀ k : Core, ∀ n, ¬(c = Machine.curCore s ∧ n ∈ written) → (f k).v.get 0 n = k.v.get 0 n) :
    SlotWork s (modCore s c f) slots written where
  rest := rfl
  cores k := by
    rw [coreOf_modCore]
    split
    · next h => rw [h]; exact hrest _
    · rfl
  slots k n hn := by
    unfold slotOf
    rw [coreOf_modCore]
    split
    · next h => subst h; exact hslots _ n hn
    · rfl
  files k n hn := by
    rw [coreOf_modCore]
    split
    · next h => subst h; exact hfiles _ n hn
    · rfl

theorem modSlot (s : State) {c n : Nat} (f : Slot → Slot) (h : (c, n) ∈ slots) : SlotWork s (modSlot s c n f) slots written :=
  modCore s c _ (fun _ => rfl)
    (fun _ _ hm => Tbl.get_modify_other _ _ _ fun e => hm (e ▸ h)) fun _ _ _ => rfl

theorem modSlot_only (s : State) (c n : Nat) (f : Slot → Slot) : SlotWork s (Machine.modSlot s c n f) [(c, n)] [] := modSlot s f List.mem_cons_self

theorem addWork (s : State) (c : Nat) (w : MatrixWork) : SlotWork s (addWork s c w) slots written :=
  modCore s c _ (fun _ => rfl) (fun _ _ _ => rfl) fun _ _ _ => rfl

theorem slotWritten (s : State) {c n : Nat} (f : Slot → Slot) (h : (c, n) ∈ slots) : SlotWork s (slotWritten s c n f) slots written :=
  (modSlot s _ h).trans (modCore _ c _ (fun _ => rfl) (fun _ _ _ => rfl) fun _ _ _ => rfl)

theorem vPut (s : State) {n : Nat} (v : VReg) (bytes : Nat) (h : n ∈ written) : SlotWork s (vPut s n v bytes) slots written :=
  modCore s _ _ (fun _ => rfl) (fun _ _ _ => rfl) fun _ _ hm => Tbl.get_set_other _ _ _ fun e => hm ⟨rfl, e ▸ h⟩

/-- Each step of a fold keeps the frame, so the fold does. -/
theorem foldl {α : Type} {f : State → α → State} (l : List α) (hf : ∀ t, ∀ a ∈ l, SlotWork t (f t a) slots written) (s : State) :
    SlotWork s (l.foldl f s) slots written :=
  List.foldlRecOn (motive := fun t => SlotWork s t slots written) l f (refl s slots written) fun t ht a ha => ht.trans (hf t a ha)

theorem frame (h : SlotWork s t slots written) : SlotFrame s t slots written none where
  rest := by have e := congrArg (fun y : State => { y with harts := s.harts }) h.rest; exact e
  harts id := by rw [h.hartOf]
  registers id n _ := by rw [h.hartOf]
  cores := h.cores
  slots := h.slots
  files := h.files

end SlotWork

/-! ### The end of an instruction of the matrix unit -/

theorem SlotFrame.advance {x : Option Nat} {id : Nat} (h : SlotFrame s t slots written x) (hcur : t.cur = .hart id) :
    SlotFrame s (advance t) slots written x where
  rest := by
    have e := congrArg (fun y : State => { y with harts := s.harts, cores := s.cores }) (UnitsApart.advance hcur)
    exact e.trans h.rest
  harts j := by
    have e := congrArg (fun y : Hart => { y with x := (hartOf s j).x, pc := (hartOf s j).pc, loops := (hartOf s j).loops,
                                                 boundary := (hartOf s j).boundary }) ((advance_frame t).harts j)
    exact e.trans (h.harts j)
  registers j n hn := (advance_get t j n).trans (h.registers j n hn)
  cores k := by rw [advance_coreOf]; exact h.cores k
  slots k n hn := (slotOf_advance t k n).trans (h.slots k n hn)
  files k n hn := by rw [advance_coreOf]; exact h.files k n hn

/-- Work on slots, and the end of its instruction. -/
theorem SlotWork.ends {k : HartKind} {id : Nat} (hk : curKind s = some k) (hcur : s.cur = .hart id) (h : SlotWork s t slots written) :
    Machine.ctl (advance t) = nextPlace s ∧ SlotFrame s (advance t) slots written none :=
  ⟨ctl_advance_of hk h.cur h.ctl, h.frame.advance (h.cur.trans hcur)⟩

theorem SlotWork.curCore_ends {id : Nat} (hcur : s.cur = .hart id) (h : SlotWork s t slots written) :
    Machine.curCore (Machine.advance t) = Machine.curCore s := by
  rw [curCore_of_hart (id := id) ((advance_cur t).trans (h.cur.trans hcur)), curCore_of_hart hcur]

/-- Work on slots that also leaves a value in a scalar register, and the end of its instruction. -/
theorem SlotWork.ends_write {k : HartKind} {id : Nat} (hk : curKind s = some k) (hcur : s.cur = .hart id) (h : SlotWork s t slots written)
    (o : Opnd) (v : Word) :
    Machine.ctl (advance (xWrite t o v)) = nextPlace s ∧ SlotFrame s (advance (xWrite t o v)) slots written (some o.num.toNat) ∧
      (Machine.hartOf (advance (xWrite t o v)) (Machine.leadHart s)).get o.num.toNat = if o.num.toNat = 0 then 0 else v := by
  have hput : ∀ x : Hart, { x.dest o v with x := x.x } = x := fun x => Hart.put_frame x _ v
  have hpc : ∀ x : Hart, (x.dest o v).pc = x.pc ∧ (x.dest o v).loops = x.loops := fun x => by
    unfold Hart.dest Hart.put; split <;> exact ⟨rfl, rfl⟩
  have hread : ∀ j, Machine.hartOf (xWrite t o v) j =
      if j = Machine.leadHart s then (Machine.hartOf s (Machine.leadHart s)).dest o v else Machine.hartOf s j := fun j => by
    unfold xWrite
    rw [hartOf_modHart, h.leadHart, h.hartOf, h.hartOf]
  have hcurt : (xWrite t o v).cur = s.cur := h.cur
  have hframe : SlotFrame s (xWrite t o v) slots written (some o.num.toNat) := by
    refine ⟨?_, fun j => ?_, fun j n hn => ?_, h.cores, h.slots, h.files⟩
    · have e := congrArg (fun y : State => { y with harts := s.harts }) h.rest
      exact e
    · rw [hread]
      split
      · next e =>
        subst e
        have e := congrArg (fun y : Hart => { y with pc := (Machine.hartOf s (Machine.leadHart s)).pc,
                                                     loops := (Machine.hartOf s (Machine.leadHart s)).loops,
                                                     boundary := (Machine.hartOf s (Machine.leadHart s)).boundary })
          (hput (Machine.hartOf s (Machine.leadHart s)))
        exact e
      · rfl
    · rw [hread]
      split
      · next e => rw [Hart.get_dest, if_neg fun hc => hn ⟨e, by rw [hc.1]⟩, e]
      · rfl
  refine ⟨?_, hframe.advance (hcurt.trans hcur), ?_⟩
  · refine ctl_advance_of hk hcurt (ctl_congr_hart hcur hcurt ?_ ?_) <;>
    · rw [hread]
      split
      · next e => rw [e]; simp only [hpc]
      · rfl
  · rw [advance_get, hread, if_pos rfl, Hart.get_dest]
    by_cases h0 : o.num.toNat = 0
    · rw [h0]; rfl
    · simp [h0]

end

/-! ### Slots that are ready (R289, R290) -/

theorem slotReady_iff {s : State} {c n : Nat} {writer : Bool} : slotReady s c n writer = true ↔
    slotFree s c n (hartOf s (leadHart s)).context writer = true ∧ ownsSlot s c n (hartOf s (leadHart s)).context = true := by
  unfold slotReady; exact Bool.and_eq_true_iff

/-- The context's own slot needs no service. -/
theorem ownSlot_of_owns {s : State} {c n id : Nat} (h : ownsSlot s c n (hartOf s id).context = true) : ownSlot s c n id = .ok s := by
  unfold ownSlot serveMiss
  dsimp only
  rw [if_pos h]

/-- An instruction on a slot that is ready comes to its own part at once. -/
theorem onSlot_of_ready {s : State} {n : Nat} {writer : Bool} (h : slotReady s (curCore s) n writer = true) (run : State → M State) :
    onSlot s n writer run = run s := by
  obtain ⟨hfree, howns⟩ := slotReady_iff.1 h
  unfold onSlot
  dsimp only
  rw [hfree, ownSlot_of_owns howns]
  rfl

/-- There is room for another instruction in flight (R441). -/
theorem matrixRoom_of_lt {s : State} (h : inFlight (vCore s) < 8) : matrixRoom s = .ok () := if_neg (Nat.not_le.2 h)

theorem major_of_encX {i : Instr} {M : BitVec 8} {S : BitVec 6} {f : FmtX} (h : encodeWord i = some (encX M S f)) : major i = M.toNat := by
  have e := congrArg BitVec.toNat (Laws.major_encX M S f)
  rw [major, instrWord, h, Option.getD_some, ← e, BitVec.extractLsb'_toNat, Nat.shiftRight_zero]

/-- Major 0x80 makes its checks late (R458). -/
theorem lateMajor_of_encX {i : Instr} {S : BitVec 6} {f : FmtX} (h : encodeWord i = some (encX 0x80 S f)) : lateMajor i = true := by
  rw [lateMajor, queued, major_of_encX h]; rfl

end Sys2Proof.Machine
end

section
/-! ## Slots cleared, pinned and read (09_vector_matrix.md R299 to R303) -/
namespace Sys2Proof.Machine

variable {f : FmtX} {s : State}

theorem mzero_ready (h : slotReady s (curCore s) f.slot.toNat true = true) : mzero f s =
    .ok (advance (slotWritten s (curCore s) f.slot.toNat fun t => { t with words := 0, sticky := 0, prog := 0, grp := 0, d := true })) := by
  unfold mzero; rw [onSlot_of_ready h]; rfl

theorem slotOf_slotWritten (s : State) (c n : Nat) (g : Slot → Slot) : slotOf (slotWritten s c n g) c n = { g (slotOf s c n) with full := false } := by
  unfold slotWritten
  refine (slotOf_modCore _ c c n ?_).trans (slotOf_modSlot_same ..)
  exact fun _ => rfl

/-- The device's reads of a chain of records move no issuer and touch no slot. -/
theorem liveScopeReads_walked (s : State) (id : Nat) (va : Word) : Walked s (liveScopeReads s id va) := by
  unfold liveScopeReads
  split
  · exact (Walked.keeps s).chainTouch (.refl s)
  · exact .refl s

theorem Walked.slotOf {s t : State} (h : Walked s t) (k n : Nat) : slotOf t k n = slotOf s k n :=
  slotOf_of_core (by have e := congrArg Core.slots (h.cores k).rest; exact e) n

theorem mpin_pins {x : Nat × Nat} (hx : liveScope s (leadHart s) (xRead s f.db) = some x) (h : slotReady s (curCore s) f.slot.toNat false = true)
    (hp : (slotOf s (curCore s) f.slot.toNat).p = false)
    (hkey : findKey s (curCore s) (hartOf s (leadHart s)).context (hartOf s (leadHart s)).spillbase (xRead s f.dk) (some f.slot.toNat) = .ok none) :
    mpin f s = .ok (advance (modSlot (liveScopeReads s (leadHart s) (xRead s f.db)) (curCore s) f.slot.toNat fun t =>
      { t with p := true, key := xRead s f.dk, scopeId := BitVec.ofNat 32 (recId x.2) })) := by
  unfold mpin
  dsimp only
  rw [hx]
  dsimp only
  rw [onSlot_of_ready h, hp, hkey]
  rfl

theorem munpin_unpins (h : slotReady s (curCore s) f.slot.toNat false = true) (hp : (slotOf s (curCore s) f.slot.toNat).p = true) :
    munpin f s = .ok (advance (modSlot s (curCore s) f.slot.toNat fun t => { t with p := false, key := 0, scopeId := 0 })) := by
  unfold munpin
  dsimp only
  rw [onSlot_of_ready h, if_pos hp]
  rfl

theorem munpin_unpinned (h : slotReady s (curCore s) f.slot.toNat false = true) (hp : (slotOf s (curCore s) f.slot.toNat).p = false) :
    munpin f s = .error (.after s Cause.slotpin (BitVec.ofNat 64 f.slot.toNat)) := by
  unfold munpin
  dsimp only
  rw [onSlot_of_ready h, if_neg (by rw [hp]; decide)]

theorem mxfl_reads (h : slotReady s (curCore s) f.slot.toNat false = true) : mxfl f s =
    .ok (advance (xWrite (if f.dk.bits.getLsbD 0 then modSlot s (curCore s) f.slot.toNat fun t => { t with sticky := 0 } else s) f.da
      (BitVec.ofNat 64 (slotOf s (curCore s) f.slot.toNat).sticky.toNat))) := by
  unfold mxfl
  dsimp only
  rw [onSlot_of_ready h, BitVec.ofNat_toNat]
  cases f.dk.bits.getLsbD 0 <;> rfl

/-- What MFIND answers: the slot found, or all ones. -/
def foundWord : Option Nat → Word
  | some n => BitVec.ofNat 64 n
  | none => BitVec.ofInt 64 (-1)

theorem mfind_finds {r : Option Nat}
    (h : findKey s (curCore s) (hartOf s (leadHart s)).context (hartOf s (leadHart s)).spillbase (xRead s f.dk) none = .ok r) :
    mfind f s = .ok (advance (xWrite s f.da (foundWord r))) := by
  unfold mfind
  dsimp only
  rw [h]
  cases r <;> rfl

end Sys2Proof.Machine
end

section
/-! ## MATRIX_COMPLETE and the ownership service (09_vector_matrix.md R289, R290, R309) -/
namespace Sys2Proof.Machine

variable {s : State} {c n : Nat}

/-- Where no work writes a slot, none of a kind does. -/
theorem workAt_none (h : workAt s c n (fun _ => true) = none) (sel : MatrixWork → Bool) : workAt s c n sel = none := by
  unfold workAt at h ⊢
  rw [List.findSome?_eq_none_iff] at h ⊢
  intro k hk
  have hall := h k hk
  rw [Option.map_eq_none_iff, List.findIdx?_eq_none_iff] at hall ⊢
  intro w hw
  have hw := hall w hw
  rw [Bool.true_and] at hw
  rw [Bool.and_assoc, hw, Bool.and_false]

theorem exec_matrixComplete (hc : c < 128) (hn : n < 8) : exec (.matrixComplete c n) s = .next (matrixComplete s c n) := by
  have he : execMatrixComplete c n s = event (decide (c < 128)) (if n < 8 then matrixComplete s c n else s) := rfl
  rw [if_pos hn, event_of_exists (decide_eq_true hc)] at he
  exact he

theorem contains_eq_false {l : List Nat} (h : n ∉ l) : l.contains n = false := by simpa using h

theorem matrixComplete_of_work {x : Nat × Nat} (hm : n ∉ (coreOf s c).mpend) (hw : workAt s c n (fun w => !w.again) = some x) :
    matrixComplete s c n = tileDone s x.1 x.2 c n := by
  unfold matrixComplete
  rw [contains_eq_false hm, if_neg (by decide), hw]

theorem slotOf_tileDone (s : State) (k j c n l m : Nat) :
    slotOf (tileDone s k j c n) l m = if l = c ∧ m = n then { slotOf s c n with full := true } else slotOf s l m := by
  unfold tileDone
  rw [slotOf_modSlot]
  split
  · refine congrArg (fun t : Slot => { t with full := true }) (slotOf_modCore s k c n ?_)
    exact fun _ => rfl
  · refine slotOf_modCore s k l m ?_
    exact fun _ => rfl

/-- Work that a stop has caught stays as it is while its step does not run on its core. -/
theorem reissue_waits {k j : Nat} {w : MatrixWork} (hw : (coreOf s k).matrix[j]? = some w)
    (h : w.entry.fpend = true ∨ whereStep s w.entry.info ≠ .core k ∨ (coreOf s k).phase ≠ .running) : reissue s k j = s := by
  unfold reissue
  rw [hw]
  dsimp only
  rw [if_pos]
  simp only [Bool.or_eq_true, decide_eq_true_eq]
  tauto

theorem matrixComplete_of_caught {x : Nat × Nat} (hm : n ∉ (coreOf s c).mpend) (hw : workAt s c n (fun w => !w.again) = none)
    (hagain : workAt s c n (fun w => w.again) = some x) : matrixComplete s c n = reissue s x.1 x.2 := by
  unfold matrixComplete
  rw [contains_eq_false hm, if_neg (by decide), hw]
  dsimp only
  rw [hagain]

theorem matrixComplete_of_none (hm : n ∉ (coreOf s c).mpend) (h : workAt s c n (fun _ => true) = none) : matrixComplete s c n = s := by
  unfold matrixComplete
  rw [contains_eq_false hm, if_neg (by decide), workAt_none h]
  dsimp only
  rw [workAt_none h]

/-- The core after the completion of a pending slot. -/
def Core.slotDone (k : Core) (n : Nat) : Core :=
  { k with mpend := k.mpend.erase n, slots := if (k.mpend.erase n).contains n then k.slots else k.slots.modify {} n fun t => { t with full := true } }

theorem matrixComplete_of_pending (hm : n ∈ (coreOf s c).mpend) : matrixComplete s c n = modCore s c fun k => k.slotDone n := by
  unfold matrixComplete
  rw [if_pos (by simpa using hm)]
  rfl

theorem slots_slotDone (k : Core) (n m : Nat) : (k.slotDone n).slots.get {} m =
    if m = n then { k.slots.get {} n with full := decide (n ∉ k.mpend.erase n) || (k.slots.get {} n).full } else k.slots.get {} m := by
  unfold Core.slotDone
  by_cases h : n ∈ k.mpend.erase n
  · simp only [List.contains_eq_mem, h, decide_true, if_true, not_true_eq_false, decide_false, Bool.false_or]
    split
    · next e => rw [e]
    · rfl
  · simp only [List.contains_eq_mem, h, decide_false, Bool.false_eq_true, if_false, not_false_eq_true, decide_true, Bool.true_or]
    exact Tbl.get_modify ..

theorem exec_ownershipMissService {ctx : BitVec 16} (hc : c < 128) (hn : n < 8) :
    exec (.ownershipMissService c n ctx) s = .next (missService s c n ctx) := by
  have he : execOwnershipMissService c n ctx s = event (decide (c < 128)) (if n < 8 then missService s c n ctx else s) := rfl
  rw [if_pos hn, event_of_exists (decide_eq_true hc)] at he
  exact he

/-- The X-hart of the context stands at an instruction on this slot, which may be named now. -/
def missesAt (s : State) (c n : Nat) (ctx : BitVec 16) : Prop :=
  (hartOf s (xHartId c)).run = .running ∧ (hartOf s (xHartId c)).context = ctx ∧ slotFree s c n ctx false = true ∧
    (standsAt s (xHartId c)).bind namedSlot = some n

theorem missService_elsewhere {ctx : BitVec 16} (h : ¬ missesAt s c n ctx) : missService s c n ctx = s := by
  unfold missService
  dsimp only
  rw [if_neg]
  simp only [Bool.and_eq_true, beq_iff_eq, decide_eq_true_eq, and_assoc]
  exact h

/-- An empty slot with no live record of the context becomes a fresh one. -/
theorem serveMiss_fresh {ctx : BitVec 16} {base : Word} (harea : deviceArea s (spillAddr base c n) 128 = true)
    (hlive : spillLive s (spillAddr base c n) = false) (hv : (slotOf s c n).v = false) (hpoison : firstPoison s (spillAddr base c n) 128 = none) :
    serveMiss s c n ctx base = .ok (modSlot s c n fun _ => freshSlot ctx) := by
  unfold serveMiss ownsSlot
  dsimp only
  simp only [hv, hlive, harea, hpoison, Bool.false_and, Bool.false_eq_true, if_false, Bool.not_true, Bool.or_false]

theorem missService_fresh {ctx : BitVec 16} (h : missesAt s c n ctx)
    (hserve : serveMiss s c n ctx (hartOf s (xHartId c)).spillbase = .ok (modSlot s c n fun _ => freshSlot ctx)) :
    missService s c n ctx = modSlot s c n fun _ => freshSlot ctx := by
  unfold missService
  dsimp only
  rw [if_pos, hserve]
  simp only [Bool.and_eq_true, beq_iff_eq, decide_eq_true_eq, and_assoc]
  exact h

end Sys2Proof.Machine
end

section
/-! ## The words of a slot (09_vector_matrix.md R288) -/
namespace Sys2Proof.Machine

/-- Word (a, b) of a slot's data. -/
def Slot.word (t : Slot) (a b : Nat) : Nat := elemNat 32 (128 * a + b) t.words.toNat

theorem slotAt_eq (s : State) (c n a b : Nat) : slotAt s c n a b = (slotOf s c n).word a b := rfl

/-- A part of a row of a slot, as the list of its words. -/
theorem slotWords_row (t : Slot) {i a n : Nat} (hi : i < 128) (h : a + n ≤ 128) :
    ((slotWords t).drop (128 * i + a)).take n = (List.range n).map fun j => t.word i (a + j) := by
  rw [slotWords, unpackElems, drop_take_map_range _ (by omega)]
  refine List.map_congr_left fun j _ => ?_
  rw [Slot.word, Nat.add_assoc]

theorem slotWords_row_first (t : Slot) {i n : Nat} (hi : i < 128) (h : n ≤ 128) :
    ((slotWords t).drop (128 * i)).take n = (List.range n).map fun j => t.word i j := by
  have hrow := slotWords_row t hi (a := 0) (n := n) (by omega)
  simpa only [Nat.add_zero, Nat.zero_add] using hrow

/-- Rows of 128 words, as they are stored and read back. -/
theorem Slot.word_of_rows {t : Slot} {F : Nat → Nat → Nat} {a b : Nat}
    (h : t.words = ofSlotWords ((List.range 128).map fun i => (List.range 128).map (F i)).flatten) (ha : a < 128) (hb : b < 128) :
    t.word a b = F a b % 2 ^ 32 := by
  rw [flatten_map_range F (by decide)] at h
  have hlen : 32 * ((List.range (128 * 128)).map fun e => F (e / 128) (e % 128)).length = 524288 := by rw [List.length_map, List.length_range]
  rw [Slot.word, h, ofSlotWords, BitVec.toNat_ofNat, ← hlen, Nat.mod_eq_of_lt (packElems_lt ..), elemNat_packElems, getD_map_range _ (by omega),
    Nat.mul_add_div (by decide), Nat.div_eq_of_lt hb, Nat.mul_add_mod, Nat.mod_eq_of_lt hb, Nat.add_zero]

end Sys2Proof.Machine
end

section
/-! ## Matrix products (09_vector_matrix.md R163, R164, R291 to R298) -/
namespace Sys2Proof.Machine

/-! ### A descriptor that passes its checks -/

/-- The extents that R292 and R298 allow. -/
theorem Prod.extents {p : Prod} (h : p.fieldsOk = true) :
    (p.coop = true → 1 ≤ p.nt ∧ p.mt * p.nt ≤ 15) ∧ (p.coop = false → p.n ≤ 128 ∧ p.m ≤ 128) := by
  unfold Prod.fieldsOk at h
  simp only [Bool.and_eq_true] at h
  obtain ⟨⟨⟨⟨⟨⟨⟨-, hshape⟩, -⟩, -⟩, -⟩, -⟩, -⟩, -⟩ := h
  constructor <;> intro hcoop <;> rw [hcoop] at hshape
  · simp only [if_true, Bool.and_eq_true, decide_eq_true_eq] at hshape
    omega
  · simp only [Bool.false_eq_true, if_false, Bool.and_eq_true, decide_eq_true_eq] at hshape
    omega

/-- A staged operand has no side data: it is neither grouped nor packed (R294, R296). -/
theorem Prod.staged_dense {p : Prod} (h : p.fieldsOk = true) (hs : p.staged = true) : p.sparse = 0 := by
  unfold Prod.fieldsOk at h
  simp only [Bool.and_eq_true] at h
  obtain ⟨⟨⟨-, hside⟩, -⟩, -⟩ := h
  by_contra hne
  simp [Prod.side, hne, hs] at hside

theorem Prod.rows_le {p : Prod} (h : p.fieldsOk = true) (ti : Nat) : p.rows ti ≤ 128 := by
  unfold Prod.rows
  split
  · exact Nat.min_le_left _ _
  · next hc => exact (p.extents h).2 (Bool.eq_false_iff.2 hc) |>.2

theorem Prod.cols_le {p : Prod} (h : p.fieldsOk = true) (tj : Nat) : p.cols tj ≤ 128 := by
  unfold Prod.cols
  split
  · exact Nat.min_le_left _ _
  · next hc => exact (p.extents h).2 (Bool.eq_false_iff.2 hc) |>.1

/-- Distinct tiles of a product lie on distinct cores (R298). -/
theorem Prod.targets_nodup {p : Prod} (h : p.fieldsOk = true) (c : Nat) : ((p.targets c).map (·.1)).Nodup := by
  unfold Prod.targets
  split
  · next hc =>
    obtain ⟨hnt, hmn⟩ := (p.extents h).1 hc
    rw [flatten_map_range _ hnt]
    refine List.Nodup.sublist (List.filter_sublist.map _) ?_
    rw [List.map_map]
    refine List.Nodup.map_on (fun x hx y hy hxy => ?_) List.nodup_range
    rw [List.mem_range, Nat.mul_comm] at hx hy
    have ex := Nat.div_add_mod' x p.nt
    have ey := Nat.div_add_mod' y p.nt
    simp only [Function.comp_apply] at hxy
    omega
  · simp

theorem Prod.fieldsOk_of_check {p : Prod} {s : State} {c : Nat} {word : Word} (h : p.check s c word = .ok ()) : p.fieldsOk = true := by
  by_contra hne
  rw [Bool.not_eq_true] at hne
  unfold Prod.check at h
  rw [hne] at h
  cases h

/-- A failed check is no UE. -/
theorem Prod.check_cause {p : Prod} {s : State} {c : Nat} {word : Word} {e : BitVec 8 × Word} (h : p.check s c word = .error e) :
    e.1 ≠ Cause.ue := by
  unfold Prod.check at h
  split at h
  · cases h; exact (by decide : Cause.reservedField ≠ Cause.ue)
  split at h
  · cases h; exact (by decide : Cause.prot ≠ Cause.ue)
  split at h
  · cases h; exact (by decide : Cause.token ≠ Cause.ue)
  split at h
  · cases h; exact (by decide : Cause.reservedField ≠ Cause.ue)
  · cases h

/-- A product whose tile is still on its way has passed every check there is so far. -/
theorem Prod.check_of_loading {p : Prod} {s : State} {c : Nat} (word : Word)
    (h : (p.fieldsOk && p.badRange.isNone && p.staged && ((coreOf s c).tiles.get {} p.bOff).st == .loading) = true) : p.check s c word = .ok () := by
  simp only [Bool.and_eq_true, Option.isNone_iff_eq_none, beq_iff_eq] at h
  obtain ⟨⟨⟨hf, hr⟩, hs⟩, ht⟩ := h
  unfold Prod.check
  rw [hf, hr, hs, ht, p.staged_dense hf hs]
  rfl

/-! ### One tile -/

/-- Element (i, j) of a tile of a product over the slot `t`: a result, or outside the tile's rows and columns the old word. -/
def productCell (s : State) (src : Nat) (p : Prod) (tile : Option Tile) (ti tj : Nat) (t : Slot) (k : Core) (i j : Nat) : Elem :=
  if i < p.rows ti ∧ j < p.cols tj then
    productElem p (fun g => scaleEntry k p g j) (if p.accz then 0 else t.word i j) (aRow s src p (128 * ti + i))
      (bColumn k tile p ((if p.staged then 128 * tj else 0) + j))
  else ⟨t.word i j, 0⟩

/-- A tile's slot from the rows of its elements, its last word still to be written. -/
def tileSlot (p : Prod) (ti tj : Nat) (t : Slot) (out : List (List Elem)) : Slot :=
  { t with words := ofSlotWords (out.flatten.map (·.val)), sticky := t.sticky ||| out.flatten.foldl (fun fl e => fl ||| e.fl) 0, d := true,
           grp := if p.coop then BitVec.ofNat 6 (32 + 8 * ti + tj) else 0, full := false }

variable {s : State} {src : Nat} {p : Prod} {tile : Option Tile} {ti tj : Nat} {t : Slot} {k : Core}

/-- A row of the tile: the results of its columns, then the words past them. -/
theorem productRow (hc : p.cols tj ≤ 128) {i : Nat} (hi : i < 128) (hr : i < p.rows ti) :
    ((List.range (p.cols tj)).map fun j => (j, (bColumn k tile p ((if p.staged then 128 * tj else 0) + j)).filter fun b => decide (0 ≤ b.1))).zipWith
        (fun c w => productElem p (fun g => scaleEntry k p g c.1) (if (p.accz && (0 == 0)) = true then 0 else w) (aRow s src p (128 * ti + i)) c.2)
        (((slotWords t).drop (128 * i)).take 128) ++
      (((slotWords t).drop (128 * i + p.cols tj)).take (128 - p.cols tj)).map (fun w => (⟨w, 0⟩ : Elem)) =
    (List.range 128).map (productCell s src p tile ti tj t k i) := by
  rw [slotWords_row t hi (a := p.cols tj) (by omega), List.map_map, slotWords_row_first t hi le_rfl]
  refine (zipWith_append_rest _ _ _ (fun j => (⟨t.word i j, 0⟩ : Elem)) hc).trans (List.map_congr_left fun j _ => ?_)
  unfold productCell
  by_cases hj : j < p.cols tj
  · simp [hj, hr]
  · simp [hj]

theorem productPart_eq (hc : p.cols tj ≤ 128) :
    { productPart s src p tile ti tj (p.accz && 0 == 0) (fun r => decide (0 ≤ r)) t k with full := false } =
      tileSlot p ti tj t ((List.range 128).map fun i => (List.range 128).map (productCell s src p tile ti tj t k i)) := by
  unfold productPart
  refine congrArg (tileSlot p ti tj t) (List.map_congr_left fun i hi => ?_)
  have hi : i < 128 := List.mem_range.1 hi
  by_cases h : i < p.rows ti
  · rw [List.getElem?_map, List.getElem?_range h]
    exact productRow hc hi h
  · rw [List.getElem?_eq_none (by simpa using h)]
    dsimp only
    rw [slotWords_row_first t hi le_rfl, List.map_map]
    refine List.map_congr_left fun j _ => ?_
    rw [productCell, if_neg fun hij => h hij.1, Function.comp_apply]

theorem word_tileSlot (F : Nat → Nat → Elem) {a b : Nat} (ha : a < 128) (hb : b < 128) :
    (tileSlot p ti tj t ((List.range 128).map fun i => (List.range 128).map (F i))).word a b = (F a b).val % 2 ^ 32 := by
  refine Slot.word_of_rows (F := fun a b => (F a b).val) ?_ ha hb
  simp only [tileSlot, List.map_flatten, List.map_map, Function.comp_def]

/-- The flags of a list of results. -/
theorem foldl_flags_getLsbD (es : List Elem) (k : Nat) : (es.foldl (fun fl (e : Elem) => fl ||| e.fl) 0).getLsbD k = es.any fun e => e.fl.getLsbD k := by
  have h := flagsOf_getLsbD (es.map some) k
  rw [flagsOf, List.foldl_map, List.any_map] at h
  exact h

theorem sticky_tileSlot (hr : p.rows ti ≤ 128) (hc : p.cols tj ≤ 128) (b : Nat) :
    (tileSlot p ti tj t ((List.range 128).map fun i => (List.range 128).map (productCell s src p tile ti tj t k i))).sticky.getLsbD b =
      (t.sticky.getLsbD b || (List.range (p.rows ti)).any fun i => (List.range (p.cols tj)).any fun j =>
        (productCell s src p tile ti tj t k i j).fl.getLsbD b) := by
  have hzero : ∀ i j, ¬(i < p.rows ti ∧ j < p.cols tj) → (productCell s src p tile ti tj t k i j).fl.getLsbD b = false := fun i j h => by
    rw [productCell, if_neg h]; simp
  rw [tileSlot, BitVec.getLsbD_or, foldl_flags_getLsbD]
  congr 1
  rw [Bool.eq_iff_iff]
  simp only [List.any_flatten, List.any_map, List.any_eq_true, List.mem_range, Function.comp_apply]
  constructor
  · rintro ⟨i, -, j, -, hfl⟩
    have hij : i < p.rows ti ∧ j < p.cols tj := by
      by_contra hne
      rw [hzero i j hne] at hfl
      cases hfl
    exact ⟨i, hij.1, j, hij.2, hfl⟩
  · rintro ⟨i, hi, j, hj, hfl⟩
    exact ⟨i, by omega, j, by omega, hfl⟩

/-! ### All tiles -/

/-- A slot of another core is not among those that a fold over cores changes. -/
theorem slotOf_foldl_other {n c : Nat} (g : Nat × Nat × Nat → Slot → Slot) : ∀ (l : List (Nat × Nat × Nat)) (s : State), c ∉ l.map (·.1) →
    slotOf (l.foldl (fun t x => modSlot t x.1 n (g x)) s) c n = slotOf s c n
  | [], _, _ => rfl
  | y :: l, s, h => by
    rw [List.map_cons, List.mem_cons, not_or] at h
    rw [List.foldl_cons, slotOf_foldl_other g l _ h.2, slotOf_modSlot, if_neg fun e => h.1 e.1]

/-- Each slot of a fold over distinct cores is changed once. -/
theorem slotOf_foldl_modSlot {n : Nat} (g : Nat × Nat × Nat → Slot → Slot) {x : Nat × Nat × Nat} {l : List (Nat × Nat × Nat)} (s : State)
    (hd : (l.map (·.1)).Nodup) (hx : x ∈ l) : slotOf (l.foldl (fun t x => modSlot t x.1 n (g x)) s) x.1 n = g x (slotOf s x.1 n) := by
  induction l generalizing s with
  | nil => cases hx
  | cons y l ih =>
    rw [List.map_cons, List.nodup_cons] at hd
    rw [List.foldl_cons]
    rcases List.mem_cons.1 hx with rfl | hx
    · rw [slotOf_foldl_other g l _ hd.1, slotOf_modSlot_same]
    · have hne : x.1 ≠ y.1 := fun e => hd.1 (e ▸ List.mem_map_of_mem hx)
      rw [ih _ hd.2 hx, slotOf_modSlot, if_neg fun e => hne e.1]

theorem runProduct_work (s : State) (c : Nat) (p : Prod) (e : EngineRec) :
    SlotWork s (runProduct s c p 0 e false) ((p.targets c).map fun x => (x.1, p.slot)) [] := by
  refine (SlotWork.foldl (p.targets c) (fun t x hx => ?_) s).trans (.addWork ..)
  exact .modSlot t _ (List.mem_map.2 ⟨x, hx, rfl⟩)

/-- What a product leaves of a tile's slot. -/
theorem slotOf_runProduct {c : Nat} (hf : p.fieldsOk = true) (e : EngineRec) {x : Nat × Nat × Nat} (hx : x ∈ p.targets c) :
    slotOf (runProduct s c p 0 e false) x.1 p.slot =
      tileSlot p x.2.1 x.2.2 (slotOf s x.1 p.slot) ((List.range 128).map fun i => (List.range 128).map
        (productCell s c p (p.tile s c) x.2.1 x.2.2 (slotOf s x.1 p.slot) (coreOf s x.1) i)) := by
  unfold runProduct
  rw [slotOf_addWork]
  refine (slotOf_foldl_modSlot (fun x sl => { productPart s c p (p.tile s c) x.2.1 x.2.2 (p.accz && 0 == 0) (fun k => decide (0 ≤ k)) sl
    (coreOf s x.1) with full := false }) s (Prod.targets_nodup hf c) hx).trans ?_
  exact productPart_eq (Prod.cols_le hf _)

/-- Inside the tile, an element is the statement's word. -/
theorem productCell_inside {c a b : Nat} {x : Nat × Nat × Nat} (ha : a < p.rows x.2.1) (hb : b < p.cols x.2.2) :
    productCell s c p (p.tile s c) x.2.1 x.2.2 (slotOf s x.1 p.slot) (coreOf s x.1) a b =
      productWord s p c x.1 x.2.1 x.2.2 a b (slotAt s x.1 p.slot a b) := by
  have hcol : (if p.staged then 128 * x.2.2 else 0) + b = if p.staged then 128 * x.2.2 + b else b := by
    split
    · rfl
    · exact Nat.zero_add b
  rw [productCell, if_pos ⟨ha, hb⟩, productWord, slotAt_eq, hcol]

/-! ### The instructions -/

/-- MMA and MMAS are one function of their descriptors. -/
theorem exec_of_productOf {i : Instr} {f : FmtX} (h : productOf i s = some (f, p)) : ∃ sparse, exec i s = perform i s (product i f sparse) ∧
    (sparse && (f.spn == 0)) = false ∧ isHeader i = false ∧ hartExecutes .bank i = false ∧ lateMajor i = true ∧
    p = Prod.make f sparse (vCore s).vtype (xRead s f.da) (xRead s f.db) ((hartOf s (leadHart s)).get (f.db.num.toNat + 1)) (xRead s f.dk) := by
  unfold productOf at h
  split at h
  · cases h
    exact ⟨false, rfl, rfl, rfl, rfl, lateMajor_of_encX (S := _) rfl, rfl⟩
  · split at h
    · cases h
    · next hs =>
      cases h
      exact ⟨true, rfl, by simpa using hs, rfl, rfl, lateMajor_of_encX (S := _) rfl, rfl⟩
  · cases h

variable {i : Instr} {f : FmtX} {sparse : Bool}

theorem product_unnamed (h : (sparse && (f.spn == 0)) = true) : product i f sparse s = .error (.trap Cause.reservedField (instrWord i)) := by
  unfold product needI
  rw [h, Bool.not_true, need_of_false rfl]
  rfl

/-- What the engine keeps of a product that it works on. -/
def productRec (i : Instr) (f : FmtX) (s : State) : EngineRec :=
  { engineRec s (instrWord i) [0, 0, 0] 0 3 with
    fops := [xRead s f.da, xRead s f.db, xRead s f.dk, (hartOf s (leadHart s)).get (f.db.num.toNat + 1)] }

section
variable (hs : (sparse && (f.spn == 0)) = false)
    (hp : p = Prod.make f sparse (vCore s).vtype (xRead s f.da) (xRead s f.db) ((hartOf s (leadHart s)).get (f.db.num.toNat + 1)) (xRead s f.dk))
include hs hp

theorem product_refused {e : BitVec 8 × Word} (hcheck : p.check s (curCore s) (instrWord i) = .error e) :
    product i f sparse s = .error (.trap e.1 e.2) := by
  have hstaged : ¬(p.fieldsOk && p.badRange.isNone && p.staged && ((vCore s).tiles.get {} p.bOff).st == .loading) = true := fun h => by
    rw [Prod.check_of_loading _ h] at hcheck
    cases hcheck
  unfold product needI
  rw [hs, Bool.not_false, need_of_true rfl]
  dsimp only
  rw [← hp]
  refine (if_neg hstaged).trans ?_
  rw [hcheck]
  rfl

/-- The state that an admitted product leaves. -/
theorem product_performs (hcheck : p.check s (curCore s) (instrWord i) = .ok ())
    (hload : p.staged = true → ((vCore s).tiles.get {} p.bOff).st ≠ .loading) (hroom : inFlight (vCore s) < 8)
    (hready : ∀ x ∈ p.targets (curCore s), slotReady s x.1 p.slot true = true) :
    product i f sparse s = .ok (advance (runProduct s (curCore s) p 0 (productRec i f s) false)) := by
  have hstaged : ¬(p.fieldsOk && p.badRange.isNone && p.staged && ((vCore s).tiles.get {} p.bOff).st == .loading) = true := by
    simp only [Bool.and_eq_true, beq_iff_eq]
    exact fun h => hload h.1.2 h.2
  have hfree : ¬((p.targets (curCore s)).any fun x => !slotFree s x.1 p.slot (hartOf s (leadHart s)).context true) = true := by
    simp only [List.any_eq_true, not_exists, not_and, Bool.not_eq_true']
    intro x hx
    rw [(slotReady_iff.1 (hready x hx)).1]
    decide
  have howns : ∀ l : List (Nat × Nat × Nat), (∀ x ∈ l, x ∈ p.targets (curCore s)) →
      l.foldlM (fun t x => ownSlot t x.1 p.slot (leadHart s)) s = .ok s := by
    intro l
    induction l with
    | nil => exact fun _ => rfl
    | cons x l ih =>
      intro hl
      rw [List.foldlM_cons, ownSlot_of_owns (slotReady_iff.1 (hready x (hl x List.mem_cons_self))).2]
      exact ih fun y hy => hl y (List.mem_cons_of_mem _ hy)
  unfold product needI
  rw [hs, Bool.not_false, need_of_true rfl]
  dsimp only
  rw [← hp]
  refine (if_neg hstaged).trans ?_
  rw [hcheck, matrixRoom_of_lt hroom]
  refine (if_neg hfree).trans ?_
  rw [howns _ fun _ h => h]
  rfl

end

end Sys2Proof.Machine
end

section
/-! ## The fast-weight update and its read-out (09_vector_matrix.md R304 to R306) -/
namespace Sys2Proof.Machine

/-! ### Groups of registers -/

/-- Element `e` of a group of registers from `base` on. -/
def groupElem (v : Nat → VReg) (base e : Nat) : Nat := vElem 32 (e % 256) (v (base + e / 256))

theorem groupIn_fastGroup (v : Nat → VReg) (base n : Nat) :
    groupIn v (fastGroup base n) = (List.range (256 * ((n + 255) / 256))).map (groupElem v base) := by
  unfold groupIn fastGroup
  rw [List.map_map]
  exact flatten_map_range (fun j e => vElem 32 e (v (base + j))) (by decide) _

/-- A slice of a group that holds at least `n` elements. -/
theorem groupIn_slice (v : Nat → VReg) (base : Nat) {n a m : Nat} (h : a + m ≤ n) :
    ((groupIn v (fastGroup base n)).drop a).take m = (List.range m).map fun e => groupElem v base (a + e) := by
  rw [groupIn_fastGroup, drop_take_map_range _ (by omega)]

/-- A register whose first elements are a list's, read back. -/
theorem vElem_ofVElems_append {part rest : List Nat} (hlen : (part ++ rest).length = 256) {e : Nat} (he : e < part.length) :
    vElem 32 e (ofVElems 32 (part ++ rest)) = part.getD e 0 % 2 ^ 32 := by
  have h := vElem_ofVElems (c := 7) (e := e) (l := part ++ rest) hlen
  rw [List.getD_append _ _ _ _ he] at h
  exact h

/-- One register of `putGroup`: the values from `256 * j` on, the register's old elements past them. -/
def putPart (s : State) (base : Nat) (out : List Nat) (j : Nat) : State :=
  let part := (out.drop (256 * j)).take 256
  vPut s (base + j) (ofVElems 32 (part ++ (vRegElems s 32 (base + j)).drop part.length)) (4 * part.length)

theorem putParts_work {base m : Nat} {out written : List Nat} (h : ∀ j < m, base + j ∈ written) (s : State) (slots : List (Nat × Nat)) :
    SlotWork s ((List.range m).foldl (fun t j => putPart t base out j) s) slots written :=
  .foldl _ (fun t j hj => .vPut t _ _ (h j (List.mem_range.1 hj))) s

theorem putGroup_work {base : Nat} {out written : List Nat} (h : ∀ j, 256 * j < out.length → base + j ∈ written) (s : State)
    (slots : List (Nat × Nat)) : SlotWork s (putGroup s base out) slots written :=
  putParts_work (fun j hj => h j (by omega)) s slots

theorem slotOf_putGroup (s : State) (base : Nat) (out : List Nat) (k n : Nat) : slotOf (putGroup s base out) k n = slotOf s k n :=
  (putParts_work (written := (List.range ((out.length + 255) / 256)).map (base + ·))
    (fun _ hj => List.mem_map_of_mem (List.mem_range.2 hj)) s []).slots k n List.not_mem_nil

theorem vElem_putPart (s : State) (base : Nat) (out : List Nat) {j i : Nat} (hi : i < 256) (h : 256 * j + i < out.length) :
    vElem 32 i ((coreOf (putPart s base out j) (curCore s)).v.get 0 (base + j)) = out.getD (256 * j + i) 0 % 2 ^ 32 := by
  have hpart : ((out.drop (256 * j)).take 256).length = min 256 (out.length - 256 * j) := by simp
  have hreg : (vRegElems s 32 (base + j)).length = 256 := by simp [vRegElems, vElems, unpackElems]
  unfold putPart vPut
  rw [coreOf_modCore_same]
  dsimp only
  rw [Tbl.get_set_same, vElem_ofVElems_append (by rw [List.length_append, List.length_drop, hreg]; omega) (by omega)]
  congr 1
  simp [List.getD_eq_getElem?_getD, hi]

/-- A group written reads back. -/
theorem vElem_putParts {s : State} {base : Nat} {out : List Nat} : ∀ {m e : Nat}, e < 256 * m → e < out.length →
    vElem 32 (e % 256) ((coreOf ((List.range m).foldl (fun t j => putPart t base out j) s) (curCore s)).v.get 0 (base + e / 256)) =
      out.getD e 0 % 2 ^ 32
  | m + 1, e, hm, he => by
    have hwork := putParts_work (base := base) (out := out) (written := (List.range m).map (base + ·))
      (fun j hj => List.mem_map_of_mem (List.mem_range.2 hj)) s []
    rw [List.range_succ, List.foldl_append, List.foldl_cons, List.foldl_nil]
    generalize hu : (List.range m).foldl (fun t j => putPart t base out j) s = u at hwork ⊢
    by_cases hj : e / 256 = m
    · subst hj
      have h := vElem_putPart u base out (j := e / 256) (i := e % 256) (Nat.mod_lt _ (by decide)) (by rw [Nat.div_add_mod]; exact he)
      rw [Nat.div_add_mod, hwork.curCore] at h
      exact h
    · have hne : base + e / 256 ≠ base + m := by omega
      have hstep : (coreOf (putPart u base out m) (curCore s)).v.get 0 (base + e / 256) = (coreOf u (curCore s)).v.get 0 (base + e / 256) := by
        rw [← hwork.curCore]
        exact (SlotWork.vPut (written := [base + m]) (slots := []) u _ _ List.mem_cons_self).files _ _ fun hc => hne (List.mem_singleton.1 hc.2)
      rw [hstep, ← hu]
      exact vElem_putParts (by omega) he

theorem vAt_putGroup {s : State} {base : Nat} {out : List Nat} {e : Nat} (he : e < out.length) :
    vElem 32 (e % 256) ((coreOf (putGroup s base out) (curCore s)).v.get 0 (base + e / 256)) = out.getD e 0 % 2 ^ 32 :=
  vElem_putParts (by omega) he

/-! ### Rows of S -/

theorem fastRows_eq (t : Slot) {dv dk : Nat} (hv : dv ≤ 128) (hk : dk ≤ 128) :
    fastRows (slotWords t) dv dk = (List.range dv).map fun a => (List.range dk).map fun b => t.word a b := by
  refine List.map_congr_left fun i hi => ?_
  have hi : i < dv := List.mem_range.1 hi
  exact slotWords_row_first t (by omega) hk

/-- Rows put back over a slot's words. -/
theorem word_putRows {t u : Slot} {rows : List (List Nat)} {dk : Nat} (hk : dk ≤ 128) (hrows : ∀ r ∈ rows, r.length = dk)
    (h : u.words = ofSlotWords (putRows (slotWords t) rows dk)) {a b : Nat} (ha : a < 128) (hb : b < 128) :
    u.word a b = if a < rows.length ∧ b < dk then (rows.getD a []).getD b 0 % 2 ^ 32 else t.word a b := by
  have hout : putRows (slotWords t) rows dk = ((List.range 128).map fun i => (List.range 128).map fun j =>
      if i < rows.length ∧ j < dk then (rows.getD i []).getD j 0 else t.word i j).flatten := by
    refine congrArg List.flatten (List.map_congr_left fun i hi => ?_)
    have hi : i < 128 := List.mem_range.1 hi
    by_cases hr : i < rows.length
    · have hlen : rows[i].length = dk := hrows _ (List.getElem_mem hr)
      rw [List.getElem?_eq_getElem hr]
      dsimp only
      rw [slotWords_row t hi (a := dk) (by omega)]
      apply List.ext_getElem
      · simp; omega
      · intro j h1 h2
        simp only [List.getElem_append, List.getElem_map, List.getElem_range, hlen, hr, true_and, List.getD_eq_getElem?_getD,
          List.getElem?_eq_getElem hr, Option.getD_some]
        split
        · next hj => rw [List.getElem?_eq_getElem (by omega), Option.getD_some]
        · rw [Nat.add_sub_cancel' (by omega)]
    · rw [List.getElem?_eq_none (by omega)]
      dsimp only
      rw [slotWords_row_first t hi le_rfl]
      refine List.map_congr_left fun j _ => ?_
      rw [if_neg fun hij => hr hij.1]
  rw [hout] at h
  rw [Slot.word_of_rows h ha hb]
  split
  · rfl
  · exact elemNat_mod ..

/-! ### One token of MDELTA (R305) -/

/-- Rows of S: `dv` of them, each of `dk` columns. -/
def FastShape (dv dk : Nat) (rows : List (List Nat)) : Prop := rows.length = dv ∧ ∀ r ∈ rows, r.length = dk

/-- A fold that appends one row of `n` columns at each step. -/
theorem foldl_rows_length {α σ : Type} {n : Nat} {F : List (List Nat) × σ → α → List (List Nat) × σ} {l : List α}
    (hF : ∀ acc, ∀ x ∈ l, ∃ r, (F acc x).1 = acc.1 ++ [r] ∧ r.length = n) (acc : List (List Nat) × σ) (hacc : ∀ r ∈ acc.1, r.length = n) :
    ∀ r ∈ (l.foldl F acc).1, r.length = n :=
  List.foldlRecOn (motive := fun acc => ∀ r ∈ acc.1, r.length = n) l F hacc fun acc ih x hx r hr => by
    obtain ⟨r', e, hlen⟩ := hF acc x hx
    rw [e, List.mem_append, List.mem_singleton] at hr
    rcases hr with hr | rfl
    · exact ih r hr
    · exact hlen

theorem deltaToken_shape {dv dk : Nat} {rows : List (List Nat)} {kt qt vt : List Nat} (h : FastShape dv dk rows) (hk : kt.length = dk)
    (hv : vt.length = dv) (alpha beta : Nat) (fl : Flg) :
    FastShape dv dk (deltaToken rows kt qt vt alpha beta fl).1 ∧ (deltaToken rows kt qt vt alpha beta fl).2.1.length = dv := by
  obtain ⟨hrows, hcols⟩ := h
  unfold deltaToken
  dsimp only
  generalize hw : ((rows.zip vt).foldl _ (([] : List Nat), fl)) = step1
  have h1 : step1.1.length = dv := by
    rw [← hw, length_foldl_append_one fun acc x => by simp]
    simp [hrows, hv]
  generalize hn : ((rows.zip step1.1).foldl _ (([] : List (List Nat)), step1.2)) = step2
  have h2 : step2.1.length = dv := by
    rw [← hn, length_foldl_append_one fun acc x => by simp]
    simp [hrows, h1]
  have hwide : ∀ r ∈ step2.1, r.length = dk := by
    rw [← hn]
    refine foldl_rows_length (fun acc x hx => ⟨_, rfl, ?_⟩) _ (by simp)
    rw [length_foldl_append_one fun acc x => by simp, List.length_zip, hcols _ (List.of_mem_zip hx).1, hk]
    simp
  refine ⟨⟨h2, hwide⟩, ?_⟩
  rw [length_foldl_append_one fun acc x => by simp, h2]
  simp

/-! ### MDELTA (R305) -/

/-- The sizes of R304. -/
theorem Fast.sizes {d : Fast} (h : d.ok = true) : d.t ≤ 16 ∧ 1 ≤ d.dv ∧ d.dv ≤ 128 ∧ d.dk ≤ 128 := by
  unfold Fast.ok at h
  simp only [Bool.and_eq_true, decide_eq_true_eq] at h
  omega

theorem Fast.ok_of_check {i : Instr} {s : State} {f : FmtX} {d : Fast} {ins outs : List Nat} {extra : Bool}
    (h : fastCheck i s f d ins outs extra = .ok ()) : d.ok = true := by
  obtain ⟨⟨⟩, hneed, -⟩ := ok_of_bind h
  unfold needI need at hneed
  split at hneed
  · next hc =>
    simp only [Bool.and_eq_true] at hc
    obtain ⟨⟨⟨⟨-, hok⟩, -⟩, -⟩, -⟩ := hc
    exact hok
  · cases hneed

/-- The elements of token `k` in a group of `n` elements for each. -/
def tokenOf (v : Nat → VReg) (base n k : Nat) : List Nat := (List.range n).map fun e => groupElem v base (k * n + e)

theorem tokenOf_length (v : Nat → VReg) (base n k : Nat) : (tokenOf v base n k).length = n := by simp [tokenOf]

/-- A token of a group, as MDELTA takes it. -/
theorem groupIn_token (v : Nat → VReg) (base : Nat) {n k T : Nat} (h : k < T) :
    ((groupIn v (fastGroup base (T * n))).drop (k * n)).take n = tokenOf v base n k :=
  groupIn_slice v base (by rw [← Nat.succ_mul]; exact Nat.mul_le_mul_right n h)

/-- Token `prog + j` of an MDELTA. -/
def deltaStep (v : Nat → VReg) (d : Fast) (prog : Nat) (acc : List (List Nat) × List Nat × Flg) (j : Nat) : List (List Nat) × List Nat × Flg :=
  let k := prog + j
  let r := deltaToken acc.1 (tokenOf v d.kreg d.dk k) (tokenOf v d.qreg d.dk k) (tokenOf v d.vreg d.dv k) (vElem 32 k (v d.greg))
    (vElem 32 (16 + k) (v d.greg)) acc.2.2
  (r.1, acc.2.1 ++ r.2.1, r.2.2)

/-- All tokens from PROG on: rows of S, outputs, flags. -/
def deltaTokens (v : Nat → VReg) (d : Fast) (t : Slot) : List (List Nat) × List Nat × Flg :=
  (List.range (d.t - t.prog.toNat)).foldl (deltaStep v d t.prog.toNat)
    ((List.range d.dv).map fun a => (List.range d.dk).map fun b => t.word a b, [], t.sticky)

theorem deltaRun_eq {d : Fast} (h : d.ok = true) (v : Nat → VReg) (t : Slot) :
    deltaRun (groupIn v d.keys) (groupIn v d.queries) (groupIn v d.values) (vElems 32 (v d.greg)) d t d.t = deltaTokens v d t := by
  obtain ⟨ht, -, hv, hk⟩ := Fast.sizes h
  unfold deltaRun deltaTokens
  rw [fastRows_eq t hv hk]
  refine List.foldl_ext _ _ _ fun acc j hj => ?_
  have hlt : t.prog.toNat + j < d.t := by have := List.mem_range.1 hj; omega
  have hge : ∀ e, e < 32 → (vElems 32 (v d.greg)).getD e 0 = vElem 32 e (v d.greg) := fun e he => getD_map_range _ (by omega) 0
  dsimp only
  rw [Fast.keys, Fast.queries, Fast.values, groupIn_token v _ hlt, groupIn_token v _ hlt, groupIn_token v _ hlt, hge _ (by omega),
    hge _ (by omega)]
  rfl

theorem deltaSteps_shape (v : Nat → VReg) (d : Fast) (prog : Nat) {rows : List (List Nat)} (fl : Flg) (h : FastShape d.dv d.dk rows) : ∀ m : Nat,
    FastShape d.dv d.dk ((List.range m).foldl (deltaStep v d prog) (rows, [], fl)).1 ∧
      ((List.range m).foldl (deltaStep v d prog) (rows, [], fl)).2.1.length = m * d.dv
  | 0 => ⟨h, by simp⟩
  | m + 1 => by
    obtain ⟨hshape, hlen⟩ := deltaSteps_shape v d prog fl h m
    rw [List.range_succ, List.foldl_append, List.foldl_cons, List.foldl_nil]
    obtain ⟨hshape', hlen'⟩ := deltaToken_shape hshape (tokenOf_length v d.kreg d.dk (prog + m)) (tokenOf_length v d.vreg d.dv (prog + m))
      (qt := tokenOf v d.qreg d.dk (prog + m)) (vElem 32 (prog + m) (v d.greg)) (vElem 32 (16 + (prog + m)) (v d.greg))
      ((List.range m).foldl (deltaStep v d prog) (rows, [], fl)).2.2
    refine ⟨hshape', ?_⟩
    rw [deltaStep, List.length_append, hlen, hlen', Nat.succ_mul]

theorem deltaTokens_shape (v : Nat → VReg) (d : Fast) (t : Slot) : FastShape d.dv d.dk (deltaTokens v d t).1 ∧
    (deltaTokens v d t).2.1.length = (d.t - t.prog.toNat) * d.dv :=
  deltaSteps_shape v d _ t.sticky ⟨by simp, by simp⟩ _

/-- The outputs of an MDELTA: those of the finished tokens stand before the new ones. -/
def deltaOut (v : Nat → VReg) (d : Fast) (t : Slot) : List Nat :=
  (groupIn v d.outputs).take (t.prog.toNat * d.dv) ++ (deltaTokens v d t).2.1

theorem groupIn_outputs_length (v : Nat → VReg) (d : Fast) : (groupIn v d.outputs).length = 256 * ((d.t * d.dv + 255) / 256) := by
  rw [Fast.outputs, groupIn_fastGroup]; simp

theorem deltaOut_length_le (v : Nat → VReg) (d : Fast) (t : Slot) : (deltaOut v d t).length ≤ 256 * ((d.t * d.dv + 255) / 256) := by
  rw [deltaOut, List.length_append, List.length_take, groupIn_outputs_length, (deltaTokens_shape v d t).2]
  rcases Nat.le_total t.prog.toNat d.t with hp | hp
  · have hsum : t.prog.toNat * d.dv + (d.t - t.prog.toNat) * d.dv = d.t * d.dv := by rw [← Nat.add_mul, Nat.add_sub_cancel' hp]
    omega
  · rw [Nat.sub_eq_zero_of_le hp, Nat.zero_mul]; omega

/-- The new outputs, by their place in the group. -/
theorem deltaOut_new (v : Nat → VReg) (d : Fast) (t : Slot) {e : Nat} (hp : t.prog.toNat * d.dv ≤ e) (he : e < d.t * d.dv) :
    e < (deltaOut v d t).length ∧ (deltaOut v d t).getD e 0 = (deltaTokens v d t).2.1.getD (e - t.prog.toNat * d.dv) 0 := by
  have hlen : ((groupIn v d.outputs).take (t.prog.toNat * d.dv)).length = t.prog.toNat * d.dv := by
    rw [List.length_take, groupIn_outputs_length]; omega
  have hle : t.prog.toNat ≤ d.t := Nat.le_of_lt (Nat.lt_of_mul_lt_mul_right (Nat.lt_of_le_of_lt hp he))
  have hsum : t.prog.toNat * d.dv + (d.t - t.prog.toNat) * d.dv = d.t * d.dv := by rw [← Nat.add_mul, Nat.add_sub_cancel' hle]
  unfold deltaOut
  rw [List.length_append, hlen, (deltaTokens_shape v d t).2, List.getD_append_right _ _ _ _ (by rw [hlen]; exact hp), hlen]
  exact ⟨by omega, rfl⟩

variable {s : State} {f : FmtX} {d : Fast}

/-- The slot that an MDELTA leaves. -/
def deltaDone (v : Nat → VReg) (d : Fast) (t : Slot) : Slot :=
  { t with words := ofSlotWords (putRows (slotWords t) (deltaTokens v d t).1 d.dk), sticky := (deltaTokens v d t).2.2, d := true, grp := 0,
           prog := 0, full := false }

/-- The state that an MDELTA leaves before its instruction ends. -/
def deltaPut (s : State) (n : Nat) (d : Fast) : State :=
  putGroup (modSlot s (curCore s) n fun _ => deltaDone ((vCore s).v.get 0) d (slotOf s (curCore s) n)) d.oreg
    (deltaOut ((vCore s).v.get 0) d (slotOf s (curCore s) n))

/-- What the matrix engine keeps of an MDELTA: the slot and the registers as it found them. -/
def deltaWork (s : State) (n : Nat) (d : Fast) (e : EngineRec) : MatrixWork :=
  { entry := e, slot := n, tiles := [{ core := curCore s, before := slotOf s (curCore s) n }],
    ins := (d.keys ++ d.queries ++ d.values ++ [d.greg]).map fun n => (n, (vCore s).v.get 0 n),
    outs := d.outputs.map fun n => (n, (vCore s).v.get 0 n) }

theorem runDelta_eq (h : d.ok = true) (n : Nat) (e : EngineRec) :
    runDelta s (curCore s) n d e = addWork (deltaPut s n d) (curCore s) (deltaWork s n d e) := by
  unfold runDelta deltaSlot
  dsimp only
  rw [deltaRun_eq h]
  rfl

theorem mem_fastGroup {base n j : Nat} (h : 256 * j < 256 * ((n + 255) / 256)) : base + j ∈ fastGroup base n :=
  List.mem_map_of_mem (List.mem_range.2 (by omega))

theorem runDelta_work (h : d.ok = true) (n : Nat) (e : EngineRec) :
    SlotWork s (runDelta s (curCore s) n d e) [(curCore s, n)] (fastGroup d.oreg (d.t * d.dv)) := by
  rw [runDelta_eq h]
  exact (SlotWork.modSlot s _ List.mem_cons_self).trans ((putGroup_work (fun j hj =>
    mem_fastGroup (Nat.lt_of_lt_of_le hj (deltaOut_length_le ..))) _ _).trans (.addWork ..))

theorem slotOf_runDelta (h : d.ok = true) (n : Nat) (e : EngineRec) : slotOf (runDelta s (curCore s) n d e) (curCore s) n =
    deltaDone ((vCore s).v.get 0) d (slotOf s (curCore s) n) := by
  rw [runDelta_eq h, slotOf_addWork, deltaPut, slotOf_putGroup, slotOf_modSlot_same]

theorem vElem_runDelta (h : d.ok = true) {n : Nat} (r : EngineRec) {e : Nat} (he : e < (deltaOut ((vCore s).v.get 0) d (slotOf s (curCore s) n)).length) :
    vElem 32 (e % 256) ((coreOf (runDelta s (curCore s) n d r) (curCore s)).v.get 0 (d.oreg + e / 256)) =
      (deltaOut ((vCore s).v.get 0) d (slotOf s (curCore s) n)).getD e 0 % 2 ^ 32 := by
  rw [runDelta_eq h, addWork, coreOf_modCore_same]
  exact vAt_putGroup (s := modSlot s (curCore s) n _) he

/-- What the engine keeps of an MDELTA that it works on. -/
def deltaRec (f : FmtX) (s : State) : EngineRec :=
  { engineRec s (instrWord (.mdelta f)) [0, 0, 0] 0 3 with fops := [0, 0, xRead s f.dk] }

theorem any_vEmpty_false {l : List Nat} (h : ∀ n ∈ l, vEmpty (vCore s) n = false) : ¬ l.any (vEmpty (vCore s)) = true := by
  rw [List.any_eq_true]
  rintro ⟨n, hn, he⟩
  rw [h n hn] at he
  cases he

theorem mdelta_performs (hd : d = { raw := (xRead s f.dk).toNat })
    (hcheck : fastCheck (.mdelta f) s f d (d.keys ++ d.queries ++ d.values ++ [d.greg]) d.outputs true = .ok ())
    (hempty : ∀ n ∈ d.keys ++ d.queries ++ d.values ++ [d.greg] ++ d.outputs, vEmpty (vCore s) n = false) (hroom : inFlight (vCore s) < 8)
    (hready : slotReady s (curCore s) f.slot.toNat true = true) (hp : (slotOf s (curCore s) f.slot.toNat).p = true) :
    mdelta f s = .ok (advance (runDelta s (curCore s) f.slot.toNat d (deltaRec f s))) := by
  unfold mdelta
  dsimp only
  rw [← hd, hcheck]
  refine (if_neg (any_vEmpty_false hempty)).trans ?_
  rw [matrixRoom_of_lt hroom]
  refine (onSlot_of_ready hready _).trans ?_
  rw [hp]
  rfl

/-! ### MREAD (R306) -/

/-- Output (k, a): row `a` of S times query `k`. -/
def readWord (v : Nat → VReg) (d : Fast) (t : Slot) (k a : Nat) : Nat :=
  (List.range d.dk).foldl (fun acc b => (fma32 (t.word a b) (groupElem v d.qreg (k * d.dk + b)) acc).val) 0

/-- The value of a chain, which does not depend on the flags it keeps. -/
def chain32 (a b : List Nat) : Nat := (a.zip b).foldl (fun acc x => (fma32 x.1 x.2 acc).val) 0

theorem keep_val (fl : Flg) (e : Elem) : (keep fl e).val = e.val := rfl

theorem foldl_keep_val : ∀ (l : List (Nat × Nat)) (e : Elem), (l.foldl (fun acc x => keep acc.fl (fma32 x.1 x.2 acc.val)) e).val =
    l.foldl (fun acc x => (fma32 x.1 x.2 acc).val) e.val
  | [], _ => rfl
  | x :: l, e => by rw [List.foldl_cons, List.foldl_cons, foldl_keep_val l, keep_val]

theorem dot32_val (fl : Flg) (a b : List Nat) : (dot32 fl a b).val = chain32 a b := foldl_keep_val ..

/-- The outputs of one query, after those of the queries before it. -/
def readToken (rows : List (List Nat)) (q : List Nat) (acc : List Nat × Flg) : List Nat × Flg :=
  rows.foldl (fun (a : List Nat × Flg) row => let o := dot32 a.2 row q; (a.1 ++ [o.val], o.fl)) acc

theorem readToken_fst (rows : List (List Nat)) (q : List Nat) (acc : List Nat × Flg) :
    (readToken rows q acc).1 = acc.1 ++ rows.map fun row => chain32 row q := by
  unfold readToken
  rw [foldl_append_fst (v := fun row => [chain32 row q]) fun a row => by dsimp only; rw [dot32_val], ← List.flatMap_def, ← List.map_eq_flatMap]

/-- All outputs of an MREAD, with the sticky flags after them. -/
def readRun (qe : List Nat) (d : Fast) (t : Slot) : List Nat × Flg :=
  (List.range d.t).foldl (fun acc k => readToken (fastRows (slotWords t) d.dv d.dk) ((qe.drop (k * d.dk)).take d.dk) acc) ([], t.sticky)

theorem readRun_fst (h : d.ok = true) (v : Nat → VReg) (t : Slot) : (readRun (groupIn v d.queries) d t).1 =
    (List.range (d.dv * d.t)).map fun e => readWord v d t (e / d.dv) (e % d.dv) := by
  obtain ⟨-, hpos, hv, hk⟩ := Fast.sizes h
  rw [← flatten_map_range (readWord v d t) hpos]
  unfold readRun
  rw [foldl_append_fst (v := fun k => (fastRows (slotWords t) d.dv d.dk).map fun row =>
    chain32 row (((groupIn v d.queries).drop (k * d.dk)).take d.dk)) fun acc k => readToken_fst _ _ acc, List.nil_append]
  refine congrArg List.flatten (List.map_congr_left fun k hk' => ?_)
  rw [fastRows_eq t hv hk, Fast.queries, groupIn_token v _ (List.mem_range.1 hk'), List.map_map]
  refine List.map_congr_left fun a _ => ?_
  rw [Function.comp_apply, chain32, tokenOf, List.zip_map', List.foldl_map]
  rfl

/-- The state that an MREAD leaves before its instruction ends. -/
def readPut (s : State) (n base : Nat) (d : Fast) : State :=
  let r := readRun (groupIn ((vCore s).v.get 0) d.queries) d (slotOf s (curCore s) n)
  putGroup (modSlot s (curCore s) n fun t => { t with sticky := r.2 }) base r.1

theorem mread_performs (hd : d = { raw := (xRead s f.dk).toNat })
    (hcheck : fastCheck (.mread f) s f d d.queries (fastGroup f.da.num.toNat (d.t * d.dv))
      (d.oreg == 0 && d.greg == 0 && d.vreg == 0 && d.kreg == 0) = .ok ())
    (hempty : ∀ n ∈ d.queries ++ fastGroup f.da.num.toNat (d.t * d.dv), vEmpty (vCore s) n = false)
    (hready : slotReady s (curCore s) f.slot.toNat false = true) (hp : (slotOf s (curCore s) f.slot.toNat).p = true) :
    mread f s = .ok (advance (readPut s f.slot.toNat f.da.num.toNat d)) := by
  rw [Fast.queries] at hcheck hempty
  unfold mread
  dsimp only
  rw [← hd, hcheck]
  refine (if_neg (any_vEmpty_false hempty)).trans ?_
  refine (onSlot_of_ready hready _).trans ?_
  rw [hp]
  rfl

theorem readPut_work (h : d.ok = true) (n base : Nat) :
    SlotWork s (readPut s n base d) [(curCore s, n)] (fastGroup base (d.t * d.dv)) :=
  (SlotWork.modSlot s _ List.mem_cons_self).trans (putGroup_work (fun j hj => mem_fastGroup (by
    rw [readRun_fst h, List.length_map, List.length_range, Nat.mul_comm d.dv] at hj
    omega)) _ _)

theorem word_readPut (s : State) (n base : Nat) (d : Fast) (a b : Nat) :
    slotAt (readPut s n base d) (curCore s) n a b = slotAt s (curCore s) n a b := by
  rw [slotAt_eq, readPut, slotOf_putGroup, slotOf_modSlot_same]
  rfl

theorem vElem_readPut (h : d.ok = true) (n base : Nat) {k a : Nat} (hk : k < d.t) (ha : a < d.dv) :
    vElem 32 ((k * d.dv + a) % 256) ((coreOf (readPut s n base d) (curCore s)).v.get 0 (base + (k * d.dv + a) / 256)) =
      readWord ((vCore s).v.get 0) d (slotOf s (curCore s) n) k a % 2 ^ 32 := by
  have he : k * d.dv + a < d.dv * d.t := by
    calc k * d.dv + a < (k + 1) * d.dv := by rw [Nat.succ_mul]; omega
      _ ≤ d.t * d.dv := Nat.mul_le_mul_right _ hk
      _ = d.dv * d.t := Nat.mul_comm ..
  have hrun := readRun_fst h ((vCore s).v.get 0) (slotOf s (curCore s) n)
  have hput := vAt_putGroup (s := modSlot s (curCore s) n fun t =>
      { t with sticky := (readRun (groupIn ((vCore s).v.get 0) d.queries) d (slotOf s (curCore s) n)).2 }) (base := base)
    (out := (readRun (groupIn ((vCore s).v.get 0) d.queries) d (slotOf s (curCore s) n)).1) (e := k * d.dv + a)
    (by rw [hrun, List.length_map, List.length_range]; exact he)
  refine hput.trans ?_
  rw [hrun, getD_map_range _ he, Nat.mul_comm k, Nat.mul_add_div (by omega), Nat.div_eq_of_lt ha, Nat.mul_add_mod, Nat.mod_eq_of_lt ha, Nat.add_zero]

end Sys2Proof.Machine
end

section
/-! ## The matrix unit, settled (09_vector_matrix.md R288 to R306) -/
namespace Sys2Proof.Machine

/-- A late trap of an instruction of major 0x80 on a hart that is not cancelled. -/
theorem trapsLate_of_trap {i : Instr} {s : State} {body : State → M State} {code : BitVec 8} {info : Word} (hexec : exec i s = perform i s body)
    (hlate : lateMajor i = true) (h : admitted i s = true) (hc : cancelled s = false) (hb : body s = .error (.trap code info))
    (hue : code ≠ Cause.ue) : TrapsLate i s code info := by
  have e := perform_trap h hc hb hue
  rw [hlate, ← hexec] at e
  exact e

/-- The same trap where a check on a slot raises it, nothing having changed. -/
theorem trapsLate_of_after {i : Instr} {s : State} {body : State → M State} {code : BitVec 8} {info : Word} (hexec : exec i s = perform i s body)
    (hlate : lateMajor i = true) (h : admitted i s = true) (hc : cancelled s = false) (hb : body s = .error (.after s code info))
    (hue : code ≠ Cause.ue) : TrapsLate i s code info := by
  rw [TrapsLate, hexec, perform_admitted h, hb, hlate]
  simp only [finish, hc, Bool.false_eq_true, if_false, logged, hue]

theorem product_clause {i : Instr} {f : FmtX} {p : Prod} {s : State} (hprod : productOf i s = some (f, p)) (hadm : admitted i s = true)
    (hcheck : p.check s (curCore s) (instrWord i) = .ok ()) (hload : p.staged = true → ((vCore s).tiles.get {} p.bOff).st ≠ .loading)
    (hroom : inFlight (vCore s) < 8) (hready : ∀ x ∈ p.targets (curCore s), slotReady s x.1 p.slot true = true) :
    ∃ t, exec i s = .next t ∧ ctl t = nextPlace s ∧ SlotFrame s t ((p.targets (curCore s)).map fun x => (x.1, p.slot)) [] none ∧
      ∀ x ∈ p.targets (curCore s),
        let new := slotOf t x.1 p.slot
        let old := slotOf s x.1 p.slot
        let word := fun a b => productWord s p (curCore s) x.1 x.2.1 x.2.2 a b (slotAt s x.1 p.slot a b)
        new.full = false ∧ new.d = true ∧ new.grp = (if p.coop then BitVec.ofNat 6 (32 + 8 * x.2.1 + x.2.2) else 0) ∧
        (∀ a b, a < 128 → b < 128 → slotAt t x.1 p.slot a b =
          if a < p.rows x.2.1 ∧ b < p.cols x.2.2 then (word a b).val % 2 ^ 32 else slotAt s x.1 p.slot a b) ∧
        ∀ k, new.sticky.getLsbD k = (old.sticky.getLsbD k ||
          (List.range (p.rows x.2.1)).any fun a => (List.range (p.cols x.2.2)).any fun b => (word a b).fl.getLsbD k) := by
  obtain ⟨sparse, hexec, hspn, hheader, hbank, -, hp⟩ := exec_of_productOf hprod
  obtain ⟨kind, hkind⟩ := admitted_curKind hadm
  have hcur := cur_of_admitted hadm hheader hbank
  have hf := Prod.fieldsOk_of_check hcheck
  obtain ⟨hplace, hframe⟩ := (runProduct_work s (curCore s) p (productRec i f s)).ends hkind hcur
  refine ⟨_, hexec.trans (perform_ok hadm (product_performs hspn hp hcheck hload hroom hready)), hplace, hframe, fun x hx => ?_⟩
  have hslot := (slotOf_advance (runProduct s (curCore s) p 0 (productRec i f s) false) x.1 p.slot).trans (slotOf_runProduct hf _ hx)
  have hrows := Prod.rows_le hf x.2.1
  have hcols := Prod.cols_le hf x.2.2
  dsimp only
  rw [hslot]
  refine ⟨rfl, rfl, rfl, fun a b ha hb => ?_, fun k => ?_⟩
  · rw [slotAt_eq, hslot]
    refine (word_tileSlot _ ha hb).trans ?_
    by_cases h : a < p.rows x.2.1 ∧ b < p.cols x.2.2
    · rw [if_pos h, productCell_inside h.1 h.2]
    · rw [if_neg h, productCell, if_neg h]
      exact elemNat_mod ..
  · refine (sticky_tileSlot hrows hcols k).trans (congrArg _ ?_)
    rw [Bool.eq_iff_iff]
    simp only [List.any_eq_true, List.mem_range]
    refine exists_congr fun a => and_congr_right fun ha => exists_congr fun b => and_congr_right fun hb => ?_
    rw [productCell_inside ha hb]

/-- Settles O52: a product is one tile on each target core (`product_clause`), MDELTA a fold over its tokens (`deltaRun_eq`), MREAD a list of
chains (`readRun_fst`); the others and the steps of the device change one slot. -/
theorem matrixUnitResults : Obligations.MatrixUnitResults := by
  unfold Obligations.MatrixUnitResults
  refine ⟨fun i f p s hprod hadm hcheck hload hroom hready => product_clause hprod hadm hcheck hload hroom hready,
    fun i f p s e hprod hadm hcheck hc => ?_, fun f s hspn hadm hc => ?_, fun f s hadm hready => ?_,
    fun f s x hadm hx hready hp hkey => ?_, fun f s hadm hready => ⟨fun hp => ?_, fun hp hc => ?_⟩, fun f s hadm hready => ?_,
    fun f s r hadm hkey => ?_, fun f s d hadm hd hcheck hempty hroom hready hp => ?_, fun f s d hadm hd hcheck hempty hready hp => ?_,
    fun s c n hc hn => ⟨fun hm hw => ?_, fun x hm hw => ?_, fun k j w hm hw hagain hj hwait => ?_, fun hm => ?_⟩,
    fun s c n ctx hc hn => ⟨fun hmiss => ?_, fun hmiss harea hlive hv hpoison => ?_⟩⟩
  · obtain ⟨sparse, hexec, hspn, -, -, hlate, hp⟩ := exec_of_productOf hprod
    exact trapsLate_of_trap hexec hlate hadm hc (product_refused hspn hp hcheck) (Prod.check_cause hcheck)
  · exact trapsLate_of_trap rfl (lateMajor_of_encX (S := _) rfl) hadm hc (product_unnamed (by rw [hspn]; rfl)) (by decide)
  · obtain ⟨kind, hkind⟩ := admitted_curKind hadm
    obtain ⟨hplace, hframe⟩ := (SlotWork.slotWritten (written := []) s (fun t => { t with words := 0, sticky := 0, prog := 0, grp := 0, d := true })
      (c := curCore s) (n := f.slot.toNat) List.mem_cons_self).ends hkind (cur_of_admitted hadm rfl rfl)
    exact ⟨_, perform_ok hadm (mzero_ready hready), hplace, hframe, (slotOf_advance ..).trans (slotOf_slotWritten ..)⟩
  · obtain ⟨kind, hkind⟩ := admitted_curKind hadm
    have hwalk := liveScopeReads_walked s (leadHart s) (xRead s f.db)
    have hwork := SlotWork.modSlot_only (liveScopeReads s (leadHart s) (xRead s f.db)) (curCore s) f.slot.toNat fun t =>
      { t with p := true, key := xRead s f.dk, scopeId := BitVec.ofNat 32 (recId x.2) }
    refine ⟨_, perform_ok hadm (mpin_pins hx hready hp hkey), ctl_advance_of hkind (hwork.cur.trans hwalk.cur) (hwork.ctl.trans hwalk.ctl),
      hwork.frame.advance ((hwork.cur.trans hwalk.cur).trans (cur_of_admitted hadm rfl rfl)), ?_⟩
    rw [slotOf_advance, slotOf_modSlot_same, hwalk.slotOf]
  · obtain ⟨kind, hkind⟩ := admitted_curKind hadm
    obtain ⟨hplace, hframe⟩ := (SlotWork.modSlot_only s (curCore s) f.slot.toNat fun t =>
      { t with p := false, key := 0, scopeId := 0 }).ends hkind (cur_of_admitted hadm rfl rfl)
    exact ⟨_, perform_ok hadm (munpin_unpins hready hp), hplace, hframe, (slotOf_advance ..).trans (slotOf_modSlot_same ..)⟩
  · exact trapsLate_of_after rfl (lateMajor_of_encX (S := _) rfl) hadm hc (munpin_unpinned hready hp) (by decide)
  · obtain ⟨kind, hkind⟩ := admitted_curKind hadm
    have hwork : SlotWork s (if f.dk.bits.getLsbD 0 then modSlot s (curCore s) f.slot.toNat fun t => { t with sticky := 0 } else s)
        [(curCore s, f.slot.toNat)] [] := by
      split
      · exact .modSlot_only ..
      · exact .refl ..
    obtain ⟨hplace, hframe, hvalue⟩ := hwork.ends_write hkind (cur_of_admitted hadm rfl rfl) f.da
      (BitVec.ofNat 64 (slotOf s (curCore s) f.slot.toNat).sticky.toNat)
    refine ⟨_, perform_ok hadm (mxfl_reads hready), hplace, hframe, hvalue, ?_⟩
    rw [slotOf_advance, slotOf_xWrite]
    split
    · exact slotOf_modSlot_same ..
    · rfl
  · obtain ⟨kind, hkind⟩ := admitted_curKind hadm
    have hperf : performers s = [leadHart s] := by
      unfold performers
      rw [cur_of_admitted hadm rfl rfl]
    obtain ⟨hvalue, hframe, hplace⟩ := scalar_shape s hkind f.da fun _ => foundWord r
    rw [modPerformers, hperf] at hvalue hframe hplace
    refine ⟨_, perform_ok hadm (mfind_finds hkey), hplace, hframe, (hvalue _ List.mem_cons_self).trans ?_⟩
    cases r <;> rfl
  · obtain ⟨kind, hkind⟩ := admitted_curKind hadm
    have hok := Fast.ok_of_check hcheck
    have hwork := runDelta_work (s := s) hok f.slot.toNat (deltaRec f s)
    obtain ⟨hplace, hframe⟩ := hwork.ends hkind (cur_of_admitted hadm rfl rfl)
    have hslot := (slotOf_advance (runDelta s (curCore s) f.slot.toNat d (deltaRec f s)) _ _).trans (slotOf_runDelta hok f.slot.toNat (deltaRec f s))
    obtain ⟨⟨hrows, hwide⟩, -⟩ := deltaTokens_shape ((vCore s).v.get 0) d (slotOf s (curCore s) f.slot.toNat)
    refine ⟨_, perform_ok hadm (mdelta_performs hd hcheck hempty hroom hready hp), hplace, hframe, congrArg Slot.prog hslot,
      congrArg Slot.sticky hslot, congrArg Slot.full hslot, fun a b ha hb => ?_, fun e he he' => ?_⟩
    · have hword := word_putRows (Fast.sizes hok).2.2.2 hwide (congrArg Slot.words hslot) ha hb
      rw [hrows] at hword
      exact hword
    · obtain ⟨hlt, hnew⟩ := deltaOut_new ((vCore s).v.get 0) d (slotOf s (curCore s) f.slot.toNat) he he'
      have hout := vElem_runDelta hok (deltaRec f s) hlt
      rw [hnew] at hout
      rw [vAt, hwork.curCore_ends (cur_of_admitted hadm rfl rfl), advance_coreOf]
      exact hout
  · obtain ⟨kind, hkind⟩ := admitted_curKind hadm
    have hok := Fast.ok_of_check hcheck
    have hwork := readPut_work (s := s) hok f.slot.toNat f.da.num.toNat
    obtain ⟨hplace, hframe⟩ := hwork.ends hkind (cur_of_admitted hadm rfl rfl)
    refine ⟨_, perform_ok hadm (mread_performs hd hcheck hempty hready hp), hplace, hframe,
      fun a b => (slotAt_of_slotOf (slotOf_advance ..) a b).trans (word_readPut ..), fun k a hk ha => ?_⟩
    rw [vAt, hwork.curCore_ends (cur_of_admitted hadm rfl rfl), advance_coreOf]
    exact vElem_readPut hok _ _ hk ha
  · rw [exec_matrixComplete hc hn, matrixComplete_of_none hm hw]
  · refine ⟨_, exec_matrixComplete hc hn, ?_⟩
    rw [matrixComplete_of_work hm hw]
    refine ⟨(slotOf_tileDone ..).trans (if_pos ⟨rfl, rfl⟩), fun _ _ => rfl, fun _ => rfl, fun k m hne => (slotOf_tileDone ..).trans (if_neg hne)⟩
  · rw [exec_matrixComplete hc hn, matrixComplete_of_caught hm hw hagain, reissue_waits hj hwait]
  · refine ⟨_, exec_matrixComplete hc hn, ?_⟩
    rw [matrixComplete_of_pending hm]
    unfold slotOf
    rw [coreOf_modCore_same]
    exact ⟨rfl, (slots_slotDone ..).trans (if_pos rfl), fun m hne => (slots_slotDone ..).trans (if_neg hne)⟩
  · rw [exec_ownershipMissService hc hn, missService_elsewhere hmiss]
  · refine ⟨_, exec_ownershipMissService hc hn, ?_⟩
    rw [missService_fresh hmiss (serveMiss_fresh harea hlive hv hpoison), slotOf_modSlot_same]
    exact ⟨rfl, fun _ _ => rfl, fun _ => rfl⟩

end Sys2Proof.Machine
end

section
/-! ## From fields to words and back (06_encoding.md R171, R175, R178, R182, R185) -/
namespace Sys2Proof.Laws
open Encoding (Statement)

/-! ### Adjacent fields of a word -/

/-- Two fields that meet are one field. -/
theorem extract_append {W hi lo a b : Nat} (w : BitVec W) (h : hi = lo + a) :
    w.extractLsb' hi b ++ w.extractLsb' lo a = w.extractLsb' lo (b + a) := by
  subst h
  apply BitVec.eq_of_getLsbD_eq
  intro k hk
  simp only [BitVec.getLsbD_append, BitVec.getLsbD_extractLsb']
  split
  · simp [*]
  · rw [show lo + a + (k - a) = lo + k by omega]
    simp [hk, show k - a < b by omega]

/-- A field of a field. -/
theorem extract_extract {W lo lo' a b : Nat} (w : BitVec W) (h : lo' + b ≤ a) :
    (w.extractLsb' lo a).extractLsb' lo' b = w.extractLsb' (lo + lo') b := by
  apply BitVec.eq_of_getLsbD_eq
  intro k hk
  simp [hk, show lo' + k < a by omega, Nat.add_assoc]

theorem ofBool_bit {W : Nat} (w : BitVec W) (k : Nat) : BitVec.ofBool (w.getLsbD k) = w.extractLsb' k 1 := by
  apply BitVec.eq_of_getLsbD_eq
  intro j hj
  obtain rfl : j = 0 := by omega
  simp

theorem bits_ofBits (b : BitVec 10) : (Opnd.ofBits b).bits = b := by
  simp only [Opnd.ofBits, Opnd.bits, ofBool_bit]
  simp (disch := rfl) only [extract_append]
  exact extract_all b

theorem bits_opndAt (w : Word) (lo : Nat) : (opndAt w lo).bits = w.extractLsb' lo 10 := bits_ofBits _

/-! ### The word of the fields of a word, format by format -/

section
variable {w : Word} {M : BitVec 8} {S : BitVec 6} (hM : (w.extractLsb' 0 8).toNat = M.toNat) (hS : (w.extractLsb' 8 6).toNat = S.toNat)
include hM hS

theorem encR_decR : encR M S (decR w) = w := by
  obtain rfl := BitVec.eq_of_toNat_eq hM
  obtain rfl := BitVec.eq_of_toNat_eq hS
  simp (disch := rfl) only [encR, decR, bits_opndAt, extract_append]
  exact extract_all w

theorem encI_decI : encI M S (decI w) = w := by
  obtain rfl := BitVec.eq_of_toNat_eq hM
  obtain rfl := BitVec.eq_of_toNat_eq hS
  simp (disch := rfl) only [encI, decI, bits_opndAt, extract_append]
  exact extract_all w

theorem encB_decB : encB M S (decB w) = w := by
  obtain rfl := BitVec.eq_of_toNat_eq hM
  obtain rfl := BitVec.eq_of_toNat_eq hS
  simp (disch := rfl) only [encB, decB, bits_opndAt, extract_append]
  exact extract_all w

theorem encJ_decJ : encJ M S (decJ w) = w := by
  obtain rfl := BitVec.eq_of_toNat_eq hM
  obtain rfl := BitVec.eq_of_toNat_eq hS
  simp (disch := rfl) only [encJ, decJ, bits_opndAt, extract_append]
  exact extract_all w

theorem encL_decL : encL M S (decL w) = w := by
  obtain rfl := BitVec.eq_of_toNat_eq hM
  obtain rfl := BitVec.eq_of_toNat_eq hS
  simp (disch := rfl) only [encL, decL, bits_opndAt, extract_append]
  exact extract_all w

theorem encM_decM : encM M S (decM w) = w := by
  obtain rfl := BitVec.eq_of_toNat_eq hM
  obtain rfl := BitVec.eq_of_toNat_eq hS
  simp (disch := rfl) only [encM, decM, bits_opndAt, extract_append]
  exact extract_all w

theorem encV_decV : encV M S (decV w) = w := by
  obtain rfl := BitVec.eq_of_toNat_eq hM
  obtain rfl := BitVec.eq_of_toNat_eq hS
  simp (disch := rfl) only [encV, decV, bits_opndAt, ofBool_bit, extract_append]
  exact extract_all w

theorem encW_decW : encW M S (decW w) = w := by
  obtain rfl := BitVec.eq_of_toNat_eq hM
  obtain rfl := BitVec.eq_of_toNat_eq hS
  simp (disch := rfl) only [encW, decW, bits_opndAt, ofBool_bit, extract_append]
  exact extract_all w

theorem encX_decX : encX M S (decX w) = w := by
  obtain rfl := BitVec.eq_of_toNat_eq hM
  obtain rfl := BitVec.eq_of_toNat_eq hS
  simp (disch := rfl) only [encX, decX, bits_opndAt, ofBool_bit, extract_append]
  exact extract_all w

theorem encE_decE : encE M S (decE w) = w := by
  obtain rfl := BitVec.eq_of_toNat_eq hM
  obtain rfl := BitVec.eq_of_toNat_eq hS
  simp (disch := rfl) only [encE, decE, bits_opndAt, ofBool_bit, extract_append]
  exact extract_all w

end

/-! ### Words that decode -/

/-- The word of an instruction is the one it was decoded from: of each major's table, the format's fields are the word's (R185). -/
theorem encodeWord_of_decodeWord {w : Word} {i : Instr} (h : decodeWord w = .ok i) : encodeWord i = some w := by
  unfold decodeWord at h
  dsimp only at h
  split at h
  case h_27 => cases h
  all_goals
    next hM =>
    split at h <;> cases h
    next hi =>
    simp only [decode01, decode02, decode03, decode20, decode21, decode22, decode23, decode30, decode31, decode32, decode40, decode41, decode42,
      decode43, decode44, decode60, decode61, decode62, decode63, decode64, decode80, decode90, decode91, decode92, decodeA0, decodeB0] at hi
    split at hi <;> cases hi
    all_goals
      next hS =>
      simp only [encodeWord, encR_decR, encI_decI, encB_decB, encJ_decJ, encL_decL, encM_decM, encV_decV, encW_decW, encX_decX, encE_decE,
        hM, hS, BitVec.reduceToNat]

/-- The laws of all constructors, in the order of `Instr`. -/
theorem Encoding.all : ∀ i, Statement i :=
  Instr.rec add sub and or xor andn shl shr sra ror min max minu maxu slt sltu seq clz ctz popc sext zext bfx bfi sel addi andi ori xori
    shli shri srai slti sltui li lih addpc mul mulh mulhu div divu rem remu madd beq bne blt bge bltu bgeu bf bnf jmp jmpr call callr ret
    jtab fjmp fcall loop loopi lbrk lidx fork join qpush qpop bqpush bqbr monitor mwait ld st ldacq strel ldnt amoadd amoand amoor amoxor
    amomin amomax amoswp amocas amofadd amoinc fence sbar waitv act pre wb wbpre ref refq rcopy radd rsub rmul rfma rmin rmax rand rbor rxor
    rshr rcmp rsel rcvt rscl ldlut lutdot ldsc rdot rsum qclr qst rtopk shfl shrx rcast rout rred gang split bmask byield lease rgete rsete
    vadd vsub vmul vfma vmin vmax vand vor vxor vshl vshr vsra vcvt vabs vneg vexp2 vrcp vrsqrt vdiv vsqrt vcmp vmerge vpopc vfirst
    vcompress vgather vslide vred vtopk viota vbcast vext vld vlds vldx vst vsts vstx vldsc vsetvl vsettype vrdhw vallot mma mmas mzero mld
    mst mpin munpin mdelta mread mxfl mfind cpy cpyw tfetch tfrel prefb tiermv shadow publish tokwait catalloc catmap catshare catfree exit
    scope cancel cwait barinit bararr barwait yield getpg csrr csrw trap brk rft cfetch cseg ifence setaside rowwd nop convoyHeader
    aHartStart joinRendezvous mwaitTimeout monitorLost waitvSatisfied gangRendezvous vectorComplete replayUnitRoom matrixComplete
    ownershipMissService publishSwap engineCommandComplete followOnIssue killPointStop overlayBlockLand tlbinvVa tlbinvContext tlbinvAll
    govstatDroopClear rcountDiscard registerWrite contextEntryInvalidate lateFault unitStop haltComplete haltctlHalt haltctlResume
    haltctlKill coreFreeSelect rowStepDispatch stepStart preemptionSave intakeTake docctlRestart rowOpen rowRestored writebackEnd refreshEnd
    rowWriterComplete refreshDebtRise refdue forcedRefresh forcedRefreshDone leaseRemainExpiry watchdogExpiry vectorLineFetch governorSample
    governorStepDelivery droopStretch powerEmergency clockGating regchain dropchain setshare ackhalt readstart regwrite regread hostMemWrite
    hostMemRead spdmRequest remoteRead remoteWrite remoteAtomic reductionPacket remoteCopy remoteAcknowledgement refusalReturn linkerrClear
    flitCrcReplay retrainEnd stackPortReplay realignmentRequest realignmentDeferralExpiry realignmentEnd bundlestatAck restripeComplete
    powerUp prechargeEnd activationWindowExpiry shrxDelivery copyGroupArrival illegalEncoding absentBlockFetch cxlCacheSnoop

/-! ### Parcels and bytes (R7, R171, R175) -/

theorem major_encC (f : FmtC) : (encC f).extractLsb' 0 8 = 0xC0#8 := (extract_low _ _ (by decide)).trans (extract_all _)

theorem decC_encC (f : FmtC) : decC (encC f) = f := by
  have h : ∀ lo n, (encC f).extractLsb' lo n =
      BitVec.extractLsb' lo n (f.hres ++ f.unit5 ++ f.unit4 ++ f.unit3 ++ f.unit2 ++ f.unit1 ++ f.unit0 ++ f.n ++ 0xC0#8) := fun _ _ => rfl
  simp (disch := decide) only [decC, h, extract_low, extract_high, extract_all, Nat.reduceSub]

/-- A convoy header decodes from its parcel, whatever parcel follows. -/
theorem decode_encC (f : FmtC) (hi : BitVec 32) : decode (encC f) hi = .ok (.convoyHeader f, 4) := by
  rw [decode, if_pos (major_encC f), decC_encC]

/-- Four bytes of a parcel in memory order are the parcel. -/
theorem parcelOfBytes_bytes (p : BitVec 32) :
    parcelOfBytes (p.extractLsb' 0 8) (p.extractLsb' 8 8) (p.extractLsb' 16 8) (p.extractLsb' 24 8) = p := by
  simp (disch := rfl) only [parcelOfBytes, extract_append]
  exact extract_all p

/-- A word is its two parcels. -/
theorem parcels_append (w : Word) : w.extractLsb' 32 32 ++ w.extractLsb' 0 32 = w := by
  rw [extract_append w (lo := 0) (a := 32) rfl]
  exact extract_all w

/-- No word with the header's MAJOR is an instruction (R175). -/
theorem decodeWord_header {w : Word} (h : w.extractLsb' 0 8 = 0xC0#8) : decodeWord w = .error (.illegalMajor 0xC0#8) := by
  unfold decodeWord
  rw [h]
  rfl

theorem encode_word {i : Instr} {w : Word} (h : encodeWord i = some w) : encode i = [w.extractLsb' 0 32, w.extractLsb' 32 32] := by
  unfold encode
  split
  · cases h
  · rw [h]

/-- An instruction with parcels is a convoy header or has a word (R171). -/
theorem encode_ne_nil {i : Instr} (h : encode i ≠ []) : (∃ f, i = .convoyHeader f) ∨ ∃ w, encodeWord i = some w := by
  unfold encode at h
  split at h
  · exact .inl ⟨_, rfl⟩
  · split at h
    · exact .inr ⟨_, ‹_›⟩
    · exact absurd rfl h

end Sys2Proof.Laws

namespace Sys2Proof.Machine
open Laws

theorem decodeBytes_header (f : FmtC) (rest : List Byte) :
    decodeBytes (codeBytes (.convoyHeader f) ++ rest) = some (.ok (.convoyHeader f, rest)) := by
  simp only [codeBytes, encode, List.flatMap_cons, List.flatMap_nil, List.cons_append, List.nil_append, decodeBytes, parcelOfBytes_bytes]
  rw [if_pos (major_encC f), decC_encC]

theorem decodeBytes_word {i : Instr} {w : Word} (h : encodeWord i = some w) (rest : List Byte) :
    decodeBytes (codeBytes i ++ rest) = some (.ok (i, rest)) := by
  have hdec := Encoding.all i w h
  have hmajor : (w.extractLsb' 0 32).extractLsb' 0 8 ≠ 0xC0#8 := fun e => by
    rw [extract_extract w (by decide)] at e
    rw [decodeWord_header e] at hdec
    cases hdec
  rw [codeBytes, encode_word h]
  simp only [List.flatMap_cons, List.flatMap_nil, List.cons_append, List.nil_append, decodeBytes, parcelOfBytes_bytes, decode, hmajor, if_false,
    parcels_append, hdec]
  rfl

/-- Settles O58: each instruction has its law (`Encoding.all`), and the fields decoded from a word make up that word
(`encodeWord_of_decodeWord`). -/
theorem decodeOfEncode : Obligations.DecodeOfEncode := by
  unfold Obligations.DecodeOfEncode
  refine ⟨Encoding.all, fun _ _ => encodeWord_of_decodeWord, decode_encC, fun i rest h => ?_⟩
  obtain ⟨f, rfl⟩ | ⟨w, hw⟩ := encode_ne_nil h
  · exact decodeBytes_header f rest
  · exact decodeBytes_word hw rest

/-- Settles O57: the fields of these words are numerals, and so is what the tables give for them. -/
theorem wordsDecode : Obligations.WordsDecode := by
  unfold Obligations.WordsDecode
  refine ⟨?_, ?_, ?_, ?_, ?_, ?_, ?_, ?_, ?_, ?_⟩ <;> rfl

end Sys2Proof.Machine
end

section
/-! ## The checks of R187 before an instruction's own, and what a fetch can meet instead of one (06_encoding.md R177, R185, R187, R456) -/
namespace Sys2Proof.Machine

variable {i : Instr} {s : State} {k : HartKind}

/-! ### Traps before any effect -/

/-- A contained trap on a hart that is not cancelled; it is no UE, so nothing is logged. -/
theorem finish_trap {o : Option Instr} {late : Bool} {code : BitVec 8} {info : Word} (hc : cancelled s = false) (hue : code ≠ Cause.ue) :
    finish s o late (.error (.trap code info)) = takeTrap s (curPc s) code info late false := by
  simp only [finish, hc, Bool.false_eq_true, if_false, logged, hue]

/-- Every arm of `exec` for an instruction with a word is a use of `perform`; a step of the device has no word. -/
theorem exec_eq_perform (h : (encodeWord i).isSome = true) (s : State) : ∃ body, exec i s = perform i s body := by
  cases i <;> cases h <;> exact ⟨_, rfl⟩

/-- What the common checks stop with is the instruction's answer. -/
theorem exec_of_preCheck {code : BitVec 8} {info : Word} (hw : (encodeWord i).isSome = true) (hk : curKind s = some k)
    (hc : cancelled s = false) (hpre : preCheck k i s = some (.trap code info)) (hue : code ≠ Cause.ue) :
    exec i s = .next (takeTrap s (curPc s) code info false false) := by
  obtain ⟨body, e⟩ := exec_eq_perform hw s
  rw [e, perform, hk]
  dsimp only
  rw [hpre]
  exact congrArg Host.Outcome.next (finish_trap hc hue)

section
variable (hh : isHeader i = false) (hs : strayFollow i = false) (hl : loneCopy i s = false)
include hh hs hl

theorem preCheck_hartclass (h : hartExecutes k i = false) : preCheck k i s = some (.trap Cause.hartclass (instrWord i)) := by
  simp [preCheck, hh, hs, hl, h]

theorem preCheck_reservedField (h : hartExecutes k i = true) (hf : fieldsOk k i = false) :
    preCheck k i s = some (.trap Cause.reservedField (instrWord i)) := by
  simp [preCheck, hh, hs, hl, h, hf]

theorem preCheck_allot {n : Nat} (h : hartExecutes k i = true) (hf : fieldsOk k i = true) (hk : k = .aHart ∨ k = .xHart)
    (ha : allotFault (coreOf s (curCore s)).allot i = some n) : preCheck k i s = some (.trap Cause.allot (BitVec.ofNat 64 n)) := by
  simp [preCheck, hh, hs, hl, h, hf, hk, ha]

end

/-- Settles O26: steps 2 to 4 of R187 are the tests of `preCheck` in their order, and every instruction goes through it. -/
theorem encodingChecksComeFirst : Obligations.EncodingChecksComeFirst := by
  unfold Obligations.EncodingChecksComeFirst
  intro i s k hw hh hk hc hs hl
  refine ⟨fun h => ?_, fun h hf => ?_, fun h hf hcompute n ha => ?_⟩
  · exact exec_of_preCheck hw hk hc (preCheck_hartclass hh hs hl h) (by decide)
  · exact exec_of_preCheck hw hk hc (preCheck_reservedField hh hs hl h hf) (by decide)
  · exact exec_of_preCheck hw hk hc (preCheck_allot hh hs hl h hf hcompute ha) (by decide)

/-! ### What a fetch meets instead of an instruction, and the convoy header -/

/-- Where no body ends, execution goes on after an instruction of one parcel or two (R217). -/
theorem fallThrough_of_inside {c : Ctl} {len : Word} (hlen : len ≠ 16) (h : ∀ top ∈ c.loops.head?, top.fin ≠ c.pc) :
    (fallThrough c len).1 = { pc := c.pc + len, loops := c.loops } := by
  have hends : endsTop c.loops c.pc = false := by
    unfold endsTop
    split
    · rfl
    · next top rest e => exact beq_false_of_ne (h top (by rw [e]; rfl))
  rw [fallThrough, hends, beq_false_of_ne hlen]
  rfl

/-- Settles O29: both faults are traps at the place fetched, and the header ends by 4 bytes. -/
theorem fetchFaultsAndConvoyHeaders : Obligations.FetchFaultsAndConvoyHeaders := by
  unfold Obligations.FetchFaultsAndConvoyHeaders
  refine ⟨fun w s k hk hc => ?_, fun f s h => ?_⟩
  · have hevent : ∀ t, event (curKind s).isSome t = .next t := fun t => by rw [event, hk, Option.isSome_some, if_pos rfl]
    constructor
    · exact (hevent _).trans (congrArg _ (finish_trap hc (by decide)))
    · exact (hevent _).trans (congrArg _ (finish_trap hc (by decide)))
  · obtain ⟨k, hk⟩ := admitted_curKind h
    exact ⟨advanceBy 4 s, perform_ok h rfl, advanceBy_frame 4 s, fun hend => (ctl_advanceBy hk 4).trans (fallThrough_of_inside (by decide) hend)⟩

end Sys2Proof.Machine
end

section
/-! ## Engine commands at issue (10_memory_engines_tasks.md R300, R321 to R330, R441) -/
namespace Sys2Proof.Machine

/-! ### What stands until a command is in flight -/

/-- The issuer's place, every scalar register, and each core's tokens and commands stand: what checks, translations and slots leave. -/
structure Prepared (s t : State) : Prop where
  cur : t.cur = s.cur
  ctl : ctl t = ctl s
  registers : SameRegisters s t
  tokens : ∀ k, (coreOf t k).tokens = (coreOf s k).tokens
  engines : ∀ k, (coreOf t k).engines = (coreOf s k).engines

namespace Prepared
variable {s t u : State}

theorem trans (h : Prepared s t) (h' : Prepared t u) : Prepared s u where
  cur := h'.cur.trans h.cur
  ctl := h'.ctl.trans h.ctl
  registers := h.registers.trans h'.registers
  tokens k := (h'.tokens k).trans (h.tokens k)
  engines k := (h'.engines k).trans (h.engines k)

theorem of_walked (h : Walked s t) : Prepared s t where
  cur := h.cur
  ctl := h.ctl
  registers := h.get
  tokens k := by have e := congrArg Core.tokens (h.cores k).rest; exact e
  engines k := by have e := congrArg Core.engines (h.cores k).rest; exact e

theorem commitAll (s : State) (l : List Resolved) : Prepared s (commitAll s l) := .of_walked (.commitAll s l)

/-- A change of a core beside its tokens and commands. -/
theorem modCore (s : State) (c : Nat) {f : Core → Core} (ht : ∀ k, (f k).tokens = k.tokens) (he : ∀ k, (f k).engines = k.engines) :
    Prepared s (modCore s c f) where
  cur := rfl
  ctl := rfl
  registers := .refl s
  tokens k := by
    rw [coreOf_modCore]
    split
    · next e => rw [e, ht]
    · rfl
  engines k := by
    rw [coreOf_modCore]
    split
    · next e => rw [e, he]
    · rfl

theorem leadHart (h : Prepared s t) {id : Nat} (hcur : s.cur = .hart id) : leadHart t = leadHart s := by
  rw [leadHart_of_hart hcur, leadHart_of_hart (h.cur.trans hcur)]
theorem curCore (h : Prepared s t) {id : Nat} (hcur : s.cur = .hart id) : curCore t = curCore s := by
  rw [curCore_of_hart hcur, curCore_of_hart (h.cur.trans hcur)]
theorem curKind (h : Prepared s t) : curKind t = curKind s := by unfold Machine.curKind; rw [h.cur]
end Prepared

/-! ### A command put in flight -/

/-- The state in which a command is in flight, before its first line moves. -/
def issuedState (t : State) (e : EngineRec) (len : Word) : State :=
  advanceBy len (modCore (addEngine t e) (curCore t) fun k => { k with tokens := k.tokens.set 0 e.token (k.tokens.get 0 e.token + 1) })

theorem issueEngine_eq (t : State) (e : EngineRec) (len : Word) :
    issueEngine t e len = groupArrival (issuedState t e len) (curCore t) (coreOf t (curCore t)).engines.length := rfl

/-- The command enters its scope, which is the work of a walker. -/
theorem addEngine_walked (t : State) (e : EngineRec) :
    Walked (modCore t (curCore t) fun k => { k with engines := k.engines ++ [e] }) (addEngine t e) := (Walked.scope _).enterScope (.refl _)

/-- A part of a core that no walker changes, once the command is entered. -/
theorem coreOf_addEngine {β : Type} (v : Core → β) (hv : ∀ c d, CoreWalked c d → v d = v c) (t : State) (e : EngineRec) (k : Nat) :
    v (coreOf (addEngine t e) k) = v (if k = curCore t then { coreOf t k with engines := (coreOf t k).engines ++ [e] } else coreOf t k) := by
  rw [hv _ _ ((addEngine_walked t e).cores k), coreOf_modCore]
  split
  · next h => rw [h]
  · rfl

theorem tokens_addEngine (t : State) (e : EngineRec) (k : Nat) : (coreOf (addEngine t e) k).tokens = (coreOf t k).tokens := by
  rw [coreOf_addEngine Core.tokens fun c d w => by have e := congrArg Core.tokens w.rest; exact e]
  split <;> rfl

theorem engines_addEngine (t : State) (e : EngineRec) : (coreOf (addEngine t e) (curCore t)).engines = (coreOf t (curCore t)).engines ++ [e] := by
  rw [coreOf_addEngine Core.engines fun c d w => by have e := congrArg Core.engines w.rest; exact e, if_pos rfl]

theorem coreOf_issuedState (t : State) (e : EngineRec) (len : Word) (k : Nat) : coreOf (issuedState t e len) k =
    if k = curCore t then { coreOf (addEngine t e) k with
      tokens := (coreOf (addEngine t e) k).tokens.set 0 e.token ((coreOf (addEngine t e) k).tokens.get 0 e.token + 1) }
    else coreOf (addEngine t e) k := by
  rw [issuedState, (advanceBy_frame len _).coreOf, coreOf_modCore]
  split
  · next h => rw [h]
  · rfl

theorem tokens_issuedState (t : State) (e : EngineRec) (len : Word) : (coreOf (issuedState t e len) (curCore t)).tokens.get 0 e.token =
    (coreOf t (curCore t)).tokens.get 0 e.token + 1 := by
  rw [coreOf_issuedState, if_pos rfl]
  dsimp only
  rw [Tbl.get_set_same, tokens_addEngine]

theorem engines_issuedState (t : State) (e : EngineRec) (len : Word) : (coreOf (issuedState t e len) (curCore t)).engines =
    (coreOf t (curCore t)).engines ++ [e] := by
  rw [coreOf_issuedState, if_pos rfl]
  exact engines_addEngine t e

/-- What the commands and tokens of a core are no part of stands. -/
theorem part_issuedState {β : Type} (v : Core → β) (hv : ∀ c d, CoreWalked c d → v d = v c)
    (hin : ∀ c tokens engines, v { c with tokens := tokens, engines := engines } = v c) (t : State) (e : EngineRec) (len : Word) (k : Nat) :
    v (coreOf (issuedState t e len) k) = v (coreOf t k) := by
  have h : v (coreOf (addEngine t e) k) = v (coreOf t k) := by
    rw [coreOf_addEngine v hv]
    split
    · exact hin _ _ _
    · rfl
  rw [coreOf_issuedState]
  split
  · exact (hin _ _ _).trans h
  · exact h

theorem registers_issuedState (t : State) (e : EngineRec) (len : Word) : SameRegisters t (issuedState t e len) :=
  (addEngine_walked t e).get.trans (advanceBy_frame len _).sameRegisters

theorem ctl_issuedState {t : State} {k : HartKind} (hk : curKind t = some k) (e : EngineRec) (len : Word) :
    ctl (issuedState t e len) = (fallThrough (ctl t) len).1 := by
  have hw := addEngine_walked t e
  rw [issuedState, ctl_advanceBy (k := k)]
  · exact congrArg (fun c => (fallThrough c len).1) hw.ctl
  · show curKind (addEngine t e) = some k
    rw [← hk]; unfold curKind; rw [hw.cur]; rfl

/-- A command that an instruction issues from a prepared state is in flight as R321 and R326 say. -/
theorem commandIssued_of_prepared {i : Instr} {s t : State} {e : EngineRec} {token : Nat} {ops : List Word} {len : Word}
    {also : State → EngineRec → Prop} {id : Nat} {k : HartKind} (hk : curKind s = some k) (hcur : s.cur = .hart id) (h : Prepared s t)
    (hexec : exec i s = .next (issueEngine t e len)) (hinstr : e.instr = instrWord i) (hops : e.ops = ops) (htoken : e.token = token)
    (hhart : e.hart = leadHart s) (hdone : e.done = 0) (hbuffer : e.buffer = []) (halso : also (issuedState t e len) e) :
    CommandIssued i s token ops len also := by
  subst htoken
  have hc := h.curCore hcur
  have hengines := engines_issuedState t e len
  have htokens := tokens_issuedState t e len
  rw [hc, h.engines] at hengines
  rw [hc, h.tokens] at htokens
  refine ⟨issuedState t e len, e, ?_, ?_, htokens, ?_, ?_, hinstr, hops, rfl, hhart, hdone, hbuffer,
    h.registers.trans (registers_issuedState t e len), halso⟩
  · rw [hexec, issueEngine_eq, hc, h.engines]
  · rw [ctl_issuedState (h.curKind.trans hk), h.ctl]
  · rw [hengines, List.length_append, List.length_singleton]
  · rw [hengines, List.getElem?_append_right (Nat.le_refl _), Nat.sub_self]; rfl

/-! ### A command's record: its kind and stream, by its word (R182) -/

theorem word_mod (w : Word) : w.toNat % 16384 = (w.extractLsb' 8 6).toNat * 256 + (w.extractLsb' 0 8).toNat := by
  simp only [BitVec.extractLsb'_toNat, Nat.shiftRight_eq_div_pow]
  omega

theorem mod_of_encE {w : Word} {M : BitVec 8} {S : BitVec 6} {f : FmtE} (h : w = encE M S f) : w.toNat % 16384 = S.toNat * 256 + M.toNat := by
  rw [word_mod, h, Laws.major_encE, Laws.sub_encE]

/-- The kind of a command goes by its MAJOR and SUB alone: that of the word in which every field is 0. -/
theorem kind_of_encE {e : EngineRec} {M : BitVec 8} {S : BitVec 6} {f : FmtE} {kind : EngKind} (h : e.instr = encE M S f)
    (hk : { e with instr := BitVec.ofNat 64 (S.toNat * 256 + M.toNat) }.kind = kind) : e.kind = kind := by
  have hmod : (BitVec.ofNat 64 (S.toNat * 256 + M.toNat)).toNat % 16384 = S.toNat * 256 + M.toNat := by
    rw [BitVec.toNat_ofNat]; omega
  rw [← hk]
  unfold EngineRec.kind
  rw [mod_of_encE h, hmod]

theorem bits_eq_zero {n m lo w : Nat} (h : n < 2 ^ m) (hlo : m ≤ lo) : bits n lo w = 0 := by
  rw [bits, Nat.shiftRight_eq_zero n lo (Nat.lt_of_lt_of_le h (Nat.pow_le_pow_right (by decide) hlo)), Nat.zero_mod]

theorem bits_eq_extract (w : Word) (lo n : Nat) : bits w.toNat lo n = (w.extractLsb' lo n).toNat := by
  rw [bits, BitVec.extractLsb'_toNat]

/-- The stream of a command in format E is its STRM. -/
theorem strm_of_encE {e : EngineRec} {M : BitVec 8} {S : BitVec 6} {f : FmtE} (h : e.instr = encE M S f) (hk : e.kind ≠ .mld ∧ e.kind ≠ .mst) :
    e.strm = f.strm.toNat := by
  rw [EngineRec.strm, if_neg (by simp [hk]), bits_eq_extract, h]
  exact congrArg (fun g : FmtE => g.strm.toNat) (Laws.decE_encE M S f)

section
variable (s : State) (f : FmtE) (ops : List Word) (token : Nat) (engine : BitVec 3)

theorem kind_cpy : (newEngine s (.cpy f) ops token engine).kind = .cpy := kind_of_encE (f := f) rfl rfl
theorem kind_cpyw : (newEngine s (.cpyw f) ops token engine).kind = .cpyw := kind_of_encE (f := f) rfl rfl
theorem kind_tfetch : (newEngine s (.tfetch f) ops token engine).kind = .tfetch := kind_of_encE (f := f) rfl rfl
theorem kind_prefb : (newEngine s (.prefb f) ops token engine).kind = .prefb := kind_of_encE (f := f) rfl rfl
theorem kind_tiermv : (newEngine s (.tiermv f) ops token engine).kind = .tiermv := kind_of_encE (f := f) rfl rfl

theorem strm_tfetch : (newEngine s (.tfetch f) ops token engine).strm = f.strm.toNat :=
  strm_of_encE (S := 2) rfl (by rw [kind_tfetch]; decide)
theorem strm_prefb : (newEngine s (.prefb f) ops token engine).strm = f.strm.toNat :=
  strm_of_encE (S := 0) rfl (by rw [kind_prefb]; decide)
theorem strm_tiermv : (newEngine s (.tiermv f) ops token engine).strm = f.strm.toNat :=
  strm_of_encE (S := 1) rfl (by rw [kind_tiermv]; decide)
end

/-! ### Checks at issue -/

theorem engineReady_iff {s : State} {strm token : Nat} : engineReady s strm token = true ↔ acknowledgedOn s (leadHart s) (· == strm) = true ∧
    (coreOf s (curCore s)).tokens.get 0 token < 255 ∧ inFlight (coreOf s (curCore s)) < 8 := by
  simp [engineReady, and_assoc]

section
variable {s : State} {f : FmtE} (hready : engineReady s f.strm.toNat (f.d.num.toNat % 32) = true)
include hready

theorem afterStream_of_ready : afterStream s (leadHart s) f.strm.toNat = .ok () := afterStream_of_acknowledged (engineReady_iff.1 hready).1

theorem engineRoom_of_ready : engineRoom s (f.d.num.toNat % 32) = .ok () := by
  obtain ⟨-, htoken, hroom⟩ := engineReady_iff.1 hready
  rw [engineRoom, if_neg (by simp [htoken, hroom])]

theorem prefb_answers {m : RangeMap} (hlen : (xRead s f.b).toNat ≤ 2 ^ 32)
    (hm : resolveRange s (issueCtx s (.prefb f) [xRead s f.a, xRead s f.b, 0] (f.d.num.toNat % 32) 1)
      { rd := true, handle := .published, peer := false } (xRead s f.a) (xRead s f.b).toNat = .ok m) :
    prefb f s = if xRead s f.b = 0 then .ok (advance s)
      else .ok (issueEngine (commitAll s m.commits) (newEngine s (.prefb f) [xRead s f.a, xRead s f.b, 0] (f.d.num.toNat % 32) 1) 8) := by
  have hneed := need_of_true (decide_eq_true hlen) Cause.reservedField (instrWord (.prefb f))
  unfold prefb
  extract_lets i id e
  have hm' : resolveRange s (engineCtx s e) { rd := true, handle := .published, peer := false } e.opA e.opB.toNat = .ok m := hm
  have hn : needI i (decide (e.opB.toNat ≤ 2 ^ 32)) Cause.reservedField = .ok () := hneed
  have hs : e.strm = f.strm.toNat := strm_prefb ..
  have hr : engineRoom s e.token = .ok () := engineRoom_of_ready hready
  rw [hn, hm', hs, afterStream_of_ready hready, hr]
  rfl

end

theorem tierEnd_ok {s : State} {e : EngineRec} {va : Word} {len : Nat} {wr : Bool} {m : RangeMap}
    (hm : resolveRange s (engineCtx s e)
      { rd := !wr, wr := wr, handle := if wr then .hidden else .published, peer := false, align := 4096 } va len = .ok m)
    (hp : tierPlaces s m va = .ok ()) : tierEnd s e va len wr = .ok m.commits := by
  simp only [tierEnd, bind, Except.bind, hm, hp]

/-- Where TIERMV has passed its checks (R92, R330). -/
theorem tiermv_answers {s : State} {f : FmtE} (hready : engineReady s f.strm.toNat (f.d.num.toNat % 32) = true) (hb : f.b.num ≠ 63)
    {n : Word} {d a : RangeMap} {e : EngineRec} (hn : (hartOf s (leadHart s)).get (f.b.num.toNat + 1) = n)
    (he : newEngine s (.tiermv f) [xRead s f.a, xRead s f.b, n] (f.d.num.toNat % 32) 1 = e) (halign : n.toNat % 4096 = 0)
    (hd : tierEnd s e (xRead s f.a) n.toNat true = .ok d.commits) (ha : tierEnd s e (xRead s f.b) n.toNat false = .ok a.commits)
    (hopen : n ≠ 0 → handleOpen s (engineCtx s e) (xRead s f.a) = .ok ()) :
    tiermv f s = if n = 0 then .ok (advance s) else .ok (issueEngine (commitAll s (d.commits ++ a.commits)) e 8) := by
  have hops : ∀ o, (hartOf s (leadHart s)).opnd o = xRead s o := fun _ => rfl
  have hA : e.opA = xRead s f.a := by rw [← he]; rfl
  have hB : e.opB = xRead s f.b := by rw [← he]; rfl
  have hstrm : e.strm = f.strm.toNat := by rw [← he, strm_tiermv]
  have htoken : e.token = f.d.num.toNat % 32 := by rw [← he]; rfl
  have hbne : (f.b.num != 63) = true := bne_iff_ne.2 hb
  have hzero : n.toNat = 0 ↔ n = 0 := by rw [← BitVec.toNat_inj]; rfl
  simp only [tiermv, bind, Except.bind, needI, need, hbne, hn, hops, he, halign, hA, hB, hd, ha, hstrm, htoken, afterStream_of_ready hready,
    engineRoom_of_ready hready, lift, beq_self_eq_true, if_true, hzero, ok]
  by_cases h0 : n = 0
  · simp only [h0, if_true]
  · simp only [h0, if_false, hopen h0]

/-! ### Linear copies (R323 to R326) -/

/-- What a copy does once its checks, its translations and its waits are behind it. -/
def copyEnds (s t : State) (e : EngineRec) : Option Instr → M State
  | none => if e.total = 0 then .ok (advance t) else .ok (issueEngine t e 8)
  | some j =>
    let e1 := { e with finstr := instrWord j, fops := followOps s j, fpend := true }
    if (followCores e1 (curCore s)).any fun c => !slotFree s c (followSlot e1) (hartOf s (leadHart s)).context true then stall s
    else (pledgeSlots t (leadHart s) (followCores e1 (curCore s)) (followSlot e1)).map fun u => issueEngine u e1 16

theorem copy_linear {i : Instr} {f : FmtE} {s : State} {wbuf : Bool} {fol : Option Instr} {n : Word} {e : EngineRec} {a d : RangeMap}
    (hready : engineReady s f.strm.toNat (f.d.num.toNat % 32) = true) (hb : f.b.num ≠ 63)
    (hn : (hartOf s (leadHart s)).get (f.b.num.toNat + 1) = n)
    (he : newEngine s i [xRead s f.a, xRead s f.b, n] (f.d.num.toNat % 32) 1 = e) (hfol : followInstr i s = .ok fol)
    (hneed : (bits n.toNat 56 7 == 0 && (n.getLsbD 63 || bits n.toNat 32 24 == 0) && (!wbuf || decide ((xRead s f.a).toNat < 2 ^ 21))) = true)
    (hstrm : e.strm = f.strm.toNat) (hmapped : e.mapped = false)
    (ha : resolveRange s (engineCtx s e) (e.reads (!wbuf) 1) (xRead s f.b) e.total = .ok a)
    (hw : wbuf = true → wbufRange (xRead s f.a).toNat e.total = .ok ())
    (hd : wbuf = false → resolveRange s (engineCtx s e) { wr := true, handle := .hidden } (xRead s f.a) e.total = .ok d)
    (hopen : wbuf = false → e.total ≠ 0 → handleOpen s (engineCtx s e) (xRead s f.a) = .ok ()) :
    copy i f wbuf s = copyEnds s (commitAll s (a.commits ++ if wbuf then [] else d.commits)) e fol := by
  have hops : ∀ o, (hartOf s (leadHart s)).opnd o = xRead s o := fun _ => rfl
  have hA : e.opA = xRead s f.a := by rw [← he]; rfl
  have hB : e.opB = xRead s f.b := by rw [← he]; rfl
  have hbne : (f.b.num != 63) = true := bne_iff_ne.2 hb
  have hafter : afterStream s (leadHart s) e.strm = .ok () := by rw [hstrm]; exact afterStream_of_ready hready
  have hroom : engineRoom s e.token = .ok () := by rw [← he]; exact engineRoom_of_ready hready
  cases wbuf with
  | true =>
    simp only [copy, bind, Except.bind, needI, need, hbne, hfol, hn, hops, he, hA, hB, hneed, hmapped, ha, hw rfl, Except.map, hafter, hroom,
      lift, if_true, Bool.false_eq_true, if_false, Bool.true_or]
    cases fol <;> rfl
  | false =>
    simp only [copy, bind, Except.bind, needI, need, hbne, hfol, hn, hops, he, hA, hB, hneed, hmapped, ha, hd rfl, Except.map, hafter, hroom,
      lift, if_true, Bool.false_eq_true, if_false, Bool.false_or]
    split
    · cases fol <;> rfl
    · next h0 =>
      rw [hopen rfl fun h => h0 (beq_iff_eq.2 h)]
      cases fol <;> rfl

/-- CPY, or CPYW. -/
def copyOf (f : FmtE) (wbuf : Bool) : Instr := if wbuf then .cpyw f else .cpy f

section
variable {s : State} {f : FmtE} {wbuf : Bool}

theorem exec_copyOf : exec (copyOf f wbuf) s = perform (copyOf f wbuf) s (copy (copyOf f wbuf) f wbuf) := by cases wbuf <;> rfl

theorem encodeWord_copyOf : encodeWord (copyOf f wbuf) = some (encE 0x90 (if wbuf then 1 else 0) f) := by cases wbuf <;> rfl

theorem kind_copyOf {ops : List Word} {token : Nat} {engine : BitVec 3} :
    (newEngine s (copyOf f wbuf) ops token engine).kind = if wbuf then .cpyw else .cpy := by
  cases wbuf
  · exact kind_cpy ..
  · exact kind_cpyw ..

/-- A copy without a follow-on reads nothing at the next place (R186). -/
theorem followInstr_none (h : f.foll = false) : followInstr (copyOf f wbuf) s = .ok none := by
  have hbit : (instrWord (copyOf f wbuf)).getLsbD 48 = f.foll := by
    rw [instrWord, encodeWord_copyOf]
    exact congrArg FmtE.foll (Laws.decE_encE ..)
  rw [followInstr, hbit, h]
  rfl

theorem mapped_of_copy {e : EngineRec} (h : e.kind = if wbuf then .cpyw else .cpy) : e.mapped = e.opC.getLsbD 63 := by
  unfold EngineRec.mapped
  rw [h]
  cases wbuf <;> rfl

theorem total_of_copy {e : EngineRec} (h : e.kind = if wbuf then .cpyw else .cpy) (hm : e.mapped = false) : e.total = e.opC.toNat % 2 ^ 32 := by
  unfold EngineRec.total
  rw [h, hm]
  cases wbuf <;> rfl

theorem resolveRange_zero (c : AddrCtx) (r : Req) (va : Word) : resolveRange s c r va 0 = .ok {} := by
  unfold resolveRange
  rw [if_pos rfl]

variable {n : Word} {e : EngineRec} {a : RangeMap} {fol : Option Instr}
  (hready : engineReady s f.strm.toNat (f.d.num.toNat % 32) = true) (hb : f.b.num ≠ 63)
  (hn : (hartOf s (leadHart s)).get (f.b.num.toNat + 1) = n)
  (he : newEngine s (copyOf f wbuf) [xRead s f.a, xRead s f.b, n] (f.d.num.toNat % 32) 1 = e)
  (hfol : followInstr (copyOf f wbuf) s = .ok fol) (hlen : n.toNat < 2 ^ 32)
  (ha : resolveRange s (engineCtx s e) { rd := true, handle := .published, peer := !wbuf } (xRead s f.b) n.toNat = .ok a)
  (hw : wbuf = true → (xRead s f.a).toNat < 2 ^ 21 ∧ (xRead s f.a).toNat + n.toNat ≤ 2 ^ 21)
  (hd : wbuf = false → ∃ d, resolveRange s (engineCtx s e) { wr := true, handle := .hidden } (xRead s f.a) n.toNat = .ok d)
  (hopen : wbuf = false → n ≠ 0 → handleOpen s (engineCtx s e) (xRead s f.a) = .ok ())
include hready hb hn he hfol hlen ha hw hd hopen

/-- A linear copy whose ranges are permitted has passed its checks; of 0 bytes it commits no translation. -/
theorem copyOf_answers : e.total = n.toNat ∧
    ∃ l, (n = 0 → l = []) ∧ copy (copyOf f wbuf) f wbuf s = copyEnds s (commitAll s l) e fol := by
  have hkind : e.kind = if wbuf then .cpyw else .cpy := by rw [← he]; exact kind_copyOf
  have hC : e.opC = n := by rw [← he]; rfl
  have hhigh : n.getLsbD 63 = false := by
    rw [← BitVec.testBit_toNat]
    exact Nat.testBit_lt_two_pow (by omega)
  have hmapped : e.mapped = false := by rw [mapped_of_copy hkind, hC, hhigh]
  have htotal : e.total = n.toNat := by rw [total_of_copy hkind hmapped, hC, Nat.mod_eq_of_lt hlen]
  have hinstr : e.instr = encE 0x90 (if wbuf then 1 else 0) f := by
    rw [← he]
    exact congrArg (Option.getD · 0) encodeWord_copyOf
  have hstrm : e.strm = f.strm.toNat := strm_of_encE hinstr (by rw [hkind]; cases wbuf <;> decide)
  have hneed : (bits n.toNat 56 7 == 0 && (n.getLsbD 63 || bits n.toNat 32 24 == 0) && (!wbuf || decide ((xRead s f.a).toNat < 2 ^ 21))) = true := by
    rw [bits_eq_zero hlen (by decide), bits_eq_zero hlen (by decide), hhigh]
    cases wbuf with
    | false => rfl
    | true => exact decide_eq_true (hw rfl).1
  have hreads : e.reads (!wbuf) 1 = { rd := true, handle := .published, peer := !wbuf } := by
    rw [EngineRec.reads, hkind]
    cases wbuf <;> rfl
  have hrange : wbuf = true → wbufRange (xRead s f.a).toNat e.total = .ok () := fun h => by
    rw [wbufRange, htotal, if_neg (Nat.not_lt.2 (hw h).2)]
  have hzero : n = 0 → n.toNat = 0 := fun h => by rw [h]; rfl
  have hne : wbuf = false → e.total ≠ 0 → handleOpen s (engineCtx s e) (xRead s f.a) = .ok () := fun h h0 =>
    hopen h fun hn0 => h0 (htotal.trans (hzero hn0))
  rw [← htotal] at ha
  refine ⟨htotal, ?_⟩
  cases wbuf with
  | true =>
    refine ⟨a.commits, fun h0 => ?_, ?_⟩
    · rw [htotal, hzero h0, resolveRange_zero] at ha
      cases ha
      rfl
    · rw [copy_linear hready hb hn he hfol hneed hstrm hmapped (by rw [hreads]; exact ha) hrange (d := {}) (fun h => by cases h) hne,
        if_pos rfl, List.append_nil]
  | false =>
    obtain ⟨d, hd⟩ := hd rfl
    rw [← htotal] at hd
    refine ⟨a.commits ++ d.commits, fun h0 => ?_, ?_⟩
    · rw [htotal, hzero h0, resolveRange_zero] at ha hd
      cases ha
      cases hd
      rfl
    · exact copy_linear hready hb hn he hfol hneed hstrm hmapped (by rw [hreads]; exact ha) hrange (fun _ => hd) hne
end

/-! ### The map of a TFETCH, read at issue (R328, R329) -/

/-- A state that differs from `s` at most in how many free values have been taken. -/
def FreeApart (s t : State) : Prop := ∃ n, t = { s with freeCount := n }

theorem FreeApart.refl (s : State) : FreeApart s s := ⟨s.freeCount, rfl⟩

theorem FreeApart.trans {s t u : State} (h : FreeApart s t) (h' : FreeApart t u) : FreeApart s u := by
  obtain ⟨n, rfl⟩ := h
  obtain ⟨m, rfl⟩ := h'
  exact ⟨m, rfl⟩

theorem FreeApart.memRead (s : State) (pa n : Nat) : FreeApart s (memRead s pa n).2 := by
  unfold Machine.memRead
  split
  · exact ⟨_, rfl⟩
  · exact .refl s

theorem FreeApart.devReadBytes (s : State) (off n : Nat) : FreeApart s (devReadBytes s off n).2 := by
  unfold Machine.devReadBytes devRead
  split
  · exact .refl s
  · exact ⟨_, rfl⟩

theorem FreeApart.devReadSpan (s : State) (off n : Nat) : FreeApart s (devReadSpan s off n).2 := by
  refine foldl_keeps (fun x : List Byte × State => FreeApart s x.2) _ (fun x j hx => ?_) _ _ (.refl s)
  extract_lets lo hi
  split
  · exact hx.trans (.devReadBytes x.2 lo (hi - lo))
  · exact hx

theorem FreeApart.progRead (s : State) (p : Place) (n : Nat) : FreeApart s (progRead s p n).2 := by
  unfold Machine.progRead
  split
  · exact .memRead ..
  · exact .devReadSpan ..
  · exact .refl s

/-- Reads of a program take free values at most. -/
theorem FreeApart.progReadRange (s : State) (m : RangeMap) : FreeApart s (progReadRange s m).2 := by
  refine foldl_keeps (fun x : List Byte × State => FreeApart s x.2) _ (fun x p hx => ?_) _ _ (.refl s)
  exact hx.trans (.progRead ..)

theorem FreeApart.prepared {s t : State} (h : FreeApart s t) : Prepared s t := by
  obtain ⟨n, rfl⟩ := h
  exact ⟨rfl, rfl, .refl s, fun _ => rfl, fun _ => rfl⟩

theorem mapIssue_free {i : Instr} {s : State} {e : EngineRec} {r : State × List Resolved × (Nat × List Nat)} (h : mapIssue i s e = .ok r) :
    FreeApart s r.1 := by
  unfold mapIssue at h
  dsimp only at h
  obtain ⟨m, -, h⟩ := ok_of_bind h
  split at h
  · cases h
  obtain ⟨-, -, h⟩ := ok_of_bind h
  obtain ⟨-, -, h⟩ := ok_of_bind h
  obtain ⟨-, -, h⟩ := ok_of_bind h
  obtain ⟨g, -, h⟩ := ok_of_bind h
  split at h
  · cases h
  obtain ⟨-, -, h⟩ := ok_of_bind h
  obtain ⟨l, -, h⟩ := ok_of_bind h
  cases h
  exact (FreeApart.progReadRange ..).trans (.progReadRange ..)

theorem tfetch_answers {f : FmtE} {s : State} {r : State × List Resolved × (Nat × List Nat)} {e : EngineRec} (hA : (xRead s f.a).toNat < 16)
    (he : newEngine s (.tfetch f) [xRead s f.a, xRead s f.b, 0] (f.d.num.toNat % 32) 2 = e) (hr : mapIssue (.tfetch f) s e = .ok r)
    (hready : engineReady s f.strm.toNat (f.d.num.toNat % 32) = true)
    (hst : ((coreOf s (curCore s)).tiles.get {} (xRead s f.a).toNat).st ≠ .loading)
    (hread : tileRead (coreOf s (curCore s)) (xRead s f.a).toNat = false) :
    tfetch f s = .ok (issueEngine (modCore (commitAll r.1 r.2.1) (curCore s) fun k =>
      { k with tiles := k.tiles.set {} (xRead s f.a).toNat { st := .loading, map := xRead s f.b, token := f.d.num.toNat % 32 } })
      { e with tmap := some r.2.2 } 8) := by
  have hops : ∀ o, (hartOf s (leadHart s)).opnd o = xRead s o := fun _ => rfl
  have hopA : e.opA = xRead s f.a := by rw [← he]; rfl
  have hopB : e.opB = xRead s f.b := by rw [← he]; rfl
  have hstrm : e.strm = f.strm.toNat := by rw [← he, strm_tfetch]
  have htoken : e.token = f.d.num.toNat % 32 := by rw [← he]; rfl
  have hcond : (decide (((coreOf s (curCore s)).tiles.get {} (xRead s f.a).toNat).st = .loading) ||
      tileRead (coreOf s (curCore s)) (xRead s f.a).toNat) = false := by rw [decide_eq_false hst, hread]; rfl
  simp only [tfetch, bind, Except.bind, needI, need, hops, he, hopA, hopB, hr, hstrm, htoken, afterStream_of_ready hready,
    engineRoom_of_ready hready, decide_eq_true hA, if_true, hcond, Bool.false_eq_true, if_false, ok]

/-! ### Slots made ready for a follow-on (R289, R298, R326) -/

theorem pledgeSlots_of_owned {t : State} {id n : Nat} {cores : List Nat} (h : ∀ c ∈ cores, ownsSlot t c n (hartOf t id).context = true) :
    pledgeSlots t id cores n = .ok (cores.foldl (fun u c => modSlot u c n fun x => { x with full := false }) t) := by
  have hown : cores.foldlM (fun u c => ownSlot u c n id) t = .ok t := by
    induction cores with
    | nil => rfl
    | cons c cs ih =>
      rw [List.foldlM_cons, ownSlot_of_owns (h c List.mem_cons_self)]
      exact ih fun d hd => h d (List.mem_cons_of_mem _ hd)
  rw [pledgeSlots, hown]
  rfl

theorem Prepared.pledged (n : Nat) : ∀ (cores : List Nat) (t : State),
    Prepared t (cores.foldl (fun u c => modSlot u c n fun x => { x with full := false }) t)
  | [], t => .of_walked (.refl t)
  | c :: cs, t => Prepared.trans (t := modSlot t c n fun x => { x with full := false })
    (.modCore t c (fun _ => rfl) fun _ => rfl) (pledged n cs _)

theorem full_pledged {c n : Nat} : ∀ (cores : List Nat) (t : State), (c ∈ cores ∨ (slotOf t c n).full = false) →
    (slotOf (cores.foldl (fun u c => modSlot u c n fun x => { x with full := false }) t) c n).full = false
  | [], t, h => h.resolve_left List.not_mem_nil
  | d :: ds, t, h => full_pledged ds _ (by
    by_cases hc : c = d
    · subst hc
      exact .inr (by rw [slotOf_modSlot_same])
    · refine h.imp (fun hm => (List.mem_cons.1 hm).resolve_left hc) fun hf => ?_
      rw [slotOf_modSlot, if_neg fun e => hc e.1, hf])

/-- A copy with its follow-on on slots that are free and owned. -/
theorem copyEnds_followOn {s t : State} {e e1 : EngineRec} {j : Instr}
    (he : { e with finstr := instrWord j, fops := followOps s j, fpend := true } = e1)
    (hfree : ∀ c ∈ followCores e1 (curCore s), slotFree s c (followSlot e1) (hartOf s (leadHart s)).context true = true)
    (hown : ∀ c ∈ followCores e1 (curCore s), ownsSlot t c (followSlot e1) (hartOf t (leadHart s)).context = true) :
    copyEnds s t e (some j) = .ok (issueEngine
      ((followCores e1 (curCore s)).foldl (fun u c => modSlot u c (followSlot e1) fun x => { x with full := false }) t) e1 16) := by
  have hany : ((followCores e1 (curCore s)).any fun c => !slotFree s c (followSlot e1) (hartOf s (leadHart s)).context true) = false := by
    simpa using hfree
  unfold copyEnds
  dsimp only
  rw [he, hany, pledgeSlots_of_owned hown]
  rfl

/-! ### MLD and MST (R300) -/

theorem slotMove_answers {i : Instr} {f : FmtX} {s : State} {load : Bool} {m : RangeMap}
    (hm : resolveRange s { hartCtx s (leadHart s) with pav := none }
      { rd := load, wr := !load, handle := .none, window := false, align := 128, peer := false } (xRead s f.da) 65536 = .ok m)
    (hack : acknowledgedOn s (leadHart s) (· == f.db.num.toNat % 16) = true) (hroom : inFlight (coreOf s (curCore s)) < 8)
    (hslot : slotReady s (curCore s) f.slot.toNat load = true) :
    slotMove i f load s = .ok (groupArrival (advance
      (if load then modSlot (addEngine (commitAll s m.commits) (newEngine s i [xRead s f.da, 0, 0] 0 3)) (curCore s) f.slot.toNat
          fun t => { t with full := false }
        else addEngine (commitAll s m.commits) (newEngine s i [xRead s f.da, 0, 0] 0 3)))
      (curCore s) (coreOf s (curCore s)).engines.length) := by
  have hfull : ¬ 8 ≤ inFlight (vCore s) := Nat.not_le.2 hroom
  simp only [slotMove, bind, Except.bind, hm, lift, afterStream_of_acknowledged hack, onSlot_of_ready hslot, hfull, if_false, ok]

/-! ### The obligation -/

/-- The issuer of an admitted instruction that no bank executes is one hart. -/
theorem hart_of_admitted {i : Instr} {s : State} (h : admitted i s = true) (hh : isHeader i = false) (hb : hartExecutes .bank i = false) :
    (∃ k, curKind s = some k) ∧ s.cur = .hart (leadHart s) := ⟨admitted_curKind h, cur_of_admitted h hh hb⟩

theorem copyOf_hart {f : FmtE} {wbuf : Bool} {s : State} (h : admitted (copyOf f wbuf) s = true) :
    (∃ k, curKind s = some k) ∧ s.cur = .hart (leadHart s) := hart_of_admitted h (by cases wbuf <;> rfl) (by cases wbuf <;> rfl)

theorem copy_clause {f : FmtE} {wbuf : Bool} {s : State} {a : RangeMap} {n : Word} (h : admitted (copyOf f wbuf) s = true)
    (hfoll : f.foll = false) (hb : f.b.num ≠ 63) (hn : (hartOf s (leadHart s)).get (f.b.num.toNat + 1) = n) (hlen : n.toNat < 2 ^ 32)
    (ha : resolveRange s (issueCtx s (copyOf f wbuf) [xRead s f.a, xRead s f.b, n] (f.d.num.toNat % 32) 1)
      { rd := true, handle := .published, peer := !wbuf } (xRead s f.b) n.toNat = .ok a)
    (hw : wbuf = true → (xRead s f.a).toNat < 2 ^ 21 ∧ (xRead s f.a).toNat + n.toNat ≤ 2 ^ 21)
    (hd : wbuf = false → ∃ d, resolveRange s (issueCtx s (copyOf f wbuf) [xRead s f.a, xRead s f.b, n] (f.d.num.toNat % 32) 1)
      { wr := true, handle := .hidden } (xRead s f.a) n.toNat = .ok d)
    (hopen : wbuf = false → n ≠ 0 →
      handleOpen s (issueCtx s (copyOf f wbuf) [xRead s f.a, xRead s f.b, n] (f.d.num.toNat % 32) 1) (xRead s f.a) = .ok ())
    (hready : engineReady s f.strm.toNat (f.d.num.toNat % 32) = true) :
    (n ≠ 0 → CommandIssued (copyOf f wbuf) s (f.d.num.toNat % 32) [xRead s f.a, xRead s f.b, n] 8 fun _ _ => True) ∧
    (n = 0 → exec (copyOf f wbuf) s = .next (advance s)) := by
  obtain ⟨⟨k, hk⟩, hcur⟩ := copyOf_hart h
  obtain ⟨htotal, l, hl, hcopy⟩ := copyOf_answers hready hb hn rfl (followInstr_none hfoll) hlen ha hw hd hopen
  refine ⟨fun h0 => ?_, fun h0 => ?_⟩
  · have hne : n.toNat ≠ 0 := fun e => h0 (BitVec.eq_of_toNat_eq e)
    rw [copyEnds, htotal, if_neg hne] at hcopy
    exact commandIssued_of_prepared hk hcur (.commitAll s l) (exec_copyOf.trans (perform_ok h hcopy)) rfl rfl rfl rfl rfl rfl trivial
  · rw [copyEnds, htotal, if_pos (by rw [h0]; rfl), hl h0] at hcopy
    exact exec_copyOf.trans (perform_ok h hcopy)

theorem followOn_clause {f : FmtE} {s : State} {j : Instr} {a d : RangeMap} {n : Word} {e : EngineRec} (h : admitted (.cpy f) s = true)
    (hb : f.b.num ≠ 63) (hfol : followInstr (.cpy f) s = .ok (some j)) (hn : (hartOf s (leadHart s)).get (f.b.num.toNat + 1) = n)
    (he : { newEngine s (.cpy f) [xRead s f.a, xRead s f.b, n] (f.d.num.toNat % 32) 1 with
      finstr := instrWord j, fops := followOps s j, fpend := true } = e)
    (hlen : n.toNat < 2 ^ 32)
    (ha : resolveRange s (issueCtx s (.cpy f) [xRead s f.a, xRead s f.b, n] (f.d.num.toNat % 32) 1)
      { rd := true, handle := .published } (xRead s f.b) n.toNat = .ok a)
    (hd : resolveRange s (issueCtx s (.cpy f) [xRead s f.a, xRead s f.b, n] (f.d.num.toNat % 32) 1)
      { wr := true, handle := .hidden } (xRead s f.a) n.toNat = .ok d)
    (hopen : handleOpen s (issueCtx s (.cpy f) [xRead s f.a, xRead s f.b, n] (f.d.num.toNat % 32) 1) (xRead s f.a) = .ok ())
    (hready : engineReady s f.strm.toNat (f.d.num.toNat % 32) = true)
    (hslots : ∀ c ∈ followCores e (curCore s), slotFree s c (followSlot e) (hartOf s (leadHart s)).context true = true ∧
      ownsSlot s c (followSlot e) (hartOf s (leadHart s)).context = true) :
    CommandIssued (.cpy f) s (f.d.num.toNat % 32) [xRead s f.a, xRead s f.b, n] 16 fun u e' =>
      e'.finstr = instrWord j ∧ e'.fops = followOps s j ∧ e'.fpend = true ∧
        ∀ c ∈ followCores e (curCore s), (slotOf u c (followSlot e)).full = false := by
  obtain ⟨⟨k, hk⟩, hcur⟩ := hart_of_admitted h rfl rfl
  obtain ⟨-, l, -, hcopy⟩ := copyOf_answers (wbuf := false) hready hb hn rfl hfol hlen ha (fun h => by cases h) (fun _ => ⟨d, hd⟩)
    fun _ _ => hopen
  have hctx : (hartOf (commitAll s l) (leadHart s)).context = (hartOf s (leadHart s)).context := by
    have e := congrArg Hart.context ((Walked.commitAll s l).harts (leadHart s)); exact e
  have hown : ∀ c ∈ followCores e (curCore s),
      ownsSlot (commitAll s l) c (followSlot e) (hartOf (commitAll s l) (leadHart s)).context = true := fun c hc => by
    rw [ownsSlot, (Walked.commitAll s l).slotOf, hctx]
    exact (hslots c hc).2
  have hends := hcopy.trans (copyEnds_followOn he (fun c hc => (hslots c hc).1) hown)
  subst he
  refine commandIssued_of_prepared hk hcur ((Prepared.commitAll s l).trans (.pledged ..)) (perform_ok h hends) rfl rfl rfl rfl rfl rfl
    ⟨rfl, rfl, rfl, fun c hc => ?_⟩
  rw [slotOf, part_issuedState Core.slots (fun c d w => by have e := congrArg Core.slots w.rest; exact e) fun _ _ _ => rfl]
  exact full_pledged _ _ (.inl hc)

theorem tfetch_clause {f : FmtE} {s : State} {r : State × List Resolved × (Nat × List Nat)} (h : admitted (.tfetch f) s = true)
    (hA : (xRead s f.a).toNat < 16)
    (hr : mapIssue (.tfetch f) s (newEngine s (.tfetch f) [xRead s f.a, xRead s f.b, 0] (f.d.num.toNat % 32) 2) = .ok r)
    (hready : engineReady s f.strm.toNat (f.d.num.toNat % 32) = true)
    (hst : ((coreOf s (curCore s)).tiles.get {} (xRead s f.a).toNat).st ≠ .loading)
    (hread : tileRead (coreOf s (curCore s)) (xRead s f.a).toNat = false) :
    CommandIssued (.tfetch f) s (f.d.num.toNat % 32) [xRead s f.a, xRead s f.b, 0] 8 fun t _ =>
      (coreOf t (curCore s)).tiles.get {} (xRead s f.a).toNat = { st := .loading, map := xRead s f.b, token := f.d.num.toNat % 32 } := by
  obtain ⟨⟨k, hk⟩, hcur⟩ := hart_of_admitted h rfl rfl
  have hbody := tfetch_answers hA rfl hr hready hst hread
  have hprep := ((mapIssue_free hr).prepared.trans (.commitAll r.1 r.2.1)).trans
    (.modCore _ (curCore s) (f := fun k => { k with
      tiles := k.tiles.set {} (xRead s f.a).toNat { st := .loading, map := xRead s f.b, token := f.d.num.toNat % 32 } })
      (fun _ => rfl) fun _ => rfl)
  refine commandIssued_of_prepared hk hcur hprep (perform_ok h hbody) rfl rfl rfl rfl rfl rfl ?_
  rw [part_issuedState Core.tiles (fun c d w => by have e := congrArg Core.tiles w.rest; exact e) fun _ _ _ => rfl, coreOf_modCore_same,
    Tbl.get_set_same]

theorem prefb_clause {f : FmtE} {s : State} {m : RangeMap} (h : admitted (.prefb f) s = true) (hlen : (xRead s f.b).toNat ≤ 2 ^ 32)
    (hm : resolveRange s (issueCtx s (.prefb f) [xRead s f.a, xRead s f.b, 0] (f.d.num.toNat % 32) 1)
      { rd := true, handle := .published, peer := false } (xRead s f.a) (xRead s f.b).toNat = .ok m)
    (hready : engineReady s f.strm.toNat (f.d.num.toNat % 32) = true) :
    (xRead s f.b ≠ 0 → CommandIssued (.prefb f) s (f.d.num.toNat % 32) [xRead s f.a, xRead s f.b, 0] 8 fun _ _ => True) ∧
    (xRead s f.b = 0 → exec (.prefb f) s = .next (advance s)) := by
  obtain ⟨⟨k, hk⟩, hcur⟩ := hart_of_admitted h rfl rfl
  have hbody := prefb_answers hready hlen hm
  refine ⟨fun h0 => ?_, fun h0 => ?_⟩
  · rw [if_neg h0] at hbody
    exact commandIssued_of_prepared hk hcur (.commitAll s m.commits) (perform_ok h hbody) rfl rfl rfl rfl rfl rfl trivial
  · rw [if_pos h0] at hbody
    exact perform_ok h hbody

theorem tiermv_clause {f : FmtE} {s : State} {a d : RangeMap} {n : Word} (h : admitted (.tiermv f) s = true) (hb : f.b.num ≠ 63)
    (hn : (hartOf s (leadHart s)).get (f.b.num.toNat + 1) = n) (halign : n.toNat % 4096 = 0)
    (hd : resolveRange s (issueCtx s (.tiermv f) [xRead s f.a, xRead s f.b, n] (f.d.num.toNat % 32) 1)
      { wr := true, handle := .hidden, peer := false, align := 4096 } (xRead s f.a) n.toNat = .ok d)
    (ha : resolveRange s (issueCtx s (.tiermv f) [xRead s f.a, xRead s f.b, n] (f.d.num.toNat % 32) 1)
      { rd := true, handle := .published, peer := false, align := 4096 } (xRead s f.b) n.toNat = .ok a)
    (hpd : tierPlaces s d (xRead s f.a) = .ok ()) (hpa : tierPlaces s a (xRead s f.b) = .ok ())
    (hopen : n ≠ 0 →
      handleOpen s (issueCtx s (.tiermv f) [xRead s f.a, xRead s f.b, n] (f.d.num.toNat % 32) 1) (xRead s f.a) = .ok ())
    (hready : engineReady s f.strm.toNat (f.d.num.toNat % 32) = true) :
    (n ≠ 0 → CommandIssued (.tiermv f) s (f.d.num.toNat % 32) [xRead s f.a, xRead s f.b, n] 8 fun _ _ => True) ∧
    (n = 0 → exec (.tiermv f) s = .next (advance s)) := by
  obtain ⟨⟨k, hk⟩, hcur⟩ := hart_of_admitted h rfl rfl
  have hbody := tiermv_answers hready hb hn rfl halign (tierEnd_ok hd hpd) (tierEnd_ok ha hpa) hopen
  refine ⟨fun h0 => ?_, fun h0 => ?_⟩
  · rw [if_neg h0] at hbody
    exact commandIssued_of_prepared hk hcur (.commitAll s _) (perform_ok h hbody) rfl rfl rfl rfl rfl rfl trivial
  · rw [if_pos h0] at hbody
    exact perform_ok h hbody

/-- MLD, or MST. -/
def moveOf (f : FmtX) (load : Bool) : Instr := if load then .mld f else .mst f

theorem exec_moveOf (f : FmtX) (load : Bool) (s : State) : exec (moveOf f load) s = perform (moveOf f load) s (slotMove (moveOf f load) f load) := by
  cases load <;> rfl

/-- The state of a slot load or store in flight: a load leaves its slot not FULL (R300). -/
def movedState (t : State) (e : EngineRec) (c slot : Nat) (load : Bool) : State :=
  if load then modSlot (addEngine t e) c slot fun x => { x with full := false } else addEngine t e

theorem movedState_prepared (t : State) (e : EngineRec) (c slot : Nat) (load : Bool) :
    Prepared (addEngine t e) (movedState t e c slot load) := by
  cases load
  · exact .of_walked (.refl _)
  · exact .modCore _ c (fun _ => rfl) fun _ => rfl

theorem slotMove_clause {f : FmtX} {s : State} {load : Bool} {m : RangeMap} (h : admitted (moveOf f load) s = true)
    (hm : resolveRange s { hartCtx s (leadHart s) with pav := none }
      { rd := load, wr := !load, handle := .none, window := false, align := 128, peer := false } (xRead s f.da) 65536 = .ok m)
    (hack : acknowledgedOn s (leadHart s) (· == f.db.num.toNat % 16) = true) (hroom : inFlight (coreOf s (curCore s)) < 8)
    (hslot : slotReady s (curCore s) f.slot.toNat load = true) :
    ∃ u e, exec (moveOf f load) s = .next (groupArrival u (curCore s) (coreOf s (curCore s)).engines.length) ∧ ctl u = nextPlace s ∧
      (coreOf u (curCore s)).engines[(coreOf s (curCore s)).engines.length]? = some e ∧
      e.instr = instrWord (moveOf f load) ∧ e.ops = [xRead s f.da, 0, 0] ∧ (coreOf u (curCore s)).tokens = (coreOf s (curCore s)).tokens ∧
      (load = true → (slotOf u (curCore s) f.slot.toNat).full = false) ∧ SameRegisters s u := by
  obtain ⟨⟨k, hk⟩, hcur⟩ := hart_of_admitted h (by cases load <;> rfl) (by cases load <;> rfl)
  obtain ⟨e, he⟩ : ∃ e, newEngine s (moveOf f load) [xRead s f.da, 0, 0] 0 3 = e := ⟨_, rfl⟩
  have hexec := (exec_moveOf f load s).trans (perform_ok h (slotMove_answers hm hack hroom hslot))
  rw [he] at hexec
  have hcommit := Prepared.commitAll s m.commits
  have hwalked := addEngine_walked (commitAll s m.commits) e
  have hmoved := movedState_prepared (commitAll s m.commits) e (curCore s) f.slot.toNat load
  have hengines := engines_addEngine (commitAll s m.commits) e
  rw [hcommit.curCore hcur, hcommit.engines] at hengines
  refine ⟨advance (movedState (commitAll s m.commits) e (curCore s) f.slot.toNat load), e, hexec, ?_, ?_, by rw [← he]; rfl,
    by rw [← he]; rfl, ?_, ?_, ?_⟩
  · exact ctl_advance_of hk (hmoved.cur.trans (hwalked.cur.trans hcommit.cur)) (hmoved.ctl.trans (hwalked.ctl.trans hcommit.ctl))
  · rw [advance_coreOf, hmoved.engines, hengines, List.getElem?_append_right (Nat.le_refl _), Nat.sub_self]
    rfl
  · rw [advance_coreOf, hmoved.tokens, tokens_addEngine, hcommit.tokens]
  · rintro rfl
    rw [slotOf_advance]
    exact congrArg Slot.full (slotOf_modSlot_same ..)
  · exact ((hcommit.registers.trans hwalked.get).trans hmoved.registers).trans (advance_frame _).sameRegisters

/-- Settles O38: each command passes its checks and is put in flight by `issueEngine` from a state that differs in translations, slots and
tiles alone (`commandIssued_of_prepared`). -/
theorem engineCommandsIssue : Obligations.EngineCommandsIssue := by
  unfold Obligations.EngineCommandsIssue
  refine ⟨?_, ?_, ?_, ?_, ?_, ?_⟩
  · rintro f s i a (rfl | rfl) h hfoll hb n ops c hlen ha hw hd hready
    · rw [decide_eq_true rfl] at ha
      exact copy_clause (wbuf := false) h hfoll hb rfl hlen ha (fun e => by cases e) (fun _ => (hd rfl).1) (fun _ => (hd rfl).2) hready
    · rw [decide_eq_false (fun e => by cases e)] at ha
      exact copy_clause (wbuf := true) h hfoll hb rfl hlen ha (fun _ => hw rfl) (fun e => by cases e) (fun e => by cases e) hready
  · intro f s j a d h hfoll hb hfol n ops c e0 hlen h0 ha hd hopen hready hslots
    exact followOn_clause h hb hfol rfl rfl hlen ha hd hopen hready hslots
  · intro f s r h hA hr hready hst hread
    exact tfetch_clause h hA hr hready hst hread
  · intro f s m h hlen hm hready
    exact prefb_clause h hlen hm hready
  · intro f s a d h hb n ops c halign hd ha hpd hpa hopen hready
    exact tiermv_clause h hb rfl halign hd ha hpd hpa hopen hready
  · rintro f s i load m rfl h hm hack hroom hfree howns len
    exact slotMove_clause h hm hack hroom (slotReady_iff.2 ⟨hfree, howns⟩)

end Sys2Proof.Machine
end

section
/-! ## Scalar results in exact arithmetic (07_scalar_control.md R201 to R207)

Each function of the model on words is the value that the spec's table gives in the integers. -/
namespace Sys2Proof.Machine

/-! ### Sums, shifts and comparisons -/

theorem add_eq_valAdd (a b : Word) : a + b = valAdd a b := by
  rw [valAdd, BitVec.ofNat_add, BitVec.ofNat_toNat, BitVec.ofNat_toNat, BitVec.setWidth_eq, BitVec.setWidth_eq]

/-- The wrapped difference of two integers. -/
theorem ofInt_sub_eq (x y : Int) : BitVec.ofInt 64 (x - y) = BitVec.ofInt 64 x - BitVec.ofInt 64 y := by
  rw [Int.sub_eq_add_neg, BitVec.ofInt_add, BitVec.ofInt_neg, BitVec.sub_eq_add_neg]

theorem sub_eq_valSub (a b : Word) : a - b = valSub a b := by
  rw [valSub, ofInt_sub_eq, BitVec.ofInt_toInt, BitVec.ofInt_toInt]

theorem shiftLeft_eq_valShl (a : Word) (n : Nat) : a <<< n = valShl a n :=
  BitVec.eq_of_toNat_eq (by rw [valShl, BitVec.toNat_shiftLeft, BitVec.toNat_ofNat, Nat.shiftLeft_eq])

theorem ushiftRight_eq_valShr (a : Word) (n : Nat) : a >>> n = valShr a n :=
  BitVec.eq_of_toNat_eq (by
    rw [valShr, BitVec.toNat_ushiftRight, Nat.shiftRight_eq_div_pow, BitVec.toNat_ofNat,
      Nat.mod_eq_of_lt (lt_of_le_of_lt (Nat.div_le_self ..) a.isLt)])

theorem sshiftRight_eq_valSra (a : Word) (n : Nat) : a.sshiftRight n = valSra a n := by
  rw [valSra, BitVec.sshiftRight, Int.shiftRight_eq_div_pow, Nat.cast_pow]
  rfl

/-- The two parts of a rotated word do not meet, so they add up. -/
theorem rorOp_eq_valRor (a b : Word) : rorOp a b = valRor a (b.toNat % 64) := by
  have hn : b.toNat % 64 < 64 := Nat.mod_lt _ (by decide)
  have hapart : (a >>> (b.toNat % 64)) &&& (a <<< (64 - b.toNat % 64)) = 0#64 := by
    ext k hk
    simp only [BitVec.getElem_and, BitVec.getElem_ushiftRight, BitVec.getElem_shiftLeft, BitVec.getElem_zero]
    by_cases h : k < 64 - b.toNat % 64
    · simp [h]
    · simp [BitVec.getLsbD_of_ge a (b.toNat % 64 + k) (by omega)]
  rw [rorOp, sh6, BitVec.rotateRight_def, Nat.mod_eq_of_lt hn, ← BitVec.add_eq_or_of_and_eq_zero _ _ hapart,
    ushiftRight_eq_valShr, shiftLeft_eq_valShl, valRor, BitVec.ofNat_add]
  rfl

theorem bool64_eq_val01 {c : Bool} {p : Prop} [Decidable p] (h : c = true ↔ p) : bool64 c = val01 p := by
  simp only [bool64, val01, h]

theorem minOp_eq (a b : Word) : minOp a b = if a.toInt < b.toInt then a else b := by simp only [minOp, BitVec.slt_iff_toInt_lt]
theorem maxOp_eq (a b : Word) : maxOp a b = if b.toInt < a.toInt then a else b := by simp only [maxOp, BitVec.slt_iff_toInt_lt]
theorem minuOp_eq (a b : Word) : minuOp a b = if a.toNat < b.toNat then a else b := by simp only [minuOp, BitVec.ult_iff_toNat_lt]
theorem maxuOp_eq (a b : Word) : maxuOp a b = if b.toNat < a.toNat then a else b := by simp only [maxuOp, BitVec.ult_iff_toNat_lt]

/-! ### Counts of bits -/

theorem length_filter_range_succ (p : Nat → Bool) (n : Nat) :
    ((List.range (n + 1)).filter p).length = ((List.range n).filter p).length + if p n then 1 else 0 := by
  rw [List.range_succ, List.filter_append, List.length_append, List.filter_singleton]
  cases p n <;> rfl

theorem oneBits_eq (a : Word) : ∀ n, oneBits a n = ((List.range n).filter a.getLsbD).length
  | 0 => rfl
  | n + 1 => by rw [oneBits, oneBits_eq a n, length_filter_range_succ]

theorem popcOp_eq (a : Word) : popcOp a = countBits a.getLsbD := by rw [popcOp, oneBits_eq, countBits]

/-- The leading zeros below bit `n` are counted by the powers of two above the word's low `n` bits. -/
theorem leadZeros_eq (a : Word) : ∀ n, leadZeros a n = ((List.range n).filter fun k => decide (a.toNat % 2 ^ n < 2 ^ k)).length
  | 0 => rfl
  | n + 1 => by
    have hmod : a.toNat % 2 ^ (n + 1) = a.toNat % 2 ^ n + 2 ^ n * (a.getLsbD n).toNat := by
      rw [Nat.mod_pow_succ, BitVec.getLsbD, Nat.testBit_eq_decide_div_mod_eq]
      rcases Nat.mod_two_eq_zero_or_one (a.toNat / 2 ^ n) with h | h <;> simp [h]
    have hlt : a.toNat % 2 ^ n < 2 ^ n := Nat.mod_lt _ (Nat.two_pow_pos n)
    rw [leadZeros]
    cases hbit : a.getLsbD n with
    | true =>
      rw [if_pos rfl, eq_comm, List.length_eq_zero_iff, List.filter_eq_nil_iff]
      intro k hk
      have hpow : 2 ^ k ≤ 2 ^ n := Nat.pow_le_pow_right (by decide) (by rw [List.mem_range] at hk; omega)
      rw [hmod, hbit, Bool.toNat_true]
      simp only [decide_eq_true_eq]
      omega
    | false =>
      rw [if_neg (by decide), leadZeros_eq a n, hmod, hbit, Bool.toNat_false, Nat.mul_zero, length_filter_range_succ]
      simp only [Nat.add_zero, hlt, decide_true, if_true]

theorem clzOp_eq (a : Word) : clzOp a = countBits fun k => decide (a.toNat < 2 ^ k) := by
  rw [clzOp, leadZeros_eq, Nat.mod_eq_of_lt a.isLt, countBits]

/-- The trailing zeros from bit `k` on are counted by the powers of two that divide the word shifted down by `k`. -/
theorem trailZeros_eq (a : Word) : ∀ n k, trailZeros a k n = ((List.range n).filter fun j => decide (a.toNat / 2 ^ k % 2 ^ (j + 1) = 0)).length
  | 0, _ => rfl
  | n + 1, k => by
    have hodd : a.getLsbD k = true ↔ a.toNat / 2 ^ k % 2 = 1 := by
      rw [BitVec.getLsbD, Nat.testBit_eq_decide_div_mod_eq, decide_eq_true_eq]
    rw [trailZeros]
    split
    · next h =>
      rw [eq_comm, List.length_eq_zero_iff, List.filter_eq_nil_iff]
      intro j _
      have hdvd := Nat.mod_mod_of_dvd (a.toNat / 2 ^ k) (Dvd.intro_left (2 ^ j) (Nat.pow_succ (n := 2) (m := j)).symm)
      rw [hodd] at h
      rw [decide_eq_true_eq]
      intro hz
      rw [hz] at hdvd
      omega
    · next h =>
      have heven : a.toNat / 2 ^ k = 2 * (a.toNat / 2 ^ (k + 1)) := by rw [hodd] at h; rw [Nat.pow_succ, ← Nat.div_div_eq_div_mul]; omega
      rw [trailZeros_eq a n (k + 1), List.range_succ_eq_map, List.filter_cons, if_pos (by rw [heven]; simp), List.length_cons, List.filter_map,
        List.length_map]
      congr 3
      funext j
      rw [Function.comp_apply, heven, Nat.pow_succ' (n := j + 1), Nat.mul_mod_mul_left]
      simp

theorem ctzOp_eq (a : Word) : ctzOp a = countBits fun k => decide (a.toNat % 2 ^ (k + 1) = 0) := by
  rw [ctzOp, trailZeros_eq, countBits, Nat.pow_zero, Nat.div_one]

/-! ### Extensions and fields -/

theorem extWidth_eq (mod : BitVec 10) : extWidth mod = extBits mod := by
  have h : ∀ n, n < 4 → 8 <<< n = (match n with | 0 => 8 | 1 => 16 | 2 => 32 | _ => 64) := by decide
  exact h _ (Nat.mod_lt _ (by decide))

theorem sextOp_eq (n : Nat) (a : Word) : sextOp n a = BitVec.ofInt 64 (BitVec.ofNat n a.toNat).toInt := by
  rw [sextOp, BitVec.signExtend, BitVec.ofNat_toNat]

theorem zextOp_eq (n : Nat) (a : Word) : zextOp n a = BitVec.ofNat 64 (a.toNat % 2 ^ n) :=
  BitVec.eq_of_toNat_eq (by rw [zextOp, BitVec.toNat_setWidth, BitVec.toNat_setWidth, BitVec.toNat_ofNat])

theorem bfPos_eq (b : Word) : bfPos b = fieldPos b := by rw [bfPos, fieldPos, BitVec.extractLsb'_toNat, Nat.shiftRight_zero]
theorem bfLen_eq (b : Word) : bfLen b = fieldLen b := by rw [bfLen, fieldLen, bfPos_eq, BitVec.extractLsb'_toNat]

theorem field_within (b : Word) : fieldPos b + fieldLen b ≤ 64 := by
  have h : fieldPos b < 64 := (b.extractLsb' 0 6).isLt
  unfold fieldLen; omega

/-- The mask of a field has its ones in the field's bits. -/
theorem getLsbD_bfMask (b : Word) (k : Nat) : (bfMask b).getLsbD k = decide (fieldPos b ≤ k ∧ k < fieldPos b + fieldLen b) := by
  have hwithin := field_within b
  rw [bfMask, bfPos_eq, bfLen_eq, BitVec.getLsbD_ofNat, Nat.testBit_shiftLeft, Nat.testBit_two_pow_sub_one]
  rw [Bool.eq_iff_iff]
  simp only [Bool.and_eq_true, decide_eq_true_eq]
  omega

/-- The bits of a field, moved down to bit 0. -/
theorem masked_field (a b : Word) : (a &&& bfMask b) >>> bfPos b = BitVec.ofNat 64 (a.toNat / 2 ^ fieldPos b % 2 ^ fieldLen b) := by
  have hwithin := field_within b
  apply BitVec.eq_of_getLsbD_eq
  intro k hk
  rw [BitVec.getLsbD_ushiftRight, BitVec.getLsbD_and, getLsbD_bfMask, bfPos_eq, BitVec.getLsbD_ofNat, Nat.testBit_mod_two_pow,
    Nat.testBit_div_two_pow, BitVec.getLsbD]
  by_cases h : k < fieldLen b <;> simp [h, hk, Nat.add_comm]

/-- The top bit of a number of `n` bits, in a word. -/
theorem topBit_iff {f n : Nat} (hpos : 0 < n) (hn : n ≤ 64) (hf : f < 2 ^ n) :
    (BitVec.ofNat 64 f).getLsbD (n - 1) = true ↔ 2 ^ (n - 1) ≤ f := by
  rw [BitVec.getLsbD_ofNat, decide_eq_true (by omega), Bool.true_and]
  constructor
  · intro h
    by_contra hsmall
    rw [Nat.testBit_lt_two_pow (Nat.lt_of_not_le hsmall)] at h
    cases h
  · intro h
    exact Nat.testBit_of_two_pow_le_and_two_pow_add_one_gt h (by rw [Nat.sub_add_cancel hpos]; exact hf)

theorem bfxOp_eq (sx : Bool) (a b : Word) : bfxOp sx a b = valBfx sx a b := by
  have hlen : fieldLen b ≤ 64 := le_trans (Nat.le_add_left ..) (field_within b)
  have hlt : a.toNat / 2 ^ fieldPos b % 2 ^ fieldLen b < 2 ^ fieldLen b := Nat.mod_lt _ (Nat.two_pow_pos _)
  unfold bfxOp valBfx
  rw [masked_field, bfLen_eq]
  dsimp only
  generalize a.toNat / 2 ^ fieldPos b % 2 ^ fieldLen b = f at hlt
  refine if_congr ?_ ?_ rfl
  · rw [Bool.and_eq_true, Bool.and_eq_true, decide_eq_true_eq, and_assoc]
    exact and_congr_right fun _ => and_congr_right fun hpos => topBit_iff hpos hlen hlt
  · rw [ofInt_sub_eq, BitVec.ofInt_natCast, ← BitVec.ofInt_natCast 64 (2 ^ fieldLen b), Nat.cast_pow]
    rfl

/-- The sum of the powers of two that a predicate chooses has the chosen bits. -/
theorem testBit_sum_two_pow (p : Nat → Bool) : ∀ n,
    ((List.range n).filter p).foldl (fun x k => x + 2 ^ k) 0 < 2 ^ n ∧
      ∀ k, (((List.range n).filter p).foldl (fun x k => x + 2 ^ k) 0).testBit k = (decide (k < n) && p k)
  | 0 => ⟨by simp, fun k => by simp⟩
  | n + 1 => by
    obtain ⟨hlt, hbits⟩ := testBit_sum_two_pow p n
    rw [List.range_succ, List.filter_append, List.foldl_append, List.filter_singleton]
    generalize ((List.range n).filter p).foldl (fun x k => x + 2 ^ k) 0 = sum at hlt hbits
    cases hp : p n with
    | false =>
      refine ⟨by simp; omega, fun k => ?_⟩
      show sum.testBit k = _
      rw [hbits]
      by_cases hk : k = n
      · subst hk; simp [hp]
      · rw [decide_eq_decide.2 (by omega : k < n ↔ k < n + 1)]
    | true =>
      refine ⟨by simp; omega, fun k => ?_⟩
      show (sum + 2 ^ n).testBit k = _
      rw [Nat.add_comm]
      rcases lt_trichotomy k n with h | rfl | h
      · rw [Nat.testBit_two_pow_add_gt h, hbits, decide_eq_true h, decide_eq_true (by omega : k < n + 1)]
      · rw [Nat.testBit_two_pow_add_eq, hbits]; simp [hp]
      · rw [Nat.testBit_lt_two_pow, decide_eq_false (by omega), Bool.false_and]
        exact lt_of_lt_of_le (by rw [Nat.pow_succ]; omega) (Nat.pow_le_pow_right (by decide) h)

theorem bfiOp_eq (a b c : Word) : bfiOp a b c = valBfi a b c := by
  apply BitVec.eq_of_getLsbD_eq
  intro k hk
  rw [valBfi, BitVec.getLsbD_ofNat, (testBit_sum_two_pow _ 64).2, bfiOp, BitVec.getLsbD_or, BitVec.getLsbD_and, BitVec.getLsbD_and,
    BitVec.getLsbD_not, getLsbD_bfMask, BitVec.getLsbD_shiftLeft, bfPos_eq]
  by_cases h : fieldPos b ≤ k ∧ k < fieldPos b + fieldLen b
  · simp [h, hk, Nat.not_lt.2 h.1]
  · simp [h, hk]

/-! ### Products and quotients (R206, R207) -/

theorem mul_eq (a b : Word) : a * b = BitVec.ofNat 64 (a.toNat * b.toNat) := by
  rw [BitVec.ofNat_mul, BitVec.ofNat_toNat, BitVec.ofNat_toNat, BitVec.setWidth_eq, BitVec.setWidth_eq]

/-- A remainder is what the quotient leaves, also where the quotient wraps. -/
theorem remOp_eq (a b : Word) : remOp a b = valRem a b := by
  rw [remOp, valRem, divOp]
  split
  · next h => simp
  · next h => rw [Int.tmod_def, ofInt_sub_eq, BitVec.ofInt_mul, BitVec.ofInt_toInt, BitVec.ofInt_toInt]

theorem remuOp_eq (a b : Word) : remuOp a b = valRemu a b := by
  rw [remuOp, valRemu, divuOp]
  split
  · next h => simp
  · next h =>
    rw [sub_eq_iff_eq_add, mul_eq, BitVec.toNat_ofNat, Nat.mod_eq_of_lt (lt_of_le_of_lt (Nat.div_le_self ..) a.isLt), ← BitVec.ofNat_add,
      Nat.mod_add_div, BitVec.ofNat_toNat, BitVec.setWidth_eq]

/-! ### Immediates (R204) -/

theorem add_immS (a : Word) (f : FmtI) : a + immS f = BitVec.ofInt 64 (a.toInt + f.imm.toInt) := by
  rw [BitVec.ofInt_add, BitVec.ofInt_toInt, immS, BitVec.signExtend]

theorem slt_immS (a : Word) (f : FmtI) : a.slt (immS f) = true ↔ a.toInt < f.imm.toInt := by
  rw [BitVec.slt_iff_toInt_lt, immS, BitVec.toInt_signExtend_of_le (by decide)]

/-- The shifted source leaves the 30 bits of the immediate free. -/
theorem lihOp_eq (a : Word) (imm : BitVec 30) : lihOp a imm = BitVec.ofNat 64 (a.toNat * 2 ^ 30 + imm.toNat) := by
  have hapart : (a <<< 30) &&& imm.setWidth 64 = 0#64 := by
    ext k hk
    simp only [BitVec.getElem_and, BitVec.getElem_shiftLeft, BitVec.getElem_setWidth, BitVec.getElem_zero]
    by_cases h : k < 30
    · simp [h]
    · simp [BitVec.getLsbD_of_ge imm k (by omega)]
  rw [lihOp, ← BitVec.add_eq_or_of_and_eq_zero _ _ hapart, shiftLeft_eq_valShl, valShl, BitVec.ofNat_add, BitVec.ofNat_toNat]

end Sys2Proof.Machine
end

section
/-! ## Scalar arithmetic: majors 0x01 to 0x03 (07_scalar_control.md R198 to R207) -/
namespace Sys2Proof.Machine

/-! ### The shared shape -/

/-- Past its common checks the instruction writes `v` of each performing hart to register `d` of that hart, and ends. -/
def WritesEach (i : Instr) (s : State) (d : Opnd) (v : Hart → Word) : Prop :=
  ∃ body, exec i s = perform i s body ∧ body s = ok (advance (modPerformers s fun h => h.dest d (v h)))

section
variable {i : Instr} {s : State}

theorem WritesEach.result {d : Opnd} {v : Hart → Word} (h : WritesEach i s d v) (hadm : admitted i s = true) :
    ∃ t, exec i s = .next t ∧
      (∀ id ∈ performers s, (hartOf t id).get d.num.toNat = if d.num.toNat = 0 then 0 else v (hartOf s id)) ∧
      RegisterFrame s t (performers s) d.num.toNat ∧ ctl t = nextPlace s := by
  obtain ⟨body, hexec, hbody⟩ := h
  obtain ⟨k, hk⟩ := admitted_curKind hadm
  exact ⟨_, hexec.trans (perform_ok hadm hbody), scalar_shape s hk d v⟩

/-- An instruction of format R writes `v` of its three sources. -/
abbrev WritesR (i : Instr) (s : State) (f : FmtR) (v : Word → Word → Word → Word) : Prop :=
  WritesEach i s f.d fun h => v (h.opnd f.a) (h.opnd f.b) (h.opnd f.c)

theorem WritesEach.congr {d : Opnd} {v w : Hart → Word} (h : WritesEach i s d v) (hvw : ∀ h, v h = w h) : WritesEach i s d w :=
  funext hvw ▸ h

theorem writesR_of_scalar1 {f : FmtR} {op : Word → Word} {v : Word → Word → Word → Word} (hexec : exec i s = perform i s (scalar1 f op))
    (hop : ∀ a b c, op a = v a b c) : WritesR i s f v :=
  WritesEach.congr ⟨_, hexec, rfl⟩ fun _ => hop ..

theorem writesR_of_scalar2 {f : FmtR} {op : Word → Word → Word} {v : Word → Word → Word → Word}
    (hexec : exec i s = perform i s (scalar2 f op)) (hop : ∀ a b c, op a b = v a b c) : WritesR i s f v :=
  WritesEach.congr ⟨_, hexec, rfl⟩ fun _ => hop ..

theorem writesR_of_scalar3 {f : FmtR} {op v : Word → Word → Word → Word} (hexec : exec i s = perform i s (scalar3 f op))
    (hop : ∀ a b c, op a b c = v a b c) : WritesR i s f v :=
  WritesEach.congr ⟨_, hexec, rfl⟩ fun _ => hop ..

/-- An instruction of format I writes `v` of its source and its own address. -/
abbrev WritesI (i : Instr) (s : State) (f : FmtI) (v : Word → Word → Word) : Prop := WritesEach i s f.d fun h => v (h.opnd f.a) (curPc s)

theorem writesI_of_scalarImm {f : FmtI} {op : Word → Word} {v : Word → Word → Word} (hexec : exec i s = perform i s (scalarImm f op))
    (hop : ∀ a, op a = v a (curPc s)) : WritesI i s f v :=
  WritesEach.congr ⟨_, hexec, rfl⟩ fun _ => hop _

end

/-! ### Major 0x01 (R201 to R203) -/

theorem writesR_of_result01 {i : Instr} {f : FmtR} {v : Word → Word → Word → Word} (s : State) (h : result01 i = some (f, v)) :
    WritesR i s f v := by
  cases i with
  | add => cases h; exact writesR_of_scalar2 rfl fun a b _ => add_eq_valAdd a b
  | sub => cases h; exact writesR_of_scalar2 rfl fun a b _ => sub_eq_valSub a b
  | and | or | xor | andn => cases h; exact writesR_of_scalar2 rfl fun _ _ _ => rfl
  | shl => cases h; exact writesR_of_scalar2 rfl fun a b _ => shiftLeft_eq_valShl a _
  | shr => cases h; exact writesR_of_scalar2 rfl fun a b _ => ushiftRight_eq_valShr a _
  | sra => cases h; exact writesR_of_scalar2 rfl fun a b _ => sshiftRight_eq_valSra a _
  | ror => cases h; exact writesR_of_scalar2 rfl fun a b _ => rorOp_eq_valRor a b
  | min => cases h; exact writesR_of_scalar2 rfl fun a b _ => minOp_eq a b
  | max => cases h; exact writesR_of_scalar2 rfl fun a b _ => maxOp_eq a b
  | minu => cases h; exact writesR_of_scalar2 rfl fun a b _ => minuOp_eq a b
  | maxu => cases h; exact writesR_of_scalar2 rfl fun a b _ => maxuOp_eq a b
  | slt => cases h; exact writesR_of_scalar2 rfl fun _ _ _ => bool64_eq_val01 BitVec.slt_iff_toInt_lt
  | sltu => cases h; exact writesR_of_scalar2 rfl fun _ _ _ => bool64_eq_val01 BitVec.ult_iff_toNat_lt
  | seq => cases h; exact writesR_of_scalar2 rfl fun _ _ _ => bool64_eq_val01 beq_iff_eq
  | clz => cases h; exact writesR_of_scalar1 rfl fun a _ _ => clzOp_eq a
  | ctz => cases h; exact writesR_of_scalar1 rfl fun a _ _ => ctzOp_eq a
  | popc => cases h; exact writesR_of_scalar1 rfl fun a _ _ => popcOp_eq a
  | sext => cases h; exact writesR_of_scalar1 rfl fun a _ _ => by rw [extWidth_eq, sextOp_eq]
  | zext => cases h; exact writesR_of_scalar1 rfl fun a _ _ => by rw [extWidth_eq, zextOp_eq]
  | bfx => cases h; exact writesR_of_scalar2 rfl fun a b _ => bfxOp_eq _ a b
  | bfi => cases h; exact writesR_of_scalar3 rfl fun a b c => bfiOp_eq a b c
  | sel => cases h; exact writesR_of_scalar3 rfl fun _ _ _ => rfl
  | _ => cases h

/-- Settles O1: each instruction is one of the shared shapes, and its function is the table's value (`writesR_of_result01`). -/
theorem registerArithmeticResults : Obligations.RegisterArithmeticResults := by
  unfold Obligations.RegisterArithmeticResults
  exact fun i f v s h hadm => (writesR_of_result01 s h).result hadm

/-! ### Major 0x03 (R206, R207) -/

theorem writesR_of_result03 {i : Instr} {f : FmtR} {v : Word → Word → Word → Word} (s : State) (h : result03 i = some (f, v)) :
    WritesR i s f v := by
  cases i with
  | mul => cases h; exact writesR_of_scalar2 rfl fun a b _ => mul_eq a b
  | mulh | mulhu | div | divu => cases h; exact writesR_of_scalar2 rfl fun _ _ _ => rfl
  | rem => cases h; exact writesR_of_scalar2 rfl fun a b _ => remOp_eq a b
  | remu => cases h; exact writesR_of_scalar2 rfl fun a b _ => remuOp_eq a b
  | madd => cases h; exact writesR_of_scalar3 rfl fun a b c => by rw [BitVec.ofNat_add, ← mul_eq, BitVec.ofNat_toNat, BitVec.setWidth_eq]
  | _ => cases h

/-- Settles O3: each instruction is one of the shared shapes, and its function is the table's value (`writesR_of_result03`). -/
theorem multiplyDivideResults : Obligations.MultiplyDivideResults := by
  unfold Obligations.MultiplyDivideResults
  exact fun i f v s h hadm => (writesR_of_result03 s h).result hadm

/-! ### Major 0x02 (R204, R205) -/

/-- A check that every performing hart makes alike and that holds stops nothing. -/
theorem needOwn_of_true {s : State} {ok : Bool} (h : ok = true) (code : BitVec 8) (info : Word) : needOwn s ok code info = .ok () := by
  have hnone : ((performers s).filterMap fun id => ((none : Option (BitVec 8 × Word)).map fun e => (bankOfHart id, e))) = [] :=
    List.filterMap_eq_nil_iff.2 fun _ _ => rfl
  unfold needOwn ownFaults
  rw [if_pos h, hnone]

theorem shiftImm_of_lt {i : Instr} {f : FmtI} {op : Word → Word} {s : State} (h : f.imm.toNat < 64) : shiftImm i f op s = scalarImm f op s := by
  unfold shiftImm
  rw [needOwn_of_true (decide_eq_true h)]
  rfl

/-- A shift by an immediate of 0 to 63. -/
theorem writesI_of_shift {i : Instr} {f g : FmtI} {op : Word → Word} {val : Word → Word} {v : Word → Word → Word} {s : State}
    (h : (if g.imm.toNat < 64 then some (g, fun a (_ : Word) => val a) else none) = some (f, v))
    (hexec : exec i s = perform i s (shiftImm i g op)) (hop : ∀ a, op a = val a) : WritesI i s f v := by
  split at h
  · next hlt =>
    cases h
    exact WritesEach.congr ⟨_, hexec, shiftImm_of_lt hlt⟩ fun _ => hop _
  · cases h

theorem writesI_of_result02 {i : Instr} {f : FmtI} {v : Word → Word → Word} (s : State) (h : result02 i = some (f, v)) : WritesI i s f v := by
  cases i with
  | addi => cases h; exact writesI_of_scalarImm rfl fun a => add_immS a f
  | andi | ori | xori | li => cases h; exact writesI_of_scalarImm rfl fun _ => rfl
  | shli => exact writesI_of_shift h rfl fun a => shiftLeft_eq_valShl a _
  | shri => exact writesI_of_shift h rfl fun a => ushiftRight_eq_valShr a _
  | srai => exact writesI_of_shift h rfl fun a => sshiftRight_eq_valSra a _
  | slti => cases h; exact writesI_of_scalarImm rfl fun a => bool64_eq_val01 (slt_immS a f)
  | sltui => cases h; exact writesI_of_scalarImm rfl fun _ => bool64_eq_val01 BitVec.ult_iff_toNat_lt
  | lih => cases h; exact writesI_of_scalarImm rfl fun a => lihOp_eq a f.imm
  | addpc => cases h; exact writesI_of_scalarImm rfl fun _ => add_immS (curPc s) f
  | _ => cases h

theorem major_of_encodeWord {i : Instr} {w : BitVec 64} {M : BitVec 8} (h : encodeWord i = some w) (hM : w.extractLsb' 0 8 = M) :
    major i = M.toNat := by
  rw [major, instrWord, h, Option.getD_some, ← hM, BitVec.extractLsb'_toNat, Nat.shiftRight_zero]

theorem passedOver_of_admitted {i : Instr} {s : State} (h : admitted i s = true) : passedOver i s = false := by
  obtain ⟨k, hk⟩ := admitted_curKind h
  unfold admitted at h
  rw [hk] at h
  simp only [Bool.and_eq_true, Bool.not_eq_true'] at h
  obtain ⟨⟨-, hpass⟩, -⟩ := h
  exact hpass

/-- Where an instruction that is not the gang's own is admitted, some hart performs it (R42, R456). -/
theorem performers_ne_nil {i : Instr} {s : State} (h : admitted i s = true) (hg : gangWide i = false) : performers s ≠ [] := by
  obtain ⟨k, hk⟩ := admitted_curKind h
  cases hcur : s.cur with
  | hart id => unfold performers; rw [hcur]; exact List.cons_ne_nil _ _
  | pergola g =>
    intro hnil
    have hpass := passedOver_of_admitted h
    rw [passedOver, hnil, hg, inGang, hcur] at hpass
    cases hpass
  | bank g b =>
    simp only [performers, splitBanks, hcur]
    split <;> exact List.cons_ne_nil _ _
  | _ => rw [curKind, hcur] at hk; cases hk

/-- A check that every performing hart makes alike and that fails: each bank's own trap in a group, else the issuer's (R453, R454). -/
theorem needOwn_of_false {s : State} {ok : Bool} (h : ok = false) (hne : performers s ≠ []) (code : BitVec 8) (info : Word) :
    needOwn s ok code info =
      if inGroup s then .error (.banks ((performers s).map fun id => (bankOfHart id, code, info))) else .error (.trap code info) := by
  have hlist : ((performers s).filterMap fun id => ((some (code, info)).map fun e => (bankOfHart id, e))) =
      (performers s).map fun id => (bankOfHart id, code, info) := by rw [← List.filterMap_eq_map]; rfl
  unfold needOwn ownFaults
  rw [if_neg (by simp [h]), hlist]
  cases hp : performers s with
  | nil => exact absurd hp hne
  | cons id ids => rfl

/-- Faults of banks among which is no UE leave nothing in the log. -/
theorem logged_banks {s t : State} {i : Option Instr} : ∀ {own : List (Nat × BitVec 8 × Word)}, (∀ p ∈ own, p.2.1 ≠ Cause.ue) →
    logged s i (.banks own) t = t
  | [], _ => rfl
  | p :: own, h => by
    have ih := logged_banks (s := s) (t := t) (i := i) fun q hq => h q (List.mem_cons_of_mem _ hq)
    have hp := h p List.mem_cons_self
    simp only [logged, List.foldl_cons, if_neg hp] at ih ⊢
    exact ih

/-- Faults of a group's banks, raised at issue by an admitted instruction on harts that are not cancelled. -/
theorem perform_banks {i : Instr} {s : State} {body : State → M State} {own : List (Nat × BitVec 8 × Word)} (h : admitted i s = true)
    (hc : cancelled s = false) (hgroup : inGroup s = true) (hb : body s = .error (.banks own)) (hue : ∀ p ∈ own, p.2.1 ≠ Cause.ue) :
    perform i s body = .next (trapGang s (curPc s) own) := by
  rw [perform_admitted h, hb]
  simp only [finish, hc, Bool.false_eq_true, if_false, logged_banks hue, trapBanks, hgroup, if_true]

/-- The majors below those of vectors make their checks at issue (R458). -/
theorem lateMajor_of_lt {i : Instr} (h : major i < 0x60) : lateMajor i = false := by
  simp only [lateMajor, queued, Bool.or_eq_false_iff, beq_eq_false_iff_ne]
  omega

theorem shiftTable_form {i : Instr} {f : FmtI} (s : State) (h : shiftTable i = some f) :
    (∃ op, exec i s = perform i s (shiftImm i f op)) ∧ lateMajor i = false ∧ gangWide i = false := by
  have hmajor : major i = 0x02 := by
    cases i with
    | shli | shri | srai => exact major_of_encodeWord (M := 0x02) rfl (Laws.major_encI ..)
    | _ => cases h
  refine ⟨?_, lateMajor_of_lt (by rw [hmajor]; decide), ?_⟩
  · cases i with
    | shli | shri | srai => cases h; exact ⟨_, rfl⟩
    | _ => cases h
  · unfold gangWide
    rw [hmajor]
    cases i with
    | shli | shri | srai => rfl
    | _ => cases h

/-- Settles O2: each instruction is one of the shared shapes with the table's value (`writesI_of_result02`), and a shift out of range fails the
check that every performing hart makes (`needOwn_of_false`). -/
theorem immediateArithmeticResults : Obligations.ImmediateArithmeticResults := by
  unfold Obligations.ImmediateArithmeticResults
  refine ⟨fun i f v s h hadm => (writesI_of_result02 s h).result hadm, fun f s hadm => perform_ok hadm rfl,
    fun i f s h hrange hadm hc => ?_⟩
  obtain ⟨⟨op, hexec⟩, hlate, hgang⟩ := shiftTable_form s h
  have hown := needOwn_of_false (s := s) (decide_eq_false (Nat.not_lt.2 hrange)) (performers_ne_nil hadm hgang) Cause.reservedField (instrWord i)
  rw [hexec]
  constructor
  · intro hgroup
    rw [hgroup, if_neg (by decide)] at hown
    exact perform_trap_early hadm hc hlate (by rw [shiftImm, hown]; rfl) (by decide)
  · intro hgroup
    rw [hgroup, if_pos rfl] at hown
    refine perform_banks hadm hc hgroup (by rw [shiftImm, hown]; rfl) fun p hp => ?_
    obtain ⟨id, -, rfl⟩ := List.mem_map.1 hp
    exact (by decide : Cause.reservedField ≠ Cause.ue)

end Sys2Proof.Machine
end

section
/-! ## Branches, jumps and calls: majors 0x20 and 0x21 (07_scalar_control.md R208 to R214, R459 to R462) -/
namespace Sys2Proof.Machine

/-! ### Targets and iteration boundaries (R48, R173) -/

theorem relTarget_eq (pc : Word) (off : BitVec 30) : relTarget pc off = parcelsFrom pc off := branch_target pc off

/-- A change of places and boundaries leaves the harts of the issuing unit. -/
theorem ControlFrame.allHarts {s t : State} (h : ControlFrame s t) : allHarts t = allHarts s := by
  have hdual : ∀ g, (perOf t g).dual = (perOf s g).dual := fun g => by have e := congrArg Pergola.dual (h.pergolas g); exact e
  unfold Machine.allHarts splitBanks
  rw [h.cur]
  split
  · rfl
  · rfl
  · rw [hdual]
  · rfl

theorem boundary_markBoundary {s : State} {id : Nat} (h : id ∈ allHarts s) : (hartOf (markBoundary s) id).boundary = true := by
  rw [markBoundary, hartOf_modHarts _ _ _ _ (allHarts_nodup s), if_pos h]

/-- A jump to its own address or below is an iteration boundary in every hart of the issuer (R48). -/
theorem boundary_jumpTo {s : State} {target : Word} {id : Nat} (hback : target.toNat ≤ (curPc s).toNat) (h : id ∈ allHarts s) :
    (hartOf (jumpTo target s) id).boundary = true := by
  unfold jumpTo
  dsimp only
  rw [if_pos hback]
  exact boundary_markBoundary (by rw [(setCtl_frame s _).allHarts]; exact h)

/-! ### Branches (R209, R210) -/

/-- Past its common checks the instruction jumps by its offset, or goes on. -/
def MakesBranch (i : Instr) (s : State) (f : FmtB) (taken : Bool) : Prop :=
  ∃ body, exec i s = perform i s body ∧ body s = ok (if taken then jumpTo (parcelsFrom (curPc s) f.off) s else advance s)

section
variable {i : Instr} {s : State} {f : FmtB} {taken : Bool}

theorem makesBranch_of_branch {cond : Word → Word → Bool} (hexec : exec i s = perform i s (branch f cond))
    (hcond : cond (xRead s f.a) (xRead s f.b) = taken) : MakesBranch i s f taken :=
  ⟨_, hexec, by rw [branch, hcond, relTarget_eq]⟩

theorem makesBranch_of_branchFlag {want : Bool} (hexec : exec i s = perform i s (branchFlag f want))
    (hcond : (stateHolds (f.a.bits.toNat % 4) (hartOf s (leadHart s)).flags == want) = taken) : MakesBranch i s f taken :=
  ⟨_, hexec, by simp only [branchFlag, flagCond_eq, relTarget_eq, ← hcond, beq_iff_eq]⟩

theorem MakesBranch.result (h : MakesBranch i s f taken) (hadm : admitted i s = true) :
    ∃ t, exec i s = .next t ∧ ControlFrame s t ∧
      (if taken then
        ctl t = { pc := parcelsFrom (curPc s) f.off, loops := (ctl s).loops } ∧
          ((parcelsFrom (curPc s) f.off).toNat ≤ (curPc s).toNat → ∀ id ∈ allHarts s, (hartOf t id).boundary = true)
       else ctl t = nextPlace s) := by
  obtain ⟨body, hexec, hbody⟩ := h
  obtain ⟨k, hk⟩ := admitted_curKind hadm
  refine ⟨_, hexec.trans (perform_ok hadm hbody), ?_⟩
  cases taken with
  | true => exact ⟨jumpTo_frame _ s, ctl_jumpTo hk _, fun hback id hid => boundary_jumpTo hback hid⟩
  | false => exact ⟨advance_frame s, ctl_advance hk⟩

end

theorem makesBranch_of_branchTable {i : Instr} {f : FmtB} {c : Word → Word → BitVec 2 → Bool} (s : State) (h : branchTable i = some (f, c)) :
    MakesBranch i s f (c (xRead s f.a) (xRead s f.b) (hartOf s (leadHart s)).flags) := by
  cases i with
  | beq => cases h; exact makesBranch_of_branch rfl (beq_eq_decide _ _)
  | bne => cases h; exact makesBranch_of_branch rfl (by rw [bne, beq_eq_decide]; exact decide_not.symm)
  | blt => cases h; exact makesBranch_of_branch rfl rfl
  | bge => cases h; exact makesBranch_of_branch rfl (by rw [BitVec.slt_eq_decide, ← decide_not, decide_eq_decide, Int.not_lt])
  | bltu => cases h; exact makesBranch_of_branch rfl rfl
  | bgeu => cases h; exact makesBranch_of_branch rfl (by rw [BitVec.ult_eq_decide, ← decide_not, decide_eq_decide, Nat.not_lt])
  | bf => cases h; exact makesBranch_of_branchFlag rfl (beq_true _)
  | bnf => cases h; exact makesBranch_of_branchFlag rfl (beq_false _)
  | _ => cases h

/-- Settles O4: each branch jumps by its offset or goes on, as the table's condition says (`makesBranch_of_branchTable`). -/
theorem branchesGoWhereTheyShould : Obligations.BranchesGoWhereTheyShould := by
  unfold Obligations.BranchesGoWhereTheyShould
  exact fun i f c s h hadm => (makesBranch_of_branchTable s h).result hadm

/-! ### Jumps and links (R211, R214) -/

/-- The jump made: the link, where there is one, then the target. -/
def transfer (s : State) (j : Jump) : State := jumpTo j.target (j.link.elim s fun d => writeLink d (curPc s + 8) s)

theorem Hart.dest_place (h : Hart) (o : Opnd) (v : Word) : (h.dest o v).pc = h.pc ∧ (h.dest o v).loops = h.loops := by
  unfold Hart.dest Hart.put; split <;> exact ⟨rfl, rfl⟩

/-- What a destination field reads as after its write; a write to x0 is discarded (R198). -/
theorem Hart.get_dest_same (h : Hart) (o : Opnd) (v : Word) : (h.dest o v).get o.num.toNat = if o.num.toNat = 0 then 0 else v := by
  rw [Hart.get_dest]
  by_cases h0 : o.num.toNat = 0
  · rw [if_neg (by simp [h0]), if_pos h0, h0, Hart.get_zero]
  · rw [if_pos ⟨rfl, h0⟩, if_neg h0]

theorem jumped_transfer {s : State} {k : HartKind} (hk : curKind s = some k) (j : Jump) : Jumped s (transfer s j) j := by
  obtain ⟨target, fromReg, link⟩ := j
  cases link with
  | none => exact ⟨ctl_jumpTo hk target, jumpTo_frame target s⟩
  | some d =>
    have hctl : ctl (writeLink d (curPc s + 8) s) = ctl s := ctl_modHarts _ _ _ fun h => h.dest_place d _
    have hlink : RegisterFrame s (writeLink d (curPc s + 8) s) (allHarts s) d.num.toNat :=
      modHarts_registerFrame _ _ _ (fun h => h.dest_apart d _) _ _ fun id hid n hn h => by
        rw [Hart.get_dest, if_neg fun e => hn ⟨hid, e.1⟩]
    refine ⟨?_, hlink.trans ((jumpTo_frame target _).frame _ _), fun id hid => ?_⟩
    · show ctl (jumpTo target (writeLink d (curPc s + 8) s)) = _
      rw [ctl_jumpTo (k := k) (by rw [writeLink, curKind_modHarts]; exact hk), hctl]
    · show (hartOf (jumpTo target (writeLink d (curPc s + 8) s)) id).get _ = _
      rw [jumpTo_get, writeLink, hartOf_modHarts _ _ _ _ (allHarts_nodup s), if_pos hid, Hart.get_dest_same]

/-- Past its common checks the instruction traps on a misaligned register target, else makes the jump. -/
def MakesJump (i : Instr) (s : State) (j : Jump) : Prop :=
  ∃ body, exec i s = perform i s body ∧
    body s = (do need (!j.fromReg || j.target.toNat % 4 == 0) Cause.misalign j.target; ok (transfer s j))

section
variable {i : Instr} {s : State} {j : Jump}

theorem MakesJump.jumped (h : MakesJump i s j) (hadm : admitted i s = true) (halign : j.fromReg = true → j.target.toNat % 4 = 0) :
    ∃ t, exec i s = .next t ∧ Jumped s t j := by
  obtain ⟨body, hexec, hbody⟩ := h
  obtain ⟨k, hk⟩ := admitted_curKind hadm
  have hneed : (!j.fromReg || j.target.toNat % 4 == 0) = true := by
    cases hreg : j.fromReg with
    | false => rfl
    | true => rw [halign hreg]; rfl
  rw [need_of_true hneed] at hbody
  exact ⟨_, hexec.trans (perform_ok hadm hbody), jumped_transfer hk j⟩

theorem MakesJump.misaligned (h : MakesJump i s j) (hlate : lateMajor i = false) (hadm : admitted i s = true) (hreg : j.fromReg = true)
    (hmis : j.target.toNat % 4 ≠ 0) (hc : cancelled s = false) :
    exec i s = .next (takeTrap s (curPc s) Cause.misalign j.target false false) := by
  obtain ⟨body, hexec, hbody⟩ := h
  rw [need_of_false (by rw [hreg, beq_false_of_ne hmis]; rfl)] at hbody
  exact hexec.trans (perform_trap_early hadm hc hlate hbody (by decide))

end

theorem makesJump_of_jumpTable {i : Instr} {s : State} {j : Jump} (h : jumpTable' i s = some j) : MakesJump i s j := by
  cases i with
  | jmp | call => cases h; exact ⟨_, rfl, by rw [relTarget_eq]; rfl⟩
  | jmpr | callr => cases h; exact ⟨_, rfl, by rw [regTarget, relTarget_eq]; rfl⟩
  | ret => cases h; exact ⟨_, rfl, rfl⟩
  | _ => cases h

/-- Settles O5: each form makes its jump once its register target, if any, is aligned (`makesJump_of_jumpTable`). -/
theorem jumpsAndCallsReachTheirTargets : Obligations.JumpsAndCallsReachTheirTargets := by
  unfold Obligations.JumpsAndCallsReachTheirTargets
  exact fun i s j h hadm halign => (makesJump_of_jumpTable h).jumped hadm halign

/-! ### Fenced jumps and jump tables (R212, R213) -/

theorem fenced_of_landed {s : State} {target : Word} (hf : fetchPending s = false) (halign : target.toNat % 4 = 0)
    (hland : landed s (curOverlay s) target.toNat 4 = true) : fenced target s = .ok () := by
  rw [fenced, if_neg (by simp [hf]), if_neg (by simp [halign]), need_of_true hland]

theorem fenced_of_misaligned {s : State} {target : Word} (hf : fetchPending s = false) (hmis : target.toNat % 4 ≠ 0) :
    fenced target s = .error (.trap Cause.misalign target) := by
  rw [fenced, if_neg (by simp [hf]), if_pos hmis]

/-- Once the issuer's fetches have landed, the target's own check is the one of an unfenced jump, or comes to the same. -/
theorem fenced_then {s : State} {target : Word} {m : M State} (hf : fetchPending s = false)
    (hland : target.toNat % 4 = 0 → landed s (curOverlay s) target.toNat 4 = true) :
    (do fenced target s; need (target.toNat % 4 == 0) Cause.misalign target; m) = (do need (target.toNat % 4 == 0) Cause.misalign target; m) := by
  by_cases halign : target.toNat % 4 = 0
  · rw [fenced_of_landed hf halign (hland halign)]; rfl
  · rw [fenced_of_misaligned hf halign, need_of_false (beq_false_of_ne halign)]; rfl

theorem makesJump_of_fencedTable {i : Instr} {s : State} {j : Jump} (h : fencedTable i s = some j) (hf : fetchPending s = false)
    (hland : j.target.toNat % 4 = 0 → landed s (curOverlay s) j.target.toNat 4 = true) : MakesJump i s j := by
  cases i with
  | fjmp | fcall => cases h; exact ⟨_, rfl, by rw [regTarget, relTarget_eq]; exact fenced_then hf hland⟩
  | _ => cases h

theorem readTable_of_readCode {s : State} {off n v : Nat} (h : readCode s (curOverlay s) off n = some v) : readTable s off n = .ok v := by
  rw [readTable, h]

theorem jumpTable_selects {f : FmtJ} {s : State} {hdr d : Nat}
    (hhdr : readCode s (curOverlay s) (parcelsFrom (curPc s) f.off).toNat 8 = some hdr)
    (hentry : if (xRead s f.a).toNat < hdr % 2 ^ 32 then
        readCode s (curOverlay s) (((parcelsFrom (curPc s) f.off).toNat + 8 + 4 * (xRead s f.a).toNat) % 2 ^ 64) 4 = some d
      else hdr / 2 ^ 32 = d) :
    jumpTable f s = ok (jumpTo (BitVec.ofInt 64 ((parcelsFrom (curPc s) f.off).toInt + 4 * (BitVec.ofNat 32 d).toInt)) s) := by
  unfold jumpTable
  dsimp only
  rw [relTarget_eq, readTable_of_readCode hhdr, ← branch_target]
  change (if (xRead s f.a).toNat < hdr % 2 ^ 32 then (_ : M State) else _) = _
  split at hentry
  · next hin => rw [if_pos hin, readTable_of_readCode hentry]; rfl
  · next hout => rw [if_neg hout, hentry]; rfl

/-- Settles O6: the table's entry is read through the overlay (`jumpTable_selects`); a fenced jump whose target has landed is a jump
(`makesJump_of_fencedTable`). -/
theorem tableAndFencedJumpsReachTheirTargets : Obligations.TableAndFencedJumpsReachTheirTargets := by
  unfold Obligations.TableAndFencedJumpsReachTheirTargets
  refine ⟨fun f s hdr d hadm hhdr hentry => ?_, fun i s j h hadm halign hf hland => ?_⟩
  · obtain ⟨k, hk⟩ := admitted_curKind hadm
    exact ⟨_, perform_ok hadm (jumpTable_selects hhdr hentry), jumpTo_frame _ s, ctl_jumpTo hk _⟩
  · exact (makesJump_of_fencedTable h hf fun _ => hland).jumped hadm fun _ => halign

/-- Jumps make their checks at issue (R458). -/
theorem lateMajor_of_jump {i : Instr} {s : State} {j : Jump} (h : jumpTable' i s = some j ∨ fencedTable i s = some j) : lateMajor i = false := by
  have hmajor : major i = 0x21 := by
    cases i with
    | jmp | jmpr | call | callr | ret | fjmp | fcall => exact major_of_encodeWord (M := 0x21) rfl (Laws.major_encJ ..)
    | _ => rcases h with h | h <;> cases h
  exact lateMajor_of_lt (by rw [hmajor]; decide)

/-- Settles O7: the target is checked before the link is written and the jump is made (`MakesJump.misaligned`). -/
theorem misalignedTargetsTrapBeforeTheLink : Obligations.MisalignedTargetsTrapBeforeTheLink := by
  unfold Obligations.MisalignedTargetsTrapBeforeTheLink
  intro i s j h hreg hadm hmis hc
  have hlate := lateMajor_of_jump (h.imp_right And.left)
  have hmakes : MakesJump i s j := by
    rcases h with h | ⟨h, hf⟩
    · exact makesJump_of_jumpTable h
    · exact makesJump_of_fencedTable h hf fun halign => absurd halign hmis
  exact hmakes.misaligned hlate hadm hreg hmis hc

end Sys2Proof.Machine
end

section
/-! ## Hardware loops: major 0x22 and the end step (07_scalar_control.md R215 to R219, R460) -/
namespace Sys2Proof.Machine

/-! ### LOOP and LOOPI (R215, R216) -/

theorem endsTop_eq_true_iff {loops : List LoopEntry} {pc : Word} : endsTop loops pc = true ↔ ∃ top ∈ loops.head?, top.fin = pc := by
  cases loops with
  | nil => simp [endsTop]
  | cons top rest => simp [endsTop]

theorem endsTop_eq_false_iff {loops : List LoopEntry} {pc : Word} : endsTop loops pc = false ↔ ∀ top ∈ loops.head?, top.fin ≠ pc := by
  rw [← Bool.not_eq_true, endsTop_eq_true_iff, not_exists]
  exact forall_congr' fun top => not_and

/-- END of R215, in the integers. -/
theorem loopEnd_eq (pc : Word) (e : BitVec 24) : pc + 4 * e.setWidth 64 = BitVec.ofNat 64 (pc.toNat + 4 * e.toNat) := by
  rw [BitVec.ofNat_add, BitVec.ofNat_mul, BitVec.ofNat_toNat, BitVec.setWidth_eq, BitVec.ofNat_toNat]; rfl

/-- The place inside a new loop: its entry pushed, at START (R215, R216). -/
def pushed (s : State) (n fin : Word) : Ctl :=
  { pc := curPc s + 8, loops := { index := 0, remain := n, start := curPc s + 8, fin := fin } :: (ctl s).loops }

section
variable {s : State} {e : BitVec 24} {n : Word}

theorem loopPush_at_end (h : ∃ top ∈ (ctl s).loops.head?, top.fin = curPc s) :
    loopPush e n s = .error (.trap Cause.loopstack (liveLoops s)) := by
  have hend : (!endsTop (ctl s).loops (ctl s).pc) = false := congrArg not (endsTop_eq_true_iff.2 h)
  unfold loopPush
  dsimp only
  rw [need_of_false hend]
  rfl

theorem loopPush_inside (h : ∀ top ∈ (ctl s).loops.head?, top.fin ≠ curPc s) :
    loopPush e n s =
      if n = 0 then ok (setCtl s { ctl s with pc := (ctl s).pc + 4 * e.setWidth 64 + 8 })
      else (do
        need (decide ((ctl s).loops.length < 6)) Cause.loopstack (liveLoops s)
        ok (setCtl s (pushed s n (curPc s + 4 * e.setWidth 64)))) := by
  have hinside : (!endsTop (ctl s).loops (ctl s).pc) = true := congrArg not (endsTop_eq_false_iff.2 h)
  unfold loopPush
  dsimp only
  rw [need_of_true hinside]
  rfl

theorem loopPush_zero (h : ∀ top ∈ (ctl s).loops.head?, top.fin ≠ curPc s) :
    loopPush e 0 s = ok (setCtl s { pc := BitVec.ofNat 64 ((curPc s).toNat + 4 * e.toNat + 8), loops := (ctl s).loops }) := by
  rw [loopPush_inside h, if_pos rfl, loopEnd_eq, BitVec.ofNat_add (x := _ + _)]
  rfl

theorem loopPush_room (h : ∀ top ∈ (ctl s).loops.head?, top.fin ≠ curPc s) (hn : n ≠ 0) (hroom : (ctl s).loops.length < 6) :
    loopPush e n s = ok (setCtl s (pushed s n (BitVec.ofNat 64 ((curPc s).toNat + 4 * e.toNat)))) := by
  rw [loopPush_inside h, if_neg hn, need_of_true (decide_eq_true hroom), loopEnd_eq]
  rfl

/-- A seventh entry, and a LOOP at the END of the top entry, meet the same trap. -/
theorem loopPush_stops (h : (∃ top ∈ (ctl s).loops.head?, top.fin = curPc s) ∨ (n ≠ 0 ∧ (ctl s).loops.length = 6)) :
    loopPush e n s = .error (.trap Cause.loopstack (liveLoops s)) := by
  by_cases hend : ∃ top ∈ (ctl s).loops.head?, top.fin = curPc s
  · exact loopPush_at_end hend
  · obtain ⟨hn, hfull⟩ := h.resolve_left hend
    have hinside : ∀ top ∈ (ctl s).loops.head?, top.fin ≠ curPc s := fun top htop e => hend ⟨top, htop, e⟩
    rw [loopPush_inside hinside, if_neg hn, need_of_false (decide_eq_false (by rw [hfull]; decide))]
    rfl

end

theorem loopTable_form {i : Instr} {s : State} {e : BitVec 24} {n : Word} (h : loopTable i s = some (e, n)) :
    ∃ body, exec i s = perform i s body ∧ body s = loopPush e n s := by
  cases i with
  | loop f => cases h; exact ⟨_, rfl, rfl⟩
  | loopi f => cases h; exact ⟨_, rfl, by rw [BitVec.ofNat_toNat]⟩
  | _ => cases h

theorem lateMajor_of_loop {i : Instr} {s : State} {x : BitVec 24 × Word} (h : loopTable i s = some x) : lateMajor i = false := by
  have hmajor : major i = 0x22 := by
    cases i with
    | loop | loopi => exact major_of_encodeWord (M := 0x22) rfl (Laws.major_encL ..)
    | _ => cases h
  exact lateMajor_of_lt (by rw [hmajor]; decide)

/-- Settles O8: inside the top entry's body and with room, the instruction skips or pushes (`loopPush_zero`, `loopPush_room`). -/
theorem loopInstructionsPushOrSkip : Obligations.LoopInstructionsPushOrSkip := by
  unfold Obligations.LoopInstructionsPushOrSkip
  intro i s e n h hadm hinside hroom
  obtain ⟨body, hexec, hbody⟩ := loopTable_form h
  obtain ⟨k, hk⟩ := admitted_curKind hadm
  by_cases hn : n = 0
  · subst hn
    exact ⟨_, hexec.trans (perform_ok hadm (hbody.trans (loopPush_zero hinside))), setCtl_frame s _, ctl_setCtl hk _⟩
  · rw [if_neg hn]
    exact ⟨_, hexec.trans (perform_ok hadm (hbody.trans (loopPush_room hinside hn (hroom hn)))), setCtl_frame s _, ctl_setCtl hk _⟩

/-! ### The end step (R217) -/

section
variable {fin : Word} {top : LoopEntry} {rest : List LoopEntry}

theorem endStep_apart (h : top.fin ≠ fin) : endStep fin (top :: rest) = (top :: rest, fin + 8, false) := by rw [endStep, if_neg h]

theorem endStep_again (h : top.fin = fin) (hremain : top.remain ≠ 1) :
    endStep fin (top :: rest) = ({ top with index := top.index + 1, remain := top.remain - 1 } :: rest, top.start, true) := by
  rw [endStep, if_pos h, if_pos (sub_ne_zero.2 hremain)]

theorem endStep_last (h : top.fin = fin) (hremain : top.remain = 1) : endStep fin (top :: rest) = endStep fin rest := by
  rw [endStep, if_pos h, hremain, if_neg (by decide)]

end

/-- Where the top entry ends, the place after an instruction is that of the end step. -/
theorem fallThrough_of_end {c : Ctl} (h : endsTop c.loops c.pc = true) :
    fallThrough c 8 = ({ pc := (endStep c.pc c.loops).2.1, loops := (endStep c.pc c.loops).1 }, (endStep c.pc c.loops).2.2) := by
  rw [fallThrough, h]
  simp only [Bool.true_or, if_true]
  cases (endStep c.pc c.loops).2.2 <;> rfl

theorem nextPlace_of_inside {s : State} (h : ∀ top ∈ (ctl s).loops.head?, top.fin ≠ curPc s) :
    nextPlace s = { pc := curPc s + 8, loops := (ctl s).loops } := fallThrough_of_inside (by decide) h

section
variable {s : State} {top : LoopEntry} {rest : List LoopEntry} (hloops : (ctl s).loops = top :: rest) (hfin : top.fin = curPc s)
include hloops hfin

theorem fallThrough_at_end :
    fallThrough (ctl s) 8 = ({ pc := (endStep (curPc s) (top :: rest)).2.1, loops := (endStep (curPc s) (top :: rest)).1 },
      (endStep (curPc s) (top :: rest)).2.2) := by
  have hend : endsTop (ctl s).loops (ctl s).pc = true := endsTop_eq_true_iff.2 ⟨top, by rw [hloops]; rfl, hfin⟩
  rw [fallThrough_of_end hend, hloops]
  rfl

theorem nextPlace_again (hremain : top.remain ≠ 1) :
    nextPlace s = { pc := top.start, loops := { top with index := top.index + 1, remain := top.remain - 1 } :: rest } := by
  rw [nextPlace, fallThrough_at_end hloops hfin, endStep_again hfin hremain]

theorem nextPlace_last (hremain : top.remain = 1) :
    nextPlace s = { pc := (endStep (curPc s) rest).2.1, loops := (endStep (curPc s) rest).1 } := by
  rw [nextPlace, fallThrough_at_end hloops hfin, endStep_last hfin hremain]

/-- An end step back to START is an iteration boundary in every hart of the issuer (R48). -/
theorem boundary_advance_again (hremain : top.remain ≠ 1) {id : Nat} (hid : id ∈ allHarts s) : (hartOf (advance s) id).boundary = true := by
  have hback : (fallThrough (ctl s) 8).2 = true := by rw [fallThrough_at_end hloops hfin, endStep_again hfin hremain]
  unfold advance advanceBy
  dsimp only
  rw [if_pos hback]
  exact boundary_markBoundary (by rw [(setCtl_frame s _).allHarts]; exact hid)

end

/-- Settles O11: NOP ends at `nextPlace`, and the stack's head says which end step that is. -/
theorem endStepRunsAtTheEndOfABody : Obligations.EndStepRunsAtTheEndOfABody := by
  unfold Obligations.EndStepRunsAtTheEndOfABody
  intro f s hadm
  obtain ⟨k, hk⟩ := admitted_curKind hadm
  have hnext : ctl (advance s) = nextPlace s := ctl_advance hk
  refine ⟨advance s, perform_ok hadm rfl, advance_frame s, ?_⟩
  rw [hnext]
  cases hloops : (ctl s).loops with
  | nil => exact (nextPlace_of_inside (by rw [hloops]; simp)).trans (by rw [hloops])
  | cons top rest =>
    dsimp only
    split
    · next hfin => exact (nextPlace_of_inside (by rw [hloops]; simpa using hfin)).trans (by rw [hloops])
    · next hfin =>
      rw [not_ne_iff] at hfin
      refine ⟨fun hremain => ⟨nextPlace_again hloops hfin hremain, fun id hid => boundary_advance_again hloops hfin hremain hid⟩,
        fun hremain => ?_⟩
      rw [nextPlace_last hloops hfin hremain]
      cases rest with
      | nil => rfl
      | cons u rest' =>
        dsimp only
        split
        · next hu => rw [endStep_apart (hfin ▸ hu)]
        · next hu => exact fun hagain => by rw [endStep_again ((not_ne_iff.1 hu).trans hfin) hagain]

/-! ### LBRK and LIDX (R218, R219) -/

/-- The issuer's place after an end step: the new stack and program counter, and the iteration boundary if control has returned to START. -/
def afterEndStep (s : State) (r : List LoopEntry × Word × Bool) : State :=
  if r.2.2 then markBoundary (setCtl s { pc := r.2.1, loops := r.1 }) else setCtl s { pc := r.2.1, loops := r.1 }

theorem afterEndStep_frame (s : State) (r : List LoopEntry × Word × Bool) : ControlFrame s (afterEndStep s r) := by
  unfold afterEndStep
  split
  · exact (setCtl_frame s _).trans (markBoundary_frame _)
  · exact setCtl_frame s _

theorem ctl_afterEndStep {s : State} {k : HartKind} (hk : curKind s = some k) (r : List LoopEntry × Word × Bool) :
    ctl (afterEndStep s r) = { pc := r.2.1, loops := r.1 } := by
  unfold afterEndStep
  split
  · rw [ctl_markBoundary, ctl_setCtl hk]
  · exact ctl_setCtl hk _

section
variable {f : FmtR} {s : State}

/-- LBRK breaks: x[A] is not 0, or is 0 for `.z` (R218). -/
abbrev breaks (f : FmtR) (s : State) : Prop := if f.mod.getLsbD 0 then xRead s f.a = 0 else xRead s f.a ≠ 0

theorem breaks_iff : (xRead s f.a == 0) = f.mod.getLsbD 0 ↔ breaks f s := by
  unfold breaks
  cases f.mod.getLsbD 0 <;> simp

theorem loopBreak_empty (h : (ctl s).loops = []) : loopBreak f s = .error (.trap Cause.loopstack 0) := by
  unfold loopBreak liveLoops
  dsimp only
  rw [h]
  rfl

theorem loopBreak_breaks {top : LoopEntry} {rest : List LoopEntry} (h : (ctl s).loops = top :: rest) (hbreak : breaks f s) :
    loopBreak f s = ok (afterEndStep s (endStep top.fin rest)) := by
  unfold loopBreak
  dsimp only
  rw [h]
  exact if_pos (breaks_iff.2 hbreak)

theorem loopBreak_stays {top : LoopEntry} {rest : List LoopEntry} (h : (ctl s).loops = top :: rest) (hbreak : ¬ breaks f s) :
    loopBreak f s = ok (advance s) := by
  unfold loopBreak
  dsimp only
  rw [h]
  exact if_neg fun e => hbreak (breaks_iff.1 e)

theorem lateMajor_lbrk (f : FmtR) : lateMajor (.lbrk f) = false :=
  lateMajor_of_lt (by rw [major_of_encodeWord (M := 0x22) rfl (Laws.major_encR ..)]; decide)

end

section
variable {f : FmtI} {s : State}

theorem loopIndex_of_deep (h : 6 ≤ f.imm.toNat) : loopIndex f s = .error (.trap Cause.reservedField (instrWord (.lidx f))) := by
  unfold loopIndex
  rw [need_of_false (decide_eq_false (Nat.not_lt.2 h))]
  rfl

theorem loopIndex_of_absent (hdepth : f.imm.toNat < 6) (h : (ctl s).loops.length ≤ f.imm.toNat) :
    loopIndex f s = .error (.trap Cause.loopstack (liveLoops s)) := by
  unfold loopIndex
  rw [need_of_true (decide_eq_true hdepth), List.getElem?_eq_none h]
  rfl

theorem loopIndex_of_live {e : LoopEntry} (hdepth : f.imm.toNat < 6) (h : (ctl s).loops[f.imm.toNat]? = some e) :
    loopIndex f s = ok (advance (modPerformers s fun h => h.dest f.d e.index)) := by
  unfold loopIndex
  rw [need_of_true (decide_eq_true hdepth), h]
  rfl

theorem lateMajor_lidx (f : FmtI) : lateMajor (.lidx f) = false :=
  lateMajor_of_lt (by rw [major_of_encodeWord (M := 0x22) rfl (Laws.major_encI ..)]; decide)

end

/-- Settles O9: each of the four checks stops the instruction before any effect. -/
theorem loopStackFaultsLeaveTheStack : Obligations.LoopStackFaultsLeaveTheStack := by
  unfold Obligations.LoopStackFaultsLeaveTheStack
  refine ⟨fun i s e n h hadm hc hstop => ?_, fun f s hadm hc hempty => ?_, fun f s hadm hc habsent hdepth => ?_, fun f s hadm hc hdeep => ?_⟩
  · obtain ⟨body, hexec, hbody⟩ := loopTable_form h
    exact hexec.trans (perform_trap_early hadm hc (lateMajor_of_loop h) (hbody.trans (loopPush_stops hstop)) (by decide))
  · exact perform_trap_early hadm hc (lateMajor_lbrk f) (loopBreak_empty hempty) (by decide)
  · exact perform_trap_early hadm hc (lateMajor_lidx f) (loopIndex_of_absent hdepth habsent) (by decide)
  · exact perform_trap_early hadm hc (lateMajor_lidx f) (loopIndex_of_deep hdeep) (by decide)

/-- Settles O10: a break leaves what the end step of the entries below gives (`loopBreak_breaks`); LIDX is a scalar write
(`WritesEach.result`). -/
theorem loopBreakAndIndex : Obligations.LoopBreakAndIndex := by
  unfold Obligations.LoopBreakAndIndex
  refine ⟨fun f s top rest hadm hloops => ?_, fun f s e hadm hentry hdepth =>
    WritesEach.result (v := fun _ => e.index) ⟨_, rfl, loopIndex_of_live hdepth hentry⟩ hadm⟩
  obtain ⟨k, hk⟩ := admitted_curKind hadm
  by_cases hbreak : breaks f s
  · refine ⟨_, perform_ok hadm (loopBreak_breaks hloops hbreak), afterEndStep_frame s _, ?_⟩
    rw [if_pos hbreak, ctl_afterEndStep hk]
    cases rest with
    | nil => rfl
    | cons u rest' =>
      dsimp only
      split
      · next hu => rw [endStep_apart hu]
      · next hu => exact fun hagain => by rw [endStep_again (not_ne_iff.1 hu) hagain]
  · refine ⟨_, perform_ok hadm (loopBreak_stays hloops hbreak), advance_frame s, ?_⟩
    rw [if_neg hbreak]
    exact ctl_advance hk

end Sys2Proof.Machine
end

section
/-! ## Monitors: MONITOR and MWAIT (07_scalar_control.md R225, R226, log 76) -/
namespace Sys2Proof.Machine

/-! ### What these instructions leave -/

/-- The end of a compute or docent hart's instruction changes harts only. -/
theorem advance_rest {s : State} {id : Nat} (hcur : s.cur = .hart id) : { advance s with harts := s.harts } = s := by
  have hset : ∀ c, { setCtl s c with harts := s.harts } = s := fun c => by unfold setCtl; rw [hcur]; rfl
  unfold advance advanceBy
  dsimp only
  split
  · have hmark := congrArg (fun t : State => { t with harts := s.harts })
      (modHarts_frame (setCtl s (fallThrough (ctl s) 8).1) (fun h => { h with boundary := true }) (allHarts (setCtl s (fallThrough (ctl s) 8).1)))
    exact hmark.trans (hset _)
  · exact hset _

theorem advance_monitor (s : State) (id : Nat) : (hartOf (advance s) id).monitor = (hartOf s id).monitor := by
  have h := congrArg Hart.monitor ((advance_frame s).harts id); exact h

section
variable {s : State} {id : Nat} {f : Hart → Hart} (hcur : s.cur = .hart id)
include hcur

/-- An issuing hart's own change, and the end of its instruction. -/
theorem advance_modHart_rest : { advance (modHart s id f) with harts := s.harts } = s := by
  have h := congrArg (fun t : State => { t with harts := s.harts }) (advance_rest (s := modHart s id f) hcur); exact h

theorem hartOf_advance_modHart_other {j : Nat} (h : j ≠ id) : hartOf (advance (modHart s id f)) j = hartOf s j := by
  rw [hartOf_advance_other (s := modHart s id f) hcur h, hartOf_modHart, if_neg h]

theorem ctl_advance_modHart {k : HartKind} (hk : curKind s = some k) (hf : ∀ h, (f h).pc = h.pc ∧ (f h).loops = h.loops) :
    ctl (advance (modHart s id f)) = nextPlace s :=
  ctl_advance_of hk rfl (ctl_congr_hart hcur rfl (by rw [hartOf_modHart_same, (hf _).1]) (by rw [hartOf_modHart_same, (hf _).2]))

end

/-! ### MONITOR (R225) -/

theorem monitorLine_aligned {s : State} {c : AddrCtx} {va : Word} {line : Nat} (h : monitorLine s c va = .ok line) : line % 128 = 0 := by
  unfold monitorLine at h
  dsimp only at h
  split at h
  · cases h
  · split at h
    all_goals
      obtain ⟨got, -, h⟩ := ok_of_bind h
      split at h
      · cases h
      · split at h
        · cases h
        · cases h; exact Nat.mul_mod_left ..

theorem monitor_arms {f : FmtR} {s : State} {id line : Nat} (hcur : s.cur = .hart id)
    (hline : monitorLine s (hartCtx s id) (xRead s f.a) = .ok line) :
    monitor f s = .ok (advance (modHart s id fun h => { h with monitor := some { line := line, triggered := false } })) := by
  unfold monitor
  rw [leadHart_of_hart hcur, hline]
  rfl

/-! ### MWAIT (R226) -/

theorem mwaitCode_eq (s : State) (id : Nat) (t : Word) : mwaitCode s id t = waitEnds (hartOf s id) (clockOfHart s id).ltime t := by
  have hpos : t ≠ 0 ↔ 0 < t.toNat := by rw [Nat.pos_iff_ne_zero, ne_eq, ne_eq, ← BitVec.toNat_inj]; rfl
  unfold mwaitCode waitEnds
  dsimp only
  cases (hartOf s id).monitor with
  | none => rfl
  | some m =>
    cases (hartOf s id).mwaitFrom with
    | none => rfl
    | some from' => simp only [hpos]

theorem mwait_ends {f : FmtR} {s : State} {id : Nat} {code : Word} (hcur : s.cur = .hart id) (hc : cancelled s = false)
    (hcode : waitEnds (hartOf s id) (clockOfHart s id).ltime (xRead s f.a) = some code) :
    mwait f s = .ok (advance (modHart s id fun h => { (h.dest f.d code) with monitor := none, mwaitFrom := none })) := by
  unfold mwait
  dsimp only
  rw [killFirst_of_not hc, leadHart_of_hart hcur, mwaitCode_eq, hcode]
  rfl

/-- Settles O16: MONITOR arms the line that the checks find (`monitor_arms`, `monitorLine_aligned`); MWAIT ends with the code of R226
(`mwait_ends`). -/
theorem monitorsArmAndWaitsEnd : Obligations.MonitorsArmAndWaitsEnd := by
  unfold Obligations.MonitorsArmAndWaitsEnd
  refine ⟨fun f s id line hcur hadm hline => ⟨monitorLine_aligned hline, ?_⟩, fun f s id code hcur hadm hc hcode => ?_⟩
  · obtain ⟨k, hk⟩ := admitted_curKind hadm
    refine ⟨_, perform_ok hadm (monitor_arms hcur hline), ctl_advance_modHart hcur hk fun _ => ⟨rfl, rfl⟩, ?_, advance_modHart_rest hcur,
      fun j n => ?_, fun j hj => hartOf_advance_modHart_other hcur hj⟩
    · rw [advance_monitor, hartOf_modHart_same]
    · rw [advance_get, hartOf_modHart]
      split
      · next e => subst e; rfl
      · rfl
  · obtain ⟨k, hk⟩ := admitted_curKind hadm
    refine ⟨_, perform_ok hadm (mwait_ends hcur hc hcode), ctl_advance_modHart hcur hk fun h => h.dest_place _ _, ?_, advance_modHart_rest hcur,
      ?_, fun j n hj => ?_, fun j hj => hartOf_advance_modHart_other hcur hj⟩
    · rw [advance_monitor, hartOf_modHart_same]
    · rw [advance_get, hartOf_modHart_same]
      exact (hartOf s id).get_dest_same f.d code
    · by_cases e : j = id
      · subst e
        rw [advance_get, hartOf_modHart_same]
        show ((hartOf s j).dest f.d code).get n = _
        rw [Hart.get_dest, if_neg fun h => hj ⟨rfl, h.1⟩]
      · rw [hartOf_advance_modHart_other hcur e]

end Sys2Proof.Machine
end
